-- ==== Sys2Proof/Word.lean ====
section
/-!
DEFINITION. The word types of the model and their plainest arithmetic (R6, R7, R16).
-/

namespace Sys2Proof

/-- One byte of memory, of a descriptor, of a message. -/
abbrev Byte := BitVec 8

/-- A 32-bit register word or a free-running ring index (R329, R321). -/
abbrev U32 := BitVec 32

/-- A 64-bit word. -/
abbrev U64 := BitVec 64

/-- A map that lists only the keys whose value differs from the default its reader names. -/
abbrev Sparse (α : Type) := List (Nat × α)

end Sys2Proof
end

