-- ==== Sys2Proof/Types.lean ====
section
/-!
DEFINITION. The data that commands and State share: status codes, addresses, the contents of plan sets and exact
sections, the inputs that the physical world gives a command, and the messages of the fabric.
-/

namespace Sys2Proof

/-- The status codes of R11 and of the reference tables; `Status.code` gives their values. -/
inductive Status where
  | ok | invalidExtent | reservedNonzero | invalidArgument | counterUnderflow | counterOverflow
  | planInvalid | planUnfit | cultureInvalid | passOrder | contextState | queueState | counterState
  | counterUnbalanced | packageState | unitState | noCapacity | domainAbsent | outputFull | indexFull
  | powerBusy | powerDenied | authFail | counterStale | sessionInvalid | lifecycleDenied | debugDenied
  | fwRejected | notShrunk | tableMismatch | wheelCorrupt | poisonedData | closedLoopMismatch | clipAbsent
  | codeCorrupt | streamCorrupt | uncorrectable | tickOverrun | moduleUnreachable | hostUnreachable
  | recoveryMode | ownerReset | preempted | moduleLost
  deriving DecidableEq, Repr, Inhabited

/-- A ladle address by its space (R342). -/
inductive LAddr where
  | hbm (a : Nat)
  | remote (m a : Nat)
  | host (a : Nat)
  | sram (vat off : Nat)
  deriving DecidableEq, Repr, Inhabited

/-- A serviceable unit: its class code and number (R533). -/
structure UnitId where
  cls : Nat
  num : Nat
  deriving DecidableEq, Repr, Inhabited

/-! ### Exact sections (R80, R84, R96) -/

/-- The exact primitives of R80, the two version 1 lookups of R281 and the data movement that changes no value. -/
inductive XOp where
  | conv (w : List (List Int)) (bias m sh : List Int) (lo hi : Int)
      (kh kw sy sx dy dx padT padB padL padR groups : Nat) (transposed : Bool)
  | ewAdd (ma mb : Int) (m sh : Nat) (lo hi : Int)
  | ewMul (m sh : Nat) (lo hi : Int)
  | ewAddC (c : List Int) (ma mb : Int) (m sh : Nat) (lo hi : Int)
  | ewMulC (c : List Int) (m sh : Nat) (lo hi : Int)
  | lut (tbl : List Int) (off : Int) (sh : Nat)
  | up (fh fw : Nat)
  | concat
  | slice (c0 n : Nat)
  | v1exp2 (e0 : Int)
  | v1log2 (off : Int)
  deriving DecidableEq, Repr, Inhabited

/-- One node of an exact graph: tensors are numbered, 0 is z, 1 the previous frame's y, 2 the masked y (R90, R92). -/
structure XNode where
  op : XOp
  ins : List Nat
  out : Nat
  deriving DecidableEq, Repr, Inhabited

/-- What the exact section of a model declares (R89, R96). -/
structure ExactModel where
  version : Nat
  kind : Nat
  cY : Nat
  cZ : Nat
  slabs : List Nat
  phases : Nat
  thresholds : List Int
  zmap : List Nat
  hasIntra : Bool
  dims : List (Nat × Nat)
  nodes : List XNode
  temporal : List Nat
  mean : Nat
  scale : Nat
  /-- The decoder network in exact form, if the section gives it: its nodes, where tensor 2 is y, and its output (R111). -/
  decoder : List XNode := []
  pixels : Nat := 0
  deriving DecidableEq, Repr, Inhabited

/-- One CDF of a culture set (R86). -/
structure Cdf where
  vmin : Int
  cdf : List Nat
  deriving DecidableEq, Repr, Inhabited

/-- One culture set image as the device reads it (R94). -/
structure CultureSet where
  version : Nat
  kind : Nat
  setId : Nat
  cdfs : List Cdf
  image : List Byte
  deriving DecidableEq, Repr, Inhabited

/-! ### Plan sets (R50-R55) -/

/-- An operand of a plan operation: its format word and its ladle addresses, 0 for none. -/
structure PlanOperand where
  fw : Nat
  base : Nat
  scale : Nat
  group : Nat
  deriving DecidableEq, Repr, Inhabited

/-- What an update computes in FP32 from the values it reads (R202): input k, FP32 constants, and operations that each round. -/
inductive UpdExp where
  | src (k : Nat)
  | const (code : Nat)
  | neg (a : UpdExp)
  | add (a b : UpdExp)
  | sub (a b : UpdExp)
  | mul (a b : UpdExp)
  | div (a b : UpdExp)
  | func (code : Nat) (a : UpdExp)
  deriving DecidableEq, Repr, Inhabited

/-- An operation of a Whey engine (R242-R245): the geometry, formats, bias, activation, statistics and Harp addresses of the descriptor and
block of a CONV, the pixel format of the input or 0, its Bayer order, its row strides for luma and chroma, the zero points, the address
of the output scales or 0, the pixel format of the output or 0 and its strides. -/
structure WheyOp where
  desc : List Byte
  block : List Byte
  pixIn : Nat
  bayer : Nat
  strides : Nat × Nat
  zps : List Nat
  scale : Nat
  pixOut : Nat
  stridesOut : Nat × Nat
  deriving DecidableEq, Repr, Inhabited

/-- One operation that a tick plan fixes for a unit. Descriptor forms carry the same 64 bytes as a queue descriptor. Exact tensors are
given by address, channels, height and width. -/
inductive PlanOp where
  | vat (desc : List Byte)
  | ladle (desc : List Byte)
  | range (desc : List Byte)
  /-- One exact primitive of a version, its inputs, its output address, and whether it is XOUT (R80, R112, R281). -/
  | exact (v1 : Bool) (op : XOp) (ins : List (Nat × Nat × Nat × Nat)) (out : Nat) (wide : Bool)
  /-- The rounding of an analysis output to y or z (R78). -/
  | roundLatent (src : PlanOperand) (dst count : Nat)
  /-- The context records of all elements of a tensor from its means and scale values (R84, R112, R129), for the wheel of an open context,
  whose generation they use (R99, R114), or for one that is still to be encoded. -/
  | records (ctx : Option Nat) (model : Nat) (intra : Bool) (mu sigma dst count : Nat)
  /-- The masked y of a pass (R90), for the wheel of an open context. -/
  | maskY (ctx : Option Nat) (model h w pass src dst : Nat)
  /-- A reduction of tensors in the order given (R203, R437). -/
  | reduce (srcs : List PlanOperand) (out : PlanOperand) (count seed : Nat)
  /-- An update of stored values (R202). -/
  | update (srcs : List PlanOperand) (outs : List (UpdExp × PlanOperand)) (count seed : Nat)
  | whey (w : WheyOp)
  /-- PCM samples into the analysis transform: the input format 0x10 or 0x11, the channels, the samples of the recording's part, their
  address, and the dense output of every channel's samples, padded with zeros to whole frames (R79, R107, R108). -/
  | pcm (fmt channels samples src : Nat) (out : PlanOperand)
  /-- A rind row store into a slot of a consumer's rind buffer, and the waits and signals of R252 and R253. -/
  | rindStore (src dst len vat buf slot row : Nat)
  | rindWait (vat buf slot row expect : Nat)
  | rindFree (vat buf : Nat)
  | rindFreeWait (vat buf expect : Nat)
  | signal (module counter amount : Nat)
  | waitGe (module counter amount : Nat)
  | acquire (module counter amount : Nat)
  deriving DecidableEq, Repr, Inhabited

/-- The capacity that a step offers one engine class: descriptors and a budget in the class's unit (R66). -/
structure Cap where
  descs : Nat
  budget : Nat
  deriving DecidableEq, Repr, Inhabited

/-- One variant of a plan set (R52). `busy` gives, for each step, the cycles each named unit is scheduled for;
`caps` gives, for each step, the capacity of classes 0-5; `energyMj` the energy that Prehild records per step. -/
structure Variant where
  stretch : Nat
  floors : List (Nat × Nat)
  planned : List (Nat × Nat)
  digest : List Byte
  steps : List Nat
  busy : List (List (UnitId × Nat))
  caps : List (List Cap)
  work : List (List (UnitId × List PlanOp))
  deriving DecidableEq, Repr, Inhabited

/-- A plan set of a package (R50-R53). `models` are the model IDs it names, `pool` the decode pool of each step. `exactClean` and
`wheyClean` say that nothing in it breaks R74 or R242 in a way that its operations below do not show (an operand block, a graph). -/
structure PlanSet where
  period : Nat
  domain : List Nat
  isExact : Bool
  isSynthesis : Bool
  isEncode : Bool
  /-- It requests exact synthesis (R111). -/
  exactSynthesis : Bool := false
  exactClean : Bool
  wheyClean : Bool
  stepCount : Nat
  swaps : List Bool
  variants : List Variant
  persistent : List Nat
  layoutDigest : List Byte
  tensors : Nat
  rings : Nat
  counters : Nat
  units : List UnitId
  bwMin : Nat × Nat × Nat
  models : List Nat
  v1Lookups : List Nat
  pool : Option (List Nat × List Nat)
  deriving DecidableEq, Repr, Inhabited

/-- The bindings of an argument table (R55): addresses of tensors, ring numbers and counters (module, ID). `inputs` gives the format code
and the Bayer order that travel with each input tensor's entry (R79). -/
structure ArgTable where
  tensors : List Nat
  inputs : List (Nat × Nat) := []
  rings : List Nat
  counters : List (Nat × Nat)
  deriving DecidableEq, Repr, Inhabited

/-! ### Inputs from outside -/

/-- A mailbox command as the host writes it into a command buffer before GO (R386, R388). `rsvd` is the value of the
reserved header bytes; the opcode is the row's. -/
structure MbCall where
  mb : Nat
  flags : Nat
  sequence : Nat
  length : Nat
  target : Nat
  rsvd : Nat
  session : Nat
  counter : Nat
  payload : List Byte
  deriving DecidableEq, Repr, Inhabited

/-- A unit whose tick work has not finished when the boundary falls, and by how many ns (R58). -/
structure LateUnit where
  unit : UnitId
  ns : Nat
  deriving DecidableEq, Repr, Inhabited

/-- The predicted power of one point, in mW, by the classes of R478. -/
structure ClassPower where
  links : Nat
  memory : Nat
  compute : Nat
  deriving DecidableEq, Repr, Inhabited

/-- What the controller's estimator gives a boundary (R477): the prediction at P0-P15 before hints, the parts of it
that queue-issued traffic causes, and the energy of the last 1 s less the tick, in mJ. -/
structure PowerInput where
  points : List ClassPower
  queueMemory : Nat
  queueLinks : Nat
  energyMj : Nat
  deriving DecidableEq, Repr, Inhabited

/-- What the outside gives a tick boundary. -/
structure BoundaryInput where
  now : Nat
  late : List LateUnit
  idleCaps : List Cap
  power : PowerInput
  deriving DecidableEq, Repr, Inhabited

/-- A physical upset of one HBM word (R309, R310): how many of its symbols are wrong. -/
structure Upset where
  word : Nat
  symbols : Nat
  symbol : Nat
  deriving DecidableEq, Repr, Inhabited

/-- One temperature reading (R481): class 0 compute die, 1 hub, 2 HBM. -/
structure Reading where
  cls : Nat
  unit : Nat
  celsius : Nat
  deriving DecidableEq, Repr, Inhabited

/-- What the peer of a port sends during training (R430). -/
structure Training where
  ok : Bool
  configId : Nat
  peerModule : Nat
  peerPort : Nat
  incarnation : Nat
  deriving DecidableEq, Repr, Inhabited

/-- One end's link establishment message (R514). -/
structure LinkAuth where
  certificate : List Byte
  peerKey : List Byte
  lifecycle : Nat
  owners : List (List Byte)
  keyMaterial : List Byte
  signature : List Byte
  deriving DecidableEq, Repr, Inhabited

/-- The header of a transaction message as it arrives (R423). -/
structure Txn where
  src : Nat
  txid : Nat
  reissue : Bool
  cacheable : Bool
  queue : Nat
  address : Nat
  length : Nat
  amount : Nat
  deriving DecidableEq, Repr, Inhabited

/-- A management message's authentication as its receiver finds it (R515). -/
structure MgmtAuth where
  port : Nat
  counter : Nat
  tag : List Byte
  message : List Byte
  deriving DecidableEq, Repr, Inhabited

/-- An event record (R414). -/
structure Event where
  code : Nat
  severity : Nat
  module : Nat
  tick : Nat
  detail : List Byte
  /-- The events that its sender dropped before it, which the head's EVT_LOST counts (R414). -/
  lost : Nat := 0
  deriving DecidableEq, Repr, Inhabited

/-- A forwarded mailbox command (R397). -/
structure Forwarded where
  entry : Nat
  mailbox : Nat
  opcode : Nat
  sequence : Nat
  counter : Nat
  target : Nat
  payload : List Byte
  /-- In place of a command: the effective tick, in the head's count, of a change that the target holds from an earlier broadcast of this
  opcode (R412), or of a plan set replacement that the head applies on its domain's members (R539). -/
  effective : Option Nat := none
  deriving DecidableEq, Repr, Inhabited

/-- A sync message's source and ID (R438). -/
structure SyncId where
  src : Nat
  id : Nat
  deriving DecidableEq, Repr, Inhabited

/-- What a record of an answered message is kept by: a request's txid, or a sync message's ID (R438, R441). -/
inductive RecKey where
  | txn (txid : Nat)
  | sync (id : Nat)
  deriving DecidableEq, Repr, Inhabited

/-- An ENCODE_WHEEL that may apply: its index in its queue, and whether it meets an uncorrectable error in its engine's table SRAM (R139). -/
structure EncodeTurn where
  idx : U32
  tableFault : Bool
  deriving DecidableEq, Repr, Inhabited

/-- A module's report to the budget lead (R487), with its configured cap (notes/assumptions/23.md); slack in thousandths of the tick
length. -/
structure BudgetReport where
  module : Nat
  capW : Nat
  averageW : Nat
  slackMilli : Nat
  forced : Bool
  deriving DecidableEq, Repr, Inhabited

/-- The state of a module's ports as a reachability update carries it (R440, R443). -/
structure Reach where
  module : Nat
  incarnation : Nat
  removed : Bool
  portsUp : List Nat
  deriving DecidableEq, Repr, Inhabited

end Sys2Proof
end

