-- ==== Sys2Proof/Syntax.lean ====
section
/-!
DEFINITION. The commands of the block: one constructor per row of spec/opcode_table.json, with the row's operands.
The table gives no row any bits, so every operand is the model's reading of what the row's rule says comes from outside
(notes/assumptions/1.md).
-/

namespace Sys2Proof

/-- A command of the IZ-2: an operation, an event or a message that reaches one module. -/
inductive Instr where
  /-- TICK_BOUNDARY (R64). The timebase reaches the previous boundary plus the tick length, and the device runs the boundary sequence. -/
  | tickBoundary (b : BoundaryInput)
  /-- TAIL_SNAPSHOT (R67). Two microseconds before each boundary the device snapshots every queue's tail to fix eligibility. -/
  | tailSnapshot
  /-- BOUNDARY_WINDOW_END (R64). The 2 µs boundary window ends and the units start the plan step. -/
  | boundaryWindowEnd (late : List LateUnit)
  /-- LATE_WORK_COMPLETE (R59). Late tick work finishes during a hold, and the module broadcasts RELEASE once its rails reach the prepared point. -/
  | lateWorkComplete (now : Nat) (railsReady : Bool)
  /-- HOLD_LIMIT (R61). A hold that lasts longer than 4 tick lengths fails the plan job on every member with TICK_OVERRUN. -/
  | holdLimit (now : Nat)
  /-- SKIP_WINDOW (R63). At each 64-tick window the choosing member computes the skip count and sends SKIP_PATTERN. -/
  | skipWindow (windows : List Nat) (limit : Nat)
  /-- PREPARED_POINT_FIX (R470). At the request deadline 20 µs before a boundary the controller fixes the prepared point, requests it and brings the rails to its voltage. -/
  | preparedPointFix (p : PowerInput) (avsOk : Bool)
  /-- TICK_SYNC_IN_EDGE (R579). A rising edge on TICK_SYNC_IN within the window places the boundary under ALIGN_MODE 2. -/
  | tickSyncInEdge (edge : Int)
  /-- TIMESTAMP (R439). A parent receives TIMESTAMP and answers with TIMESTAMP_REPLY. -/
  | timestamp (msg : SyncId) (t1 t2 t3 : Nat)
  /-- TIMESTAMP_REPLY (R439). A module receives the reply, computes its offset and slews its timebase. -/
  | timestampReply (msg : SyncId) (t1 t2 t3 t4 : Nat)
  /-- TICK_BASE_MESSAGE (R561). A joining module receives the head's TICK_COUNT and holds it in TICK_BASE. -/
  | tickBaseMessage (count : Nat)
  /-- HOLD (R59). A member receives HOLD and holds its own boundary until every holding member has released. -/
  | holdMsg (msg : SyncId) (tick : Nat)
  /-- RELEASE (R59). A member receives RELEASE and places the boundary 2 µs after the last RELEASE. -/
  | releaseMsg (msg : SyncId) (tick now : Nat)
  /-- VARIANT_REQUEST (R62). A member receives a peer's needed operating point, which counts at this or the next boundary. -/
  | variantRequest (msg : SyncId) (tick point : Nat)
  /-- START_DEFER (R56). A member receives START_DEFER and defers the plan job start by one tick. -/
  | startDefer (msg : SyncId) (tick planSet : Nat)
  /-- DOMAIN_ABSENT (R56). After 1,000 deferrals every member's RUN_PLAN fails with DOMAIN_ABSENT. -/
  | domainAbsent
  /-- SKIP_PATTERN (R63). A member receives the skip pattern for the next 64-tick window. -/
  | skipPattern (msg : SyncId) (first : Nat) (pattern : U64)
  /-- PLAN_JOB_START (R56). A plan job starts at the first boundary at or after start_tick at which the outgoing job is at a swap point. -/
  | planJobStart
  /-- PLAN_JOB_COMPLETE (R57). A plan job completes after its last round, checks counter balance and returns counter ownership. -/
  | planJobComplete
  /-- PLAN_JOB_PREEMPT (R57). A pre-empted plan job stops at its swap point or round end, completes with PREEMPTED and poisons its counters. -/
  | planJobPreempt
  /-- PLAN_JOB_FAILURE (R379). At the next boundary after a poisoning, uncorrectable error or lost member, the plan job fails on every member. -/
  | planJobFailure (cause : Status)
  /-- QDB_TAIL_WRITE (R330). A write to a queue's TAIL doorbell is accepted or refused, a refusal stopping the queue. -/
  | qdbTailWrite (q : Nat) (t : U32)
  /-- DESCRIPTOR_START (R334). An admitted descriptor starts once its wait counter and fence conditions hold. -/
  | descriptorStart (q : Nat) (idx : U32)
  /-- OPERATION_STEP (R68). A later step of an operation cut into steps is admitted into the capacity of a later tick. -/
  | operationStep (q : Nat) (idx : U32)
  /-- OPERATION_COMPLETE (R335). An operation finishes and its completion record is written in index order. -/
  | operationComplete (q : Nat)
  /-- QUEUE_OWNER_RESET (R339). At the next boundary an owner reset ends admission, stops operations, poisons owned counters and resets the queue indices. -/
  | queueOwnerReset (q : Nat)
  /-- RUN_PLAN (R55). A plan queue descriptor requests a plan set to run for a number of rounds. -/
  | runPlan (q : Nat) (idx : U32)
  /-- MATMUL (R209). A descriptor matrix product runs on a free group with the accumulation and epilogue defined for it. -/
  | matmul (q : Nat) (idx : U32) (hw : Option Nat)
  /-- ATTENTION (R220). A descriptor attention runs tile by tile with the tiled soft maximum. -/
  | attention (q : Nat) (idx : U32) (hw : Option Nat)
  /-- CONV (R232). A descriptor convolution runs through the Harp addressing. -/
  | conv (q : Nat) (idx : U32) (hw : Option Nat)
  /-- RESAMPLE (R248). A descriptor nearest or bilinear upsampling runs. -/
  | resample (q : Nat) (idx : U32) (hw : Option Nat)
  /-- FUNC (R269). A descriptor applies a special function to each element. -/
  | func (q : Nat) (idx : U32) (hw : Option Nat)
  /-- NORM (R273). A descriptor normalises each row as layer or root-mean-square normalisation. -/
  | norm (q : Nat) (idx : U32) (hw : Option Nat)
  /-- SOFTMAX (R276). A descriptor computes the soft maximum of each row. -/
  | softmax (q : Nat) (idx : U32) (hw : Option Nat)
  /-- HINT (R485). A hint descriptor adds phase power to the controller's prediction. -/
  | hint (q : Nat) (idx : U32)
  /-- TRANSFER (R343). A ladle copies, converts, expands, applies Cloth or fills data. -/
  | transfer (q : Nat) (idx : U32)
  /-- GATHER (R345). A ladle moves rows selected by an index stream, as a gather or a scatter. -/
  | gather (q : Nat) (idx : U32)
  /-- SLOT_FREE (R348). A descriptor frees the oldest published slots of a slot ring. -/
  | slotFree (q : Nat) (idx : U32)
  /-- SR_HEAD_WRITE (R348). A host write to SR_HEAD frees slots, or is ignored if it would pass TAIL. -/
  | srHeadWrite (ring : Nat) (head : U32)
  /-- DECODE_BEGIN (R128). Opens a decoding context: checks the wheel, binds it and loads the lane states. -/
  | decodeBegin (q : Nat) (idx : U32)
  /-- DECODE_PASS (R130). Decodes one pass of one frame of the context's wheel. -/
  | decodePass (q : Nat) (idx : U32) (tableFault : Bool)
  /-- DECODE_END (R132). Makes the final checks, writes the latent digest, ends the binding and closes the context. -/
  | decodeEnd (q : Nat) (idx : U32)
  /-- ENCODE_WHEEL (R133). Encodes one whole wheel in pass steps, assembles it in scratch and releases it. -/
  | encodeWheel (q : Nat) (turn : EncodeTurn)
  /-- TABLE_SRAM_REWRITE (R139). At the next boundary firmware rewrites both banks of an engine offline after a table SRAM error. -/
  | tableSramRewrite (engine : Nat)
  /-- COMPRESS (R289). A Press job compresses input into a DEFLATE, zlib or gzip stream. -/
  | compress (q : Nat) (idx : U32) (hw : Option Nat)
  /-- INFLATE (R293). A Press job decompresses a DEFLATE, zlib or gzip stream. -/
  | inflate (q : Nat) (idx : U32) (hw : Option Nat)
  /-- SAMPLE (R162). A sampling descriptor resolves clip keys and delivers decoded tokens into a slot ring. -/
  | sample (q : Nat) (idx : U32)
  /-- SAMPLE_ENTRY (R164). A sampling entry starts once a device context, staging buffer and pool capacity are free, and is resolved, fetched, decoded and written to a slot. -/
  | sampleEntry (q : Nat) (idx : U32) (tableFault : Bool)
  /-- LOOKUP (R152). Looks up a clip key in the bound epoch and writes the entry. -/
  | lookup (q : Nat) (idx : U32)
  /-- PUT (R153). Writes or replaces an index entry in the key's probe sequence. -/
  | putEntry (q : Nat) (idx : U32)
  /-- DELETE (R153). Turns the live entry with the key into a tombstone. -/
  | deleteKey (q : Nat) (idx : U32)
  /-- SIGNAL (R368). A host signal descriptor adds to a local or remote counter. -/
  | signalCtr (q : Nat) (idx : U32)
  /-- SUB (R368). A host signal descriptor subtracts from a counter. -/
  | subCtr (q : Nat) (idx : U32)
  /-- WAIT_GE (R358). A host signal descriptor waits until a counter reaches a value. -/
  | waitGe (q : Nat) (idx : U32)
  /-- ACQUIRE (R358). A host signal descriptor waits in arrival order and subtracts its amount. -/
  | acquire (q : Nat) (idx : U32)
  /-- CTR_ADD_WRITE (R371). A write to CTR_ADD in the host counter window is a SIGNAL. -/
  | ctrAddWrite (c : Nat) (amount : U32)
  /-- CTR_SUB_WRITE (R371). A write to CTR_SUB in the host counter window is a SUB. -/
  | ctrSubWrite (c : Nat) (amount : U32)
  /-- COUNTER_CLAIM (R373). Claims a range of counters for a queue with a starting value. -/
  | counterClaim (call : MbCall)
  /-- COUNTER_RELEASE (R375). Returns a balanced range of claimed counters to free. -/
  | counterRelease (call : MbCall)
  /-- COUNTER_RELEASE_FORCE (R375). Forced release poisons every claimed counter of the range and releases its waiters. -/
  | counterReleaseForce (call : MbCall)
  /-- COUNTER_SET (R377). Replaces the value of a claimed counter and settles its waiters. -/
  | counterSet (call : MbCall)
  /-- SMBUS_WRITE_WORD (R387). Sets the management mailbox window offset. -/
  | smbusWriteWord (offset : Nat) (pecOk : Bool)
  /-- SMBUS_BLOCK_WRITE (R387). Writes 4–32 bytes at the window offset and advances it. -/
  | smbusBlockWrite (data : List Byte) (pecOk : Bool)
  /-- SMBUS_BLOCK_READ (R387). Returns 32 bytes at the window offset and advances it. -/
  | smbusBlockRead (pecOk : Bool)
  /-- IDENTIFY (R403). Returns the identity of the target module. -/
  | identify (call : MbCall)
  /-- GET_STATUS (R404). Returns the last accepted counter and the command history of the target. -/
  | getStatus (call : MbCall)
  /-- SESSION_INIT (R394). Opens a pending session with a fresh ML-KEM key and a signed offer. -/
  | sessionInit (call : MbCall)
  /-- SESSION_FINISH (R395). Verifies the host signature, decapsulates, derives the keys and opens the session. -/
  | sessionFinish (call : MbCall)
  /-- SESSION_CLOSE (R396). Closes the command's own session after its response. -/
  | sessionClose (call : MbCall)
  /-- SESSION_PENDING_TIMEOUT (R391). A pending session not finished within 10 s is discarded. -/
  | sessionPendingTimeout (session : Nat)
  /-- SESSION_EXPIRED (R391). An open session with no accepted tagged command for 3,600 s closes. -/
  | sessionExpired (session : Nat)
  /-- AUTH_LOCKOUT_END (R513). After 1 s with no failure, SESSION_FINISH signatures are verified again. -/
  | authLockoutEnd
  /-- QUEUE_SETUP (R328). Binds a disabled queue to a class and makes it running. -/
  | queueSetup (call : MbCall)
  /-- QUEUE_RESTART (R405). QUEUE_CONTROL action 0 makes a stopped queue running. -/
  | queueRestart (call : MbCall)
  /-- QUEUE_RESET (R405). QUEUE_CONTROL action 1 requests an owner reset of the queue. -/
  | queueReset (call : MbCall)
  /-- QUEUE_DISABLE (R405). QUEUE_CONTROL action 2 requests an owner reset that leaves the queue disabled. -/
  | queueDisable (call : MbCall)
  /-- SLOT_RING_SETUP (R346). Sets up a slot ring with its slots, base and counters. -/
  | slotRingSetup (call : MbCall)
  /-- PACKAGE_INSTALL (R410). Copies, validates and installs a model package. -/
  | packageInstall (call : MbCall)
  /-- PACKAGE_REMOVE (R411). Removes an installed package that is not in use. -/
  | packageRemove (call : MbCall)
  /-- CULTURE_STAGE (R100). Validates a model's sets and registers it in the shadow bank. -/
  | cultureStage (call : MbCall)
  /-- CULTURE_REMOVE (R100). Deletes a model entry and frees its slots in the shadow bank. -/
  | cultureRemove (call : MbCall)
  /-- CULTURE_COMMIT (R101). Commits the staged bank, effective at the next boundary. -/
  | cultureCommit (call : MbCall)
  /-- CULTURE_COMMIT_EFFECT (R101). At the boundary after the commit the staged bank becomes active and the former bank drains. -/
  | cultureCommitEffect
  /-- INDEX_LOAD (R158). Writes a run of whole buckets into the shadow index table. -/
  | indexLoad (call : MbCall)
  /-- INDEX_COMMIT (R158). Commits the staged index table, effective at the next boundary. -/
  | indexCommit (call : MbCall)
  /-- INDEX_COMMIT_EFFECT (R158). At the boundary after the commit the staged table becomes active under the next epoch. -/
  | indexCommitEffect
  /-- TICK_CONFIG (R44). Sets the tick period, alignment mode and sync delay with an effective tick. -/
  | tickConfig (call : MbCall)
  /-- TICK_PERIOD_EFFECT (R44). At the effective tick the new period applies, stopping a running plan job of another period. -/
  | tickPeriodEffect
  /-- BW_SPLIT (R351). Sets the HBM bandwidth split with an effective tick. -/
  | bwSplit (call : MbCall)
  /-- BW_SPLIT_EFFECT (R351). At the effective tick the new bandwidth split takes effect. -/
  | bwSplitEffect
  /-- MGMT_CONFIG (R406). Sets the management SMBus address for the next reset. -/
  | mgmtConfig (call : MbCall)
  /-- SETTINGS_COMMIT (R408). Writes the retained settings to the cave and locks the RWL fields. -/
  | settingsCommit (call : MbCall)
  /-- SETTINGS_ERASE (R408). SETTINGS_COMMIT with flag bit 0 erases the retained settings record. -/
  | settingsErase (call : MbCall)
  /-- SETTINGS_COMMAND_START (R400). A waiting settings command starts when its turn comes or its waited state holds. -/
  | settingsCommandStart
  /-- MAILBOX_COMMAND_STEP (R401). A stepped command moves one tick's step of image. -/
  | mailboxCommandStep
  /-- FORWARDED_COMMAND (R397). A target receives a forwarded command on virtual channel 3, checks and runs it. -/
  | forwardedCommand (auth : MgmtAuth) (cmd : Forwarded)
  /-- FORWARDED_RESPONSE (R397). The entry module receives a target's response, tags it and assembles any broadcast block. -/
  | forwardedResponse (auth : MgmtAuth) (src sequence : Nat) (status : Status) (payload : List Byte)
  /-- EVENT_MESSAGE (R414). The head receives a member's event on virtual channel 3 and writes it to the event ring. -/
  | eventMessage (auth : MgmtAuth) (ev : Event)
  /-- EVT_TAIL_WRITE (R413). A write of EVT_TAIL is accepted within HEAD or ignored. -/
  | evtTailWrite (t : U32)
  /-- ERR_TAIL_WRITE (R321). A write of ERR_TAIL is accepted within HEAD or ignored. -/
  | errTailWrite (t : U32)
  /-- THR_TAIL_WRITE (R492). A write of THR_TAIL is accepted within HEAD or ignored. -/
  | thrTailWrite (t : U32)
  /-- POWER_LIMITS (R476). Sets the sustained cap, peak limit, class order and pool flag. -/
  | powerLimits (call : MbCall)
  /-- POWER_LIMITS_EFFECT (R476). New limits take effect at step 3 of the first boundary after the command. -/
  | powerLimitsEffect
  /-- POWER_STATE_A0 (R490). POWER_STATE 0 returns the module from A2 or A3 to A0. -/
  | powerStateA0 (call : MbCall)
  /-- POWER_STATE_A2 (R490). POWER_STATE 2 requests entry to A2 when its conditions hold. -/
  | powerStateA2 (call : MbCall)
  /-- POWER_STATE_A3 (R490). POWER_STATE 3 requests entry to A3 when its conditions hold. -/
  | powerStateA3 (call : MbCall)
  /-- A2_ENTRY (R491). Once no operation remains the module enters A2 at a boundary. -/
  | a2Entry
  /-- FW_STAGE (R543). Writes a firmware bundle chunk into the slot that did not boot. -/
  | fwStage (call : MbCall)
  /-- FW_ACTIVATE_AT_RESET (R545). FW_ACTIVATE with flag 0 names the staged slot active from the next reset. -/
  | fwActivateAtReset (call : MbCall)
  /-- FW_ACTIVATE_LIVE (R546). FW_ACTIVATE with flag 1 fixes an effective tick for a live activation. -/
  | fwActivateLive (call : MbCall)
  /-- FW_LIVE_SWAP (R546). At the effective tick the control stores swap and the hub cores restart in the staged stage 2. -/
  | fwLiveSwap
  /-- FW_STATUS (R547). Returns the running and staged firmware versions. -/
  | fwStatus (call : MbCall)
  /-- ATTEST_REPORT (R517). ATTEST mode 0 returns the signed attestation report. -/
  | attestReport (call : MbCall)
  /-- ATTEST_CERTIFICATE (R516). ATTEST mode 1 returns the device certificate. -/
  | attestCertificate (call : MbCall)
  /-- CREDENTIAL_SET (R512). Writes a new host credential record and closes other sessions. -/
  | credentialSet (call : MbCall)
  /-- DEBUG_TOKEN_DROP (R520). DEBUG_TOKEN action 0 drops the debug level to D0. -/
  | debugTokenDrop (call : MbCall)
  /-- DEBUG_TOKEN_APPLY (R520). DEBUG_TOKEN action 1 verifies a token and raises the debug level. -/
  | debugTokenApply (call : MbCall)
  /-- DEBUG_TOKEN_EXPIRY (R521). The token lifetime passes, returning D1 or D2 to D0 or resetting the module at D3. -/
  | debugTokenExpiry
  /-- LIFECYCLE_PROVISION (R508). Programs owner key slots and blows the provisioned fuse. -/
  | lifecycleProvision (call : MbCall)
  /-- LIFECYCLE_DEPLOY (R508). Blows the deployed fuse. -/
  | lifecycleDeploy (call : MbCall)
  /-- LIFECYCLE_RETIRE (R508). Blows the retired fuse, erases owner cave records and resets the module. -/
  | lifecycleRetire (call : MbCall)
  /-- LIFECYCLE_REVOKE (R508). Blows the revoked fuse of an owner key slot. -/
  | lifecycleRevoke (call : MbCall)
  /-- LIFECYCLE_ADVANCE_ROLLBACK (R508). Blows rollback counter bits up to the target count. -/
  | lifecycleAdvanceRollback (call : MbCall)
  /-- UNIT_DRAIN (R535). Requests the drain of a serviceable unit. -/
  | unitDrain (call : MbCall)
  /-- UNIT_DRAIN_EFFECT (R535). At step 4 of the next boundary the unit becomes draining and takes no new work. -/
  | unitDrainEffect (u : UnitId)
  /-- UNIT_DRAINED (R535). When its remaining work ends the unit becomes drained and is power-gated. -/
  | unitDrained (u : UnitId)
  /-- UNIT_RETURN (R536). Starts the test of a drained or failed unit. -/
  | unitReturn (call : MbCall)
  /-- UNIT_TEST_COMPLETE (R536). The unit's test finishes; a pass schedules its return, a failure makes it failed. -/
  | unitTestComplete (u : UnitId) (pass : Bool) (stage : Nat)
  /-- UNIT_RETURN_EFFECT (R536). At step 4 of the next boundary the tested unit returns to service. -/
  | unitReturnEffect (u : UnitId)
  /-- RECALIBRATE_ESTIMATOR (R542). RECALIBRATE scope 0 measures the power estimator weights. -/
  | recalibrateEstimator (call : MbCall)
  /-- RECALIBRATE_VAT (R542). RECALIBRATE scope 1 measures a drained vat's voltages and ageing monitor. -/
  | recalibrateVat (call : MbCall)
  /-- RECALIBRATE_POINTS (R542). RECALIBRATE scope 2 measures the calibrated voltages of P0–P15. -/
  | recalibratePoints (call : MbCall)
  /-- RECALIBRATE_PORT (R542). RECALIBRATE scope 3 measures the equalisation of a drained port. -/
  | recalibratePort (call : MbCall)
  /-- PLAN_SET_REPLACE (R539). Requests moving a running plan job onto a plan set of the same reduction order. -/
  | planSetReplace (call : MbCall)
  /-- PLAN_REPLACE_EFFECT (R540). At a swap-point boundary at least 2 ticks later the job continues in the new plan set. -/
  | planReplaceEffect
  /-- MODULE_RESET (R564). Requests a module reset after a delay. -/
  | moduleReset (call : MbCall)
  /-- MODULE_RESET_DELAY (R564). 10 ms plus delay_ms after the response the target begins its module reset. -/
  | moduleResetDelay
  /-- TOPOLOGY_SET (R431). Sets the topology of the entry module for the next reset. -/
  | topologySet (call : MbCall)
  /-- HBM_SCRUB (R313). The scrubber reads and corrects the next HBM word within the scrub period. -/
  | hbmScrub (upset : Option Upset)
  /-- SRAM_SCRUB (R313). Every SRAM array is scrubbed once every 60 s in unused cycles. -/
  | sramScrub (source unit offset symbols symbol : Nat)
  /-- ERR_INJECT_WRITE (R325). A write of ERR_INJECT arms an injection at D2 or D3, or sets DENIED. -/
  | errInjectWrite (v : U32)
  /-- FLIT (R426). A receiver accepts the next in-order flit, or discards it and sends a NAK, and takes its credits. -/
  | flit (port : Nat) (bytes : List Byte) (fecCorrected fecUncorrectable : Nat)
  /-- LINK_NAK (R426). A transmitter receives a NAK and resends every unacknowledged flit from its SEQ. -/
  | linkNak (port seq : Nat)
  /-- REPLAY_TIMEOUT (R426). With no ACK advance for 4 µs the transmitter replays from the oldest flit. -/
  | replayTimeout (port : Nat)
  /-- BLOCK_LOCK_LOSS (R427). Loss of block lock for 1 µs takes the port down. -/
  | blockLockLoss (port : Nat)
  /-- PORT_TRAINING_COMPLETE (R430). Port training finishes and the peer's configuration, numbers and incarnation are checked. -/
  | portTrainingComplete (port : Nat) (t : Training)
  /-- LINK_AUTH_OFFER (R514). The responder receives the initiator's signed encapsulation key message. -/
  | linkAuthOffer (port : Nat) (m : LinkAuth)
  /-- LINK_AUTH_REPLY (R514). The initiator receives the responder's ciphertext, checks it and derives the link keys. -/
  | linkAuthReply (port : Nat) (m : LinkAuth)
  /-- WRITE_REQUEST (R434). A target serves a remote write and completes it once visible. -/
  | writeRequest (m : Txn) (data : List Byte) (bad : List Nat)
  /-- READ_REQUEST (R434). A target serves a remote read and returns read data. -/
  | readRequest (m : Txn)
  /-- COUNTER_REQUEST (R369). A target applies a remote counter operation in its arrival order. -/
  | counterRequest (m : Txn) (operation : Nat)
  /-- LIGHT_WRITE (R435). A target serves a light-path write of up to 256 bytes. -/
  | lightWrite (m : Txn) (data : List Byte) (bad : List Nat)
  /-- LIGHT_READ (R435). A target serves a light-path read of up to 256 bytes. -/
  | lightRead (m : Txn)
  /-- COMPLETION (R441). A source receives the first answer to a txid and discards later ones. -/
  | completion (src txid : Nat) (status : Status)
  /-- READ_DATA (R434). A reader receives the requested bytes of a remote read. -/
  | readData (src txid : Nat) (status : Status) (data : List Byte) (mapFollows : Bool)
  /-- COUNTER_RESULT (R369). The issuing queue receives the result of a remote counter operation. -/
  | counterResult (src txid : Nat) (status : Status)
  /-- POISON_MAP (R436). The receiver writes the listed words poisoned. -/
  | poisonMap (src txid : Nat) (words : List Nat)
  /-- REACHABILITY_UPDATE (R442). A module receives a port change, reroutes and reissues unanswered requests. -/
  | reachabilityUpdate (auth : MgmtAuth) (r : Reach)
  /-- ROUTE_RESTORE (R442). A route made available by a returning port takes effect at the next boundary. -/
  | routeRestore
  /-- NO_ROUTE_TIMEOUT (R443). A module with no route for 2 ms is lost. -/
  | noRouteTimeout (m : Nat)
  /-- RECORD_EXPIRY (R441). A target drops a record entry 10 ms after sending the answer. -/
  | recordExpiry (src : Nat) (key : RecKey)
  /-- BUDGET_ROUND (R487). Every 16 ticks each member reports to the budget lead. -/
  | budgetRound (averageW slackMilli : Nat) (forced : Bool)
  /-- BUDGET_REPORT (R487). The lead receives member reports and computes new grants. -/
  | budgetReport (auth : MgmtAuth) (r : BudgetReport)
  /-- GRANT (R487). A member receives a grant that takes effect at its effective tick. -/
  | grantMsg (auth : MgmtAuth) (watts effective : Nat)
  /-- GRANT_ACKNOWLEDGE (R487). The lead receives a donor's acknowledgement and may send increases. -/
  | grantAcknowledge (auth : MgmtAuth) (src : Nat)
  /-- BUDGET_LEAD_LOST (R488). With no grant for 64 ticks or the head lost, a grant above the cap falls to it. -/
  | budgetLeadLost
  /-- GRANT_RESTORE (R488). At least 10 ms later a grant below the configured cap rises to it. -/
  | grantRestore
  /-- CXL_MEM_READ (R458). A host CXL.mem read of Range 1 returns the current value. -/
  | cxlMemRead (hpa len : Nat)
  /-- CXL_MEM_WRITE (R458). A host CXL.mem write completes once visible. -/
  | cxlMemWrite (hpa : Nat) (data : List Byte) (poison : Bool)
  /-- CXL_SNOOP (R459). The device answers every snoop with RspIHitI. -/
  | cxlSnoop (address : Nat)
  /-- CONFIG_REQUEST (R559). A configuration request is completed with CRS until firmware ready. -/
  | configRequest (offset : Nat) (write : Option U32)
  /-- HDM_DECODER_COMMIT (R456). Host commits the HDM decoder, which fails if it breaks its limits. -/
  | hdmDecoderCommit (base size ways skip : Nat)
  /-- CXL_LINK_TRAINED (R451). The CXL link trains to the widest width and rate both ends support. -/
  | cxlLinkTrained (lanes gts : Nat)
  /-- REDUCED_MODE_ENTRY (R452). Negotiation without CXL.cache and CXL.mem puts the port in reduced mode. -/
  | reducedModeEntry
  /-- CXL_LINK_DOWN (R463). The CXL link goes down and outstanding space 2 requests fail. -/
  | cxlLinkDown (cause : Nat)
  /-- HOST_REQUEST_TIMEOUT (R463). A space 2 request with no response in 10 ms fails with HOST_UNREACHABLE. -/
  | hostRequestTimeout (q : Nat) (idx : U32) (fetch : Bool) (hpa now : Nat)
  /-- MSIX_UNMASK (R464). Unmasking a vector with its pending bit set sends one message. -/
  | msixUnmask (vector : Nat)
  /-- FLR (R465). A function-level reset of the head module acts under its table. -/
  | flr
  /-- D3HOT_ENTRY (R491). A move to D3hot stops admission and leads to A2. -/
  | d3hotEntry
  /-- D0_RETURN (R491). A return to D0 returns the module to A0. -/
  | d0Return
  /-- CXL_HOT_RESET (R563). A hot reset on the link starts a module reset at once. -/
  | cxlHotReset
  /-- CXL_RESET (R563). A CXL Reset through the DVSEC starts a module reset at once. -/
  | cxlReset
  /-- POWER_ESTIMATE (R473). Every 2 µs the controller estimates power and projects the 1 ms average. -/
  | powerEstimate (estimateMw avg1msMw avg1sMw : Nat) (queueUj : List (Nat × Nat)) (projected : List Nat)
  /-- ESTIMATE_COMPARE (R473). Every 10 ms the estimate is compared with PMBus readings. -/
  | estimateCompare (estimateW : Nat) (poutW : List (Option Nat))
  /-- SENSOR_READ (R481). Every 20 µs temperature sensors are read against throttle and trip limits. -/
  | sensorRead (readings : List Reading)
  /-- THERMAL_STEP (R481). Every 100 µs above the throttle limit the point is lowered by one step. -/
  | thermalStep
  /-- PWR_ALERT_ASSERT (R482). PWR_ALERT_N held low for 50 ns moves the module to P15 within 1 µs. -/
  | pwrAlertAssert (now : Nat) (statusWords : List (Option Nat))
  /-- PWR_ALERT_DEASSERT (R482). PWR_ALERT_N returns high and the 100 µs hold begins. -/
  | pwrAlertDeassert (now : Nat)
  /-- ALERT_HOLD_END (R482). 100 µs after the pin returns high the alert's cause clears. -/
  | alertHoldEnd
  /-- DROOP_TRIP (R483). A droop detector trips and doubles its domain's clock period. -/
  | droopTrip (domain now : Nat)
  /-- DROOP_STRETCH_END (R483). After 64 undivided cycles above threshold the stretch ends. -/
  | droopStretchEnd (domain now : Nat)
  /-- DROOP_RESPONSE_END (R483). 2 µs after the stretch ends the droop response is no longer active. -/
  | droopResponseEnd (domain : Nat)
  /-- WATCHDOG_TIMEOUT (R563). Mehrore missing its heartbeat for 1 s resets the module. -/
  | watchdogTimeout
  /-- DBG_CORE_HALT (R529). A write of DBG_CORE.HALT halts or resumes hub cores at D2, or sets DENIED. -/
  | dbgCoreHalt (v : U32)
  /-- DBG_CORE_STEP (R529). A write of DBG_CORE.STEP steps a halted hub core by one instruction. -/
  | dbgCoreStep (v : U32)
  /-- TAP_BYPASS (R522). The TAP BYPASS instruction. -/
  | tapBypass (tdi : Bool)
  /-- TAP_IDCODE (R522). The TAP IDCODE instruction returns the part identification. -/
  | tapIdcode
  /-- TAP_SAMPLE_PRELOAD (R522). The TAP SAMPLE/PRELOAD instruction. -/
  | tapSamplePreload (preload : List Bool)
  /-- TAP_EXTEST (R522). The TAP EXTEST instruction, effective only while RESET_N is low. -/
  | tapExtest
  /-- TAP_SCAN (R522). A private scan instruction at D3 stops every clock of the module. -/
  | tapScan
  /-- TAP_MEMORY_ACCESS (R522). A private memory access instruction at D3. -/
  | tapMemoryAccess (address : Nat) (write : Option Byte)
  /-- VAT_AGEING_CHECK (R541). Every 24 hours firmware reads the ageing monitors and lowers or flags current maxima. -/
  | vatAgeingCheck (vat maxStep : Nat)
  /-- VAT_AGEING_DEADLINE (R541). After 720 hours firmware lowers CURRENT whatever runs. -/
  | vatAgeingDeadline (vat : Nat)
  /-- POWER_ON (R563). Power is applied, starting a power-on reset. -/
  | powerOn
  /-- PIN_RESET (R563). RESET_N low holds the module in reset. -/
  | pinReset
  /-- CONVENTIONAL_RESET (R563). PERST_N low holds the module in reset. -/
  | conventionalReset
  /-- START_ORIGIN (R557). The later reset pin goes high and the start-up sequence begins. -/
  | startOrigin
  /-- HBM_STACK_TRAINED (R557). An HBM stack finishes training and the next stack starts. -/
  | hbmStackTrained (stack : Nat) (ok : Bool)
  /-- HBM_STACK_INITIALISED (R558). A trained stack finishes being written to zero. -/
  | hbmStackInitialised (stack : Nat)
  /-- FIRMWARE_READY (R560). The device sets FW_READY, stops CRS and places the head's first boundary. -/
  | firmwareReady (readyMs : Nat) (vatFailures : List Nat)
  /-- PORT_GROUP_START (R557). Every 2 ms the next group of 4 ports begins training. -/
  | portGroupStart
  /-- RAIL_POWER_GOOD_TIMEOUT (R574). A switched rail without power good within 3 ms is a start failure. -/
  | railPowerGoodTimeout (rail statusWord : Nat)
  /-- BROWN_OUT (R577). A rail out of regulation for 5 µs holds the module in reset and records RAIL_FAULT. -/
  | brownOut (rail kind statusWord : Nat)
  /-- BROWN_OUT_RECOVERY (R577). When every rail has been in regulation for 1 ms a module reset begins. -/
  | brownOutRecovery
  /-- ALWAYS_ON_RAIL_LOSS (R576). An always-on rail below 90% causes a power-on reset on its return. -/
  | alwaysOnRailLoss (rail : Nat)
  /-- TICK_COUNT_LO_READ (R46). A read of TICK_COUNT_LO latches the high half. -/
  | tickCountLoRead
  /-- TICK_BASE_LO_READ (R561). A read of TICK_BASE_LO latches the high half. -/
  | tickBaseLoRead
  /-- PWR_ENERGY_LO_READ (R493). A read of PWR_ENERGY_LO latches the high half. -/
  | pwrEnergyLoRead
  /-- THR_COUNT_LO_READ (R493). A read of a throttle counter low half latches its high half. -/
  | thrCountLoRead (reason : Nat) (below : Bool)
  /-- QE_LO_READ (R493). A read of QE_LO latches QE_HI. -/
  | qeLoRead (q : Nat)
  /-- REGISTER_WRITE (R13). A write to a register with no row of its own acts by its access code. -/
  | registerWrite (offset : Nat) (v : U32)
  /-- HUB_CORES_RUN_MEHRORE (R557). The guard firmware finishes verifying stages 2 and 3, loads the control stores and starts Mehrore on the hub cores, from which point the management mailbox serves, or it falls back or enters recovery. -/
  | hubCoresRunMehrore
  deriving DecidableEq, Repr

end Sys2Proof
end

