-- ==== Sys2Proof/Decode.lean ====
section
/-!
DEFINITION. The command that a word spells. spec/opcode_table.json gives no row any bits: commands arrive as events and messages, and
the encodings that the spec gives (mailbox headers, descriptors, registers) are read by the meanings that receive them.
-/

namespace Sys2Proof

/-- The command that a word of the table spells: none, because no row has bits (notes/assumptions/1.md). -/
def decodeTableWord (_nbits _w : Nat) : Option Instr := none

end Sys2Proof
end

