-- ==== Sys2Proof/Machine/Bytes.lean ====
section
/-!
DEFINITION. Byte order, fields of records, sparse maps and sorted lists: the helpers that every meaning shares.
-/

namespace Sys2Proof.Machine

/-! ### Bytes (R6, R7) -/

/-- The value of little-endian bytes (R6). -/
def leNat : List Byte → Nat
  | [] => 0
  | b :: r => b.toNat + 256 * leNat r

/-- `n` little-endian bytes of a value (R6). -/
def leBytes : Nat → Nat → List Byte
  | 0, _ => []
  | n + 1, v => BitVec.ofNat 8 v :: leBytes n (v / 256)

/-- `n` big-endian bytes of a value, for the fields that a published standard orders so (R6). -/
def beBytes (n v : Nat) : List Byte := (leBytes n v).reverse

/-- `n` bytes of a record from an offset, zero beyond its end. -/
def slice (d : List Byte) (o n : Nat) : List Byte :=
  let r := (d.drop o).take n
  r ++ List.replicate (n - r.length) 0

def u8 (d : List Byte) (o : Nat) : Nat := leNat ((d.drop o).take 1)
def u16 (d : List Byte) (o : Nat) : Nat := leNat ((d.drop o).take 2)
def u32 (d : List Byte) (o : Nat) : Nat := leNat ((d.drop o).take 4)
def u64 (d : List Byte) (o : Nat) : Nat := leNat ((d.drop o).take 8)

/-- The two's complement value of an `n`-bit number. -/
def signed (n v : Nat) : Int := if v % 2 ^ n < 2 ^ (n - 1) then (v % 2 ^ n : Nat) else (v % 2 ^ n : Nat) - (2 ^ n : Nat)

def i16 (d : List Byte) (o : Nat) : Int := signed 16 (u16 d o)
def i32 (d : List Byte) (o : Nat) : Int := signed 32 (u32 d o)
def i64 (d : List Byte) (o : Nat) : Int := signed 64 (u64 d o)

/-- The `n`-bit pattern of an integer. -/
def wrapInt (n : Nat) (v : Int) : Nat := (v % (2 ^ n : Nat)).toNat

/-- Bits [hi:lo] of a value (R7). -/
def bits (v hi lo : Nat) : Nat := v / 2 ^ lo % 2 ^ (hi + 1 - lo)

/-- Bit `i` of a value. -/
def bit (v i : Nat) : Bool := v / 2 ^ i % 2 == 1

/-- A Bool as a bit. -/
def b2n (b : Bool) : Nat := if b then 1 else 0

/-- Whether the bytes from `o` to `o + n` are zero. -/
def zeros (d : List Byte) (o n : Nat) : Bool := ((d.drop o).take n).all (· == 0)

/-- `bs` cut or zero-filled to `n` bytes. -/
def padTo (n : Nat) (bs : List Byte) : List Byte := bs.take n ++ List.replicate (n - bs.length) 0

/-- The bytes of an ASCII string. -/
def ascii (s : String) : List Byte := s.toList.map fun c => BitVec.ofNat 8 c.toNat

/-- `a` rounded up to a multiple of `n`. -/
def roundUp (a n : Nat) : Nat := if n = 0 then a else (a + n - 1) / n * n

/-- Division that rounds up. -/
def ceilDiv (a n : Nat) : Nat := if n = 0 then 0 else (a + n - 1) / n

/-- A count that stays at its field's maximum (saturating counters). -/
def satAdd (max a b : Nat) : Nat := if a + b ≤ max then a + b else max

/-- The list with element `i` changed. -/
def modAt {α : Type} (l : List α) (i : Nat) (f : α → α) : List α := l.modify i f

/-- The list of numbers from `a`, `n` of them. -/
def upFrom (a n : Nat) : List Nat := (List.range n).map (a + ·)

/-- The pieces of a span of `len` from `a`, each of at most `n`: start and length. -/
def pieces (n : Nat) (a len : Nat) : List (Nat × Nat) :=
  (List.range (ceilDiv len n)).map fun k => (a + k * n, min n (len - k * n))

/-! ### Sparse maps: keys strictly rising -/

/-- The value of a key. -/
def mget {α : Type} : Sparse α → Nat → Option α
  | [], _ => none
  | (k, v) :: r, key => if key = k then some v else mget r key

/-- The value of a key, or the default. -/
def mgetD {α : Type} (m : Sparse α) (key : Nat) (d : α) : α := (mget m key).getD d

/-- The map with a key set. -/
def mput {α : Type} : Sparse α → Nat → α → Sparse α
  | [], key, v => [(key, v)]
  | (k, w) :: r, key, v =>
    if key < k then (key, v) :: (k, w) :: r else if key = k then (key, v) :: r else (k, w) :: mput r key v

/-- The map without a key. -/
def mdel {α : Type} : Sparse α → Nat → Sparse α
  | [], _ => []
  | (k, w) :: r, key => if key = k then r else (k, w) :: mdel r key

/-- The map with every value changed. -/
def mmap {α : Type} (f : α → α) (m : Sparse α) : Sparse α := m.map fun p => (p.1, f p.2)

/-- The map with a byte set; a zero byte is not listed. -/
def bput (m : Sparse Byte) (a : Nat) (b : Byte) : Sparse Byte := if b = 0 then mdel m a else mput m a b

/-- The byte at a key; zero where none is listed (R558). -/
def bget (m : Sparse Byte) (a : Nat) : Byte := mgetD m a 0

/-- `n` bytes from an address. -/
def bread (m : Sparse Byte) (a n : Nat) : List Byte := (List.range n).map fun i => bget m (a + i)

/-- The map with consecutive bytes written from an address. -/
def bwrite : Sparse Byte → Nat → List Byte → Sparse Byte
  | m, _, [] => m
  | m, a, b :: r => bwrite (bput m a b) (a + 1) r

/-- Keys strictly rising, and no zero byte listed: the one canonical form of a memory. -/
def bwf (m : Sparse Byte) : Bool := decide (m.Pairwise fun x y => x.1 < y.1) && m.all fun c => !(c.2 == 0)

/-! ### Sorted lists of numbers -/

/-- A rising list with a number in it. -/
def sadd : List Nat → Nat → List Nat
  | [], x => [x]
  | y :: r, x => if x < y then x :: y :: r else if x = y then y :: r else y :: sadd r x

/-- A rising list with several numbers in it. -/
def saddAll (l : List Nat) (xs : List Nat) : List Nat := xs.foldl sadd l

/-- The list without a number. -/
def sdel (l : List Nat) (x : Nat) : List Nat := l.filter fun y => y != x

/-! ### Lookup in association lists by any key -/

/-- The value of a key of an association list. -/
def alookup {κ α : Type} [BEq κ] (l : List (κ × α)) (k : κ) : Option α := (l.find? fun p => p.1 == k).map (·.2)

/-- The association list with a key set. -/
def aset {κ α : Type} [BEq κ] (l : List (κ × α)) (k : κ) (v : α) : List (κ × α) :=
  if l.any (fun p => p.1 == k) then l.map (fun p => if p.1 == k then (k, v) else p) else l ++ [(k, v)]

/-! ### Status codes (R10, R11, R587) -/

/-- The 16-bit code of a status. -/
def statusCode : Status → Nat
  | .ok => 0x0000 | .invalidExtent => 0x0101 | .reservedNonzero => 0x0102 | .invalidArgument => 0x0103
  | .counterUnderflow => 0x0105 | .counterOverflow => 0x0106 | .planInvalid => 0x0107 | .planUnfit => 0x0108
  | .cultureInvalid => 0x0109 | .passOrder => 0x010A | .contextState => 0x010B | .queueState => 0x010C
  | .counterState => 0x010D | .counterUnbalanced => 0x010E | .packageState => 0x010F | .unitState => 0x0110
  | .noCapacity => 0x0201 | .domainAbsent => 0x0202 | .outputFull => 0x0203 | .indexFull => 0x0204
  | .powerBusy => 0x0205 | .powerDenied => 0x0206 | .authFail => 0x0301 | .counterStale => 0x0302
  | .sessionInvalid => 0x0303 | .lifecycleDenied => 0x0304 | .debugDenied => 0x0305 | .fwRejected => 0x0306
  | .notShrunk => 0x0401 | .tableMismatch => 0x0402 | .wheelCorrupt => 0x0403 | .poisonedData => 0x0404
  | .closedLoopMismatch => 0x0405 | .clipAbsent => 0x0406 | .codeCorrupt => 0x0407 | .streamCorrupt => 0x0408
  | .uncorrectable => 0x0501 | .tickOverrun => 0x0502 | .moduleUnreachable => 0x0503 | .hostUnreachable => 0x0504
  | .recoveryMode => 0x0505 | .ownerReset => 0x0601 | .preempted => 0x0602 | .moduleLost => 0x0603

end Sys2Proof.Machine
end

