-- ==== Sys2Proof/Machine/Exact.lean ====
section
/-!
DEFINITION. The exact path: primitives, means, scale indices, symbols, passes and the network of a model (R77-R93, R112, R281).
-/

namespace Sys2Proof.Machine

/-! ### Harp addressing along one axis (R235, R236) -/

/-- Output size of an axis: ordinary or transposed. -/
def axisOut (transposed : Bool) (n k s d p0 p1 : Nat) : Nat :=
  if transposed then ((n : Int) - 1) * s + (d * (k - 1) : Nat) + 1 - p0 - p1 |>.toNat
  else if n + p0 + p1 < d * (k - 1) + 1 then 0 else (n + p0 + p1 - d * (k - 1) - 1) / s + 1

/-- The input position that output position `i` and tap `t` read, or none for padding. -/
def axisTap (transposed : Bool) (n s d p0 i t : Nat) : Option Nat :=
  if transposed then
    let v : Int := (i : Int) + p0 - (t * d : Nat)
    if 0 ≤ v ∧ v % s = 0 ∧ v / s < n then some (v / s).toNat else none
  else
    let u : Int := (i * s : Nat) - (p0 : Int) + (t * d : Nat)
    if 0 ≤ u ∧ u < n then some u.toNat else none

/-! ### Primitives (R80, R112, R281) -/

/-- Clamp of R16. -/
def clampI (x lo hi : Int) : Int := if x < lo then lo else if hi < x then hi else x

/-- Round a product down by a shift: half up in version 2, half away from zero in version 1 (R80, R112). -/
def roundShift (v1 : Bool) (p : Int) (sh : Nat) : Int :=
  if sh = 0 then p
  else
    let h : Int := 2 ^ (sh - 1)
    if v1 then (if 0 ≤ p then (p + h) / 2 ^ sh else -((-p + h) / 2 ^ sh)) else (p + h) / 2 ^ sh

/-- rescale of R80. -/
def rescale (v1 : Bool) (acc m : Int) (sh : Nat) (lo hi : Int) : Int := clampI (roundShift v1 (acc * m) sh) lo hi

/-- XLUT of R80. -/
def xlut (x off : Int) (sh : Nat) (tbl : List Int) : Int :=
  tbl.getD (clampI ((x + off) / 2 ^ sh) 0 ((tbl.length : Int) - 1)).toNat 0

/-- E[k] of R281. -/
def v1E : List Nat :=
  [32768, 33125, 33486, 33850, 34219, 34591, 34968, 35349, 35734, 36123, 36516, 36914, 37316, 37722, 38133, 38548, 38968,
   39392, 39821, 40255, 40693, 41136, 41584, 42037, 42495, 42958, 43425, 43898, 44376, 44859, 45348, 45842, 46341, 46846,
   47356, 47871, 48393, 48920, 49452, 49991, 50535, 51085, 51642, 52204, 52773, 53347, 53928, 54515, 55109, 55709, 56316,
   56929, 57549, 58176, 58809, 59449, 60097, 60751, 61413, 62081, 62757, 63441, 64132, 64830, 65536]

/-- L[k] of R281. -/
def v1L : List Nat :=
  [0, 733, 1455, 2166, 2866, 3556, 4236, 4907, 5568, 6220, 6863, 7498, 8124, 8742, 9352, 9954, 10549, 11136, 11716, 12289,
   12855, 13415, 13968, 14514, 15055, 15589, 16117, 16639, 17156, 17667, 18173, 18673, 19168, 19658, 20143, 20623, 21098,
   21568, 22034, 22495, 22952, 23404, 23852, 24296, 24736, 25172, 25604, 26031, 26455, 26876, 27292, 27705, 28114, 28520,
   28922, 29321, 29717, 30109, 30498, 30884, 31267, 31647, 32024, 32397, 32768]

/-- Interpolation between entries k and k + 1 with 4 fraction bits. -/
def v1Interp (t : List Nat) (k f : Nat) : Nat := t.getD k 0 + ((t.getD (k + 1) 0 - t.getD k 0) * f + 8) / 16

/-- V1EXP2 (R281). -/
def v1exp2 (x e0 : Int) : Int :=
  let ip := x / 1024
  let fr := (x % 1024).toNat
  let m := v1Interp v1E (fr / 16) (fr % 16)
  let sh := ip + e0 - 15
  if 0 ≤ sh then 32767
  else
    let n := (-sh).toNat
    if 17 < n then 0 else ((min ((m + 2 ^ (n - 1)) / 2 ^ n) 32767 : Nat) : Int)

/-- V1LOG2 (R281). -/
def v1log2 (x off : Int) : Int :=
  if x ≤ 0 then -32768
  else
    let b := Nat.size x.toNat - 1
    let f := x.toNat * 2 ^ (15 - b) - 32768
    let fq := v1Interp v1L (f / 512) (f / 32 % 16)
    clampI ((b * 1024 : Nat) + ((fq + 16) / 32 : Nat) + off) (-32768) 32767

/-! ### Tensors and the network (R77, R80, R90, R92) -/

/-- An exact tensor in channel, row, column order. -/
structure Tensor where
  c : Nat
  h : Nat
  w : Nat
  data : List Int
  deriving DecidableEq, Repr, Inhabited

/-- The element of a tensor. -/
def Tensor.at_ (t : Tensor) (c i j : Nat) : Int := t.data.getD ((c * t.h + i) * t.w + j) 0

/-- The tensor of a shape whose elements a function gives. -/
def Tensor.build (c h w : Nat) (f : Nat → Nat → Nat → Int) : Tensor :=
  { c := c, h := h, w := w,
    data := (List.range (c * h * w)).map fun e => f (e / (h * w)) (e / w % h) (e % w) }

/-- A tensor of zeros. -/
def Tensor.zero (c h w : Nat) : Tensor := { c := c, h := h, w := w, data := List.replicate (c * h * w) 0 }

/-- One exact primitive on its input tensors. -/
def runXOp (v1 : Bool) (op : XOp) (ins : List Tensor) : Tensor :=
  let a := ins.getD 0 default
  let b := ins.getD 1 default
  match op with
  | .conv w bias m sh lo hi kh kw sy sx dy dx padT padB padL padR groups tr =>
    let ho := axisOut tr a.h kh sy dy padT padB
    let wo := axisOut tr a.w kw sx dx padL padR
    let cg := a.c / max 1 groups
    let og := w.length / max 1 groups
    Tensor.build w.length ho wo fun o i j =>
      let ws := w.getD o []
      let acc := (List.range (kh * kw * cg)).foldl (fun (acc : Int) t =>
        match axisTap tr a.h sy dy padT i (t / cg / kw), axisTap tr a.w sx dx padL j (t / cg % kw) with
        | some u, some v => acc + ws.getD t 0 * a.at_ (o / max 1 og * cg + t % cg) u v
        | _, _ => acc) (bias.getD o 0)
      rescale v1 acc (m.getD o 1) (sh.getD o 0).toNat lo hi
  | .ewAdd ma mb m sh lo hi =>
    Tensor.build a.c a.h a.w fun c i j => rescale v1 (a.at_ c i j * ma + b.at_ c i j * mb) m sh lo hi
  | .ewMul m sh lo hi => Tensor.build a.c a.h a.w fun c i j => rescale v1 (a.at_ c i j * b.at_ c i j) m sh lo hi
  | .ewAddC k ma mb m sh lo hi =>
    Tensor.build a.c a.h a.w fun c i j => rescale v1 (a.at_ c i j * ma + k.getD c 0 * mb) m sh lo hi
  | .ewMulC k m sh lo hi => Tensor.build a.c a.h a.w fun c i j => rescale v1 (a.at_ c i j * k.getD c 0) m sh lo hi
  | .lut tbl off sh => Tensor.build a.c a.h a.w fun c i j => xlut (a.at_ c i j) off sh tbl
  | .up fh fw => Tensor.build a.c (a.h * fh) (a.w * fw) fun c i j => a.at_ c (i / max 1 fh) (j / max 1 fw)
  | .concat => { c := (ins.map (·.c)).sum, h := a.h, w := a.w, data := ins.flatMap (·.data) }
  | .slice c0 n => Tensor.build n a.h a.w fun c i j => a.at_ (c0 + c) i j
  | .v1exp2 e0 => Tensor.build a.c a.h a.w fun c i j => v1exp2 (a.at_ c i j) e0
  | .v1log2 off => Tensor.build a.c a.h a.w fun c i j => v1log2 (a.at_ c i j) off

/-- The tensors of a run of the network on z, the previous y and the masked y; in an intra frame every temporal feature is 0
(R90, R92). -/
def runNet (m : ExactModel) (intra : Bool) (z prev masked : Tensor) : List (Nat × Tensor) :=
  m.nodes.foldl (fun env n =>
    let t := runXOp (m.version == 1) n.op (n.ins.map fun i => (alookup env i).getD default)
    aset env n.out (if intra && m.temporal.contains n.out then Tensor.zero t.c t.h t.w else t))
    [(0, z), (1, prev), (2, masked)]

/-! ### Bounds of R81 -/

/-- Whether a primitive is one of the two lookups of version 1 (R281). -/
def isV1Lookup : XOp → Bool
  | .v1exp2 _ => true
  | .v1log2 _ => true
  | _ => false

/-- Whether one exact operation keeps the bounds of R81. `wide` marks an output of means or scale values, which only XCONV's accumulator
gives as XOUT; `audio` a latent of height 1 whose XUP takes 1 along the height. -/
def xopOk (audio wide : Bool) (op : XOp) : Bool :=
  let range (lo hi : Int) : Bool := decide (-32768 ≤ lo ∧ lo ≤ hi ∧ hi ≤ 32767)
  let xout (lo hi : Int) : Bool := if wide then decide (-8388608 ≤ lo ∧ lo ≤ hi ∧ hi ≤ 8388607) else range lo hi
  let mul (m : Int) : Bool := decide (1 ≤ m ∧ m ≤ 65535)
  match op with
  | .conv w bias m sh lo hi kh kw sy sx dy dx _ _ _ _ groups _ =>
    w.all (fun r => decide (1 ≤ r.length ∧ r.length ≤ 16777216) && r.all fun x => decide (-128 ≤ x ∧ x ≤ 127)) &&
    bias.all (fun x => decide (-2147483648 ≤ x ∧ x ≤ 2147483647)) && m.all mul &&
    sh.all (fun x => decide (0 ≤ x ∧ x ≤ 47)) && xout lo hi &&
    decide (1 ≤ kh ∧ kh ≤ 31 ∧ 1 ≤ kw ∧ kw ≤ 31 ∧ 1 ≤ sy ∧ sy ≤ 16 ∧ 1 ≤ sx ∧ sx ≤ 16 ∧ 1 ≤ dy ∧ dy ≤ 4096 ∧ 1 ≤ dx ∧
      dx ≤ 4096 ∧ 1 ≤ groups)
  | .ewAdd _ _ m sh lo hi => mul m && decide (sh ≤ 47) && range lo hi
  | .ewMul m sh lo hi => mul m && decide (sh ≤ 47) && range lo hi
  | .ewAddC _ _ _ m sh lo hi => mul m && decide (sh ≤ 47) && range lo hi
  | .ewMulC _ m sh lo hi => mul m && decide (sh ≤ 47) && range lo hi
  | .lut tbl off sh =>
    decide (2 ≤ tbl.length ∧ tbl.length ≤ 4096 ∧ sh ≤ 15 ∧ -2147483648 ≤ off ∧ off ≤ 2147483647)
  | .up fh fw => (if audio then fh == 1 else ([1, 2, 4] : List Nat).contains fh) && ([1, 2, 4] : List Nat).contains fw
  | .concat => true
  | .slice _ _ => true
  | .v1exp2 e0 => decide (-128 ≤ e0 ∧ e0 ≤ 127)
  | .v1log2 off => decide (-(2 ^ 30) ≤ off ∧ off ≤ 2 ^ 30)

/-- Whether an exact section keeps R81, R85, R89, R112 and R282: bounds, a threshold table of the version's size that does not
decrease, slabs that sum to C_y, phases, and the version 1 lookups only in version 1. -/
def exactOk (m : ExactModel) : Bool :=
  let v1 := m.version == 1
  (m.version == 1 || m.version == 2) && decide (m.kind ≤ 1) &&
  m.thresholds.length == (if v1 then 63 else 127) &&
  ((m.thresholds.zip (m.thresholds.drop 1)).all fun p => decide (p.1 ≤ p.2)) &&
  m.cY % 16 == 0 && decide (16 ≤ m.cY ∧ m.cY ≤ 512) && m.cZ % 16 == 0 && decide (16 ≤ m.cZ ∧ m.cZ ≤ 256) &&
  decide (1 ≤ m.slabs.length ∧ m.slabs.length ≤ (if v1 then 4 else 8)) && m.slabs.sum == m.cY &&
  m.slabs.all (fun x => x % 16 == 0 && decide (0 < x)) && (m.phases == 1 || m.phases == 2) && m.zmap.length == m.cZ &&
  (m.nodes ++ m.decoder).all (fun n => xopOk (m.kind == 1) (n.out == m.mean || n.out == m.scale) n.op && (v1 || !isV1Lookup n.op))

/-! ### From context to symbols (R84, R86-R88, R112) -/

/-- round_mean. -/
def roundMean (v1 : Bool) (mu : Int) : Int := clampI (roundShift v1 mu 8) (-32768) 32767

/-- scale_index: the count of thresholds not above (version 2) or below (version 1) the scale value, at most the last CDF. -/
def scaleIndex (v1 : Bool) (sigma : Int) (t : List Int) (cdfCount : Nat) : Nat :=
  min (t.countP fun x => if v1 then decide (x < sigma) else decide (x ≤ sigma)) (cdfCount - 1)


/-- The number of symbols of a CDF. -/
def cdfLen (d : Cdf) : Nat := d.cdf.length - 1

/-- The largest inner value of a CDF. -/
def cdfVmax (d : Cdf) : Int := d.vmin + (cdfLen d : Int) - 3

/-- to_index of R87: index and escape magnitude. -/
def toIndex (s : Int) (d : Cdf) : Nat × Nat :=
  if s < d.vmin then (0, (d.vmin - s - 1).toNat)
  else if cdfVmax d < s then (cdfLen d - 1, (s - cdfVmax d - 1).toNat)
  else ((s - d.vmin + 1).toNat, 0)

/-- find_index of R87: the largest k with cdf[k] not above the slot. -/
def findIndex (x : Nat) (d : Cdf) : Nat := ((d.cdf.drop 1).takeWhile fun c => decide (c ≤ x)).length

/-- from_index of R87. -/
def fromIndex (k mag : Nat) (d : Cdf) : Int :=
  if k = 0 then d.vmin - 1 - mag
  else if k = cdfLen d - 1 then cdfVmax d + 1 + mag
  else d.vmin + k - 1

/-! ### Passes (R77, R89-R91, R112) -/

/-- Height and width of y and of z for the header dimensions of a wheel: video by R77, audio by R107. -/
def latentShape (kind dimA dimB : Nat) : (Nat × Nat) × (Nat × Nat) :=
  if kind = 1 then ((1, 48), (1, 12))
  else ((roundUp dimB 64 / 16, roundUp dimA 64 / 16), (roundUp dimB 64 / 64, roundUp dimA 64 / 64))

/-- The elements of a pass over channels from `c0`, `n` of them, in coding order (R91; row, column, channel in version 1). -/
def passElements (v1 : Bool) (phases phase c0 n h w : Nat) : List (Nat × Nat × Nat) :=
  let take (i j : Nat) : Bool := phases == 1 || (i + j) % 2 == phase
  if v1 then
    (List.range h).flatMap fun i => (List.range w).flatMap fun j =>
      if take i j then (upFrom c0 n).map fun c => (c, i, j) else []
  else
    (upFrom c0 n).flatMap fun c => (List.range h).flatMap fun i =>
      ((List.range w).filter fun j => take i j).map fun j => (c, i, j)

/-- The number of y passes of a model (R89). -/
def yPasses (m : ExactModel) : Nat := m.slabs.length * m.phases

/-- The elements of pass position q: 0 the z pass, p + 1 y pass p (R91, R130). -/
def elementsOf (m : ExactModel) (shape : (Nat × Nat) × (Nat × Nat)) (q : Nat) : List (Nat × Nat × Nat) :=
  let v1 := m.version == 1
  if q = 0 then passElements v1 1 0 0 m.cZ shape.2.1 shape.2.2
  else
    let p := q - 1
    let k := p / max 1 m.phases
    passElements v1 m.phases (p % max 1 m.phases) (m.slabs.take k).sum (m.slabs.getD k 0) shape.1.1 shape.1.2

/-- Put the values of a pass into a tensor at its elements. -/
def scatter (t : Tensor) (es : List (Nat × Nat × Nat)) (vs : List Int) : Tensor :=
  (es.zip vs).foldl (fun t p => { t with data := t.data.set ((p.1.1 * t.h + p.1.2.1) * t.w + p.1.2.2) p.2 }) t

/-- The context records of y pass p: round_mean and scale_index of each element, from the network run on what is decoded (R84,
R90, R129). -/
def contextOf (m : ExactModel) (cdfCount : Nat) (intra : Bool) (z prev masked : Tensor)
    (es : List (Nat × Nat × Nat)) : List (Int × Nat) :=
  let env := runNet m intra z prev masked
  let mu := (alookup env m.mean).getD default
  let sg := (alookup env m.scale).getD default
  es.map fun e => (roundMean (m.version == 1) (mu.at_ e.1 e.2.1 e.2.2),
    scaleIndex (m.version == 1) (sg.at_ e.1 e.2.1 e.2.2) m.thresholds cdfCount)

end Sys2Proof.Machine
end

