-- ==== Sys2Proof/Config.lean ====
section
/-!
DEFINITION. What an implementation fixes and the values that the spec leaves open. A constant without a body is a free
value: nothing in Lean can evaluate it, so a statement about it holds for every value (notes/assumptions/5.md).
-/

namespace Sys2Proof.Config

/-! ### Free values -/

/-- An undefined byte of memory or of a message, by a counter of the state. -/
opaque freeByte : Nat → Byte

/-- An undefined number, by a counter of the state. -/
opaque freeNat : Nat → Nat

/-- Random bytes that the device draws (R394, R430): `n` bytes, by a counter of the state. -/
opaque randomByte : Nat → Nat → Byte

/-- The incarnation drawn at the reset of that count (R430). -/
opaque incarnation : Nat → Nat

/-- A measurement of a recalibration (R542), by a counter of the state and an item number. -/
opaque measure : Nat → Nat → Nat

/-- Whether the code miscorrects an error of three or more symbols, by a counter of the state (R310). -/
opaque miscorrects : Nat → Bool

/-- Whether a settings record that the cave takes fails its read-back twice (R408): the spec says what follows, not when. -/
opaque readBackFails : Nat → Bool

/-- Whether a fuse action meets a bit that fails its verification, and how many bits it has blown before (R509): the spec says what
follows, not when. -/
opaque fuseFails : Nat → Option Nat

/-- Where a special function passes from one FP32 value to the next away from zero (R264-R267): by function code, side of its minimum,
and the FP32 bits of the value nearer zero, the FP32 bits of an input; from that input on it gives the farther value. -/
opaque special : Nat → Bool → Nat → Nat

/-- The seed with which ATTENTION rounds stochastically: R219 gives it none (R182, notes/assumptions/28.md). -/
opaque attSeed : Nat

/-- Where in the two units in the last place of R280 an IZ-1 function of that code lies for those FP32 bits. -/
opaque iz1 : Nat → Nat → Nat

/-- The compressed form of one Cloth block of 4,096 codes: element code, rate, codes (R257-R259). -/
opaque clothBlock : Nat → Bool → List Nat → List Byte

/-- The compressed forms of a Cloth block of zeros and of one that holds an infinity or a NaN: element code, rate (R258, R259). -/
opaque clothZero : Nat → Bool → List Byte
opaque clothNan : Nat → Bool → List Byte

/-- The values to which the compressed bytes of one Cloth block expand: element code, rate, bytes (R257-R259). -/
opaque clothExpand : Nat → Bool → List Byte → List Nat

/-- A byte of the synthesis output of a plan set (R109, R172): the digest of its package, its identifier, the kind, dimensions, format and
Bayer order of the wheel's header, the latents z and y of the frames up to the one that is written, and the byte's number. -/
opaque synthesis : List Byte → Nat → List Nat → List (List Int × List Int) → Nat → Byte

/-- A byte of the samples that an exact decoder network's output gives (R111, R172): header fields as above, the output tensor, the byte's
number. -/
opaque exactPixels : List Nat → List Int → Nat → Byte

/-- The dynamic code tables that COMPRESS chooses for a block, by level, literal counts and distance counts: literal and length code
lengths, distance code lengths, the code-length symbols with their extra bits, the lengths of the code-length code (R289). -/
opaque dynTable : Nat → List Nat → List Nat → List Nat × List Nat × List (Nat × Nat) × List Nat

/-- The configuration space by offset, where the spec gives no value (R454). -/
opaque configSpace : Nat → BitVec 32

/-- Where the MSI-X capability's message control lies in configuration space (R454). -/
opaque msixCapability : Nat

/-- Genseno's JEDEC manufacturer code of 11 bits (R522). -/
opaque jedecCode : Nat

/-! ### Cryptography of published standards that the model does not compute -/

/-- ML-KEM-768 key generation from a seed number: the encapsulation key (FIPS 203, R394). -/
opaque kemPublic : Nat → List Byte

/-- ML-KEM-768 decapsulation: the shared secret, or none for a ciphertext that fails (R395). -/
opaque kemDecaps : Nat → List Byte → Option (List Byte)

/-- ML-KEM-768 encapsulation to a key with a seed number: ciphertext and shared secret (R514). -/
opaque kemEncaps : List Byte → Nat → List Byte × List Byte

/-- ML-DSA-44 key generation from a 32-byte seed: the public key (R499). -/
opaque dsaPublic : List Byte → List Byte

/-- ML-DSA-44 signature of the key pair of a seed, a context string and a message (R500). -/
opaque dsaSign : List Byte → String → List Byte → List Byte

/-- ML-DSA-44 verification: public key, context string, message, signature (R500). -/
opaque dsaVerify : List Byte → String → List Byte → List Byte → Bool

/-- HashML-DSA-44 verification of a firmware image header (R500, R503). -/
opaque dsaVerifyHash : List Byte → String → List Byte → List Byte → Bool

/-- Whether a certificate chains to the Genseno root of that digest, and the identity public key it certifies (R499, R514). -/
opaque certificateKey : List Byte → Option (List Byte)

/-! ### What manufacture fixed on this part -/

/-- The device secret of the fuse block (R498). -/
opaque deviceSecret : List Byte

/-- Genseno's release key hash of slot 0 (R498). -/
opaque releaseKeyHash : List Byte

/-- The device certificate, at most 4,000 bytes (R499). -/
opaque deviceCertificate : List Byte

/-- The transport credential of R507. -/
opaque transportCredential : List Byte

/-- The RMA credential of the boot ROM (R499). -/
opaque rmaCredential : List Byte

/-- The measurement of the boot ROM (0) and of the shipped stages 1-3 (R505). -/
opaque shippedMeasurement : Nat → List Byte

/-! ### Encodings that Prehild owns -/

/-- What a plan set section of a package image holds; none for bytes that are no plan set (R50-R53). -/
opaque decodePlanSet : List Byte → Option PlanSet

/-- What an exact section holds; none for bytes that are none (R96). -/
opaque decodeExact : List Byte → Option ExactModel

/-- What an argument table of a plan set of so many tensors, rings and counters binds (R55). -/
opaque decodeArgs : PlanSet → List Byte → Option ArgTable

/-- A plan operation with the names of its tensors, rings and counters bound by an argument table (R55). -/
opaque bindOp : ArgTable → PlanOp → PlanOp

/-! ### Limits the spec states -/

/-- Credits of the eight classes of R424: channel and hop class in the order vc * 2 + hop. -/
def creditLimits : List Nat := [768, 768, 128, 128, 32, 32, 32, 32]

end Sys2Proof.Config
end

