-- ==== Sys2Proof/Machine/Parts.lean ====
section
/-!
DEFINITION. The parts of State: one structure per register group, queue, buffer, counter, table or unit that the spec
gives the module. `State` (Machine/State.lean) puts them together. Fields that are the model's own carry the mark
MODEL in their comment and a log entry.
-/

namespace Sys2Proof.Machine

/-! ### Outputs -/

/-- A thing the module puts on a wire: the model's own record of it (MODEL, notes/assumptions/6.md). -/
inductive Sent where
  /-- An MSI-X message of a vector (R464). -/
  | msix (vector address : Nat) (data : U32)
  /-- Sync messages of R438, each with its message ID. -/
  | hold (id tick : Nat)
  | release (id tick : Nat)
  | variantRequest (id tick point : Nat)
  | startDefer (id tick planSet : Nat)
  | skipPattern (id first : Nat) (pattern : U64)
  | timestamp (id dst t1 : Nat)
  | timestampReply (id dst t1 t2 t3 : Nat)
  /-- A sync message that goes again on a new route (R442). -/
  | syncAgain (dst id : Nat)
  /-- A transaction request of R423 by its kind: 1 write, 2 read, 3 counter, 4 light write, 5 light read. -/
  | request (kind dst txid : Nat) (reissue cacheable : Bool) (address length amount : Nat) (data : List Byte)
  /-- An answer of R423: kind 8 completion, 9 read data, 10 counter result; the poisoned words follow as kind 11. -/
  | answer (kind dst txid : Nat) (fromRecord : Bool) (status : Status) (data : List Byte) (poison : List Nat)
  /-- Management messages of R440. -/
  | forward (dst : Nat) (cmd : Forwarded)
  | response (dst sequence : Nat) (status : Status) (payload : List Byte)
  | event (dst : Nat) (ev : Event)
  | reach (r : Reach)
  | tickBase (dst count : Nat)
  | budgetReport (dst : Nat) (r : BudgetReport)
  | grant (dst watts effective : Nat)
  | grantAck (dst : Nat)
  /-- The effective tick that the entry module has fixed for a command, in the head's count (R44, R101, R412, R546). -/
  | effectiveTick (dst opcode tick : Nat)
  /-- A plan set replacement that the head applies on a member, with its effective tick (R539). -/
  | replacePlan (dst newSet tick : Nat)
  /-- Link control of R426 and R427, training of R430, and the establishment messages of R514 in both directions. -/
  | nak (port seq : Nat)
  | resend (port seq : Nat)
  | retrain (port : Nat)
  | linkAuth (port : Nat) (m : LinkAuth)
  /-- CXL answers: CXL.mem data with poison, a write completion, a snoop response, a configuration completion. -/
  | memData (data : List Byte) (poison : Bool)
  | memDone
  | snoopRsp (address : Nat)
  | configDone (crs : Bool) (data : U32)
  | commitError
  /-- The value a register read returns. -/
  | regRead (v : U32)
  /-- SMBus: the bytes of a block read, or a transaction that is not acknowledged. -/
  | smbusData (data : List Byte)
  | smbusAck
  | smbusNak
  /-- AVSBus writes of the voltage of a point (R573), PMBus OPERATION to every switched rail (R574). -/
  | avs (point : Nat)
  | railsOn
  | railsOff
  | tickSync
  | tdo (bits : List Bool)
  | pins (bits : List Bool)
  | tapByte (b : Byte)
  deriving DecidableEq, Repr

/-! ### Rings of records (R321, R413, R492) -/

/-- The error, event or throttle ring: its registers and the records in its window. -/
structure RecRing where
  head : U32
  tail : U32
  lostCount : Nat
  lost : Bool
  recs : Sparse (List Byte)
  deriving DecidableEq, Repr, Inhabited

/-! ### Ticks and plans -/

/-- A hold in progress (R58-R61). `own` says that this module's work is late or its RELEASE is still owed; `peers` are
the members whose RELEASE is awaited; `cause` is the causing module; `units` are the units whose lateness is an overrun if every
point of the tick admitted the variant, with their plan set and step; `lastRelease` is the time of the last RELEASE and `released`
that of this module's own. -/
structure Hold where
  since : Nat
  own : Bool
  peers : List Nat
  cause : Nat
  units : List LateUnit
  planSet : Nat
  step : Nat
  lastRelease : Nat
  released : Nat
  deriving DecidableEq, Repr, Inhabited

/-- A member's last requested point and the tick of the member at which it counts (R62). -/
structure Request where
  module : Nat
  point : Nat
  tick : Nat
  deriving DecidableEq, Repr, Inhabited

/-- The tick registers and the timebase (R42-R49, R561). Times in ns. -/
structure Tick where
  timebase : Nat
  placed : Bool
  last : Nat
  count : Nat
  countHi : U32
  base : Nat
  baseHi : U32
  period : Nat
  align : Nat
  syncDelay : Nat
  /-- Pending TICK_CONFIG: effective tick, period, alignment mode, delay (R44, R406). -/
  next : Option (Nat × Nat × Nat × Nat)
  offset : Int
  aligned : Bool
  inBand : Nat
  edge : Option Int
  /-- The slew of the timebase towards the parent over the tick, in ns (R47, R439), and the own count at the first lock since reset or
  A3 (R561). -/
  slew : Int
  lock : Nat
  state : Nat
  stretch : Nat
  variant : Nat
  overruns : Nat
  hold : Option Hold
  heldPeers : List Nat
  /-- The last RELEASE for the boundary that the module has next, before it holds it: its time and its sender (R59). -/
  released : Option (Nat × Nat)
  late : List LateUnit
  /-- MODEL: every point in force during the tick admitted the variant (R58, R60), the reason of the lowering that did
  not, and the lowest point of the tick (R492). -/
  allAdmitted : Bool
  lowReason : Nat
  lowest : Nat
  /-- Skipping under R63: the pattern of the window and its first tick, and the skipped ticks not yet reported. -/
  skipFirst : Nat
  skipPattern : U64
  skipping : Bool
  requests : List Request
  /-- The module whose request forced the stretch in force, and, where it is this one, the reason of that request (R62). -/
  stretchCause : Nat
  stretchReason : Nat
  /-- How far this member's prediction exceeds its allowance at P15 in the last variant, in mW; the greatest where its requested point does
  not admit that variant (R63). -/
  shortfall : Nat
  /-- The capacity left in the tick for each class (R66) and the queue served last per class and priority (R67). -/
  caps : List Cap
  served : List (Nat × Nat × Nat)
  windowOpen : Bool
  worked : Bool
  pulses : Nat
  /-- MODEL: the number of the next admission (R137, R155). -/
  admissions : Nat
  deriving DecidableEq, Repr, Inhabited

/-- What is left of one unit's work in the running step: its operations in order, whether it stands at a counter or awaits answers of other
modules, how far its first operation has come (0 not begun, 1 inputs of other modules here, 2 writes to other modules sent), and the
requests awaited. -/
structure UnitRun where
  unit : UnitId
  ops : List PlanOp
  waiting : Bool
  phase : Nat
  reqs : List (Nat × Nat)
  deriving DecidableEq, Repr, Inhabited

/-- The running plan job (R55-R57). -/
structure Job where
  queue : Nat
  index : U32
  planSet : Nat
  step : Nat
  roundsLeft : Nat
  args : ArgTable
  stopAtSwap : Bool
  /-- A status with which the job stops at its swap point or round end (R57, R45, R541). -/
  stopping : Option Status
  /-- A failure that takes effect at the next boundary (R359, R379, R443, R538). -/
  failing : Option Status
  units : List UnitRun
  deriving DecidableEq, Repr, Inhabited

/-- A RUN_PLAN that is admitted and awaits its start (R56). `start` is in the module's own count. -/
structure PlanReq where
  queue : Nat
  index : U32
  planSet : Nat
  rounds : Nat
  start : Nat
  firstStep : Nat
  args : ArgTable
  stopAtSwap : Bool
  deferrals : Nat
  deriving DecidableEq, Repr, Inhabited

/-- A pending plan replacement (R540). -/
structure Replace where
  newSet : Nat
  earliest : Nat
  deriving DecidableEq, Repr, Inhabited

/-- The plan job, the requests in admission order, a pending replacement, rind buffers and the unit fault record. -/
structure Plan where
  job : Option Job
  waiting : List PlanReq
  /-- The starts that were deferred before this member had admitted their RUN_PLAN: plan set, start_tick in the own count, deferrals
  (R56). -/
  absent : List (Nat × Nat × Nat)
  replace : Option Replace
  /-- Rind ready counters by vat, buffer, slot and row, and free counts by vat and buffer (R251-R255), each as one number; an unlisted
  one is 0. -/
  rindReady : Sparse Nat
  rindFreed : Sparse Nat
  /-- The passes of the decode pool that are left in the running step (R162, R164). -/
  poolLeft : Nat
  deriving DecidableEq, Repr, Inhabited

/-! ### Queues, slot rings, counters -/

inductive QMode where
  | disabled | running | stopped
  deriving DecidableEq, Repr, Inhabited

/-- Where an admitted descriptor stands. -/
inductive Phase where
  /-- Admitted, not yet tested at its wait counter. -/
  | admitted
  /-- Its header wait stands at the counter (R334). -/
  | waiting
  /-- Released by its header wait, its fence still open. -/
  | released
  /-- Started: its engine runs it. -/
  | running
  /-- A host signal wait or acquire stands at its counter, or a remote answer is awaited (R364, R369, R434). -/
  | blocked
  /-- Finished: its record waits its turn (R336). -/
  | done
  deriving DecidableEq, Repr, Inhabited

/-- The capacity that an operation still has to be admitted (R66, R68): `left` units in steps of at least `grain`, or the
indivisible costs `fixed`, in order. -/
structure Work where
  left : Nat
  grain : Nat
  fixed : List Nat
  deriving DecidableEq, Repr, Inhabited

/-- One write of an operation to a ladle address: bytes, each with its poison flag. -/
structure Chunk where
  addr : LAddr
  data : List Byte
  poison : List Bool
  deriving DecidableEq, Repr, Inhabited

/-- A sampling entry that has started and is not yet delivered (R164): its number in the list, its index entry, the status so far, the
device context and the staging buffer that it holds, the requests of its fetch that are unanswered, the passes of the decode pool that it
still needs. `fetched` says that its wheel lies in HBM or in its buffer, `out` that it has ended, with the header of its wheel and its
data. -/
structure Flight where
  k : Nat
  entry : List Byte
  status : Status
  ctx : Option Nat
  stage : Option Nat
  generation : Nat
  reqs : List (Nat × Nat)
  fetched : Bool
  passes : Nat
  out : Option (List Byte × List Byte)
  deriving DecidableEq, Repr, Inhabited

/-- Where a SAMPLE stands (R164-R168): the next list entry, the counts of its result record, the admitted keys that have not been resolved
as (admission number, culture generation, keys) (R99, R155), the entries under way in list order, and the tick in the header of the slot
that is being written (R170). -/
structure SampleRun where
  next : Nat
  grants : List (Nat × Nat × Nat)
  flights : List Flight
  slotTick : Nat
  delivered : Nat
  failed : Nat
  dropped : Nat
  empty : Nat
  tokens : Nat
  deriving DecidableEq, Repr, Inhabited

/-- An admitted descriptor that has not written its record. -/
structure Op where
  index : U32
  desc : List Byte
  phase : Phase
  /-- The work that is still to be admitted, and what was to be admitted before the step last charged (R68, R334). -/
  work : Work
  before : Work
  stepTick : Nat
  charge : Nat
  /-- MODEL: the number of its last admission; greater ones were admitted later (R137, R155). -/
  order : Nat
  /-- The engine or group it holds, if it holds one. -/
  unit : Option UnitId
  status : Status
  detail : Nat
  noTag : Bool
  /-- Culture generation or index epoch it is bound to (R100, R157). -/
  epoch : Nat
  bound : Bool
  /-- The space 1 data that it reads has been asked for and has arrived. -/
  remote : Bool
  /-- Remote requests awaited: destination and txid. -/
  reqs : List (Nat × Nat)
  /-- Writes that follow, one after the other, once what the operation wrote before them is visible (R287, R291). -/
  after : List Chunk
  sample : SampleRun
  /-- The slot ring and the ladle address of the open slot that it writes, and the ring that it publishes (R347). -/
  slot : Option (Nat × Nat)
  publish : Option Nat
  deriving DecidableEq, Repr, Inhabited

/-- What the checks of the head descriptor read from another module (notes/assumptions/21.md): the descriptor's index, the spans that
have arrived, those awaited, and the status of a read that failed. -/
structure HeadFetch where
  index : U32
  got : List (LAddr × Nat)
  want : List (LAddr × Nat)
  status : Status
  deriving DecidableEq, Repr, Inhabited

/-- One hardware queue (R327-R336). `snap` is the tail snapshot of R67 and `fetched` the descriptors of the bursts, each
with its poison flag. -/
structure Queue where
  mode : QMode
  cls : Nat
  prio : Nat
  entries : Nat
  ring : Nat
  comp : Nat
  msix : Nat
  ladleSet : Nat
  tail : U32
  head : U32
  done : U32
  lastStop : Status
  snap : U32
  fetched : List (List Byte × Bool)
  ops : List Op
  /-- A reset or pre-emption due at the next boundary: the status, and whether it disables the queue (R339). -/
  reset : Option (Status × Bool)
  blk : Option HeadFetch
  energy : Nat
  energyHi : U32
  deriving DecidableEq, Repr, Inhabited

/-- One slot ring (R346-R349). -/
structure SlotRing where
  slots : Nat
  slotBytes : Nat
  base : Nat
  readyCtr : Nat
  freeCtr : Nat
  tail : U32
  head : U32
  openFor : Option Nat
  deriving DecidableEq, Repr, Inhabited

inductive CtrMode where
  | free | claimed | poisoned
  deriving DecidableEq, Repr, Inhabited

/-- Who waits on a counter: a header wait, a host signal descriptor, a plan unit, or an operation of another module. -/
inductive Waiter where
  | header (q : Nat) (idx : U32)
  | signal (q : Nat) (idx : U32)
  | unit (u : UnitId)
  | remote (module txid : Nat)
  deriving DecidableEq, Repr, Inhabited

/-- A waiting operation: WAIT_GE or, with `acquire`, ACQUIRE. -/
structure Wait where
  who : Waiter
  acquire : Bool
  amount : U32
  deriving DecidableEq, Repr, Inhabited

/-- One synchronisation counter (R356, R357, R370). `start` is the starting value of the claim, `jobStart` that of the
plan job while `inJob`. -/
structure Ctr where
  mode : CtrMode
  value : U32
  start : U32
  jobStart : U32
  owner : Nat
  inJob : Bool
  poison : Status
  waits : List Wait
  errState : Bool
  errOverflow : Bool
  errUnderflow : Bool
  deriving DecidableEq, Repr, Inhabited

/-! ### Memory -/

/-- A physical error that lies in a word until it is read: wrong symbols, the first of them, or a poison mark (R310, R326). -/
structure Latent where
  symbols : Nat
  symbol : Nat
  mark : Bool
  injected : Bool
  deriving DecidableEq, Repr, Inhabited

/-- Registers and state of HBM and SRAM protection (R301-R326). -/
structure MemCtl where
  interleave : Nat
  active : Nat
  scrubHours : Nat
  scrubNext : Nat
  locked : Bool
  degraded : Nat
  ce : Sparse Nat
  uncorr : Sparse Nat
  consumed : Sparse Nat
  sramCe : Nat
  sramUe : Nat
  /-- Corrected errors of each granule in the scrub period (R316) and the granules that already wrote a record (R322). -/
  granuleCe : Sparse Nat
  noted : List Nat
  notedSram : List (Nat × Nat × Nat)
  degradedGranules : List Nat
  latent : Sparse Latent
  /-- Latent errors of SRAM arrays, by source, unit and word offset. -/
  sramLatent : List (Nat × Nat × Nat × Latent)
  /-- MODEL: the vats whose SRAM has been power-gated since it was last initialised, each with the index of the free values that its
  unwritten bytes read as (R489, R535). -/
  sramLost : Sparse Nat
  inject : U32
  injectLo : U32
  injectHi : U32
  deriving DecidableEq, Repr, Inhabited

/-- A 256-byte line of a remote or host address held in the shared cache of a die, 0 West, 1 East, with the poison of its bytes
(R24, R305-R307). -/
structure Line where
  die : Nat
  addr : LAddr
  data : List Byte
  poison : List Bool
  deriving DecidableEq, Repr, Inhabited

/-! ### Mailboxes, sessions, settings, the cave -/

/-- One mailbox (R385). -/
structure Mailbox where
  busy : Bool
  done : Bool
  rejected : Bool
  steps : Nat
  irqEn : Bool
  vector : Nat
  cmdHeader : List Byte
  cmdPayload : List Byte
  rspHeader : List Byte
  rspPayload : List Byte
  deriving DecidableEq, Repr, Inhabited

/-- Where a command came from: a mailbox of this module, or a forward of an entry module. -/
inductive CmdSrc where
  | mailbox (m : Nat)
  | forwarded (entry mb : Nat)
  deriving DecidableEq, Repr, Inhabited

/-- A command past checks 1-8. `payload` is without the tag; `rspKey` is the response key of a tagged command. -/
structure Cmd where
  src : CmdSrc
  opcode : Nat
  tagged : Bool
  sequence : Nat
  target : Nat
  session : Nat
  counter : Nat
  payload : List Byte
  rspKey : List Byte
  deriving DecidableEq, Repr, Inhabited

/-- A settings command whose turn has come and that keeps its mailbox BUSY: bytes it still moves in steps and the count of the tick after
its last step (R401), whether it has asked another module for its image, the requests it awaits, and the first status that failed. -/
structure Running where
  cmd : Cmd
  bytesLeft : Nat
  steps : Nat
  stepTick : Nat
  asked : Bool
  reqs : List (Nat × Nat)
  status : Status
  deriving DecidableEq, Repr, Inhabited

/-- A command that awaits responses of other modules (R397-R399). -/
structure Forwarding where
  cmd : Cmd
  awaited : List Nat
  results : List (Nat × Status)
  ownPayload : List Byte
  ownDone : Bool
  /-- The latest of the effective ticks that its targets answered, in the head's count; 0 for none (R44, R412). -/
  effective : Nat := 0
  deriving DecidableEq, Repr, Inhabited

/-- A session (R391-R395). `offer` is the SESSION_INIT response the host signs. -/
structure Session where
  id : Nat
  isOpen : Bool
  offer : List Byte
  kemSeed : Nat
  cmdKey : List Byte
  rspKey : List Byte
  lastCounter : Nat
  since : Nat
  deriving DecidableEq, Repr, Inhabited

/-- One entry of the history of GET_STATUS (R404). -/
structure HistEntry where
  sequence : Nat
  opcode : Nat
  status : Status
  entry : Nat
  mailbox : Nat
  counter : Nat
  deriving DecidableEq, Repr, Inhabited

/-- The topology setting (R431). -/
structure Topology where
  code : Nat
  modules : Nat
  module : Nat
  head : Nat
  portMask : Nat
  configId : Nat
  deriving DecidableEq, Repr, Inhabited

/-- The retained settings (R407). -/
structure Settings where
  period : Nat
  align : Nat
  syncDelay : Nat
  bwRead : Nat
  bwWrite : Nat
  bwRemote : Nat
  interleave : Nat
  scrubHours : Nat
  maxima : List Nat
  smbus : Nat
  sustained : Nat
  peak : Nat
  order : Nat
  pool : Bool
  topology : Topology
  deriving DecidableEq, Repr, Inhabited

/-- Calibration (R469, R473): the voltages of P0-P15 in mV and the estimator weights as one opaque number. -/
structure Calibration where
  mv : List Nat
  weights : Nat
  deriving DecidableEq, Repr, Inhabited

/-- One copy of a cave record (R502): erased, present with its generation, or failing its check. -/
inductive CaveRec (α : Type) where
  | erased
  | bad
  | ok (generation : Nat) (body : α)
  deriving DecidableEq, Repr, Inhabited

/-- What the checks of R504 need of one stage image, found from its bytes when it was staged. -/
structure FwImage where
  stage : Nat
  signer : Nat
  version : Nat
  sv : Nat
  keyHash : List Byte
  formatOk : Bool
  sigOk : Bool
  digestOk : Bool
  measurement : List Byte
  deriving DecidableEq, Repr, Inhabited

/-- The security log record (R501). -/
structure SecLog where
  lastSerial : Nat
  active : Nat
  actions : List (Nat × Nat)
  deriving DecidableEq, Repr, Inhabited

/-- The cave (R501, R502). -/
structure Cave where
  certificate : CaveRec (List Byte)
  credentialA : CaveRec (List Byte)
  credentialB : CaveRec (List Byte)
  settingsA : CaveRec Settings
  settingsB : CaveRec Settings
  calibrationA : CaveRec Calibration
  calibrationB : CaveRec Calibration
  log : SecLog
  slotA : CaveRec (List FwImage)
  slotB : CaveRec (List FwImage)
  /-- CAVE_STATUS as the last restore left it (R548). -/
  status : U32
  deriving DecidableEq, Repr, Inhabited

/-- The fuse block (R498). A hash is `none` in a slot that is not programmed. -/
structure Fuses where
  secret : List Byte
  hashes : List (Option (List Byte))
  revoked : List Bool
  rollback : Nat
  provisioned : Bool
  deployed : Bool
  retired : Bool
  fused : List Nat
  deriving DecidableEq, Repr, Inhabited

/-- The debug token in force (R519, R521). `expires` is a time of the timebase. -/
structure Token where
  level : Nat
  signer : Nat
  session : Nat
  firstQueue : Nat
  queueCount : Nat
  expires : Nat
  deriving DecidableEq, Repr, Inhabited

/-- Security, boot and debug state (R503-R506, R518-R530). -/
structure Sec where
  level : Nat
  token : Option Token
  recovery : Bool
  bootSlot : Nat
  fallback : Bool
  /-- Measurement, sv and version of stages 0-3. -/
  stages : List (List Byte × Nat × Nat)
  denied : Bool
  halt : Nat
  halted : Nat
  instrs : List Nat
  scanned : Bool
  deriving DecidableEq, Repr, Inhabited

/-- Firmware staging and activation (R543-R547). -/
structure Fw where
  stagedSlot : Nat
  staging : Nat
  received : List Byte
  /-- A live activation: the slot and its effective tick. -/
  live : Option (Nat × Nat)
  deriving DecidableEq, Repr, Inhabited

/-- Mailboxes and everything the Mehrore firmware keeps for commands. -/
structure Mehrore where
  boxes : List Mailbox
  smbusAddr : Nat
  smbusOffset : Nat
  waiting : List Cmd
  running : Option Running
  /-- Accepted commands that wait with BUSY while every hub core is halted or a live activation proceeds (R528, R546). -/
  parked : List (Nat × MbCall)
  forwards : List Forwarding
  sessions : List Session
  nextSession : Nat
  failures : List Nat
  lockout : Bool
  lastFailEvent : Nat
  history : List HistEntry
  settings : Settings
  bw : Nat × Nat × Nat
  /-- Pending BW_SPLIT: effective tick and shares (R351, R406). -/
  bwNext : Option (Nat × Nat × Nat × Nat)
  /-- The opcodes of broadcast commands whose effective tick the entry module has yet to fix (R44, R101, R412, R546). -/
  unfixed : List Nat
  /-- QUEUE_CONTROL Reset and Disable commands that wait for their queue's reset (R401). -/
  resets : List (Nat × Cmd)
  /-- A MODULE_RESET that waits its delay: due time in ms after the response (R564). -/
  resetDelay : Option Nat
  evtIrqEn : Bool
  evtVector : Nat
  evtLastIrq : Nat
  /-- MODEL: a record was written since the last raise, too early for another (R414). -/
  evtIrqDue : Bool
  heldEvents : List Event
  heldLost : Nat
  deriving DecidableEq, Repr, Inhabited

/-! ### Power -/

/-- A phase hint in force (R485). -/
structure Hint where
  start : Nat
  ticks : Nat
  watts : Nat
  cls : Nat
  deriving DecidableEq, Repr, Inhabited

/-- One droop domain (R483): running stretch since, the time added in the tick (ns), and the response flag. -/
structure Droop where
  since : Option Nat
  added : Nat
  active : Bool
  deriving DecidableEq, Repr, Inhabited

/-- The open throttle run (R492). -/
structure ThrRun where
  first : Nat
  ticks : Nat
  reasons : Nat
  point : Nat
  lowest : Nat
  variant : Nat
  cause : Nat
  lost : Nat
  droop : Nat
  deriving DecidableEq, Repr, Inhabited

/-- The power controller (R469-R496). Times in ns. -/
structure Power where
  point : Nat
  prepared : Nat
  fixed : Bool
  /-- The request deadline of the next boundary has passed (R62, R470), and the reason of the last request (R479). -/
  deadline : Bool
  requestReason : Nat
  state : Nat
  d3 : Bool
  wantA2 : Bool
  alert : Bool
  alertSince : Nat
  alertHold : Bool
  avsFault : Bool
  thermal : Bool
  capPeak : Bool
  /-- The reason that holds the point below P0, and since when below time runs (R479). -/
  belowReason : Nat
  belowSince : Nat
  readings : List Reading
  droops : List Droop
  sustained : Nat
  peak : Nat
  order : Nat
  pool : Bool
  /-- Pending POWER_LIMITS: effective tick, cap, peak, order, pool (R476). -/
  limitsNext : Option (Nat × Nat × Nat × Nat × Bool)
  limitsSince : Nat
  /-- The grant in force and the one pending with its effective tick (R487). -/
  grant : Option Nat
  grantNext : Option (Nat × Nat)
  lastGrant : Nat
  restoreDue : Option Nat
  /-- The lead's tables: configured caps, grants and the last reports of the members; increases held back until the named
  donors acknowledge (R486, R487). -/
  caps : Sparse Nat
  grants : Sparse Nat
  reports : List BudgetReport
  awaited : List Nat
  increases : List (Nat × Nat)
  paceMemory : Nat
  paceLinks : Nat
  hints : List Hint
  estimateMw : Nat
  guardMw : Nat
  avg1ms : Nat
  avg1s : Nat
  energyMj : Nat
  /-- MODEL: the part of a mJ not yet counted, in nJ. -/
  energyNj : Nat
  energyHi : U32
  lost : List Nat
  below : List Nat
  lostHi : List U32
  belowHi : List U32
  reasons : Nat
  run : Option ThrRun
  tickLost : Nat
  tickReasons : Nat
  calibration : Calibration
  recalibrating : Bool
  deriving DecidableEq, Repr, Inhabited

/-! ### Fabric -/

/-- The state of a port (R447) and its replay (R426). -/
structure Port where
  state : Nat
  peerModule : Nat
  peerPort : Nat
  retrains : Nat
  failTimes : List Nat
  fec : Nat
  replays : Nat
  uncorr : Nat
  crc : Nat
  txSeq : Nat
  rxSeq : Nat
  /-- Sequence number of the oldest unacknowledged flit, and how often it was replayed. -/
  ackSeq : Nat
  replayed : Nat
  nakSent : Bool
  /-- Credits held per class, and the last counts seen; freed counts returned. -/
  credits : List Nat
  seen : List Nat
  freed : List Nat
  keyTx : List Byte
  keyRx : List Byte
  mgmtTx : Nat
  mgmtRx : Nat
  authed : Bool
  /-- Flits of each class that wait for a credit or for the replay buffer (R425, R426). -/
  waiting : List Nat
  /-- The seed of the encapsulation key and the signed message of this end's offer (R514), and whether training found a new
  incarnation of the peer (R443). -/
  seed : Nat
  offer : List Byte
  trained : Bool
  fresh : Bool
  /-- The requests that were in flight on the port when its drain took effect (R446). -/
  drainWaits : List (Nat × Nat)
  deriving DecidableEq, Repr, Inhabited

/-- An unanswered request of this module (R434, R441). -/
structure OutReq where
  kind : Nat
  dst : Nat
  txid : Nat
  address : Nat
  length : Nat
  amount : Nat
  data : List Byte
  bad : List Nat
  /-- The die into whose cache the bytes that it reads go (R307). -/
  cache : Option Nat
  queue : Nat
  index : U32
  deriving DecidableEq, Repr, Inhabited

/-- An applied request or sync message and its answer (R441). `done` is false while the original is in progress; `kind` is that of the
answer, 0 for a sync message, whose ID stands in `txid`; `light` marks a request of the light path. -/
structure TxnRecord where
  src : Nat
  txid : Nat
  done : Bool
  kind : Nat
  status : Status
  data : List Byte
  poison : List Nat
  light : Bool
  deriving DecidableEq, Repr, Inhabited

/-- The fabric (R418-R447). -/
structure Fabric where
  /-- The ID of the next sync message (R438). -/
  nextMsg : Nat
  /-- The sync messages of the present tick and their destinations, which go again on a new route (R442). -/
  syncSent : List (Nat × List Nat)
  topology : Topology
  ports : List Port
  portsUp : Sparse (List Nat)
  lost : List Nat
  incarnations : Sparse Nat
  txids : Sparse Nat
  outstanding : List OutReq
  records : List TxnRecord
  /-- Bytes of other modules' HBM that READ_DATA delivered (MODEL), and their poisoned words. -/
  view : Sparse Byte
  viewPoison : List Nat
  /-- Routes that a returning port makes available wait for the boundary (R442). -/
  returning : List Nat
  usable : List Nat
  noRoute : List Nat
  groupNext : Nat
  /-- MODEL: how many of the messages in `sent` have been packed into flits. -/
  posted : Nat
  deriving DecidableEq, Repr, Inhabited

/-! ### CXL -/

/-- One MSI-X table entry (R455, R464). -/
structure MsixEntry where
  address : Nat
  data : U32
  masked : Bool
  deriving DecidableEq, Repr, Inhabited

/-- The CXL port (R450-R466). -/
structure Cxl where
  width : Nat
  rate : Nat
  protocols : Nat
  reduced : Bool
  hdm : Option (Nat × Nat)
  flrCount : Nat
  timeouts : Nat
  poisonIn : Nat
  nullVector : Nat
  linkDowns : Nat
  lastTimeout : Option Nat
  crs : Bool
  busMaster : Bool
  memSpace : Bool
  /-- MSI-X: an unlisted entry has address 0 and is masked; pending bits; function mask. -/
  table : Sparse MsixEntry
  pendingBits : List Nat
  functionMask : Bool
  deriving DecidableEq, Repr, Inhabited

/-! ### Service, start-up -/

/-- A serviceable unit (R533, R549). `pend`: 0 none, 1 drain due, 2 return due, 3 under test. -/
structure Svc where
  state : Nat
  suspect : Bool
  overruns : Nat
  uncorr : Nat
  pend : Nat
  deriving DecidableEq, Repr, Inhabited

/-- A vat that needs a lower maximum (R541): the step and the end of its 720 hours. -/
structure Ageing where
  vat : Nat
  step : Nat
  deadline : Nat
  due : Bool
  deriving DecidableEq, Repr, Inhabited

/-- Start-up and reset (R556-R567), rails (R571-R585), pins (R578). `seq` is the last step of R557 reached. -/
structure Start where
  inReset : Bool
  resetLow : Bool
  perstLow : Bool
  brownOut : Bool
  seq : Nat
  trained : Nat
  initialised : Nat
  attempts : Nat
  readyMs : Nat
  links : Bool
  failed : Bool
  fwReady : Bool
  memActive : Bool
  vatsOn : Bool
  cause : Nat
  count : Nat
  incarnation : Nat
  railCount : Nat
  railValid : Bool
  railKind : Nat
  rail : Nat
  railsOn : Bool
  bypass : Bool
  boundary : List Bool
  exitA3 : Bool
  deriving DecidableEq, Repr, Inhabited

/-! ### Packages -/

/-- A model of a package: its exact section bytes, what they declare, its culture set images (R96, R409), and where the section and the
images stand in HBM (R97, R303). -/
structure PkgModel where
  id : Nat
  section_ : List Byte
  exact : ExactModel
  sets : List CultureSet
  exactAt : Nat
  deriving DecidableEq, Repr, Inhabited

/-- An installed package (R410). -/
structure Package where
  id : Nat
  bytes : Nat
  digest : List Byte
  planSets : List (Nat × PlanSet)
  models : List PkgModel
  weightsAddr : Nat
  weightsUsed : Nat
  deriving DecidableEq, Repr, Inhabited

/-! ### Codec engines -/

/-- One entry of a model table (R97): the sets it binds with their slots, the package that holds its exact section, and where that section
stands in HBM. -/
structure ModelEntry where
  id : Nat
  package : Nat
  fingerprint : List Byte
  version : Nat
  sets : List CultureSet
  slots : List Nat
  exact : ExactModel
  exactAt : Nat
  deriving DecidableEq, Repr, Inhabited

/-- Culture banks (R97-R103): the model tables of the active and the shadow bank, and a pending commit. -/
structure Culture where
  activeBank : Nat
  generation : Nat
  active : List ModelEntry
  /-- 0 free, 1 draining, 2 staging. -/
  shadowState : Nat
  shadow : List ModelEntry
  commitAt : Option Nat
  deriving DecidableEq, Repr, Inhabited

/-- The states of an open context. A context that encodes is held by its ENCODE_WHEEL while that runs (R127). -/
inductive CtxMode where
  | decoding | checking | failed
  deriving DecidableEq, Repr, Inhabited

/-- An open stream context (R115, R127). `wheel` is the wheel and `src` where it is read; `generation` is the culture generation it is
bound to; `values` the latents of the passes decoded so far, as (frame, pass, values in element order). -/
structure Ctx where
  mode : CtxMode
  queue : Nat
  status : Status
  wheel : List Byte
  src : LAddr
  generation : Nat
  bound : Bool
  frame : Nat
  pass : Nat
  states : List Nat
  word : Nat
  values : List (Nat × Nat × List Int)
  /-- The encode context that this one checks, at level 2 or, in a device slot, at level 1, and the ENCODE_WHEEL descriptor of an encode
  that is being checked (R135). -/
  checks : Option Nat
  desc : List Byte
  deriving DecidableEq, Repr, Inhabited

/-- One range coding engine (R115, R141): its open contexts by slot. -/
structure RcEngine where
  offline : Bool
  corrupt : Nat
  tableUncorr : Nat
  clMismatch : Nat
  ctxs : Sparse Ctx
  deriving DecidableEq, Repr, Inhabited

/-- The wheel index (R150-R161). Table t lies in reserved HBM at 0x1000_0000 + 64 MiB * t (R303). -/
structure Index where
  epoch : Nat
  active : Nat
  /-- 0 free, 1 draining, 2 staging. -/
  shadowState : Nat
  fill : Nat
  shadowFill : Nat
  inserts : Nat
  commitAt : Option Nat
  deriving DecidableEq, Repr, Inhabited

/-- One Press engine (R296-R298): the job that holds it: queue, index, INFLATE. -/
structure PressEngine where
  job : Option (Nat × U32 × Bool)
  corrupt : Nat
  sramUncorr : Nat
  deriving DecidableEq, Repr, Inhabited

end Sys2Proof.Machine
end

