-- ==== Sys2Proof/Machine/State.lean ====
section
/-!
DEFINITION. The state of one IZ-2 module, the faults and refusals, and the state after a power-on reset.
-/

namespace Sys2Proof.Machine

/-- Why a command stops with a fault. -/
inductive Fault where
  /-- An access names an address at which the spec says no memory exists (R301, R456): raised by TAP_MEMORY_ACCESS,
  CXL_MEM_READ and CXL_MEM_WRITE. Safe: the model stops where the hardware may go on. -/
  | noMemory
  deriving DecidableEq, Repr

/-- Why a command has no meaning. -/
inductive Refusal where
  /-- The command of that mnemonic is not modelled. Raised only by an arm of `exec`; safe. -/
  | notModelled (mnemonic : String)
  deriving DecidableEq, Repr

/-- The whole state of the module. Every field's reset value and rule stand in INVENTORY.md. -/
structure State where
  /-- The commands that wait, first in, first out. -/
  pending : List Instr
  start : Start
  tick : Tick
  plan : Plan
  /-- Queues by number; an unlisted one is `Queue.off` (R327). -/
  queues : Sparse Queue
  /-- Slot rings by number; an unlisted one is not set up (R346). -/
  rings : Sparse SlotRing
  /-- Counters by ID; an unlisted one is free and holds 0 (R356). -/
  ctrs : Sparse Ctr
  /-- HBM by device address; an unlisted byte is 0 (R558). -/
  hbm : Sparse Byte
  /-- Numbers of poisoned HBM words, rising (R317, R318). -/
  poison : List Nat
  /-- Host memory by host physical address, as CXL.cache reaches it. -/
  host : Sparse Byte
  hostPoison : List Nat
  /-- Vat SRAM by vat * 2^22 + offset (R342), and its poisoned words. An unlisted byte is 0, or after power gating a free value. -/
  sram : Sparse Byte
  sramPoison : List Nat
  memctl : MemCtl
  lines : List Line
  culture : Culture
  rc : List RcEngine
  index : Index
  press : List PressEngine
  /-- NUM_STICKY (R202). -/
  sticky : U32
  err : RecRing
  evt : RecRing
  thr : RecRing
  fmw : Mehrore
  cave : Cave
  fuses : Fuses
  sec : Sec
  fw : Fw
  power : Power
  fabric : Fabric
  cxl : Cxl
  /-- Serviceable units by (class, number); an unlisted one is in service (R533). -/
  svc : List (UnitId × Svc)
  ageing : List Ageing
  packages : List Package
  /-- What the module has put on its wires, newest first (MODEL). -/
  sent : List Sent
  /-- MODEL: the next index of the free values (notes/assumptions/5.md). -/
  free : Nat
  deriving DecidableEq, Repr

namespace State

end State

/-- A disabled queue (R327). -/
def Queue.off : Queue :=
  { mode := .disabled, cls := 0, prio := 0, entries := 0, ring := 0, comp := 0, msix := 0xFFFF, ladleSet := 0,
    tail := 0, head := 0, done := 0, lastStop := .ok, snap := 0, fetched := [], ops := [], reset := none,
    blk := none, energy := 0, energyHi := 0 }

/-- A free counter (R356). -/
def Ctr.free : Ctr :=
  { mode := .free, value := 0, start := 0, jobStart := 0, owner := 0, inJob := false, poison := .ownerReset, waits := [],
    errState := false, errOverflow := false, errUnderflow := false }

/-- A ring with no record (R321, R560). -/
def RecRing.empty : RecRing := { head := 0, tail := 0, lostCount := 0, lost := false, recs := [] }

/-- A unit in service (R533). -/
def Svc.inService : Svc := { state := 0, suspect := false, overruns := 0, uncorr := 0, pend := 0 }

/-- A port as reset leaves it: disabled, no credit used (R425, R427, R447). -/
def Port.reset : Port :=
  { state := 0, peerModule := 0, peerPort := 0, retrains := 0, failTimes := [], fec := 0, replays := 0, uncorr := 0,
    crc := 0, txSeq := 0, rxSeq := 0, ackSeq := 0, replayed := 0, nakSent := false, credits := Config.creditLimits,
    seen := List.replicate 8 0, freed := List.replicate 8 0, keyTx := [], keyRx := [], mgmtTx := 0, mgmtRx := 0,
    authed := false, waiting := List.replicate 8 0, seed := 0, offer := [], trained := false, fresh := false,
    drainWaits := [] }

/-- An idle mailbox (R385). -/
def Mailbox.idle : Mailbox :=
  { busy := false, done := false, rejected := false, steps := 0, irqEn := false, vector := 0,
    cmdHeader := List.replicate 32 0, cmdPayload := List.replicate 4096 0,
    rspHeader := List.replicate 32 0, rspPayload := List.replicate 4096 0 }

/-- The factory settings (R14 and the Description columns of R46, R324, R350, R387, R447, R475, R478): every one is the value that
the spec calls the factory value. -/
def Settings.factory (fused : List Nat) : Settings :=
  { period := 100, align := 1, syncDelay := 0, bwRead := 60, bwWrite := 25, bwRemote := 15, interleave := 0,
    scrubHours := 24, maxima := fused, smbus := 0x5A, sustained := 1700, peak := 2000, order := 0, pool := false,
    topology := { code := 0, modules := 1, module := 0, head := 0, portMask := 0, configId := 1 } }

/-- The factory calibration: the typical voltages of R469. -/
def Calibration.factory : Calibration :=
  { mv := [850, 830, 810, 790, 770, 750, 730, 710, 690, 670, 650, 630, 605, 580, 565, 550], weights := 0 }

/-- An idle range coding engine (R115, R141). -/
def RcEngine.idle : RcEngine :=
  { offline := false, corrupt := 0, tableUncorr := 0, clMismatch := 0, ctxs := [] }

/-- The stage images that slot A holds as shipped (notes/assumptions/8.md). -/
def FwImage.shipped (stage : Nat) : FwImage :=
  { stage := stage, signer := 0, version := 0x01000000, sv := 0, keyHash := Config.releaseKeyHash, formatOk := true,
    sigOk := true, digestOk := true, measurement := Config.shippedMeasurement stage }

/-- The cave as shipped: a device certificate, the transport credential, the part's calibration, slot A bootable, everything else erased
(notes/assumptions/8.md). -/
def Cave.shipped : Cave :=
  { certificate := .ok 1 Config.deviceCertificate, credentialA := .ok 1 Config.transportCredential, credentialB := .erased,
    settingsA := .erased, settingsB := .erased, calibrationA := .ok 1 Calibration.factory, calibrationB := .erased,
    log := { lastSerial := 0, active := 0, actions := [] },
    slotA := .ok 1 [FwImage.shipped 1, FwImage.shipped 2, FwImage.shipped 3], slotB := .erased, status := 0 }

/-- The fuses as shipped: slot 0 programmed, lifecycle BLANK (R498, R507). -/
def Fuses.shipped : Fuses :=
  { secret := Config.deviceSecret, hashes := [some Config.releaseKeyHash, none, none, none],
    revoked := [false, false, false, false], rollback := 0, provisioned := false, deployed := false, retired := false,
    fused := List.replicate 160 0 }

/-- Tick registers at reset (R46). -/
def Tick.reset (timebase period align delay : Nat) : Tick :=
  { timebase := timebase, placed := false, last := 0, count := 0, countHi := 0, base := 0, baseHi := 0, period := period,
    align := align, syncDelay := delay, next := none, offset := 0, aligned := false, inBand := 0, edge := none, slew := 0, lock := 0,
    state := 0, stretch := 16, variant := 0, overruns := 0, hold := none, heldPeers := [], released := none, late := [],
    allAdmitted := true, lowReason := 0, lowest := 15, skipFirst := 0, skipPattern := 0, skipping := false,
    requests := [], stretchCause := 0, stretchReason := 0, shortfall := 0,
     caps := [], served := [], windowOpen := false, worked := false, pulses := 0, admissions := 0 }

/-- Memory control at reset (R324). -/
def MemCtl.reset (interleave scrubHours : Nat) : MemCtl :=
  { interleave := interleave, active := interleave, scrubHours := scrubHours, scrubNext := 0, locked := false,
    degraded := 0, ce := [], uncorr := [], consumed := [], sramCe := 0, sramUe := 0, granuleCe := [], noted := [],
    notedSram := [], degradedGranules := [], latent := [], sramLatent := [], sramLost := [], inject := 0, injectLo := 0, injectHi := 0 }

/-- The power controller at reset: P15 until firmware is ready (R493, R557). -/
def Power.reset (c : Settings) (cal : Calibration) : Power :=
  { point := 15, prepared := 15, fixed := false, deadline := false, requestReason := 0, state := 0, d3 := false, wantA2 := false, alert := false,
    alertSince := 0, alertHold := false, avsFault := false, thermal := false, capPeak := false, belowReason := 0,
    belowSince := 0, readings := [], droops := List.replicate 19 { since := none, added := 0, active := false },
    sustained := c.sustained, peak := c.peak, order := c.order, pool := c.pool, limitsNext := none, limitsSince := 0,
    grant := none, grantNext := none, lastGrant := 0, restoreDue := none, caps := [], grants := [], reports := [],
    awaited := [], increases := [], paceMemory := 8, paceLinks := 8, hints := [], estimateMw := 0, guardMw := 0,
    avg1ms := 0, avg1s := 0, energyMj := 0, energyNj := 0, energyHi := 0, lost := List.replicate 8 0,
    below := List.replicate 8 0, lostHi := List.replicate 8 0, belowHi := List.replicate 8 0, reasons := 0, run := none,
    tickLost := 0, tickReasons := 0, calibration := cal, recalibrating := false }

/-- An MSI-X entry that nothing has written (R464). -/
def MsixEntry.off : MsixEntry := { address := 0, data := 0, masked := true }

/-- Start-up state at a module reset with the given cause, count and incarnation (R563, R567). -/
def Start.reset (cause count incarnation : Nat) : Start :=
  { inReset := true, resetLow := true, perstLow := true, brownOut := false, seq := 0, trained := 0, initialised := 0, attempts := 0, readyMs := 0,
    links := false, failed := false, fwReady := false, memActive := false, vatsOn := false, cause := cause,
    count := count, incarnation := incarnation, railCount := 0, railValid := false, railKind := 0, rail := 0,
    railsOn := true, bypass := false, boundary := [], exitA3 := false }

/-- The firmware's tables at reset (R385, R391, R407, R413, R560). -/
def Mehrore.reset (c : Settings) : Mehrore :=
  { boxes := List.replicate 5 Mailbox.idle, smbusAddr := c.smbus, smbusOffset := 0, waiting := [], running := none, parked := [],
    forwards := [], sessions := [], nextSession := 1, failures := [], lockout := false, lastFailEvent := 0,
    history := [], settings := c, bw := (c.bwRead, c.bwWrite, c.bwRemote), bwNext := none, unfixed := [], resets := [], resetDelay := none,
    evtIrqEn := false, evtVector := 0, evtLastIrq := 0, evtIrqDue := false, heldEvents := [], heldLost := 0 }

/-- The fabric at reset (R427, R447). -/
def Fabric.reset (t : Topology) : Fabric :=
  { topology := t, ports := List.replicate 24 Port.reset, portsUp := [], lost := [], incarnations := [], txids := [],
    outstanding := [], records := [], view := [], viewPoison := [], returning := [], usable := [], noRoute := [],
    groupNext := 0, posted := 0, nextMsg := 0, syncSent := [] }

/-- The CXL port at reset (R454, R466). -/
def Cxl.reset : Cxl :=
  { width := 0, rate := 0, protocols := 0, reduced := false, hdm := none, flrCount := 0, timeouts := 0, poisonIn := 0,
    nullVector := 0, linkDowns := 0, lastTimeout := none, crs := false, busMaster := false,
    memSpace := false, table := [], pendingBits := [], functionMask := false }

/-- Security state at reset: level D0 (R529, R560). The stage measurements are those of the shipped bundle until the boot
records its own (R505). -/
def Sec.reset : Sec :=
  { level := 0, token := none, recovery := false, bootSlot := 0, fallback := false,
    stages := [(Config.shippedMeasurement 0, 0, 0xB0000000), ([], 0, 0), ([], 0, 0), ([], 0, 0)],
    denied := false, halt := 0, halted := 0, instrs := [0, 0, 0], scanned := false }

/-- A module right after power-on reset, held in reset with both pins low until START_ORIGIN: every register at its Reset
column, every setting at its factory value because the cave as shipped holds no settings record (R14, R548, R560). -/
def State.reset : State :=
  let fused := Fuses.shipped.fused
  let c := Settings.factory fused
  { pending := [], start := Start.reset 0 0 (Config.incarnation 0), tick := Tick.reset 0 c.period c.align c.syncDelay,
    plan := { job := none, waiting := [], absent := [], replace := none, rindReady := [], rindFreed := [], poolLeft := 0 },
    queues := [], rings := [], ctrs := [], hbm := [], poison := [], host := [], hostPoison := [], sram := [],
    sramPoison := [], memctl := MemCtl.reset c.interleave c.scrubHours, lines := [],
    culture := { activeBank := 0, generation := 0, active := [], shadowState := 0, shadow := [], commitAt := none },
    rc := List.replicate 16 RcEngine.idle,
    index := { epoch := 0, active := 0, shadowState := 0, fill := 0, shadowFill := 0, inserts := 0, commitAt := none },
    press := List.replicate 4 { job := none, corrupt := 0, sramUncorr := 0 },
    sticky := 0, err := RecRing.empty, evt := RecRing.empty, thr := RecRing.empty,
    fmw := Mehrore.reset c, cave := Cave.shipped, fuses := Fuses.shipped, sec := Sec.reset,
    fw := { stagedSlot := 1, staging := 0, received := [], live := none },
    power := Power.reset c Calibration.factory, fabric := Fabric.reset c.topology, cxl := Cxl.reset,
    svc := [], ageing := [], packages := [], sent := [], free := 0 }

end Sys2Proof.Machine
end

