-- ==== Sys2Proof/Machine/Ops.lean ====
section
/-!
DEFINITION. The named operations that every meaning shares: outputs, MSI-X, events, records, ladle addresses, memory with
its poison, free values, and access to queues, slot rings, counters and units.
-/

namespace Sys2Proof.Machine

/-! ### Whether the module acts -/

/-- What an event does to a module that is out of reset and whose clocks run (R522, R556): held in reset, or after a scan at D3, it takes
nothing but a reset. -/
def live (f : State → State) (s : State) : State := if s.start.inReset || s.sec.scanned then s else f s

/-! ### Outputs and free values -/

/-- Put something on a wire. -/
def emit (x : Sent) (s : State) : State := { s with sent := x :: s.sent }

/-- Send a sync message under the next message ID (R438); `dsts` are those to which it goes again after a reroute in this tick (R442). -/
def sendSync (dsts : List Nat) (m : Nat → Sent) (s : State) : State :=
  let id := s.fabric.nextMsg
  emit (m id) { s with fabric := { s.fabric with
    nextMsg := (id + 1) % 65536, syncSent := if dsts.isEmpty then s.fabric.syncSent else s.fabric.syncSent ++ [(id, dsts)] } }

/-- Put several things on the wires, in order. -/
def emitAll (xs : List Sent) (s : State) : State := xs.foldl (fun s x => emit x s) s

/-- `n` free bytes, and the state whose counter has passed them (notes/assumptions/5.md). -/
def freeBytes (n : Nat) (s : State) : List Byte × State :=
  ((List.range n).map fun i => Config.freeByte (s.free + i), { s with free := s.free + n })

/-- The module's own number (R431). -/
def self (s : State) : Nat := s.fabric.topology.module

/-- The head module (R431). -/
def headModule (s : State) : Nat := s.fabric.topology.head

/-- Whether this module is the head of its configuration, which a single module is (R428). -/
def isHead (s : State) : Bool := s.fabric.topology.code == 0 || self s == headModule s

/-- Whether a module number is in the configuration. -/
def inConfig (s : State) (m : Nat) : Bool := decide (m < s.fabric.topology.modules)

/-- Whether another module is reachable and not lost (R443, R447). -/
def reachable (s : State) (m : Nat) : Bool := m == self s || (inConfig s m && s.fabric.usable.contains m && !s.fabric.lost.contains m)

/-! ### MSI-X (R464) -/

/-- The table entry of a vector. -/
def msixEntry (s : State) (v : Nat) : MsixEntry := mgetD s.cxl.table v MsixEntry.off

/-- The one message of a vector, or for a null address its count. -/
def sendMsix (v : Nat) (s : State) : State :=
  let e := msixEntry s v
  if e.address = 0 then { s with cxl := { s.cxl with nullVector := satAdd 15 s.cxl.nullVector 1 } }
  else emit (.msix v e.address e.data) s

/-- One raise of a vector: sent, or pended behind a mask; a null address is never sent. -/
def raiseMsix (v : Nat) (s : State) : State :=
  let e := msixEntry s v
  if e.address != 0 && (e.masked || s.cxl.functionMask) then { s with cxl := { s.cxl with pendingBits := sadd s.cxl.pendingBits v } }
  else sendMsix v s

/-! ### The head's count (R561) -/

/-- A count of this module as the head counts it. TICK_BASE is taken modulo 2^64: after a reset of the head it may be less than 0 (R566). -/
def headTick (s : State) (n : Nat) : Nat := (n + s.tick.base) % 2 ^ 64

/-- A count of the head as this module counts it; what lies before the module's count 0 has passed. -/
def ownTick (s : State) (t : Nat) : Nat :=
  let n := (t + (2 ^ 64 - s.tick.base)) % 2 ^ 64
  if n < 2 ^ 63 then n else 0

/-! ### Record rings (R321, R322, R413, R492) -/

/-- Room for one more record. -/
def RecRing.full (size : Nat) (r : RecRing) : Bool := (r.head - r.tail).toNat == size

/-- A record written at HEAD, or counted as lost when the ring is full. -/
def RecRing.push (size : Nat) (rec : List Byte) (r : RecRing) : RecRing :=
  if r.full size then { r with lostCount := satAdd (2 ^ 31 - 1) r.lostCount 1, lost := true }
  else { r with head := r.head + 1, recs := mput r.recs (r.head.toNat % size) rec }

/-- Records dropped before they reached the ring are counted as lost (R414). -/
def RecRing.lose (n : Nat) (r : RecRing) : RecRing :=
  if n = 0 then r else { r with lostCount := satAdd (2 ^ 31 - 1) r.lostCount n, lost := true }

/-- A write of TAIL: accepted from the current TAIL to HEAD, otherwise ignored. -/
def RecRing.setTail (t : U32) (r : RecRing) : RecRing := if t - r.tail ≤ r.head - r.tail then { r with tail := t } else r

/-- The write-1-to-clear of LOST. -/
def RecRing.clearLost (v : U32) (r : RecRing) : RecRing := if v.toNat % 2 = 1 then { r with lost := false } else r

/-! ### Events (R413-R415) -/

/-- The 32 bytes of an event record (R414). -/
def eventBytes (head : U32) (e : Event) : List Byte :=
  leBytes 2 e.code ++ leBytes 1 e.severity ++ leBytes 1 e.module ++ leBytes 4 head.toNat ++ leBytes 8 e.tick ++ padTo 16 e.detail

/-- Whether the event path of the firmware runs: firmware ready and not every hub core halted (R528, R557, R562). -/
def eventsServed (s : State) : Bool := (s.start.fwReady || s.start.failed) && s.sec.halted != 7 && s.fw.live.isNone

/-- Write an event record into this module's ring and raise the ring's vector, at most once every 10 µs; what its sender dropped is
counted (R414). -/
def writeEvent (e : Event) (s : State) : State :=
  let s : State := { s with evt := s.evt.lose e.lost }
  if s.evt.full 512 then { s with evt := s.evt.push 512 [] }
  else
    let s := { s with evt := s.evt.push 512 (eventBytes s.evt.head e) }
    if s.fmw.evtIrqEn && (s.fmw.evtLastIrq = 0 || s.fmw.evtLastIrq + 10000 ≤ s.tick.timebase) then
      raiseMsix s.fmw.evtVector { s with fmw := { s.fmw with evtLastIrq := s.tick.timebase, evtIrqDue := false } }
    else if s.fmw.evtIrqEn then { s with fmw := { s.fmw with evtIrqDue := true } }
    else s

/-- The raise that came too early for the ring's vector is made at a boundary once 10 µs have passed (R414). -/
def lateEventIrq (s : State) : State :=
  if s.fmw.evtIrqDue && decide (s.fmw.evtLastIrq + 10000 ≤ s.tick.timebase) then
    let t : State := { s with fmw := { s.fmw with evtIrqDue := false } }
    if s.fmw.evtIrqEn then raiseMsix s.fmw.evtVector { t with fmw := { t.fmw with evtLastIrq := s.tick.timebase } } else t
  else s

/-- Send an event towards the head: into the ring on the head, over the fabric elsewhere, held while no path serves; beyond
64 held the newest is dropped and counted (R414). -/
def routeEvent (e : Event) (s : State) : State :=
  if !eventsServed s then
    if isHead s || s.fmw.heldEvents.length < 64 then { s with fmw := { s.fmw with heldEvents := s.fmw.heldEvents ++ [e] } }
    else { s with fmw := { s.fmw with heldLost := s.fmw.heldLost + 1 } }
  else if isHead s then writeEvent e s
  else if reachable s (headModule s) then emit (.event (headModule s) e) s
  else if s.fmw.heldEvents.length < 64 then { s with fmw := { s.fmw with heldEvents := s.fmw.heldEvents ++ [e] } }
  else { s with fmw := { s.fmw with heldLost := s.fmw.heldLost + 1 } }

/-- Raise an event of this module. -/
def raise (code severity : Nat) (detail : List Byte) (s : State) : State :=
  routeEvent { code := code, severity := severity, module := self s, tick := s.tick.count, detail := detail } s

/-- The held events, the last of them with the count of those dropped behind it. -/
def heldBatch (s : State) : List Event := match s.fmw.heldEvents.reverse with
  | [] => []
  | e :: r => ({ e with lost := e.lost + s.fmw.heldLost } :: r).reverse

/-- Send the held events in order once a path serves (R414, R557). -/
def flushEvents (s : State) : State :=
  if !s.fmw.heldEvents.isEmpty && eventsServed s && (isHead s || reachable s (headModule s)) then
    (heldBatch s).foldl (fun s e => routeEvent e s) { s with fmw := { s.fmw with heldEvents := [], heldLost := 0 } }
  else s

/-! ### Error records (R321-R323) -/

/-- The fields of an error record that its writer chooses (R323). -/
structure ErrRec where
  type : Nat
  severity : Nat
  source : Nat
  unit : Nat
  status : Nat
  address : Nat
  queue : Nat
  tag : Nat
  symbols : Nat
  symbol : Nat
  flags : Nat
  detail : List Byte
  deriving DecidableEq, Repr, Inhabited

/-- The 64 bytes of an error record. -/
def errBytes (tick : Nat) (head : U32) (r : ErrRec) : List Byte :=
  leBytes 2 r.type ++ leBytes 1 r.severity ++ leBytes 1 r.source ++ leBytes 2 r.unit ++ leBytes 2 r.status ++
  leBytes 8 r.address ++ leBytes 8 tick ++ leBytes 4 r.queue ++ leBytes 4 r.tag ++ leBytes 1 r.symbols ++
  leBytes 1 r.symbol ++ leBytes 2 r.flags ++ leBytes 4 head.toNat ++ padTo 24 r.detail

/-- Write an error record; a full ring drops it and raises ERR_OVERFLOW once until LOST is cleared (R322). -/
def errRecord (r : ErrRec) (s : State) : State :=
  let first := s.err.full 1024 && !s.err.lost
  let s := { s with err := s.err.push 1024 (errBytes s.tick.count s.err.head r) }
  if first then raise 0x0401 1 (leBytes 4 s.err.lostCount) s else s

/-! ### Ladle addresses (R342) -/

/-- The number of bytes of HBM (R301). -/
def hbmBytes : Nat := 768000000000

/-- The end of the reserved region (R303). -/
def reservedEnd : Nat := 2000000000

/-- The bytes of one vat's SRAM (R308). -/
def sramBytes : Nat := 3 * 1024 * 1024

/-- A ladle address read from its 64 bits: none where a bit that must be zero is set, the module is outside the
configuration, or the vat or the offset does not exist. The own number in space 1 means local HBM. -/
def laddr (s : State) (a : Nat) : Option LAddr :=
  match bits a 63 62 with
  | 0 => if bits a 61 40 = 0 ∧ bits a 39 0 < hbmBytes then some (.hbm (bits a 39 0)) else none
  | 1 =>
    if bits a 55 40 = 0 ∧ bits a 39 0 < hbmBytes ∧ inConfig s (bits a 61 56) = true then
      if bits a 61 56 = self s then some (.hbm (bits a 39 0)) else some (.remote (bits a 61 56) (bits a 39 0))
    else none
  | 2 => if bits a 61 52 = 0 then some (.host (bits a 51 0)) else none
  | _ => if bits a 61 56 = 0 ∧ bits a 47 22 = 0 ∧ bits a 55 48 < 160 ∧ bits a 21 0 < sramBytes then
      some (.sram (bits a 55 48) (bits a 21 0)) else none

/-- A ladle address moved by a number of bytes. -/
def laPlus (a : LAddr) (n : Nat) : LAddr :=
  match a with
  | .hbm x => .hbm (x + n)
  | .remote m x => .remote m (x + n)
  | .host x => .host (x + n)
  | .sram v x => .sram v (x + n)

/-- The space, the owner within the space, and the offset of a ladle address. -/
def laParts : LAddr → Nat × Nat × Nat
  | .hbm x => (0, 0, x)
  | .remote m x => (1, m, x)
  | .host x => (2, 0, x)
  | .sram v x => (3, v, x)

/-- Whether an HPA lies in the committed decoder's range (R458). -/
def inDecoder (s : State) (h len : Nat) : Bool :=
  match s.cxl.hdm with
  | some (base, size) => decide (h < base + size ∧ base < h + len)
  | none => false

/-- Whether a span of `len` bytes from a ladle address is one that an operation may name: inside its memory, outside the
reserved region, outside the own decoder in space 2, and in space 3 only in a tick plan (R303, R342, R458). -/
def spanOk (s : State) (inPlan : Bool) (a : LAddr) (len : Nat) : Bool :=
  match a with
  | .hbm x => decide (reservedEnd ≤ x ∧ x + len ≤ hbmBytes)
  | .remote _ x => decide (x + len ≤ hbmBytes)
  | .host x => decide (x + len ≤ 2 ^ 52) && !inDecoder s x len
  | .sram _ x => inPlan && decide (x + len ≤ sramBytes)

/-- An address field of an operation: its address when the whole span may be named. -/
def addrField (s : State) (inPlan : Bool) (v len : Nat) : Option LAddr :=
  match laddr s v with
  | some a => if spanOk s inPlan a len then some a else none
  | none => none

/-! ### HBM organisation (R301) -/

/-- The stack of a device address in an interleave mode. -/
def stackOf (mode a : Nat) : Nat :=
  let g := a / 4096
  match mode with
  | 0 => g % 12
  | 1 => if a < 384000000000 then g % 6 else 6 + (g - 93750000) % 6
  | _ => a / 64000000000

/-- The granule within the stack. -/
def granuleIn (mode a : Nat) : Nat :=
  let g := a / 4096
  match mode with
  | 0 => g / 12
  | 1 => if a < 384000000000 then g / 6 else (g - 93750000) / 6
  | _ => g % 15625000

/-- The word of a device address (R309). -/
def wordOf (a : Nat) : Nat := a / 32

/-- The words that a span touches. -/
def wordsOf (a len : Nat) : List Nat := if len = 0 then [] else upFrom (a / 32) ((a + len - 1) / 32 - a / 32 + 1)

/-! ### Reading words: correction, poison, records (R310-R312, R316-R319) -/

/-- Who reads: the queue and tag that the error record names, or 0xFFFF_FFFF and 0 (R323). -/
structure Who where
  queue : Nat
  tag : Nat
  scrub : Bool
  deriving DecidableEq, Repr, Inhabited

def Who.none : Who := { queue := 0xFFFFFFFF, tag := 0, scrub := false }

/-- The status that a record names: the one given to the affected operation, or 0 where no operation is named (R315, R323). -/
def Who.status (who : Who) (st : Nat) : Nat := if who.scrub ∨ who.queue = 0xFFFFFFFF then 0 else st

/-- A granule becomes degraded (R316). -/
def degrade (granule : Nat) (s : State) : State :=
  if s.memctl.degradedGranules.contains granule then s
  else
    let st := stackOf s.memctl.active (granule * 4096)
    let s := { s with memctl := { s.memctl with
      degradedGranules := sadd s.memctl.degradedGranules granule, degraded := s.memctl.degraded ||| 2 ^ st } }
    errRecord { type := 5, severity := 0, source := 0, unit := st, status := 0, address := granule * 4096,
                queue := 0xFFFFFFFF, tag := 0, symbols := 0xFF, symbol := 0xFF, flags := 8, detail := [] } s

/-- A correctable error of a word is corrected and written back (R312), counted and recorded under R322. -/
def correctWord (who : Who) (w : Nat) (l : Latent) (s : State) : State :=
  let a := w * 32
  let g := a / 4096
  let st := stackOf s.memctl.active a
  let n := mgetD s.memctl.granuleCe g 0 + 1
  let fresh := !s.memctl.noted.contains g
  let s := { s with memctl := { s.memctl with
    latent := mdel s.memctl.latent w, ce := mput s.memctl.ce st (satAdd (2 ^ 32 - 1) (mgetD s.memctl.ce st 0) 1),
    granuleCe := mput s.memctl.granuleCe g n, noted := sadd s.memctl.noted g } }
  let s := if fresh then
    errRecord { type := 1, severity := 0, source := 0, unit := st, status := 0, address := a, queue := who.queue,
                tag := who.tag, symbols := 1, symbol := l.symbol,
                flags := b2n l.injected + 2 * b2n who.scrub + 8 * b2n (decide (16 ≤ n)), detail := [] } s
    else s
  if 16 ≤ n then degrade g s else s

/-- An uncorrectable word gets its poison mark, is counted and recorded (R317, R319); scrubbing gives no status (R315). -/
def poisonWord (who : Who) (w : Nat) (l : Latent) (s : State) : State :=
  let a := w * 32
  let st := stackOf s.memctl.active a
  let s := { s with poison := sadd s.poison w, memctl := { s.memctl with
    latent := mdel s.memctl.latent w,
    uncorr := mput s.memctl.uncorr st (satAdd 0xFFFF (mgetD s.memctl.uncorr st 0) 1) } }
  let s := errRecord
    { type := if who.scrub then 4 else 2, severity := 1, source := 0, unit := st,
      status := who.status 0x0404, address := a, queue := who.queue, tag := who.tag,
      symbols := if l.symbols = 2 then 2 else 0xFF, symbol := 0xFF,
      flags := b2n l.injected + 2 * b2n who.scrub + 8, detail := [] } s
  degrade (a / 4096) s

/-- A read of a word that was already poisoned is counted and recorded (R323). -/
def consumeWord (who : Who) (w : Nat) (injected : Bool) (s : State) : State :=
  let a := w * 32
  let st := stackOf s.memctl.active a
  let s := { s with memctl := { s.memctl with
    consumed := mput s.memctl.consumed st (satAdd 0xFFFF (mgetD s.memctl.consumed st 0) 1) } }
  errRecord { type := 3, severity := 1, source := 0, unit := st, status := who.status 0x0404, address := a, queue := who.queue,
              tag := who.tag, symbols := 0xFF, symbol := 0xFF, flags := 4 + b2n injected, detail := [] } s

/-- What a read of one HBM word does to the state. -/
def touchWord (who : Who) (s : State) (w : Nat) : State :=
  if s.poison.contains w then
    if who.scrub then s else consumeWord who w false s
  else
    match mget s.memctl.latent w with
    | none => s
    | some l =>
      if l.mark then
        let s := { s with poison := sadd s.poison w, memctl := { s.memctl with latent := mdel s.memctl.latent w } }
        if who.scrub then s else consumeWord who w l.injected s
      else if l.symbols ≤ 1 then correctWord who w l s
      else if l.symbols ≥ 3 && Config.miscorrects s.free then
        let (bs, s) := freeBytes 32 { s with free := s.free + 1 }
        { s with hbm := bwrite s.hbm (w * 32) bs, memctl := { s.memctl with latent := mdel s.memctl.latent w } }
      else poisonWord who w l s

/-- What a read of a span of HBM does to the state. -/
def touchHbm (who : Who) (a len : Nat) (s : State) : State := (wordsOf a len).foldl (touchWord who) s

/-- Per byte of a span, whether its word carries poison (R318). -/
def poisonOf (ws : List Nat) (a len : Nat) : List Bool := (List.range len).map fun i => ws.contains ((a + i) / 32)

/-! ### Writing words (R311, R317, R326) -/

/-- An armed injection acts on a write to its word (R325, R326). -/
def injectHbm (a len : Nat) (s : State) : State :=
  let v := s.memctl.inject.toNat
  let addr := s.memctl.injectLo.toNat + 2 ^ 32 * s.memctl.injectHi.toNat
  if bit v 31 && bits v 27 24 = 0 && (wordsOf a len).contains (addr / 32) then
    let l : Latent := { symbols := bits v 1 0, symbol := bits v 15 8, mark := bits v 1 0 == 3, injected := true }
    { s with memctl := { s.memctl with
      inject := s.memctl.inject &&& 0x7FFFFFFF,
      latent := if bits v 1 0 = 0 then s.memctl.latent else mput s.memctl.latent (addr / 32) l } }
  else s

/-- The read of a word that a write covers in part (R311): an error in it is corrected or poisons it; a poison mark stays a mark. -/
def mergeWord (s : State) (w : Nat) : State :=
  match mget s.memctl.latent w with
  | none => s
  | some l =>
    if l.mark || s.poison.contains w then { s with poison := sadd s.poison w, memctl := { s.memctl with latent := mdel s.memctl.latent w } }
    else touchWord Who.none s w

/-- Write bytes of HBM. A word that the bytes cover whole loses its poison and its latent error; a word in part is read,
merged and written; a word that takes a byte with a flag is written poisoned. -/
def writeHbm (a : Nat) (data : List Byte) (flags : List Bool) (s : State) : State :=
  let len := data.length
  let ws := wordsOf a len
  let whole := ws.filter fun w => decide (a ≤ w * 32 ∧ w * 32 + 32 ≤ a + len)
  let part := ws.filter fun w => !decide (a ≤ w * 32 ∧ w * 32 + 32 ≤ a + len)
  let s := part.foldl mergeWord s
  let bad := ((List.range len).filter fun i => flags.getD i false).map fun i => (a + i) / 32
  let s := { s with
    hbm := bwrite s.hbm a data,
    poison := saddAll (s.poison.filter fun w => !whole.contains w) bad,
    memctl := { s.memctl with latent := s.memctl.latent.filter fun p => !whole.contains p.1 } }
  injectHbm a len s

/-! ### SRAM arrays (R308, R312, R317, R322, R323, R326) -/

/-- An error record of a word of an SRAM array. -/
def sramRecord (type severity source unit off status : Nat) (who : Who) (l : Latent) (s : State) : State :=
  errRecord { type := type, severity := severity, source := source, unit := unit, status := status, address := off, queue := who.queue,
              tag := who.tag, symbols := if l.symbols = 1 ∨ l.symbols = 2 then l.symbols else 0xFF,
              symbol := if l.symbols = 1 then l.symbol else 0xFF,
              flags := b2n l.injected + 2 * b2n who.scrub + 4 * b2n (type == 3), detail := [] } s

/-- A correctable error of a word of an array: counted, and recorded where it is the first of its bank since the last scrub pass. -/
def correctSram (source unit off : Nat) (who : Who) (l : Latent) (s : State) : State :=
  let bank := (source, unit, off / 98304)
  let fresh := !s.memctl.notedSram.contains bank
  let s := { s with memctl := { s.memctl with
    sramCe := satAdd (2 ^ 32 - 1) s.memctl.sramCe 1,
    notedSram := if fresh then s.memctl.notedSram ++ [bank] else s.memctl.notedSram } }
  if fresh then sramRecord 1 0 source unit off 0 who l s else s

/-- An uncorrectable error of a word of an array is counted and recorded. -/
def uncorrectSram (source unit off : Nat) (who : Who) (l : Latent) (s : State) : State :=
  sramRecord (if who.scrub then 4 else 2) 1 source unit off (who.status 0x0501) who l
    { s with memctl := { s.memctl with sramUe := satAdd (2 ^ 32 - 1) s.memctl.sramUe 1 } }

/-- An armed injection acts on a write to its word of a vat's SRAM; the error lies there until a read or a scrub finds it. -/
def injectSram (v off len : Nat) (s : State) : State :=
  let w := s.memctl.inject.toNat
  let addr := s.memctl.injectLo.toNat + 2 ^ 32 * s.memctl.injectHi.toNat
  if bit w 31 && bits w 27 24 == 1 && bits w 23 16 == v && (wordsOf off len).contains (addr / 32) then
    let l : Latent := { symbols := bits w 1 0, symbol := bits w 15 8, mark := bits w 1 0 == 3, injected := true }
    { s with memctl := { s.memctl with
      inject := s.memctl.inject &&& 0x7FFFFFFF,
      sramLatent := if bits w 1 0 = 0 then s.memctl.sramLatent else s.memctl.sramLatent ++ [(1, v, addr / 32 * 32, l)] } }
  else s

/-! ### Memory through ladle addresses -/

/-- The key of a byte of another module's HBM in the fabric's view. -/
def viewKey (m a : Nat) : Nat := m * 2 ^ 40 + a

/-- The key of a byte of vat SRAM. -/
def sramKey (v off : Nat) : Nat := v * 2 ^ 22 + off

/-- What reading a word of a vat's SRAM that holds an error does: it is corrected, or poisoned. -/
def touchSramWord (who : Who) (s : State) (x : Nat × Nat × Nat × Latent) : State :=
  let s := { s with memctl := { s.memctl with sramLatent := s.memctl.sramLatent.filter fun y => y != x } }
  let poison (s : State) : State := { s with sramPoison := sadd s.sramPoison (sramKey x.2.1 x.2.2.1 / 32) }
  if x.2.2.2.mark then
    if who.scrub then poison s else sramRecord 3 1 1 x.2.1 x.2.2.1 (who.status 0x0404) who x.2.2.2 (poison s)
  else if x.2.2.2.symbols ≤ 1 then correctSram 1 x.2.1 x.2.2.1 who x.2.2.2 s
  else uncorrectSram 1 x.2.1 x.2.2.1 who x.2.2.2 (poison s)

/-- The read of the words of a vat's SRAM that a write covers in part (R311): an error is corrected or poisons its word; a poison mark stays a
mark. -/
def mergeSram (v : Nat) (ws : List Nat) (s : State) : State :=
  (s.memctl.sramLatent.filter fun x => x.1 == 1 && x.2.1 == v && ws.contains (x.2.2.1 / 32)).foldl (fun s x =>
    if x.2.2.2.mark || s.sramPoison.contains (sramKey v x.2.2.1 / 32) then
      { s with sramPoison := sadd s.sramPoison (sramKey v x.2.2.1 / 32),
               memctl := { s.memctl with sramLatent := s.memctl.sramLatent.filter fun y => y != x } }
    else touchSramWord Who.none s x) s

/-- What reading a span of a vat's SRAM does. -/
def touchSram (who : Who) (v off len : Nat) (s : State) : State :=
  (s.memctl.sramLatent.filter fun x => x.1 == 1 && x.2.1 == v && (wordsOf off len).contains (x.2.2.1 / 32)).foldl (touchSramWord who) s

/-- Host data that arrives poisoned is counted, once for each span that is read (R466, notes/assumptions/20.md). -/
def hostPoisonIn (x len : Nat) (s : State) : State :=
  if (wordsOf x len).any s.hostPoison.contains then { s with cxl := { s.cxl with poisonIn := satAdd 255 s.cxl.poisonIn 1 } } else s

/-- What reading a span does: corrections, poison and records of HBM and of vat SRAM, and the count of poisoned host data. -/
def touch (who : Who) (a : LAddr) (len : Nat) (s : State) : State :=
  match a with
  | .hbm x => touchHbm who x len s
  | .sram v x => touchSram who v x len s
  | .host x => hostPoisonIn x len s
  | .remote _ _ => s

/-- A byte of vat SRAM: an unlisted one is 0, or in a vat that has been power-gated a free value. -/
def sramByte (s : State) (v off : Nat) : Byte :=
  match mget s.memctl.sramLost v with
  | none => bget s.sram (sramKey v off)
  | some f => (mget s.sram (sramKey v off)).getD (Config.freeByte (f + off))

/-- Bytes of vat SRAM written: in a vat that has been power-gated zeros are listed too. -/
def sramWrite (s : State) (v off : Nat) (data : List Byte) : Sparse Byte :=
  match mget s.memctl.sramLost v with
  | none => bwrite s.sram (sramKey v off) data
  | some _ => (data.zip (upFrom 0 data.length)).foldl (fun m p => mput m (sramKey v (off + p.2)) p.1) s.sram

/-- Vats are power-gated: their SRAM is lost. -/
def gateVats (vs : List Nat) (s : State) : State :=
  let here (k : Nat) : Bool := vs.contains (k / 2 ^ 22)
  { s with
    sram := s.sram.filter fun c => !here c.1, sramPoison := s.sramPoison.filter fun w => !here (w * 32),
    memctl := { s.memctl with
      sramLost := (vs.zip (upFrom 0 vs.length)).foldl (fun m p => mput m p.1 (s.free + p.2 * 2 ^ 22)) s.memctl.sramLost,
      sramLatent := s.memctl.sramLatent.filter fun x => !(x.1 == 1 && vs.contains x.2.1) },
    free := s.free + vs.length * 2 ^ 22 }

/-- The byte at a ladle address. -/
def peek1 (s : State) (a : LAddr) : Byte :=
  match a with
  | .hbm x => bget s.hbm x
  | .remote m x => bget s.fabric.view (viewKey m x)
  | .host x => bget s.host x
  | .sram v x => sramByte s v x

/-- `len` bytes from a ladle address. -/
def peek (s : State) (a : LAddr) (len : Nat) : List Byte := (List.range len).map fun i => peek1 s (laPlus a i)

/-- Whether the word of the byte at a ladle address is poisoned. -/
def poisoned1 (s : State) (a : LAddr) : Bool :=
  match a with
  | .hbm x => s.poison.contains (x / 32)
  | .remote m x => s.fabric.viewPoison.contains (viewKey m x / 32)
  | .host x => s.hostPoison.contains (x / 32)
  | .sram v x => s.sramPoison.contains (sramKey v x / 32)

/-- Per byte of a span, whether its word is poisoned. -/
def peekPoison (s : State) (a : LAddr) (len : Nat) : List Bool := (List.range len).map fun i => poisoned1 s (laPlus a i)

/-- Whether a span reads through poison. -/
def anyPoison (s : State) (a : LAddr) (len : Nat) : Bool :=
  match a with
  | .hbm x => (wordsOf x len).any s.poison.contains
  | .remote m x => (wordsOf (viewKey m x) len).any s.fabric.viewPoison.contains
  | .host x => (wordsOf x len).any s.hostPoison.contains
  | .sram v x => (wordsOf (sramKey v x) len).any s.sramPoison.contains

/-- Poison of a plain byte map after a write: whole words lose it, flagged bytes set it (R311, R317). -/
def poisonAfter (old : List Nat) (k len : Nat) (flags : List Bool) : List Nat :=
  let whole := (wordsOf k len).filter fun w => decide (k ≤ w * 32 ∧ w * 32 + 32 ≤ k + len)
  saddAll (old.filter fun w => !whole.contains w)
    (((List.range len).filter fun i => flags.getD i false).map fun i => (k + i) / 32)

/-- Write bytes at a local ladle address. A space 1 address is no local memory: its writes are requests (R434). -/
def poke (a : LAddr) (data : List Byte) (flags : List Bool) (s : State) : State :=
  match a with
  | .hbm x => writeHbm x data flags s
  | .host x => { s with host := bwrite s.host x data, hostPoison := poisonAfter s.hostPoison x data.length flags }
  | .sram v x =>
    let len := data.length
    let whole := (wordsOf x len).filter fun w => decide (x ≤ w * 32 ∧ w * 32 + 32 ≤ x + len)
    let s := mergeSram v ((wordsOf x len).filter fun w => !whole.contains w) s
    injectSram v x len
      { s with sram := sramWrite s v x data, sramPoison := poisonAfter s.sramPoison (sramKey v x) len flags,
               memctl := { s.memctl with sramLatent := s.memctl.sramLatent.filter fun y =>
                 !(y.1 == 1 && y.2.1 == v && whole.contains (y.2.2.1 / 32)) } }
  | .remote _ _ => s

/-- Write bytes without poison. -/
def pokeClean (a : LAddr) (data : List Byte) (s : State) : State := poke a data [] s

/-- A read of a span by a consumer: its bytes, whether it is poisoned, and the state after corrections and records. -/
def readSpan (who : Who) (a : LAddr) (len : Nat) (s : State) : List Byte × Bool × State :=
  let s := touch who a len s
  (peek s a len, anyPoison s a len, s)

/-- Write free bytes over a span whose contents the spec calls undefined. -/
def scramble (a : LAddr) (len : Nat) (s : State) : State :=
  let (bs, s) := freeBytes len s
  pokeClean a bs s

/-! ### Queues, rings, counters, units -/

def getQ (s : State) (q : Nat) : Queue := mgetD s.queues q Queue.off

def setQ (q : Nat) (v : Queue) (s : State) : State :=
  { s with queues := if v = Queue.off then mdel s.queues q else mput s.queues q v }

def modQ (q : Nat) (f : Queue → Queue) (s : State) : State := setQ q (f (getQ s q)) s

def getC (s : State) (c : Nat) : Ctr := mgetD s.ctrs c Ctr.free

def setC (c : Nat) (v : Ctr) (s : State) : State :=
  { s with ctrs := if v = Ctr.free then mdel s.ctrs c else mput s.ctrs c v }

def modC (c : Nat) (f : Ctr → Ctr) (s : State) : State := setC c (f (getC s c)) s

/-- The installed plan set of an identifier. -/
def planSetOf (s : State) (i : Nat) : Option PlanSet := s.packages.findSome? fun p => alookup p.planSets i

/-- The operation of an index in a queue. -/
def getOp (s : State) (q : Nat) (i : U32) : Option Op := (getQ s q).ops.find? fun o => o.index == i

/-- The operation of an index changed. -/
def modOp (q : Nat) (i : U32) (f : Op → Op) (s : State) : State :=
  modQ q (fun v => { v with ops := v.ops.map fun o => if o.index == i then f o else o }) s

/-- Finish an operation with a status: its record waits its turn. -/
def finishOp (q : Nat) (i : U32) (st : Status) (detail : Nat) (s : State) : State :=
  modOp q i (fun o => { o with phase := .done, status := st, detail := detail }) s

/-- The Press engine that a job holds. -/
def pressOf (s : State) (q : Nat) (idx : U32) : Option Nat :=
  (List.range 4).find? fun n => match (s.press.getD n { job := none, corrupt := 0, sramUncorr := 0 }).job with
    | some j => j.1 == q && j.2.1 == idx
    | none => false

def modPress (n : Nat) (f : PressEngine → PressEngine) (s : State) : State := { s with press := s.press.modify n f }

/-- The job of a queue's operation leaves its engine. -/
def freePress (q : Nat) (idx : U32) (s : State) : State :=
  match pressOf s q idx with
  | some n => modPress n (fun e => { e with job := none }) s
  | none => s

/-- Whether an unfinished operation of any queue holds a unit. -/
def held (s : State) (u : UnitId) : Bool := s.queues.any fun e => e.2.ops.any fun o => o.phase != .done && o.unit == some u

def getSvc (s : State) (u : UnitId) : Svc := (alookup s.svc u).getD Svc.inService

def setSvc (u : UnitId) (v : Svc) (s : State) : State := { s with svc := aset s.svc u v }

/-- Whether a unit takes new work: in service (R533, R535). -/
def unitUp (s : State) (u : UnitId) : Bool := (getSvc s u).state == 0

/-- A running queue stops: LAST_STOP records the status and QUEUE_STOPPED is raised (R338). -/
def stopQueue (q : Nat) (st : Status) (s : State) : State :=
  if (getQ s q).mode = .running then
    raise 0x0301 1 (leBytes 2 q ++ leBytes 2 (statusCode st)) (modQ q (fun v => { v with mode := .stopped, lastStop := st }) s)
  else s

/-- Mark a unit suspect and raise UNIT_SUSPECT (R537). -/
def suspect (u : UnitId) (cause : Nat) (s : State) : State :=
  raise 0x0703 1 (leBytes 1 u.cls ++ leBytes 1 cause ++ leBytes 2 u.num) (setSvc u { getSvc s u with suspect := true } s)

/-- An uncorrectable error in a unit's own storage: counted, and the unit is suspect (R537, R549). -/
def unitUncorr (u : UnitId) (s : State) : State :=
  suspect u 1 (setSvc u { getSvc s u with uncorr := satAdd 255 (getSvc s u).uncorr 1 } s)

end Sys2Proof.Machine
end

