-- ==== Sys2Proof/Machine/Counters.lean ====
section
/-!
DEFINITION. Synchronisation counters: arrival, settling, poisoning, ownership (R356-R383).
-/

namespace Sys2Proof.Machine

/-- The largest counter value. -/
def ctrMax : Nat := 2 ^ 32 - 1

/-- What the release of a waiter does: with OK it goes on, with any other status its descriptor completes and its queue stops,
its unit ends its work and its plan job fails at the next boundary, or its module gets the status as the result (R362, R364,
R369, R379). -/
def releaseWaiter (st : Status) (s : State) (w : Waiter) : State :=
  match w with
  | .header q i =>
    if st = .ok then modOp q i (fun o => { o with phase := .released }) s
    else stopQueue q st (freePress q i (finishOp q i st 0 s))
  | .signal q i =>
    if st = .ok then finishOp q i .ok 0 s else stopQueue q st (finishOp q i st 0 s)
  | .unit u =>
    match s.plan.job with
    | none => s
    | some j =>
      let upd (r : UnitRun) : UnitRun :=
        if r.unit == u then { r with ops := if st = .ok then r.ops.drop 1 else [], waiting := false, phase := 0, reqs := [] } else r
      let j := { j with units := j.units.map upd, failing := if st = .ok then j.failing else j.failing <|> some st }
      { s with plan := { s.plan with job := some j } }
  | .remote m t =>
    let s := { s with fabric := { s.fabric with records := s.fabric.records.map fun r =>
      if r.src == m && r.txid == t && r.kind == 10 then { r with done := true, status := st } else r } }
    emit (.answer 10 m t false st [] []) s

/-- The waiters after settling at a value: released WAIT_GE waiters, served ACQUIRE waiters, those that remain, and the value left
(R362). An ACQUIRE behind one that cannot be served stays. -/
def serveWaits : List Wait → U32 → List Wait × List Wait × U32
  | [], v => ([], [], v)
  | w :: r, v =>
    if w.acquire then
      if w.amount ≤ v then
        let (served, rest, v') := serveWaits r (v - w.amount)
        (w :: served, rest, v')
      else ([], w :: r, v)
    else
      let (served, rest, v') := serveWaits r v
      (served, w :: rest, v')

/-- Settle the waiters of a counter at its present value (R362). -/
def settle (c : Nat) (s : State) : State :=
  let k := getC s c
  let woken := k.waits.filter fun w => !w.acquire && decide (w.amount ≤ k.value)
  let others := k.waits.filter fun w => w.acquire || !decide (w.amount ≤ k.value)
  let (served, rest, v) := serveWaits others k.value
  let s := setC c { k with value := v, waits := rest } s
  (woken ++ served).foldl (fun s w => releaseWaiter .ok s w.who) s

/-- The status with which an operation on a counter that is not claimed fails (R356, R368, R380). -/
def ctrRefusal (s : State) (c : Nat) : Option Status :=
  if c = 0xFFFF then some .invalidArgument
  else match (getC s c).mode with
    | .free => some .counterState
    | .poisoned => some (getC s c).poison
    | .claimed => none

/-- SIGNAL (R358, R359). -/
def signalCounter (c : Nat) (n : U32) (s : State) : State × Status :=
  match ctrRefusal s c with
  | some st => (s, st)
  | none =>
    if n = 0 then (s, .ok)
    else if ctrMax < (getC s c).value.toNat + n.toNat then (s, .counterOverflow)
    else (settle c (modC c (fun k => { k with value := k.value + n }) s), .ok)

/-- SUB (R358, R359): it never wakes a waiter. -/
def subCounter (c : Nat) (n : U32) (s : State) : State × Status :=
  match ctrRefusal s c with
  | some st => (s, st)
  | none =>
    if n = 0 then (s, .ok)
    else if (getC s c).value < n then (s, .counterUnderflow)
    else (modC c (fun k => { k with value := k.value - n }) s, .ok)

/-- The arrival of a WAIT_GE or ACQUIRE: a status when it completes at once, none when it now waits (R360, R363). -/
def arriveWait (c : Nat) (w : Wait) (s : State) : State × Option Status :=
  match ctrRefusal s c with
  | some st => (s, some st)
  | none =>
    let k := getC s c
    if w.amount = 0 then (s, some .ok)
    else if w.acquire then
      if w.amount ≤ k.value && !k.waits.any (·.acquire) then (setC c { k with value := k.value - w.amount } s, some .ok)
      else (setC c { k with waits := k.waits ++ [w] } s, none)
    else if w.amount ≤ k.value then (s, some .ok)
    else (setC c { k with waits := k.waits ++ [w] } s, none)

/-- Withdraw waiters from every counter and settle the counters they leave (R362, R382). -/
def withdraw (p : Waiter → Bool) (s : State) : State :=
  s.ctrs.foldl (fun s e =>
    let k := getC s e.1
    if k.waits.any (fun w => p w.who) then
      settle e.1 (setC e.1 { k with waits := k.waits.filter fun w => !p w.who } s)
    else s) s

/-- Poison one counter with its status: it loses its owner, its waiters are released with the status, and a plan job that owns it fails at
the next boundary (R357, R378, R379). -/
def poisonCounter (st : Status) (s : State) (c : Nat) : State :=
  let k := getC s c
  let s := setC c { k with mode := .poisoned, poison := st, waits := [], inJob := false } s
  let s := if k.inJob then
    { s with plan := { s.plan with job := s.plan.job.map fun (j : Job) => { j with failing := j.failing <|> some st } } } else s
  k.waits.foldl (fun s w => releaseWaiter st s w.who) s

/-- Poison the claimed ones among some counters, with one COUNTER_POISONED for each former owner (R378). -/
def poisonCounters (cause : Nat) (st : Status) (cs : List Nat) (s : State) : State :=
  let hit := cs.filter fun c => (getC s c).mode == .claimed
  let owners := saddAll [] (hit.map fun c => (getC s c).owner)
  let count (o : Nat) := (hit.filter fun c => (getC s c).owner == o).length
  let s' := hit.foldl (poisonCounter st) s
  owners.foldl (fun s' o => raise 0x0302 1 (leBytes 1 cause ++ [0] ++ leBytes 2 o ++ leBytes 4 (count o)) s') s'

/-- The claimed counters of a queue, in ascending order. -/
def countersOf (s : State) (q : Nat) : List Nat :=
  (s.ctrs.filter fun e => e.2.mode == .claimed && e.2.owner == q).map (·.1)

/-- The local counters that an argument table binds (R376). -/
def localCounters (s : State) (a : ArgTable) : List Nat :=
  (a.counters.filter fun p => p.1 == self s || p.1 == 0xFF).map (·.2)

/-- Waiting operations on a counter as CTR_STATE.WAITERS shows them (R370). -/
def waiterCount (k : Ctr) : Nat := min 255 k.waits.length

/-! ### Signals that a refusal does not stop (R337, R367) -/

/-- The SIGNAL of a slot ring: a refusal is recorded in CTR_STATE (R367). -/
def ringSignal (c : Nat) (s : State) : State :=
  if c = 0xFFFF then s
  else
    let (s', st) := signalCounter c 1 s
    match st with
    | .ok => s'
    | .counterOverflow => modC c (fun k => { k with errOverflow := true }) s
    | _ => modC c (fun k => { k with errState := true }) s

/-! ### The host counter window (R370, R371) -/

/-- A window write: SIGNAL or SUB, a refusal sets its ERR bit and changes nothing else. -/
def windowWrite (c : Nat) (sub : Bool) (n : U32) (s : State) : State :=
  let (s', st) := if sub then subCounter c n s else signalCounter c n s
  match st with
  | .ok => s'
  | .counterOverflow => modC c (fun k => { k with errOverflow := true }) s
  | .counterUnderflow => modC c (fun k => { k with errUnderflow := true }) s
  | .invalidArgument => s
  | _ => modC c (fun k => { k with errState := true }) s

/-! ### Ownership (R373-R377) -/

/-- COUNTER_CLAIM on a checked range (R373). -/
def claimCounters (first count owner : Nat) (start : U32) (s : State) : State × Status :=
  let cs := upFrom first count
  if cs.any fun c => (getC s c).mode == .claimed then (s, .counterState)
  else if (getQ s owner).mode = .disabled then (s, .queueState)
  else
    (cs.foldl (fun s c => setC c { getC s c with mode := .claimed, value := start, start := start, owner := owner,
                                                 inJob := false, waits := [] } s) s, .ok)

/-- A counter becomes free; its value is undefined for software from then on (R357). -/
def freeCounter (s : State) (c : Nat) : State :=
  setC c { getC s c with mode := .free, value := BitVec.ofNat 32 (Config.freeNat s.free) } { s with free := s.free + 1 }

/-- COUNTER_RELEASE without force (R375). -/
def releaseCounters (first count : Nat) (s : State) : State × Status :=
  let cs := upFrom first count
  if cs.any fun c => (getC s c).mode != .claimed || !(getC s c).waits.isEmpty || (getC s c).inJob then (s, .counterState)
  else if cs.any fun c => (getC s c).value != (getC s c).start then (s, .counterUnbalanced)
  else (cs.foldl freeCounter s, .ok)

/-- COUNTER_RELEASE with force (R375, R378). -/
def forceRelease (first count : Nat) (s : State) : State :=
  poisonCounters 3 .ownerReset (upFrom first count) s

/-- COUNTER_SET (R377). -/
def setCounter (c : Nat) (v : U32) (s : State) : State × Status :=
  if (getC s c).mode != .claimed || (getC s c).inJob then (s, .counterState)
  else (settle c (modC c (fun k => { k with value := v }) s), .ok)

/-! ### Operations of other modules (R369, R441) -/

/-- Apply a counter operation of another module in arrival order: 1 SIGNAL, 2 SUB, 3 WAIT_GE, 4 ACQUIRE. None: it waits. -/
def remoteCounterOp (m txid op c : Nat) (n : U32) (s : State) : State × Option Status :=
  match op with
  | 1 => let (s, st) := signalCounter c n s; (s, some st)
  | 2 => let (s, st) := subCounter c n s; (s, some st)
  | 3 => arriveWait c { who := .remote m txid, acquire := false, amount := n } s
  | 4 => arriveWait c { who := .remote m txid, acquire := true, amount := n } s
  | _ => (s, some .invalidArgument)

/-! ### Summary (R383) -/

/-- CTR_SUMMARY. -/
def ctrSummary (s : State) : Nat :=
  min 32767 (s.ctrs.filter fun e => e.2.mode == .poisoned).length * 2 ^ 16 +
  min 65535 (s.ctrs.filter fun e => e.2.mode == .claimed).length

end Sys2Proof.Machine
end

