-- ==== Sys2Proof/Machine/Operands.lean ====
section
/-!
DEFINITION. Descriptors: the common header, its checks, and the operand fields that the classes share (R333, R334, R588).
-/

namespace Sys2Proof.Machine

/-! ### The common header (R333) -/

def hOpcode (d : List Byte) : Nat := u8 d 0
def hFlags (d : List Byte) : Nat := u8 d 1
def hSignal (d : List Byte) : Bool := bit (hFlags d) 0
def hWait (d : List Byte) : Bool := bit (hFlags d) 1
def hFence (d : List Byte) : Bool := bit (hFlags d) 2
def hInterrupt (d : List Byte) : Bool := bit (hFlags d) 3
def hHint (d : List Byte) : Bool := bit (hFlags d) 4
def hWaitCounter (d : List Byte) : Nat := u16 d 2
def hWaitValue (d : List Byte) : Nat := u32 d 4
def hSignalCounter (d : List Byte) : Nat := u16 d 8
def hSignalAdd (d : List Byte) : Nat := u16 d 10
def hTag (d : List Byte) : Nat := u32 d 12

/-- The opcodes of a class (R327, R368). -/
def classOpcodes : Nat → List Nat
  | 0 => [0x01, 0x10, 0x11, 0x12, 0x13, 0x14, 0x15, 0x16]
  | 1 => [1, 2, 3]
  | 2 => [1, 2, 3, 4]
  | 3 => [1, 2]
  | 4 => [1, 2, 3, 4]
  | 5 => [1, 2, 3, 4]
  | _ => []

/-- Checks 1-3 of R588. -/
def headerCheck (v : Queue) (d : List Byte) : Option Status :=
  if bits (hFlags d) 7 5 ≠ 0 then some .reservedNonzero
  else if (hHint d && hOpcode d != 0) || (!hHint d && !(classOpcodes v.cls).contains (hOpcode d)) then some .invalidArgument
  else if (hWait d && hWaitCounter d == 0xFFFF) || (hSignal d && hSignalCounter d == 0xFFFF) ||
      (hInterrupt d && v.msix == 0xFFFF) then some .invalidArgument
  else none

/-! ### Checks in order -/

/-- The status of the first check that fails: each is a condition that must hold and the status if it does not. -/
def firstFail : List (Bool × Status) → Option Status
  | [] => none
  | (c, st) :: r => if c then firstFail r else some st

/-- Who reads for a descriptor (R323). -/
def whoOf (q : Nat) (d : List Byte) : Who := { queue := q, tag := hTag d, scrub := false }

/-- An address field that must name a span an operation may use (R342). -/
def fieldOk (s : State) (inPlan : Bool) (v len : Nat) : Bool := (addrField s inPlan v len).isSome

/-- An address field that may be 0 for none (R342). -/
def fieldOkOr0 (s : State) (inPlan : Bool) (v len : Nat) : Bool := v == 0 || fieldOk s inPlan v len

/-- Whether a block or list that a check reads carries no poison (R319). -/
def blockClean (s : State) (inPlan : Bool) (v len : Nat) : Bool := !((addrField s inPlan v len).any fun a => anyPoison s a len)

/-- The address of a checked field. -/
def addrOf (s : State) (v : Nat) : LAddr := (laddr s v).getD (.hbm 0)

/-! ### Hints (R334, R485) -/

/-- Checks 4 and 5 of R588 for a hint descriptor. -/
def hintCheck (d : List Byte) : Option Status :=
  firstFail [
    (zeros d 31 33, .reservedNonzero),
    (u32 d 24 ≤ 65535, .invalidArgument),
    (1 ≤ u16 d 28 && u16 d 28 ≤ 2000, .invalidArgument),
    (u8 d 30 ≤ 2, .invalidArgument)]

/-! ### Host signal descriptors (R368) -/

/-- Checks 4 and 5 for a host signal descriptor. -/
def signalCheck (s : State) (d : List Byte) : Option Status :=
  firstFail [
    (zeros d 19 1 && zeros d 24 40, .reservedNonzero),
    (u16 d 16 != 0xFFFF, .invalidArgument),
    (u8 d 18 == 0xFF || inConfig s (u8 d 18), .invalidArgument)]

/-! ### Completion (R335-R337) -/

/-- The 16 bytes of a completion record. -/
def completionBytes (entries : Nat) (o : Op) (st : Status) (unsignalled : Bool) : List Byte :=
  leBytes 4 (if o.noTag then 0 else hTag o.desc) ++ leBytes 2 (statusCode st) ++ leBytes 1 (if o.noTag then 0 else hOpcode o.desc) ++
  leBytes 1 (b2n (o.index.toNat / entries % 2 == 0) + 2 * b2n unsignalled) ++ leBytes 4 o.index.toNat ++ leBytes 4 o.detail

/-- Whether the host answers space 2 requests: CXL.cache up and not reduced, here or at the head (R452, R463). -/
def hostUp (s : State) : Bool :=
  if isHead s then s.cxl.protocols == 2 && !s.cxl.reduced else reachable s (headModule s)

/-- A space 2 request has failed: CXL_ERRORS counts it, one for each operation, fetch or record (R463, R466, notes/assumptions/20.md).
In reduced mode it fails under R452. -/
def hostFailed (s : State) : State :=
  if s.cxl.reduced then s else { s with cxl := { s.cxl with timeouts := satAdd 65535 s.cxl.timeouts 1 } }

/-- Whether a ladle address lies in space 2. -/
def inHost (a : Nat) : Bool := bits a 63 62 == 2

/-- The status of an operation with its header signal: COUNTER_OVERFLOW in place of OK, and whether the signal is left out
(R337, R367). -/
def signalOutcome (s : State) (o : Op) : Status × Bool :=
  if o.noTag || !hSignal o.desc then (o.status, false)
  else
    match (signalCounter (hSignalCounter o.desc) (BitVec.ofNat 32 (hSignalAdd o.desc)) s).2 with
    | .ok => (o.status, false)
    | .counterOverflow => (if o.status = .ok then .counterOverflow else o.status, true)
    | _ => (o.status, true)

/-- Publish the open slot of a ring (R347). -/
def publishSlot (r : Nat) (s : State) : State :=
  match mget s.rings r with
  | none => s
  | some v => ringSignal v.readyCtr { s with rings := mput s.rings r { v with tail := v.tail + 1, openFor := none } }

/-- Close the open slots of a queue unpublished (R339). -/
def closeSlots (q : Nat) (s : State) : State :=
  { s with rings := mmap (fun v => if v.openFor = some q then { v with openFor := none } else v) s.rings }

/-- Write the completion record of the oldest operation of a queue, apply its signal, publish its slot and raise its
interrupt (R334-R337, R347). A ring that cannot be written stops the queue and keeps the record back (R338). -/
def writeRecord (q : Nat) (o : Op) (s : State) : State :=
  let v := getQ s q
  let compAddr := addrOf s (v.comp + 16 * (o.index.toNat % v.entries))
  if inHost v.comp && !hostUp s then
    if v.mode = .stopped then s else stopQueue q .hostUnreachable (hostFailed s)
  else
    let bad := anyPoison s compAddr 16
    let o := if bad then { o with status := .poisonedData, noTag := true } else o
    let (st, left) := signalOutcome s o
    let s := pokeClean compAddr (completionBytes v.entries o st left) s
    let s := modQ q (fun v => { v with done := v.done + 1, ops := v.ops.filter fun p => p.index != o.index }) s
    let s := if o.noTag || !hSignal o.desc || left then s
      else (signalCounter (hSignalCounter o.desc) (BitVec.ofNat 32 (hSignalAdd o.desc)) s).1
    let s := match o.publish with
      | some r => if st = .ok || o.status = .ok || o.status = .poisonedData then publishSlot r s else s
      | none => s
    let s := if !o.noTag && hInterrupt o.desc && v.msix != 0xFFFF then raiseMsix v.msix s else s
    if bad then stopQueue q .poisonedData s else s

/-! ### Doorbells (R329-R331) -/

/-- Whether the host may use doorbells and the counter window (R562, R566). -/
def doorbellsOpen (s : State) : Bool := s.start.fwReady && !s.start.failed && !s.sec.recovery

/-- A write of QDB_TAIL (R330). -/
def tailWrite (q : Nat) (t : U32) (s : State) : State :=
  let v := getQ s q
  if !doorbellsOpen s || v.mode = .disabled || 4096 ≤ q then s
  else if t - v.tail ≤ BitVec.ofNat 32 v.entries - (v.tail - v.done) then modQ q (fun v => { v with tail := t }) s
  else stopQueue q .invalidArgument s

/-- Bursts of R332: read the descriptors from HEAD to the snapshot. A ring in host memory that cannot be read stops the queue
with HOST_UNREACHABLE (R338). -/
def fetchQueue (q : Nat) (s : State) : State :=
  let v := getQ s q
  if v.mode ≠ .running || v.snap = v.head then modQ q (fun v => { v with fetched := [] }) s
  else if inHost v.ring && !hostUp s then stopQueue q .hostUnreachable (modQ q (fun v => { v with fetched := [] }) (hostFailed s))
  else
    let at_ (k : Nat) := addrOf s (v.ring + 64 * ((v.head.toNat + k) % v.entries))
    let n := (v.snap - v.head).toNat
    let s := (List.range n).foldl (fun s k => touch { queue := q, tag := 0, scrub := false } (at_ k) 64 s) s
    let got := (List.range n).map fun k => (peek s (at_ k) 64, anyPoison s (at_ k) 64)
    modQ q (fun v => { v with fetched := got }) s

/-- The tail snapshot of every queue, and the fetches it allows (R67, R332). -/
def snapshotTails (s : State) : State :=
  let s := { s with queues := mmap (fun v => { v with snap := v.tail }) s.queues }
  (s.queues.map (·.1)).foldl (fun s q => fetchQueue q s) s

/-! ### Slot rings (R346-R348) -/

/-- Free `n` slots: HEAD rises and free_counter is signalled once for each (R348). -/
def freeSlots (r : Nat) : Nat → State → State
  | 0, s => s
  | n + 1, s =>
    match mget s.rings r with
    | none => s
    | some v => freeSlots r n (ringSignal v.freeCtr { s with rings := mput s.rings r { v with head := v.head + 1 } })

/-- A write of SR_HEAD: ignored if it would pass TAIL (R348). -/
def slotHeadWrite (r : Nat) (h : U32) (s : State) : State :=
  match mget s.rings r with
  | none => s
  | some v => if h - v.head ≤ v.tail - v.head then freeSlots r (h - v.head).toNat s else s

/-- The ladle address of the open slot of a ring plus an offset (R346). -/
def slotAddr (v : SlotRing) (off : Nat) : Nat := v.base + (v.tail.toNat % v.slots) * v.slotBytes + off

/-- Whether a queue may write into the open slot of a ring: there is room, and no other queue holds it (R347). -/
def slotReady (s : State) (r q : Nat) : Bool :=
  match mget s.rings r with
  | none => true
  | some v => decide ((v.tail - v.head).toNat < v.slots) && (v.openFor == none || v.openFor == some q)

/-- Open the slot of a ring for a queue (R347). -/
def openSlot (r q : Nat) (s : State) : State :=
  match mget s.rings r with
  | none => s
  | some v => { s with rings := mput s.rings r { v with openFor := some q } }

end Sys2Proof.Machine
end

