-- ==== Sys2Proof/Machine/Formats.lean ====
section
/-!
DEFINITION. Number formats: element values, rounding, conversion, scales, statistics (R174-R197, R202, R203, R213).
-/

namespace Sys2Proof.Machine

/-! ### Exact values -/

/-- A number of the array: a NaN, an infinity, or (-1)^neg * mag * 2^exp with a signed zero. -/
inductive Val where
  | nan
  | inf (neg : Bool)
  | fin (neg : Bool) (mag : Nat) (exp : Int)
  deriving DecidableEq, Repr, Inhabited

namespace Val

def zero : Val := .fin false 0 0

def one : Val := .fin false 1 0

/-- The value of an integer. -/
def ofInt (i : Int) : Val := .fin (decide (i < 0)) i.natAbs 0

def isNan : Val → Bool
  | .nan => true
  | _ => false

def isInf : Val → Bool
  | .inf _ => true
  | _ => false

def isZero : Val → Bool
  | .fin _ 0 _ => true
  | _ => false

def isNeg : Val → Bool
  | .nan => false
  | .inf n => n
  | .fin n _ _ => n

def negate : Val → Val
  | .nan => .nan
  | .inf n => .inf (!n)
  | .fin n m e => .fin (!n) m e

def abs : Val → Val
  | .nan => .nan
  | .inf _ => .inf false
  | .fin _ m e => .fin false m e

/-- Signed magnitude at exponent `e0`, which is at most `e`. -/
def align (n : Bool) (m : Nat) (e e0 : Int) : Int :=
  let v : Int := (m * 2 ^ (e - e0).toNat : Nat)
  if n then -v else v

/-- The exact sum; an exact zero is +0 unless both terms are -0 (IEEE 754-2019, round to nearest). -/
def add : Val → Val → Val
  | .nan, _ => .nan
  | _, .nan => .nan
  | .inf a, .inf b => if a = b then .inf a else .nan
  | .inf a, _ => .inf a
  | _, .inf b => .inf b
  | .fin n m e, .fin n' m' e' =>
    let e0 := min e e'
    let v := align n m e e0 + align n' m' e' e0
    if v = 0 then .fin (n && n' && m == 0 && m' == 0) 0 e0 else .fin (decide (v < 0)) v.natAbs e0

/-- The exact difference: less +0, a -0 stays -0. -/
def sub (a b : Val) : Val := a.add b.negate

/-- The exact product; an infinity times a zero is NaN. -/
def mul : Val → Val → Val
  | .nan, _ => .nan
  | _, .nan => .nan
  | .inf a, .inf b => .inf (a != b)
  | .inf a, .fin n m _ => if m = 0 then .nan else .inf (a != n)
  | .fin n m _, .inf a => if m = 0 then .nan else .inf (a != n)
  | .fin n m e, .fin n' m' e' => .fin (n != n') (m * m') (e + e')

/-- Whether a value is below another; never for a NaN. -/
def lt : Val → Val → Bool
  | .nan, _ => false
  | _, .nan => false
  | .inf a, .inf b => a && !b
  | .inf a, .fin _ _ _ => a
  | .fin _ _ _, .inf b => !b
  | .fin n m e, .fin n' m' e' => let e0 := min e e'; decide (align n m e e0 < align n' m' e' e0)

/-- Whether two values compare equal; +0 equals -0, a NaN equals nothing. -/
def eq (a b : Val) : Bool := !a.isNan && !b.isNan && !lt a b && !lt b a

end Val

/-! ### Rounding (R180, R182) -/

/-- A magnitude m * 2^e on the grid of precision `p` and least spacing 2^emin: the multiple of the spacing below it, the exponent of
the spacing, and the numerator and denominator of what is left, in units of the spacing. -/
def gridSplit (p : Nat) (emin : Int) (m : Nat) (e : Int) : Nat × Int × Nat × Nat :=
  let u := max ((m.size : Int) - p + e) emin
  if u ≤ e then (m * 2 ^ (e - u).toNat, u, 0, 1)
  else let d := 2 ^ (u - e).toNat; (m / d, u, m % d, d)

/-- To nearest, ties to even. -/
def roundNear (p : Nat) (emin : Int) (n : Bool) (m : Nat) (e : Int) : Val :=
  let (t, u, r, d) := gridSplit p emin m e
  .fin n (if 2 * r > d ∨ (2 * r = d ∧ t % 2 = 1) then t + 1 else t) u

/-- Toward zero. -/
def roundDown (p : Nat) (emin : Int) (n : Bool) (m : Nat) (e : Int) : Val :=
  let (t, u, _, _) := gridSplit p emin m e
  .fin n t u

/-- The 16 bits of R182 for a seed and a logical index. -/
def srBits (seed n : Nat) : Nat :=
  let w := 2 ^ 64
  let z := (seed * 2 ^ 32) ^^^ (n % w)
  let z := ((z ^^^ (z >>> 30)) * 0xBF58476D1CE4E5B9) % w
  let z := ((z ^^^ (z >>> 27)) * 0x94D049BB133111EB) % w
  let z := z ^^^ (z >>> 31)
  z >>> 48

/-- Stochastic rounding of R182. -/
def roundStoch (p : Nat) (emin : Int) (seed idx : Nat) (n : Bool) (m : Nat) (e : Int) : Val :=
  let (t, u, r, d) := gridSplit p emin m e
  .fin n (if 0xFFFF < r * 65536 / d + srBits seed idx then t + 1 else t) u

/-- round_fp32: FP32 with its subnormals, an overflow gives infinity (R183, R213). -/
def round32 : Val → Val
  | .fin n m e =>
    match roundNear 24 (-149) n m e with
    | .fin n' m' e' => if 0 < m' ∧ 128 < (m'.size : Int) + e' then .inf n else .fin n' m' e'
    | v => v
  | v => v

def fadd (a b : Val) : Val := round32 (a.add b)
def fsub (a b : Val) : Val := round32 (a.sub b)
def fmul (a b : Val) : Val := round32 (a.mul b)

/-- The IEEE 754 division, rounded to FP32 (R180, R273). -/
def fdiv : Val → Val → Val
  | .nan, _ => .nan
  | _, .nan => .nan
  | .inf _, .inf _ => .nan
  | .inf a, .fin n _ _ => .inf (a != n)
  | .fin n _ _, .inf b => .fin (n != b) 0 0
  | .fin n m e, .fin n' m' e' =>
    if m' = 0 then (if m = 0 then .nan else .inf (n != n'))
    else
      let k := 40 + m'.size
      let q := m * 2 ^ k / m'
      round32 (.fin (n != n') (2 * q + b2n (m * 2 ^ k % m' != 0)) (e - e' - k - 1))

/-! ### Element formats (R174, R175, R177) -/

/-- A float format: exponent and mantissa bits, bias, whether the all-ones exponent is infinity and NaN, whether it holds a NaN, and its
canonical NaN. -/
structure FloatFmt where
  ebits : Nat
  mbits : Nat
  bias : Nat
  ieee : Bool
  hasNan : Bool
  nanCode : Nat
  maxFinite : Val
  deriving DecidableEq, Repr, Inhabited

def floatFmt : Nat → Option FloatFmt
  | 0x00 => some ⟨8, 23, 127, true, true, 0x7FC00000, .fin false (2 ^ 24 - 1) 104⟩
  | 0x01 => some ⟨8, 7, 127, true, true, 0x7FC0, .fin false 255 120⟩
  | 0x02 => some ⟨5, 10, 15, true, true, 0x7E00, .fin false 65504 0⟩
  | 0x03 => some ⟨4, 3, 7, false, true, 0x7F, .fin false 448 0⟩
  | 0x04 => some ⟨5, 2, 15, true, true, 0x7E, .fin false 57344 0⟩
  | 0x05 => some ⟨3, 2, 3, false, false, 0, .fin false 28 0⟩
  | 0x06 => some ⟨2, 3, 1, false, false, 0, .fin false 15 (-1)⟩
  | 0x07 => some ⟨2, 1, 1, false, false, 0, .fin false 6 0⟩
  | _ => none

/-- Width and least and largest value of an integer format. -/
def intFmt : Nat → Option (Nat × Int × Int)
  | 0x10 => some (4, -8, 7)
  | 0x11 => some (8, -128, 127)
  | 0x12 => some (16, -32768, 32767)
  | 0x13 => some (32, -2147483648, 2147483647)
  | 0x18 => some (8, 0, 255)
  | 0x19 => some (16, 0, 65535)
  | _ => none

/-- The bits of an element. -/
def fmtBits (f : Nat) : Nat :=
  match floatFmt f with
  | some x => 1 + x.ebits + x.mbits
  | none =>
    match intFmt f with
    | some x => x.1
    | none => 8

/-- Whether R174 lists an element code. -/
def fmtListed (f : Nat) : Bool := (floatFmt f).isSome || (intFmt f).isSome || f == 0x20 || f == 0x30

/-- The value of a code of a float format. -/
def decodeFloat (x : FloatFmt) (c : Nat) : Val :=
  let m := bits c (x.mbits - 1) 0
  let e := bits c (x.mbits + x.ebits - 1) x.mbits
  let n := bit c (x.mbits + x.ebits)
  let top := 2 ^ x.ebits - 1
  if x.ieee && e == top then (if m = 0 then .inf n else .nan)
  else if x.hasNan && !x.ieee && e == top && m == 2 ^ x.mbits - 1 then .nan
  else if e = 0 then .fin n m (1 - (x.bias : Int) - x.mbits)
  else .fin n (2 ^ x.mbits + m) ((e : Int) - x.bias - x.mbits)

/-- The value of a code under R174; E8M0 is the scale 2^(e - 127). -/
def decodeElem (f c : Nat) : Val :=
  match floatFmt f with
  | some x => decodeFloat x c
  | none =>
    match intFmt f with
    | some (w, lo, _) => .ofInt (if lo < 0 then signed w c else c)
    | none => if f = 0x20 then (if c = 0xFF then .nan else .fin false 1 ((c : Int) - 127)) else .nan

/-- The code of a finite value that lies on the grid of a float format. -/
def encodeFin (x : FloatFmt) (n : Bool) (m : Nat) (e : Int) : Nat :=
  let sign := if n then 2 ^ (x.ebits + x.mbits) else 0
  let emin : Int := 1 - (x.bias : Int) - x.mbits
  let mag (t : Nat) (u : Int) : Nat :=
    if t < 2 ^ x.mbits then t else (u - emin + 1).toNat * 2 ^ x.mbits + (t - 2 ^ x.mbits)
  let (t, u, _, _) := gridSplit (x.mbits + 1) emin m e
  sign + mag t u

/-- Whether a value is a nonzero subnormal of a float format. -/
def subnormal (x : FloatFmt) : Val → Bool
  | .fin _ m e => m != 0 && Val.lt (.fin false m e) (.fin false 1 (1 - (x.bias : Int)))
  | _ => false

/-! ### The format word (R178, R179) -/

def fwElem (w : Nat) : Nat := bits w 7 0
def fwScale (w : Nat) : Nat := bits w 15 8
def fwSource (w : Nat) : Nat := bits w 17 16
def fwGroup (w : Nat) : Nat := bits w 19 18
def fwZp (w : Nat) : Bool := bit w 20
def fwRound (w : Nat) : Nat := bits w 25 24
def fwFtz (w : Nat) : Bool := bit w 26
def fwWide (w : Nat) : Bool := bit w 27

/-- Whether FTZ acts on an element code (R185). -/
def ftzActs (f : Nat) : Bool := decide (f ≤ 2)

/-- The reserved bits of a format word are zero. -/
def fwReservedOk (w : Nat) : Bool := bits w 31 28 == 0 && bits w 23 21 == 0

/-- Whether an element code serves a tensor of an operation that has no accumulator, no pixel input and no exact tensor: R174 accepts
E8M0, UINT8, UINT16, INT16 and INT32 in other uses only (notes/assumptions/28.md). -/
def tensorFmt (w : Nat) : Bool := (floatFmt (fwElem w)).isSome || fwElem w == 0x10 || fwElem w == 0x11

/-- A format word that rounds to nearest, whatever its ROUND. -/
def nearestWord (w : Nat) : Nat := w - fwRound w * 2 ^ 24

/-- Whether a format word names any scale. -/
def fwScaled (w : Nat) : Bool := fwScale w != 0 || fwGroup w != 0

/-- The checks of R179 on a format word: its role, and whether R192 lets the operand carry a zero point. Coded FP4 is accepted
nowhere here: a ladle expands it in a mode that carries no format word. ROUND 1 on an input is no fault of R179: it acts on outputs only. -/
def fwOk (output zp : Bool) (w : Nat) : Bool :=
  let f := fwElem w
  let plain := [0x00, 0x01, 0x02, 0x12, 0x13, 0x18, 0x19].contains f
  fmtListed f && f != 0x30 && !(plain && fwScaled w) &&
  (if output then fwSource w == 0 || (fwSource w == 1 && (intFmt f).isNone) else fwSource w == 0) &&
  (fwRound w == 0 || (fwRound w == 1 && (!output || (f != 0 && (intFmt f).isNone)))) &&
  (!fwZp w || zp) && fwGroup w != 3 && [0x00, 0x03, 0x20].contains (fwScale w)

/-! ### Conversion (R180-R186) -/

/-- A converted element: its code and what it counts as. -/
structure Conv where
  code : Nat
  sat : Bool
  flushed : Bool
  nan : Bool
  deriving DecidableEq, Repr, Inhabited

/-- The code of an infinity of an IEEE format. -/
def infCode (x : FloatFmt) (n : Bool) : Nat := (if n then 2 ^ (x.ebits + x.mbits) else 0) + (2 ^ x.ebits - 1) * 2 ^ x.mbits

/-- The result of R183 for a magnitude above the largest finite value. -/
def overflowCode (f : Nat) (x : FloatFmt) (wide n : Bool) : Nat :=
  let top := match x.maxFinite with
    | .fin _ m e => encodeFin x n m e
    | _ => 0
  if f = 0 then infCode x n else if (f == 1 || f == 2) && !wide then infCode x n else top

/-- A value converted into a float format. -/
def convertFloat (f : Nat) (x : FloatFmt) (w seed idx : Nat) (v : Val) : Conv :=
  match v with
  | .nan => ⟨if x.hasNan then x.nanCode else 0, false, false, true⟩
  | .inf n => if x.ieee then ⟨infCode x n, false, false, false⟩ else ⟨overflowCode f x (fwWide w) n, true, false, false⟩
  | .fin n m e =>
    let emin : Int := 1 - (x.bias : Int) - x.mbits
    let r := if fwRound w = 1 then roundStoch (x.mbits + 1) emin seed idx n m e else roundNear (x.mbits + 1) emin n m e
    if x.maxFinite.lt r.abs then ⟨overflowCode f x (fwWide w) n, true, false, false⟩
    else if fwFtz w && ftzActs f && subnormal x r then ⟨if n then 2 ^ (x.ebits + x.mbits) else 0, false, true, false⟩
    else
      match r with
      | .fin n' m' e' => ⟨encodeFin x n' m' e', false, false, false⟩
      | _ => ⟨0, false, false, false⟩

/-- The nearest integer, ties to even. -/
def nearInt (n : Bool) (m : Nat) (e : Int) : Int :=
  let r : Nat := if 0 ≤ e then m * 2 ^ e.toNat
    else
      let d := 2 ^ (-e).toNat
      let t := m / d
      if 2 * (m % d) > d ∨ (2 * (m % d) = d ∧ t % 2 = 1) then t + 1 else t
  if n then -r else r

/-- A value converted into an integer range (R181). -/
def convertInt (w : Nat) (lo hi : Int) (v : Val) : Conv :=
  match v with
  | .nan => ⟨0, false, false, true⟩
  | .inf n => ⟨wrapInt w (if n then lo else hi), true, false, false⟩
  | .fin n m e =>
    let i := nearInt n m e
    if i < lo then ⟨wrapInt w lo, true, false, false⟩
    else if hi < i then ⟨wrapInt w hi, true, false, false⟩
    else ⟨wrapInt w i, false, false, false⟩

/-- A conversion into the element format of a format word. -/
def convertTo (w seed idx : Nat) (v : Val) : Conv :=
  match floatFmt (fwElem w) with
  | some x => convertFloat (fwElem w) x w seed idx v
  | none =>
    match intFmt (fwElem w) with
    | some (n, lo, hi) => convertInt n lo hi v
    | none => ⟨0, false, false, false⟩

/-- FP32 bits of a value, and the value of FP32 bits. -/
def toF32 (v : Val) : Nat := (convertTo 0 0 0 v).code

def ofF32 (c : Nat) : Val := decodeElem 0 c

/-! ### Elements in memory (R176) -/

/-- The bytes of a row of `n` packed elements. -/
def packedBytes (f n : Nat) : Nat := ceilDiv (n * fmtBits f) 8

/-- Whether an innermost length suits the packing of R176. -/
def packOk (f n : Nat) : Bool :=
  if f = 0x05 ∨ f = 0x06 then n % 4 == 0 else if f = 0x07 ∨ f = 0x10 then n % 2 == 0 else true

/-- The span of bytes of the element at a bit offset. -/
def elemSpan (f : Nat) (base : LAddr) (bitOff : Nat) : LAddr × Nat :=
  (laPlus base (bitOff / 8), ceilDiv (bitOff % 8 + fmtBits f) 8)

/-- The code of the element at a bit offset. -/
def codeAt (s : State) (f : Nat) (base : LAddr) (bitOff : Nat) : Nat :=
  let p := elemSpan f base bitOff
  leNat (peek s p.1 p.2) / 2 ^ (bitOff % 8) % 2 ^ fmtBits f

/-- Whether the element at a bit offset lies in a poisoned word. -/
def badAt (s : State) (f : Nat) (base : LAddr) (bitOff : Nat) : Bool :=
  let p := elemSpan f base bitOff
  anyPoison s p.1 p.2

/-- The bytes of packed codes. -/
def packCodes (f : Nat) (codes : List Nat) : List Byte :=
  let w := fmtBits f
  let v := codes.foldr (fun c acc => c + 2 ^ w * acc) 0
  leBytes (packedBytes f codes.length) v

/-- An input element read under FTZ: its value and whether FTZ replaced it (R185, R186). -/
def readFlush (w : Nat) (c : Nat) : Val × Bool :=
  match floatFmt (fwElem w) with
  | some x =>
    let v := decodeFloat x c
    if fwFtz w && ftzActs (fwElem w) && subnormal x v then (.fin v.isNeg 0 0, true) else (v, false)
  | none => (decodeElem (fwElem w) c, false)

/-! ### Scales (R187-R191) -/

/-- A block scale code: E8M0 or E4M3; NaN where R190 makes the block read as NaN. -/
def blockScale (fmt c : Nat) : Val :=
  if fmt = 0 then .one
  else
    let v := decodeElem fmt c
    if fmt = 0x03 && bit c 7 then .nan else v

/-- A group scale: NaN where it is negative, infinite or NaN. -/
def groupScale (c : Nat) : Val :=
  match ofF32 c with
  | .fin n m e => if n && m != 0 then .nan else .fin n m e
  | _ => .nan

/-- The element value of R187 for a code value less its zero point. DEDUCED: an infinity under a zero scale is the NaN of the product
of R187 and R213, not a zero of R190 (notes/assumptions/28.md). -/
def scaledValue (q b g : Val) : Val := round32 ((round32 (q.mul b)).mul g)

/-- emax of R191. -/
def fmtEmax : Nat → Int
  | 0x07 => 2
  | 0x06 => 2
  | 0x05 => 4
  | 0x03 => 8
  | _ => 15

/-- The largest of some magnitudes, NaN excluded, 0 of none. -/
def maxAbs (vs : List Val) : Val := vs.foldl (fun a v => if v.isNan then a else if a.lt v.abs then v.abs else a) .zero

/-- The derived block scale code of R191 for the values v / g of a block. -/
def deriveScale (w : Nat) (a : Val) : Nat :=
  if fwScale w = 0x20 then
    match a with
    | .fin _ 0 _ => 127
    | .fin _ m e =>
      let l : Int := (m.size : Int) - 1 + e - fmtEmax (fwElem w) + 127
      if l < 0 then 0 else if 254 < l then 254 else l.toNat
    | _ => 254
  else
    if a.isZero then 0x38
    else
      let f := ((floatFmt (fwElem w)).map (·.maxFinite)).getD .one
      ((upFrom 1 0x7E).find? fun c => !((decodeElem 0x03 c).mul f).lt a).getD 0x7E

/-- The value that a scaled output converts (R191). -/
def unscale (v b g : Val) : Val := fdiv v (fmul b g)

/-! ### Statistics (R193-R197) -/

/-- What an operation counts. -/
structure Stats where
  sat : Nat
  flushed : Nat
  nan : Nat
  amax : Val
  elements : Nat
  deriving DecidableEq, Repr, Inhabited

def Stats.zero : Stats := { sat := 0, flushed := 0, nan := 0, amax := .zero, elements := 0 }

/-- The counts of some converted output elements. -/
def countConv (cs : List Conv) : Stats :=
  { sat := cs.countP (·.sat), flushed := cs.countP (·.flushed), nan := cs.countP (·.nan), amax := .zero,
    elements := cs.length }

/-- The 32-byte record of R194. -/
def statsBytes (amax : Bool) (t : Stats) : List Byte :=
  let cap := 2 ^ 32 - 1
  let excess := decide (cap < t.sat ∨ cap < t.flushed ∨ cap < t.nan)
  leBytes 4 (min cap t.sat) ++ leBytes 4 (min cap t.flushed) ++ leBytes 4 (min cap t.nan) ++
  leBytes 4 (b2n (t.sat != 0) + 2 * b2n (t.flushed != 0) + 4 * b2n (t.nan != 0) + 8 * b2n excess) ++
  leBytes 4 (if amax then toF32 t.amax else 0) ++ leBytes 4 0 ++ leBytes 8 t.elements

/-- The sticky bits that counts set (R197). -/
def stickyOf (t : Stats) : U32 := BitVec.ofNat 32 (b2n (t.sat != 0) + 2 * b2n (t.flushed != 0) + 4 * b2n (t.nan != 0))

end Sys2Proof.Machine
end

