-- ==== Sys2Proof/Machine/Special.lean ====
section
/-!
DEFINITION. The special function unit (R264-R267, R270, R280): each function's exact value bracketed by fixed-point arithmetic, the
two FP32 neighbours of it, and the free choice between them (notes/assumptions/5.md).
-/

namespace Sys2Proof.Machine

/-! ### Fixed point with 320 fraction bits -/

def fxBits : Nat := 320

def fxOne : Int := 2 ^ fxBits

def fxMul (a b : Int) : Int := a * b / fxOne

/-- A finite value as a fixed-point number; every FP32 value is one exactly. -/
def toFx : Val → Int
  | .fin n m e => let v : Int := if 0 ≤ e + fxBits then (m * 2 ^ (e + fxBits).toNat : Nat) else (m / 2 ^ (-(e + fxBits)).toNat : Nat)
                  if n then -v else v
  | _ => 0

/-- The sum of the terms of a series: each step maps a term to the next, and a term and its number to what it adds. -/
def fxSeries (next : Int → Nat → Int) (part : Int → Nat → Int) : Nat → Nat → Int → Int → Int
  | 0, _, _, acc => acc
  | k + 1, i, t, acc => fxSeries next part k (i + 1) (next t i) (acc + part t i)

/-- ln 2. -/
def fxLn2 : Int := fxSeries (fun t _ => t / 2) (fun t i => t / (i : Int)) 330 1 (fxOne / 2) 0

/-- e^r for r in [0, 1). -/
def fxExp (r : Int) : Int := fxSeries (fun t i => fxMul t r / (i + 1 : Nat)) (fun t _ => t) 100 0 fxOne 0

/-- ln f for f in [1, 2]. -/
def fxLn (f : Int) : Int :=
  let z := (f - fxOne) * fxOne / (f + fxOne)
  let z2 := fxMul z z
  2 * fxSeries (fun t _ => fxMul t z2) (fun t i => t / (2 * i + 1 : Nat)) 110 0 z 0

/-- arctan(1 / n). -/
def fxAtanInv (n : Nat) : Int :=
  fxSeries (fun t _ => -(t / (n * n : Nat))) (fun t i => t / (2 * i + 1 : Nat)) 140 0 (fxOne / n) 0

/-- sqrt(2 / pi). -/
def fxSqrt2Pi : Int :=
  let pi := 4 * (4 * fxAtanInv 5 - fxAtanInv 239)
  (Nat.sqrt (2 * fxOne * fxOne * fxOne / pi).toNat : Nat)

/-- A number limited to a magnitude. -/
def fxClamp (x lim : Int) : Int := clampInt x (-(lim * fxOne)) (lim * fxOne)
where
  clampInt (x lo hi : Int) : Int := if x < lo then lo else if hi < x then hi else x

/-! ### Approximations: a magnitude m * 2^e, just above or below which the exact value lies -/

/-- e^x: magnitude and exponent. -/
def apExp (x : Int) : Nat × Int :=
  let x := fxClamp x 400
  let n := x / fxLn2
  ((2 * fxExp (x - n * fxLn2) + 1).toNat, n - fxBits - 1)

/-- e^x in fixed point for x not above 0, at least one unit. -/
def fxExpNeg (x : Int) : Int :=
  let x := fxClamp x 400
  let n := x / fxLn2
  max 1 (fxExp (x - n * fxLn2) / 2 ^ (-n).toNat)

/-- 1 / (1 + e^-x): magnitude and exponent. -/
def apSigmoid (x : Int) : Nat × Int :=
  if 0 ≤ x then ((2 * (fxOne * fxOne / (fxOne + fxExpNeg (-x))) + 1).toNat, -(fxBits : Int) - 1)
  else if x < -(100 * fxOne) then apExp x
  else
    let y := fxExpNeg x
    ((2 * (y * fxOne / (fxOne + y)) + 1).toNat, -(fxBits : Int) - 1)

/-- ln x of a positive value m * 2^e, in fixed point. -/
def fxLogOf (m : Nat) (e : Int) : Int :=
  let k := m.size - 1
  fxLn ((m * 2 ^ (fxBits - k) : Nat)) + (e + k) * fxLn2

/-- A quotient a / b with a sticky bit: magnitude and exponent. -/
def apDiv (a b : Nat) : Nat × Int :=
  let k := 80 + b.size
  (2 * (a * 2 ^ k / b) + b2n (a * 2 ^ k % b != 0), -(k : Int) - 1)

/-- sqrt(m * 2^e) with a sticky bit. -/
def apSqrt (m : Nat) (e : Int) : Nat × Int :=
  let s := 200 + (e % 2).toNat
  let r := Nat.sqrt (m * 2 ^ s)
  (2 * r + b2n (r * r != m * 2 ^ s), (e - s) / 2 - 1)

/-- 1 / sqrt(m * 2^e) with a sticky bit. -/
def apRsqrt (m : Nat) (e : Int) : Nat × Int :=
  let m := if e % 2 = 0 then m else 2 * m
  let e := if e % 2 = 0 then e else e - 1
  let k := 100 + m.size
  let r := Nat.sqrt (2 ^ (2 * k) / m)
  (2 * r + b2n (r * r * m != 2 ^ (2 * k)), -(k : Int) - e / 2 - 1)

/-- tanh of a positive value. -/
def apTanh (m : Nat) (e : Int) : Nat × Int :=
  if (m.size : Int) + e < -40 then (m * 2 ^ 100 - 1, e - 100)
  else
    let y := fxExpNeg (-2 * toFx (.fin false m e))
    ((2 * ((fxOne - y) * fxOne / (fxOne + y)) + 1).toNat, -(fxBits : Int) - 1)

/-! ### The functions (R264) -/

/-- The special inputs of R264, and NaN: the exact result where the table states one. -/
def specialInput (f : Nat) (v : Val) : Option Val :=
  match v with
  | .nan => some .nan
  | .inf n =>
    match f with
    | 0x01 => some (if n then .zero else .inf false)
    | 0x02 => some (if n then .zero else .inf false)
    | 0x05 => some (.fin n 0 0)
    | 0x07 => some (if n then .nan else .zero)
    | 0x08 => some (.fin n 1 0)
    | 0x09 => some (if n then .zero else .one)
    | 0x0A => some (if n then .zero else .inf false)
    | 0x0B => some (if n then .zero else .inf false)
    | 0x0C => some (if n then .zero else .inf false)
    | _ => some (if n then .nan else .inf false)
  | .fin n m e =>
    if m = 0 then
      match f with
      | 0x01 => some .one
      | 0x02 => some .one
      | 0x03 => some (.inf true)
      | 0x04 => some (.inf true)
      | 0x05 => some (.inf n)
      | 0x06 => some v
      | 0x07 => some (.inf false)
      | 0x08 => some v
      | 0x09 => some (.fin false 1 (-1))
      | 0x0A => some .zero
      | 0x0B => some .zero
      | _ => none
    else if n && [0x03, 0x04, 0x06, 0x07].contains f then some .nan
    else
      match f with
      | 0x02 =>
        let i := toFx v
        if i % fxOne = 0 ∧ -149 * fxOne ≤ i ∧ i < 1024 * fxOne then some (.fin false 1 (i / fxOne)) else none
      | 0x03 => if m = 2 ^ (m.size - 1) ∧ e + (m.size - 1 : Nat) = 0 then some .zero else none
      | 0x04 => if m = 2 ^ (m.size - 1) then some (.ofInt (e + (m.size - 1 : Nat))) else none
      | _ => none

/-- The sign, magnitude and exponent that bracket the exact value for an input that is not special. -/
def approx (f : Nat) (v : Val) : Bool × Nat × Int :=
  match v with
  | .fin n m e =>
    let x := toFx v
    match f with
    | 0x01 => (false, apExp x)
    | 0x02 => (false, apExp (fxMul (fxClamp x 400) fxLn2))
    | 0x03 => let l := fxLogOf m e; (decide (l < 0), 2 * l.natAbs + 1, -(fxBits : Int) - 1)
    | 0x04 => let l := fxLogOf m e * fxOne / fxLn2; (decide (l < 0), 2 * l.natAbs + 1, -(fxBits : Int) - 1)
    | 0x05 => let q := apDiv 1 m; (n, q.1, q.2 - e)
    | 0x06 => (false, apSqrt m e)
    | 0x07 => (false, apRsqrt m e)
    | 0x08 => (n, apTanh m e)
    | 0x09 => (false, apSigmoid x)
    | 0x0A =>
      let c := fxClamp x 64
      let u := fxMul fxSqrt2Pi (c + fxMul (fxMul c (fxMul c c)) (44715 * fxOne / 1000000))
      let g := apSigmoid (2 * u)
      (n, m * g.1, e + g.2)
    | 0x0B => let g := apSigmoid x; (n, m * g.1, e + g.2)
    | _ =>
      if x < -(100 * fxOne) then (false, apExp x)
      else
        let y := fxLn (fxOne + fxExpNeg (-(if 0 ≤ x then x else -x)))
        (false, (2 * (if 0 ≤ x then x + y else y) + 1).toNat, -(fxBits : Int) - 1)
  | _ => (false, 0, 0)

/-- Whether an input lies below the minimum of GELU (x of about -0.752) or of SILU (about -1.278). -/
def belowMin (f : Nat) (v : Val) : Bool :=
  match f with
  | 0x0A => !(ofF32 0xBF40A150).lt v
  | 0x0B => !(ofF32 0xBFA3A4BA).lt v
  | _ => false

/-- Whether a function falls as its input rises (R264). -/
def falling (f : Nat) (v : Val) : Bool := f == 0x05 || f == 0x07 || belowMin f v

/-- Whether an input whose exact value lies between two FP32 values gives the one farther from zero: it has reached the input at which the
function passes from one to the other, so the output never steps against the function's direction (R267). -/
def farther (f : Nat) (n : Bool) (t : Nat) (u : Int) (v : Val) : Bool :=
  let at_ := ofF32 (Config.special f (belowMin f v) (toF32 (.fin n t u)))
  if falling f v == n then !v.lt at_ else !at_.lt v

/-- A function of R264 before FP32's overflow (R183): the exact value where FP32 holds it, otherwise one of its two neighbours, which lie
within one unit in the last place. -/
def sfuRaw (f : Nat) (v : Val) : Val :=
  match specialInput f v with
  | some r => r
  | none =>
    let (n, m, e) := approx f v
    let (t, u, r, _) := gridSplit 24 (-149) m e
    .fin n (if r ≠ 0 ∧ farther f n t u v = true then t + 1 else t) u

/-- A function of R264 in FP32. -/
def sfu (f : Nat) (v : Val) : Val := round32 (sfuRaw f v)

/-- A function of the IZ-1 before FP32's overflow (R280): a value within two units in the last place. -/
def sfuV1Raw (f : Nat) (v : Val) : Val :=
  match v with
  | .fin _ _ _ =>
    match specialInput f v with
    | some (.fin n m e) =>
      let (t, u, _, _) := gridSplit 24 (-149) m e
      if m = 0 then .fin n m e else .fin n (t + Config.iz1 f (toF32 v) % 5 - 2) u
    | some r => r
    | none =>
      let (n, m, e) := approx f v
      let (t, u, r, _) := gridSplit 24 (-149) m e
      let k := Config.iz1 f (toF32 v)
      .fin n (if r = 0 then t + k % 5 - 2 else t + k % 4 - 1) u
  | _ => (specialInput f v).getD .nan

/-- A function in either form before FP32's overflow. -/
def sfuRawBy (v1 : Bool) (f : Nat) (v : Val) : Val := if v1 then sfuV1Raw f v else sfuRaw f v

/-- A function in either form, in FP32. -/
def sfuBy (v1 : Bool) (f : Nat) (v : Val) : Val := round32 (sfuRawBy v1 f v)

/-! ### Lane sums (R270, R280) -/

/-- One level of the pairwise tree over the first 2 * w entries. -/
def laneTree : Nat → List Val → List Val
  | 0, p => p
  | k + 1, p => laneTree k ((List.range (2 ^ k)).map fun l => fadd (p.getD (2 * l) .zero) (p.getD (2 * l + 1) .zero))

/-- The lane sum of R270. -/
def laneSum (v : List Val) : Val :=
  let p := (List.range 256).map fun l =>
    ((List.range (ceilDiv (v.length - l) 256)).foldl (fun acc k => fadd acc (v.getD (l + 256 * k) .zero)) .zero)
  (laneTree 8 p).getD 0 .zero

/-- The single ascending sum of R280. -/
def ascSum (v : List Val) : Val := v.foldl fadd .zero

/-- The row sum of either form. -/
def rowSum (v1 : Bool) (v : List Val) : Val := if v1 then ascSum v else laneSum v

end Sys2Proof.Machine
end

