-- ==== Sys2Proof/Machine/Data.lean ====
section
/-!
DEFINITION. How an operation reads its inputs and applies its writes: requests to other modules, cached lines, poison of the written
words, and the end of the operation (R306, R307, R319, R434-R436, R441, R463).
-/

namespace Sys2Proof.Machine

/-! ### Requests to other modules (R423, R434, R441) -/

/-- The status of a request to a module that this one has lost (R443). -/
def lostStatus (s : State) (m : Nat) : Option Status :=
  if s.fabric.lost.contains m then some (if s.fabric.noRoute.contains m then .moduleUnreachable else .moduleLost) else none

/-- Send one request, with its poison map where its source words are poisoned (R423, R436), and note it as unanswered. -/
def issue (kind dst address len amount : Nat) (data : List Byte) (bad : List Nat) (cache : Option Nat) (q : Nat) (idx : U32)
    (s : State) : State × Nat :=
  let t := mgetD s.fabric.txids dst 0
  let r : OutReq := { kind := kind, dst := dst, txid := t, address := address, length := len, amount := amount, data := data,
                      bad := bad, cache := cache, queue := q, index := idx }
  let s := { s with fabric := { s.fabric with
    txids := mput s.fabric.txids dst ((t + 1) % 2 ^ 32), outstanding := s.fabric.outstanding ++ [r] } }
  let s := emit (.request kind dst t false cache.isSome address len amount data) s
  (if bad.isEmpty then s else emit (.answer 11 dst t false .ok [] bad) s, t)

/-- Send one request for an operation, which then awaits its answer. -/
def issueFor (q : Nat) (idx : U32) (kind dst address len amount : Nat) (data : List Byte) (bad : List Nat) (cache : Option Nat)
    (s : State) : State :=
  match lostStatus s dst with
  | some st => modOp q idx (fun o => { o with status := if o.status = .ok then st else o.status }) s
  | none =>
    let (s, t) := issue kind dst address len amount data bad cache q idx s
    modOp q idx (fun o => { o with reqs := o.reqs ++ [(dst, t)] }) s

/-! ### The shared caches (R24, R224, R305, R307) -/

/-- The die of a vat or a ladle, 0 West, 1 East. DESIGN CHOICE: a hub ladle reads through West's cache (notes/assumptions/14.md). -/
def unitDie (u : UnitId) : Nat :=
  if u.cls = 0 then u.num / 80 else if u.cls = 3 ∧ u.num < 64 then u.num / 32 else 0

/-- The cache through which an operation reads, where its transfer marks its reads cacheable: that of its ladle's die (R307). -/
def cacheOf (s : State) (q : Nat) (idx : U32) (cacheable : Bool) : Option Nat :=
  if cacheable then some ((((getOp s q idx).bind (·.unit)).map unitDie).getD 0) else none

/-- The 256-byte line that holds a ladle address. -/
def lineBase : LAddr → LAddr
  | .hbm x => .hbm (x / 256 * 256)
  | .remote m x => .remote m (x / 256 * 256)
  | .host x => .host (x / 256 * 256)
  | .sram v x => .sram v (x / 256 * 256)

/-- The lines of a span. -/
def linesOf (a : LAddr) (len : Nat) : List LAddr :=
  if len = 0 then []
  else (List.range (ceilDiv ((laParts a).2.2 - (laParts (lineBase a)).2.2 + len) 256)).map fun k => laPlus (lineBase a) (256 * k)

/-- Whether a die's cache holds a line. -/
def lineHeld (s : State) (die : Nat) (a : LAddr) : Bool := s.lines.any fun l => l.die == die && l.addr == a

/-- The set of a line (R305). -/
def lineSet (a : LAddr) : Nat := (laParts a).2.2 / 256 % 40960

/-- A line enters a die's cache; a full set of 16 ways gives up a line of its own, which one the spec leaves open. -/
def putLine (die : Nat) (s : State) (a : LAddr) : State :=
  if lineHeld s die a then s
  else
    let mates := s.lines.filter fun l => l.die == die && lineSet l.addr == lineSet a
    let line : Line := { die := die, addr := a, data := peek s a 256, poison := peekPoison s a 256 }
    if mates.length < 16 then { s with lines := s.lines ++ [line] }
    else
      let out := mates.getD (Config.freeNat s.free % 16) default
      { s with lines := (s.lines.filter fun l => l != out) ++ [line], free := s.free + 1 }

/-- A cacheable read of another module's HBM or of host memory brings its lines into the cache of a die; they stay until the boundary at the
longest (R307, notes/assumptions/14.md). -/
def fillLines (die : Nat) (a : LAddr) (len : Nat) (s : State) : State :=
  match a with
  | .remote _ _ => (linesOf a len).foldl (putLine die) s
  | .host _ => (linesOf a len).foldl (putLine die) s
  | _ => s

/-- Memory as a cacheable read of a die finds it: a byte of a held line comes from the line (R307). -/
def cacheView (die : Nat) (s : State) : State :=
  (s.lines.filter fun l => l.die == die).foldl (fun s l =>
    match l.addr with
    | .remote m x => { s with fabric := { s.fabric with
        view := bwrite s.fabric.view (viewKey m x) l.data, viewPoison := poisonAfter s.fabric.viewPoison (viewKey m x) 256 l.poison } }
    | .host x => { s with host := bwrite s.host x l.data, hostPoison := poisonAfter s.hostPoison x 256 l.poison }
    | _ => s) s

/-- Memory as a read finds it, through a cache or not. -/
def viewOf (cache : Option Nat) (s : State) : State :=
  match cache with
  | some die => cacheView die s
  | none => s

/-- The unanswered request of a die that brings a line of another module (R224). -/
def lineMiss (s : State) (die m x : Nat) : Option OutReq :=
  s.fabric.outstanding.find? fun r =>
    r.cache == some die && r.dst == m && (r.kind == 2 || r.kind == 12) && decide (r.address ≤ x ∧ x + 256 ≤ r.address + r.length)

/-- The lines of a read that a die's cache misses, in another module: the module and their addresses. -/
def missedLines (s : State) (die : Nat) (r : LAddr × Nat) : List (Nat × Nat) :=
  (linesOf r.1 r.2).filterMap fun l => match l with
    | .remote m x => if lineHeld s die l then none else some (m, x)
    | _ => none

/-- Runs of lines that follow one another, as spans. -/
def lineRuns : List (Nat × Nat) → List (Nat × Nat × Nat)
  | [] => []
  | (m, x) :: r =>
    match lineRuns r with
    | (m', y, n) :: t => if m = m' ∧ x + 256 = y then (m, x, n + 256) :: t else (m, x, 256) :: (m', y, n) :: t
    | [] => [(m, x, 256)]

/-! ### Inputs -/

/-- The spans that an operation has to ask other modules for: what it reads there, or through a cache the lines that miss and that the die
has not asked for already (R224, R307). -/
def remoteSpans (s : State) (cache : Option Nat) (reads : List (LAddr × Nat)) : List (Nat × Nat × Nat) :=
  match cache with
  | some die => lineRuns ((reads.flatMap (missedLines s die)).filter fun l => (lineMiss s die l.1 l.2).isNone)
  | none => reads.filterMap fun r =>
    match r.1 with
    | .remote m x => if r.2 = 0 then none else some (m, x, r.2)
    | _ => none

/-- The requests of its die whose lines an operation needs too (R224). -/
def sharedReqs (s : State) (cache : Option Nat) (reads : List (LAddr × Nat)) : List (Nat × Nat) :=
  match cache with
  | some die => ((reads.flatMap (missedLines s die)).filterMap fun l => (lineMiss s die l.1 l.2).map fun r => (r.dst, r.txid)).eraseDups
  | none => []

/-- Ask for the spans of other modules that an operation reads: requests of at most 4,096 bytes, or one light read (R434, R435). -/
def askFor (q : Nat) (idx : U32) (cache : Option Nat) (light : Bool) (spans : List (Nat × Nat × Nat)) (s : State) : State :=
  spans.foldl (fun s r =>
    (pieces 4096 r.2.1 r.2.2).foldl (fun s p =>
      issueFor q idx (if light && cache.isNone then 5 else 2) r.1 p.1 p.2 0 [] [] cache s) s) s

/-- The words of a piece of a chunk that carry poison, counted from the first word that the piece touches (R423, R436). -/
def badWords (a : Nat) (flags : List Bool) : List Nat :=
  saddAll [] (((List.range flags.length).filter fun i => flags.getD i false).map fun i => (a + i) / 32 - a / 32)

/-- Apply one write of an operation: at once in this module and in host memory, as requests of at most 4,096 bytes in another. -/
def writeChunk (q : Nat) (idx : U32) (light : Bool) (c : Chunk) (s : State) : State :=
  match c.addr with
  | .remote m x =>
    (pieces 4096 x c.data.length).foldl (fun s p =>
      let flags := (c.poison.drop (p.1 - x)).take p.2
      issueFor q idx (if light then 4 else 1) m p.1 p.2 0 ((c.data.drop (p.1 - x)).take p.2) (badWords p.1 flags) none s) s
  | a => poke a c.data c.poison s

/-- The writes that follow what an operation has written, as long as none fails and none has to be awaited. -/
def writeAfter (q : Nat) (idx : U32) : List Chunk → State → State
  | [], s => s
  | c :: r, s =>
    match getOp s q idx with
    | none => s
    | some o =>
      if o.status = .ok ∧ o.reqs = [] then writeAfter q idx r (writeChunk q idx false c (modOp q idx (fun o => { o with after := r }) s))
      else s

/-- An operation that awaits answers is blocked; with none left to await it ends with the status it has met (R434), after the writes that
follow. -/
def awaitOrEnd (q : Nat) (idx : U32) (s : State) : State :=
  let s := writeAfter q idx (((getOp s q idx).map (·.after)).getD []) s
  match getOp s q idx with
  | none => s
  | some o => if o.reqs.isEmpty then finishOp q idx o.status o.detail s else modOp q idx (fun o => { o with phase := .blocked }) s

/-! ### Results -/

/-- What an operation gives: its status, the detail of its record, its writes, the sticky bits it sets, and the spans whose contents it
leaves undefined. -/
structure DataRes where
  status : Status
  detail : Nat
  writes : List Chunk
  sticky : U32
  undef : List (LAddr × Nat) := []
  /-- Free bytes that the writes hold. -/
  used : Nat := 0
  /-- Writes that follow, one after the other, once those are visible. -/
  after : List Chunk := []
  deriving DecidableEq, Repr, Inhabited

/-- A refusal or failure that writes nothing. -/
def DataRes.fail (st : Status) : DataRes := { status := st, detail := 0, writes := [], sticky := 0 }

/-- Whether an address lies in host memory. -/
def isHost : LAddr → Bool
  | .host _ => true
  | _ => false

/-- Apply what an operation gives and end it, or let it await the completions of its remote writes (R434). -/
def commit (q : Nat) (idx : U32) (light : Bool) (r : DataRes) (s : State) : State :=
  let s := { s with sticky := s.sticky ||| r.sticky, free := s.free + r.used }
  let s := r.undef.foldl (fun s u => scramble u.1 u.2 s) s
  let s := modOp q idx (fun o => { o with status := r.status, detail := r.detail, after := r.after }) s
  awaitOrEnd q idx (r.writes.foldl (fun s c => writeChunk q idx light c s) s)

/-- The spans that an operation would write, as its chunks. -/
def chunkSpans (cs : List Chunk) : List (LAddr × Nat) := cs.map fun c => (c.addr, c.data.length)

/-- An operation whose space 2 request fails ends with HOST_UNREACHABLE, and what it would have written in the module is undefined
(R463). -/
def hostFails (q : Nat) (idx : U32) (outs : List (LAddr × Nat)) (s : State) : State :=
  finishOp q idx .hostUnreachable 0 ((outs.filter fun x => !isHost x.1).foldl (fun s x => scramble x.1 x.2 s) (hostFailed s))

/-- Fetch what an operation reads: ask for what lies in other modules and await it, or read and go on with `k`. Host memory that does
not answer fails the operation, whose outputs are then `outs` (R463). -/
def withData (q : Nat) (idx : U32) (cache : Option Nat) (light : Bool) (reads : List (LAddr × Nat)) (outs : State → List (LAddr × Nat))
    (k : State → State) (s : State) : State :=
  match getOp s q idx with
  | none => s
  | some o =>
    let spans := if o.remote then [] else remoteSpans s cache reads
    let shared := if o.remote then [] else sharedReqs s cache reads
    if !(spans.isEmpty && shared.isEmpty) then
      awaitOrEnd q idx (askFor q idx cache light spans (modOp q idx (fun o => { o with remote := true, reqs := o.reqs ++ shared }) s))
    else if (reads.any fun r => isHost r.1 && r.2 != 0) && !hostUp s then hostFails q idx (outs s) s
    else k (reads.foldl (fun s r => touch (whoOf q o.desc) r.1 r.2 s) s)

/-- Commit a result, unless it writes to host memory that does not answer (R463). -/
def commitUp (q : Nat) (idx : U32) (light : Bool) (r : DataRes) (s : State) : State :=
  if ((r.writes ++ r.after).any fun c => isHost c.addr) && !hostUp s then hostFails q idx (chunkSpans r.writes) s
  else commit q idx light r s

/-- Lines of host memory that a cacheable read brings in. -/
def fillHost (cache : Option Nat) (reads : List (LAddr × Nat)) (s : State) : State :=
  match cache with
  | some die => (reads.filter fun r => isHost r.1).foldl (fun s r => fillLines die r.1 r.2 s) s
  | none => s

/-- Run a data operation: read, compute, write. -/
def runData (q : Nat) (idx : U32) (cache : Option Nat) (light : Bool) (reads : List (LAddr × Nat)) (compute : State → DataRes)
    (s : State) : State :=
  withData q idx cache light reads (fun s => chunkSpans (compute s).writes) (fun s =>
    let s := fillHost cache reads s
    commitUp q idx light (compute (viewOf cache s)) s) s

/-- Whether a row of a class and opcode may apply to an operation: it has started, and all its capacity has been admitted. -/
def opReady (s : State) (q : Nat) (idx : U32) (cls opcode : Nat) : Bool :=
  match getOp s q idx with
  | none => false
  | some o =>
    (getQ s q).cls == cls && hOpcode o.desc == opcode && !hHint o.desc && o.phase == .running && o.work.left == 0 &&
    o.work.fixed.isEmpty

/-- Whether an operation is about to reach a local counter: its header wait has not arrived there yet, or it is a host signal operation
whose wait and fence hold no longer. -/
def reaches (s : State) (q c : Nat) (o : Op) : Bool :=
  let v := getQ s q
  let header := o.phase == .admitted && hWait o.desc
  if header then hWaitCounter o.desc == c
  else
    v.cls == 5 && !hHint o.desc && u16 o.desc 16 == c && (u8 o.desc 18 == 0xFF || u8 o.desc 18 == self s) &&
    (o.phase == .running || ((o.phase == .admitted || o.phase == .released) && (!hFence o.desc || v.done == o.index)))

/-- Whether it is an operation's turn at a counter: operations reach the store in the order of their admission (R361). -/
def storeTurn (s : State) (q : Nat) (idx : U32) (c : Nat) : Bool :=
  (getOp s q idx).any fun o => !(s.queues.any fun e => e.2.ops.any fun p => decide (p.order < o.order) && reaches s e.1 c p)

/-- The descriptor of an operation. -/
def descOf (s : State) (q : Nat) (idx : U32) : List Byte := ((getOp s q idx).map (·.desc)).getD []

/-! ### Spans (R344) -/

/-- Whether two spans share a byte: those of different spaces or modules never do. -/
def overlaps (a : LAddr) (n : Nat) (b : LAddr) (m : Nat) : Bool :=
  (laParts a).1 == (laParts b).1 && (laParts a).2.1 == (laParts b).2.1 && n != 0 && m != 0 &&
  decide ((laParts a).2.2 < (laParts b).2.2 + m ∧ (laParts b).2.2 < (laParts a).2.2 + n)

/-- The poison of packed bytes: a byte is bad when an element that has a bit in it is. -/
def packBad (f : Nat) (bads : List Bool) : List Bool :=
  let w := fmtBits f
  (List.range (packedBytes f bads.length)).map fun k =>
    (upFrom (8 * k / w) ((8 * k + 7) / w - 8 * k / w + 1)).any fun i => bads.getD i false

/-- A write of bytes that are all poisoned or all good. -/
def byteChunk (a : LAddr) (data : List Byte) (bad : Bool) : Chunk :=
  { addr := a, data := data, poison := List.replicate data.length bad }

/-- A write of packed codes. -/
def codeChunk (f : Nat) (a : LAddr) (codes : List Nat) (bads : List Bool) : Chunk :=
  { addr := a, data := packCodes f codes, poison := packBad f bads }

end Sys2Proof.Machine
end

