-- ==== Sys2Proof/Machine/Vat.lean ====
section
/-!
DEFINITION. MATMUL and ATTENTION, and the operand reading, accumulation and epilogue that all array operations share (R207-R223, R228).
-/

namespace Sys2Proof.Machine

/-! ### Operands with scales (R187-R190, R210) -/

/-- An operand: format word, base, block scales, group scales, zero point. A scale array is read when the format word names it and its
address is not 0. -/
structure Operand where
  fw : Nat
  base : LAddr
  scale : Option LAddr
  group : Option LAddr
  zp : Int
  deriving DecidableEq, Repr, Inhabited

/-- An operand of address fields: 0 is no array (R342). -/
def operandOf (s : State) (fw base scale group : Nat) (zp : Int) : Operand :=
  { fw := fw, base := addrOf s base,
    scale := if fwScale fw ≠ 0 ∧ scale ≠ 0 then some (addrOf s scale) else none,
    group := if fwGroup fw ≠ 0 ∧ group ≠ 0 then some (addrOf s group) else none,
    zp := if fwZp fw then zp else 0 }

/-- What reading an element gives: its value less the zero point, whether FTZ replaced it, whether its word is poisoned, and the bit offset
that identifies it. -/
structure Elem where
  v : Val
  flushed : Bool
  bad : Bool
  at_ : Nat
  deriving DecidableEq, Repr, Inhabited

/-- An element of an operand. -/
def readElem (s : State) (o : Operand) (bitOff : Nat) : Elem :=
  let f := fwElem o.fw
  let r := readFlush o.fw (codeAt s f o.base bitOff)
  { v := r.1.sub (.ofInt o.zp), flushed := r.2, bad := badAt s f o.base bitOff, at_ := bitOff }

/-- The block scale of a block number, and whether it is poisoned. -/
def readScale (s : State) (o : Operand) (blk : Nat) : Val × Bool :=
  match o.scale with
  | none => (.one, false)
  | some a => (blockScale (fwScale o.fw) (leNat (peek s (laPlus a blk) 1)), anyPoison s (laPlus a blk) 1)

/-- The group scale that serves a block number, and whether it is poisoned. -/
def readGroup (s : State) (o : Operand) (blk : Nat) : Val × Bool :=
  match o.group with
  | none => (.one, false)
  | some a =>
    let g := if fwGroup o.fw = 1 then 0 else blk / 128
    (groupScale (leNat (peek s (laPlus a (4 * g)) 4)), anyPoison s (laPlus a (4 * g)) 4)

/-- A line of reduction elements of one operand with the scales of its blocks of 32: a row of A or a column of B. An element of none is a
padding tap (R237). -/
structure Strip where
  els : List (Option Elem)
  scales : List (Val × Bool)
  groups : List (Val × Bool)
  deriving DecidableEq, Repr, Inhabited

/-- Whether any word that a strip reads is poisoned. -/
def stripBad (x : Strip) : Bool := x.els.any (fun e => (e.map (·.bad)).getD false) || x.scales.any (·.2) || x.groups.any (·.2)

/-- A strip of `k` elements whose offsets and first block number are given. -/
def readStrip (s : State) (o : Operand) (k blk0 : Nat) (off : Nat → Option Nat) : Strip :=
  let nb := if o.scale.isNone && o.group.isNone then 0 else ceilDiv k 32
  { els := (List.range k).map fun t => (off t).map (readElem s o),
    scales := (List.range nb).map fun j => readScale s o (blk0 + j),
    groups := (List.range nb).map fun j => readGroup s o (blk0 + j) }

/-! ### Accumulation (R213, R214, R237) -/

/-- The exact sum of one block: padding taps add nothing. -/
def blockSum (ps : List (Option Elem × Option Elem)) : Val :=
  ps.foldl (fun acc p =>
    match p with
    | (some a, some b) => acc.add (a.v.mul b.v)
    | _ => acc) .zero

/-- Whether every tap of a block is padding. -/
def allPad (ps : List (Option Elem × Option Elem)) : Bool := ps.all fun p => p.1.isNone || p.2.isNone

/-- Whether an accumulation over two strips depends on a poisoned word: a padding tap adds nothing whatever the weight it meets, and a
block of padding taps reads no scale (R228, R237, R261). -/
def pairBad (a b : Strip) : Bool :=
  let ps := a.els.zip b.els
  (List.range (ceilDiv ps.length 32)).any fun j =>
    let blk := (ps.drop (32 * j)).take 32
    let at_ (l : List (Val × Bool)) : Bool := (l.getD j (.one, false)).2
    (blk.any fun p => match p with
      | (some x, some y) => x.bad || y.bad
      | _ => false) ||
    (!allPad blk && (at_ a.scales || at_ a.groups || at_ b.scales || at_ b.groups))

/-- The float accumulation of R213 over two strips. -/
def accFloat (a b : Strip) (grouped : Bool) : Val :=
  let ps := a.els.zip b.els
  (List.range (ceilDiv ps.length 32)).foldl (fun acc j =>
    let blk := (ps.drop (32 * j)).take 32
    if allPad blk then fadd acc .zero
    else
      let sc := (a.scales.getD j (.one, false)).1.mul (b.scales.getD j (.one, false)).1
      let u := round32 ((blockSum blk).mul sc)
      let u := if grouped then fmul u (fmul (a.groups.getD j (.one, false)).1 (b.groups.getD j (.one, false)).1) else u
      fadd acc u) .zero

/-- The exact integer accumulation of R214. -/
def accInt (a b : Strip) : Val := blockSum (a.els.zip b.els)

/-! ### Epilogue (R216) -/

/-- ReLU: values below +0 and -0 become +0. -/
def relu (v : Val) : Val := if v.isNan then v else if v.isNeg then .zero else v

/-- The activation of a code. -/
def activate (act : Nat) (v : Val) : Val :=
  match act with
  | 1 => relu v
  | 2 => sfu 0x0A v
  | 3 => sfu 0x0B v
  | _ => v

/-- An epilogue: bias format, bias base, activation, integer path. -/
structure Epi where
  biasFmt : Nat
  bias : Option LAddr
  act : Nat
  integer : Bool
  deriving DecidableEq, Repr, Inhabited

/-- Bias value of a column, and whether it is poisoned. -/
def biasAt (s : State) (e : Epi) (j : Nat) : Option (Val × Bool) :=
  e.bias.map fun a => (decodeElem e.biasFmt (codeAt s e.biasFmt a (j * fmtBits e.biasFmt)), badAt s e.biasFmt a (j * fmtBits e.biasFmt))

/-- Steps 1-3 of R216 on an accumulated value; `old` is the existing output. -/
def epilogue (e : Epi) (fmt : Nat) (old : Option Val) (bias : Option Val) (acc : Val) : Val :=
  let v := match old with
    | none => acc
    | some c => if e.integer && fwElem fmt == 0x13 then acc.add c else fadd acc c
  let v := match bias with
    | none => v
    | some b => if e.integer then v.add b else fadd v b
  activate e.act v

/-! ### Output of a tensor (R180-R194) -/

/-- An output value before its conversion: the value, whether it depends on poison, its logical index. -/
structure OutVal where
  v : Val
  bad : Bool
  idx : Nat
  deriving DecidableEq, Repr, Inhabited

/-- The converted row of outputs of a format with block scales along the row: codes, flags, and the derived scale codes. -/
def convertRow (s : State) (o : Operand) (seed blk0 : Nat) (row : List OutVal) : List Conv × List Bool × List Nat :=
  if fwScaled o.fw then
    let nb := ceilDiv row.length 32
    let parts := (List.range nb).map fun j =>
      let vs := (row.drop (32 * j)).take 32
      let g := readGroup s o (blk0 + j)
      let derived := fwSource o.fw == 1 && fwScale o.fw != 0
      let code := deriveScale o.fw (maxAbs (vs.map fun x => fdiv x.v g.1))
      let b := if derived then (blockScale (fwScale o.fw) code, vs.any (·.bad)) else readScale s o (blk0 + j)
      (vs.map fun x => convertTo o.fw seed x.idx (unscale x.v b.1 g.1), vs.map fun x => x.bad || b.2 || g.2, code)
    (parts.flatMap (·.1), parts.flatMap (·.2.1), parts.map (·.2.2))
  else (row.map fun x => convertTo o.fw seed x.idx x.v, row.map (·.bad), [])

/-- The writes of one row: its codes at an address, and its derived scales. -/
def rowWrites (o : Operand) (at_ : LAddr) (blk0 : Nat) (r : List Conv × List Bool × List Nat) : List Chunk :=
  let f := fwElem o.fw
  let elems := codeChunk f at_ (r.1.map (·.code)) r.2.1
  match o.scale with
  | some a =>
    if fwSource o.fw = 1 then
      [elems, { addr := laPlus a blk0, data := r.2.2.map fun c => BitVec.ofNat 8 c,
                poison := (List.range r.2.2.length).map fun j => ((r.2.1.drop (32 * j)).take 32).any id }]
    else [elems]
  | none => [elems]

/-- Input counts of distinct elements (R195): flushed ones, and those of blocks whose scale reads as NaN (R190). -/
def inputCounts (xs : List Strip) : Nat × Nat :=
  let els := xs.flatMap fun x => (x.els.zip (upFrom 0 x.els.length)).filterMap fun p =>
    p.1.map fun e => (e.at_, e.flushed, (x.scales.getD (p.2 / 32) (.one, false)).1.isNan || (x.groups.getD (p.2 / 32) (.one, false)).1.isNan)
  let els := els.eraseDups
  (els.countP (·.2.1), els.countP (·.2.2))

/-- The status of a result: POISONED_DATA where a word it read was bad (R228). -/
def dataStatus (bad : Bool) : Status := if bad then .poisonedData else .ok

/-- A statistics record where one is named (R194). -/
def statsWrite (s : State) (addr : Nat) (amax : Bool) (t : Stats) : List Chunk :=
  if addr = 0 then [] else [{ addr := addrOf s addr, data := statsBytes amax t, poison := [] }]

/-- The record that a status other than OK leaves undefined (R194). -/
def statsUndef (s : State) (addr : Nat) : List (LAddr × Nat) := if addr = 0 then [] else [(addrOf s addr, 32)]

/-- Counts with the flushed elements and the elements of NaN scales of some operands, and with amax over some values (R193, R195). -/
def Stats.withInputs (t : Stats) (ins : List (Nat × Nat)) (vals : List Val) : Stats :=
  { t with flushed := t.flushed + (ins.map (·.1)).sum, nan := t.nan + (ins.map (·.2)).sum, amax := maxAbs vals }

/-- What a float operation gives: its writes, the records that only OK completes, its sticky bits (R194, R197, R228). -/
def floatRes (s : State) (stats : Nat) (amax bad : Bool) (t : Stats) (writes onOk : List Chunk) : DataRes :=
  { status := dataStatus bad, detail := 0, writes := writes ++ (if bad then [] else statsWrite s stats amax t ++ onOk),
    sticky := stickyOf t, undef := if bad then statsUndef s stats else [] }

/-! ### Operand pairs (R212) -/

def isFp8 (f : Nat) : Bool := f == 0x03 || f == 0x04
def isNarrow (f : Nat) : Bool := isFp8 f || f == 0x05 || f == 0x06 || f == 0x07
def isInt48 (f : Nat) : Bool := f == 0x10 || f == 0x11

/-- The class of an operand pair: the cycles c, and whether it takes the integer path. None: not accepted. -/
def pairClass (fa fb : Nat) : Option (Nat × Bool) :=
  let a := fwElem fa
  let b := fwElem fb
  if a = 0x07 ∧ b = 0x07 then some (1, false)
  else if isNarrow a && isNarrow b then some (2, false)
  else if isInt48 a && isInt48 b then
    if fwScale fa ≠ 0 ∧ fwScale fb ≠ 0 then some (2, false)
    else if fwScale fa = 0 ∧ fwScale fb = 0 then some (2, true) else none
  else if (a = 0x01 ∧ b = 0x01) ∨ (a = 0x02 ∧ b = 0x02) then some (4, false)
  else none

/-- Whether an output format suits a path. -/
def outputOk (integer : Bool) (fc : Nat) : Bool :=
  let f := fwElem fc
  if integer then [0x11, 0x12, 0x13].contains f || (floatFmt f).isSome
  else (floatFmt f).isSome || [0x10, 0x11, 0x12, 0x13].contains f

/-- Whether a bias code and activation suit a path (R216). -/
def epiOk (integer : Bool) (bias : Bool) (biasFmt act : Nat) : Bool :=
  (!bias || (if integer then biasFmt == 0x13 else biasFmt != 0x13)) && (!integer || decide (act ≤ 1))

/-- A zero point within the range of its format (R192). -/
def zpOk (fw : Nat) (zp : Int) : Bool := !fwZp fw || fwElem fw != 0x10 || decide (-8 ≤ zp ∧ zp ≤ 7)

/-- Whether R192 lets an activation input carry a zero point. -/
def zpAllowed (fw : Nat) : Bool := isInt48 (fwElem fw)

/-! ### MATMUL (R209-R217) -/

/-- The fields of a MATMUL: descriptor and operand block. -/
structure Mm where
  m : Nat
  n : Nat
  k : Nat
  a : Nat
  b : Nat
  c : Nat
  fa : Nat
  fb : Nat
  fc : Nat
  fbias : Nat
  as_ : Nat
  bs : Nat
  cs : Nat
  ag : Nat
  bg : Nat
  cg : Nat
  bias : Nat
  stats : Nat
  lda : Nat
  ldb : Nat
  ldc : Nat
  seed : Nat
  batch : Nat
  zp : Int
  act : Nat
  trans : Nat
  flags : Nat
  sa : Nat
  sb : Nat
  sc : Nat
  deriving DecidableEq, Repr, Inhabited

/-- The fields from the descriptor and the 128-byte block (R209, R210). -/
def mmOf (d p : List Byte) : Mm :=
  { m := u32 d 16, n := u32 d 20, k := u32 d 24, a := u64 d 32, b := u64 d 40, c := u64 d 48,
    fa := u32 p 0, fb := u32 p 4, fc := u32 p 8, fbias := u32 p 12, as_ := u64 p 16, bs := u64 p 24, cs := u64 p 32,
    ag := u64 p 40, bg := u64 p 48, cg := u64 p 56, bias := u64 p 64, stats := u64 p 72, lda := u32 p 80, ldb := u32 p 84,
    ldc := u32 p 88, seed := u32 p 92, batch := u32 p 96, zp := signed 8 (u8 p 100), act := u8 p 101, trans := u8 p 102,
    flags := u8 p 103, sa := u64 p 104, sb := u64 p 112, sc := u64 p 120 }

/-- The operand block of a descriptor at its address field. -/
def blockOf (s : State) (field n : Nat) : List Byte := peek s (addrOf s field) n

def mmAt (s : State) (d : List Byte) : Mm := mmOf d (blockOf s (u64 d 56) 128)

/-- Stored rows and row bytes of A, B and C. -/
def mmRowsA (x : Mm) : Nat × Nat := if bit x.trans 0 then (x.k, packedBytes (fwElem x.fa) x.m) else (x.m, packedBytes (fwElem x.fa) x.k)
def mmRowsB (x : Mm) : Nat × Nat := if bit x.trans 1 then (x.k, packedBytes (fwElem x.fb) x.n) else (x.n, packedBytes (fwElem x.fb) x.k)
def mmRowsC (x : Mm) : Nat × Nat := (x.m, packedBytes (fwElem x.fc) x.n)

/-- The bytes from the first to the last of a batch of strided rows. -/
def stridedLen (batch stride ld : Nat) (r : Nat × Nat) : Nat :=
  if batch = 0 ∨ r.1 = 0 ∨ r.2 = 0 then 0 else (batch - 1) * stride + (r.1 - 1) * ld + r.2

/-- Blocks of one batch entry of a scaled matrix, and the first block of an entry: entries follow one another, and an operand shared
by the batch has one (notes/assumptions/22.md). -/
def scaleBlocks (rows k : Nat) : Nat := rows * (k / 32)

def entryBlock (stride b rows k : Nat) : Nat := if stride = 0 then 0 else b * scaleBlocks rows k

/-- Bytes of a scale array and of a group array over so many blocks. -/
def groupBytes (fw blocks : Nat) : Nat := if blocks = 0 then 0 else if fwGroup fw = 1 then 4 else 4 * ceilDiv blocks 128

/-- The address fields of a MATMUL with the bytes that each spans: A, B, C, then the arrays. -/
def mmSpans (x : Mm) : List (Nat × Nat) :=
  let ea := if x.sa = 0 then 1 else x.batch
  let eb := if x.sb = 0 then 1 else x.batch
  let na := ea * scaleBlocks x.m x.k
  let nb := eb * scaleBlocks x.n x.k
  let nc := x.batch * scaleBlocks x.m x.n
  [(x.a, stridedLen x.batch x.sa x.lda (mmRowsA x)), (x.b, stridedLen x.batch x.sb x.ldb (mmRowsB x)),
   (x.c, stridedLen x.batch x.sc x.ldc (mmRowsC x)), (x.as_, na), (x.bs, nb), (x.cs, nc),
   (x.ag, groupBytes x.fa na), (x.bg, groupBytes x.fb nb), (x.cg, groupBytes x.fc nc),
   (x.bias, packedBytes (x.fbias % 256) x.n), (x.stats, 32)]

/-- A span that must be valid where its field is not 0; `must` fields are checked always. -/
def spansOk (s : State) (inPlan : Bool) (must opt : List (Nat × Nat)) : Bool :=
  must.all (fun p => fieldOk s inPlan p.1 p.2) && opt.all fun p => fieldOkOr0 s inPlan p.1 p.2

/-- Whether an output span is clear of some other spans. -/
def clearOf (s : State) (out : Nat × Nat) (others : List (Nat × Nat)) : Bool :=
  others.all fun p => p.1 == 0 || !overlaps (addrOf s out.1) out.2 (addrOf s p.1) p.2

/-- Checks 4 and 5 of R588 for MATMUL (R179, R209-R212, R216). -/
def mmCheck (s : State) (inPlan : Bool) (d : List Byte) : Option Status :=
  let x := mmAt s d
  let blkOk := fieldOk s inPlan (u64 d 56) 128
  let sp := mmSpans x
  let cls := pairClass x.fa x.fb
  let scaledK := fwScaled x.fa || fwScaled x.fb
  firstFail [
    (zeros d 28 4, .reservedNonzero), (blkOk, .invalidArgument), (blockClean s inPlan (u64 d 56) 128, .poisonedData),
    (fwReservedOk x.fa && fwReservedOk x.fb && fwReservedOk x.fc && x.fbias / 256 == 0 && x.trans / 4 == 0 && x.flags / 4 == 0,
      .reservedNonzero),
    (decide (x.m < 2 ^ 31 ∧ x.n < 2 ^ 31 ∧ x.k ≤ 16777216 ∧ x.batch ≤ 65535 ∧ x.act ≤ 3), .invalidArgument),
    (fwOk false (zpAllowed x.fa) x.fa && fwOk false false x.fb && fwOk true false x.fc, .invalidArgument),
    ([0x00, 0x01, 0x13].contains x.fbias && zpOk x.fa x.zp, .invalidArgument),
    (cls.isSome && outputOk ((cls.getD (0, false)).2) x.fc && epiOk ((cls.getD (0, false)).2) (x.bias != 0) x.fbias x.act,
      .invalidArgument),
    ((!scaledK || x.k % 32 == 0) && (!fwScaled x.fc || x.n % 32 == 0), .invalidArgument),
    (packOk (fwElem x.fa) (if bit x.trans 0 then x.m else x.k) && packOk (fwElem x.fb) (if bit x.trans 1 then x.n else x.k) &&
      packOk (fwElem x.fc) x.n, .invalidArgument),
    (([u64 d 56, x.lda, x.ldb, x.ldc] ++ sp.map (·.1)).all (fun v => v % 16 == 0), .invalidArgument),
    (decide ((mmRowsA x).2 ≤ x.lda ∧ (mmRowsB x).2 ≤ x.ldb ∧ (mmRowsC x).2 ≤ x.ldc), .invalidArgument),
    (spansOk s inPlan (sp.take 3) (sp.drop 3), .invalidArgument),
    (clearOf s (sp.getD 2 (0, 0)) (sp.take 2 ++ (sp.drop 3).take 7), .invalidArgument)]

/-- Whether a MATMUL has no output (R217). -/
def mmEmpty (x : Mm) : Bool := x.m == 0 || x.n == 0 || x.batch == 0

/-- The strips of A and B of a batch entry. -/
def mmStripA (s : State) (x : Mm) (b i : Nat) : Strip :=
  let o := operandOf s x.fa x.a x.as_ x.ag x.zp
  let w := fmtBits (fwElem x.fa)
  readStrip s o x.k (entryBlock x.sa b x.m x.k + i * (x.k / 32)) fun t =>
    some (8 * (b * x.sa) + (if bit x.trans 0 then 8 * (t * x.lda) + i * w else 8 * (i * x.lda) + t * w))

def mmStripB (s : State) (x : Mm) (b j : Nat) : Strip :=
  let o := operandOf s x.fb x.b x.bs x.bg 0
  let w := fmtBits (fwElem x.fb)
  readStrip s o x.k (entryBlock x.sb b x.n x.k + j * (x.k / 32)) fun t =>
    some (8 * (b * x.sb) + (if bit x.trans 1 then 8 * (t * x.ldb) + j * w else 8 * (j * x.ldb) + t * w))

/-- The existing output element under R187: its strip of one element. -/
def oldStrip (s : State) (o : Operand) (bitOff blk : Nat) : Strip :=
  { els := [some (readElem s o bitOff)], scales := [readScale s o blk], groups := [readGroup s o blk] }

/-- The element of a one-element strip before its scales. -/
def stripElem (x : Strip) : Val := ((x.els.getD 0 none).map (·.v)).getD .nan

/-- The value of a one-element strip (R187). -/
def stripValue (x : Strip) : Val := scaledValue (stripElem x) (x.scales.getD 0 (.one, false)).1 (x.groups.getD 0 (.one, false)).1

/-- The existing output as the epilogue adds it: an INT32 of the integer path is exact, any other is read under R187 (R216). -/
def oldValue (e : Epi) (fmt : Nat) (x : Strip) : Val := if e.integer && fwElem fmt == 0x13 then stripElem x else stripValue x

/-- One batch entry of C, row by row: the output values with the strips of the existing C that they read. -/
def mmRow (s : State) (x : Mm) (e : Epi) (b i : Nat) (as_ : Strip) (bs : List Strip) : List (OutVal × Option Strip) :=
  let oc := operandOf s x.fc x.c x.cs x.cg 0
  let grouped := (operandOf s x.fa x.a x.as_ x.ag 0).group.isSome || (operandOf s x.fb x.b x.bs x.bg 0).group.isSome
  (bs.zip (upFrom 0 bs.length)).map fun p =>
    let j := p.2
    let acc := if e.integer then accInt as_ p.1 else accFloat as_ p.1 grouped
    let old := if bit x.flags 1 then
        some (oldStrip s oc (8 * (b * x.sc + i * x.ldc) + j * fmtBits (fwElem x.fc)) (b * scaleBlocks x.m x.n + i * (x.n / 32) + j / 32))
      else none
    let bias := biasAt s e j
    ({ v := epilogue e x.fc (old.map (oldValue e x.fc)) (bias.map (·.1)) acc,
       bad := pairBad as_ p.1 || (old.map stripBad).getD false || (bias.map (·.2)).getD false,
       idx := (b * x.m + i) * x.n + j }, old)

/-- The result of a MATMUL on its inputs (R213-R217). -/
def mmResult (s : State) (x : Mm) : DataRes :=
  if mmEmpty x then { status := .ok, detail := 0, writes := statsWrite s x.stats true .zero, sticky := 0 }
  else
    let oc := operandOf s x.fc x.c x.cs x.cg 0
    let e : Epi := { biasFmt := x.fbias, bias := if x.bias = 0 then none else some (addrOf s x.bias), act := x.act,
                     integer := ((pairClass x.fa x.fb).getD (0, false)).2 }
    let entries := (List.range x.batch).map fun b => ((List.range x.m).map (mmStripA s x b), (List.range x.n).map (mmStripB s x b))
    let rows := (entries.zip (upFrom 0 x.batch)).flatMap fun en =>
      (en.1.1.zip (upFrom 0 x.m)).map fun r => (en.2, r.2, mmRow s x e en.2 r.2 r.1 en.1.2)
    let outs := rows.map fun r =>
      let blk0 := r.1 * scaleBlocks x.m x.n + r.2.1 * (x.n / 32)
      let cv := convertRow s oc x.seed blk0 (r.2.2.map (·.1))
      (cv, rowWrites oc (laPlus oc.base (r.1 * x.sc + r.2.1 * x.ldc)) blk0 cv)
    let inA := inputCounts (entries.flatMap (·.1))
    let inB := inputCounts (entries.flatMap (·.2))
    let inC := inputCounts (rows.flatMap fun r => r.2.2.filterMap (·.2))
    let t := (countConv (outs.flatMap (·.1.1))).withInputs [inA, inB, inC] (rows.flatMap fun r => r.2.2.map (·.1.v))
    floatRes s x.stats (bit x.flags 0) (outs.any fun o => o.1.2.1.any id) t (outs.flatMap (·.2)) []

/-- The rows of a strided matrix as spans. -/
def rowSpans (base : LAddr) (batch stride ld : Nat) (r : Nat × Nat) : List (LAddr × Nat) :=
  ((List.range batch).flatMap fun b => (List.range r.1).map fun i => (laPlus base (b * stride + i * ld), r.2)).eraseDups

/-- A whole array as a span where its field is not 0 and it is used. -/
def arraySpan (s : State) (used : Bool) (v len : Nat) : List (LAddr × Nat) := if used && v != 0 then [(addrOf s v, len)] else []

/-- What a MATMUL reads. -/
def mmReads (s : State) (x : Mm) : List (LAddr × Nat) :=
  if mmEmpty x then []
  else
    let len (i : Nat) := ((mmSpans x).getD i (0, 0)).2
    rowSpans (addrOf s x.a) x.batch x.sa x.lda (mmRowsA x) ++ rowSpans (addrOf s x.b) x.batch x.sb x.ldb (mmRowsB x) ++
    (if bit x.flags 1 then rowSpans (addrOf s x.c) x.batch x.sc x.ldc (mmRowsC x) else []) ++
    arraySpan s (fwScale x.fa != 0) x.as_ (len 3) ++ arraySpan s (fwScale x.fb != 0) x.bs (len 4) ++
    arraySpan s (fwScale x.fc != 0 && (fwSource x.fc == 0 || bit x.flags 1)) x.cs (len 5) ++
    arraySpan s (fwGroup x.fa != 0) x.ag (len 6) ++ arraySpan s (fwGroup x.fb != 0) x.bg (len 7) ++
    arraySpan s (fwGroup x.fc != 0) x.cg (len 8) ++ arraySpan s true x.bias (len 9)

/-- Tiles of a MATMUL and the cycles of one (R208, R222). -/
def mmTiles (x : Mm) : Nat := if mmEmpty x then 0 else x.batch * ceilDiv x.m 256 * ceilDiv x.n 256
def mmCycles (x : Mm) : Nat := 64 + ((pairClass x.fa x.fb).getD (4, false)).1 * roundUp x.k 32

/-! ### ATTENTION (R218-R221) -/

/-- The fields of an ATTENTION. -/
structure Att where
  heads : Nat
  kvHeads : Nat
  d : Nat
  flags : Nat
  seqQ : Nat
  seqK : Nat
  q : Nat
  k : Nat
  v : Nat
  fq : Nat
  fk : Nat
  fv : Nat
  fo : Nat
  scale : Nat
  o : Nat
  qs : Nat
  ks : Nat
  vs : Nat
  stats : Nat
  lse : Nat
  deriving DecidableEq, Repr, Inhabited

/-- The fields from the descriptor and the 72-byte block. -/
def attOf (d p : List Byte) : Att :=
  { heads := u16 d 16, kvHeads := u16 d 18, d := u16 d 20, flags := u16 d 22, seqQ := u32 d 24, seqK := u32 d 28,
    q := u64 d 32, k := u64 d 40, v := u64 d 48, fq := u32 p 0, fk := u32 p 4, fv := u32 p 8, fo := u32 p 12, scale := u32 p 16,
    o := u64 p 24, qs := u64 p 32, ks := u64 p 40, vs := u64 p 48, stats := u64 p 56, lse := u64 p 64 }

def attAt (s : State) (d : List Byte) : Att := attOf d (blockOf s (u64 d 56) 72)

/-- A positive, finite and normal FP32 number. -/
def positiveNormal (c : Nat) : Bool := decide (0x00800000 ≤ c ∧ c < 0x7F800000)

/-- Whether the formats of Q, K and V are one of R219's. -/
def attFormats (x : Att) : Bool :=
  let q := fwElem x.fq
  let k := fwElem x.fk
  let v := fwElem x.fv
  (q == 0x01 && k == 0x01 && v == 0x01) || (q == 0x02 && k == 0x02 && v == 0x02) || (isFp8 q && isFp8 k && isFp8 v)

/-- Bytes of Q, K, V, O, the scale arrays and the log-sum-exp, with their fields: Q, K, V, O, then the arrays. -/
def attSpans (x : Att) : List (Nat × Nat) :=
  let nq := x.heads * x.seqQ * x.d
  let nk := x.kvHeads * x.seqK * x.d
  [(x.q, packedBytes (fwElem x.fq) nq), (x.k, packedBytes (fwElem x.fk) nk), (x.v, packedBytes (fwElem x.fv) nk),
   (x.o, packedBytes (fwElem x.fo) nq), (x.qs, nq / 32), (x.ks, nk / 32), (x.vs, nk / 32), (x.stats, 32),
   (x.lse, 4 * x.heads * x.seqQ)]

/-- Checks 4 and 5 of R588 for ATTENTION (R218-R221). The zero key length is decided before the no-op of R221. -/
def attCheck (s : State) (inPlan : Bool) (d : List Byte) : Option Status :=
  let x := attAt s d
  let p := blockOf s (u64 d 56) 72
  let sp := attSpans x
  let fs := [x.fq, x.fk, x.fv]
  firstFail [
    (x.flags / 4 == 0, .reservedNonzero), (fieldOk s inPlan (u64 d 56) 72, .invalidArgument),
    (blockClean s inPlan (u64 d 56) 72, .poisonedData),
    ((fs ++ [x.fo]).all fwReservedOk && zeros p 20 4, .reservedNonzero),
    (decide (x.heads ≤ 4096 ∧ 1 ≤ x.kvHeads ∧ x.kvHeads ≤ 4096) && x.heads % max 1 x.kvHeads == 0 && [64, 128, 256].contains x.d &&
      decide (x.seqQ ≤ 1048576 ∧ x.seqK ≤ 1048576), .invalidArgument),
    (x.seqK != 0, .invalidExtent),
    (fs.all (fwOk false false) && fwOk true false x.fo && attFormats x && fs.all (fun f => fwGroup f == 0) &&
      fs.all (fun f => fwScale f == 0 || isFp8 (fwElem f)) && [0x00, 0x01, 0x02, 0x03].contains (fwElem x.fo) &&
      !fwScaled x.fo && fwSource x.fo == 0 && (fwScale x.fv == 0 || x.seqK % 32 == 0) && positiveNormal x.scale, .invalidArgument),
    (([u64 d 56] ++ sp.map (·.1)).all (fun v => v % 16 == 0), .invalidArgument),
    (spansOk s inPlan (sp.take 4) (sp.drop 4), .invalidArgument),
    (clearOf s (sp.getD 3 (0, 0)) (sp.take 3 ++ (sp.drop 4).take 3), .invalidArgument)]

def attEmpty (x : Att) : Bool := x.heads == 0 || x.seqQ == 0

/-- Whether key j is masked for query row i (R221). -/
def masked (x : Att) (i j : Nat) : Bool := bit x.flags 0 && decide (i + x.seqK < j + x.seqQ)

/-- The P format of R220: its format word and its element code. -/
def pFormat (x : Att) : Nat := if isFp8 (fwElem x.fv) then 0x03 else fwElem x.fv

/-- The largest of some values, NaN if any is NaN (R276). -/
def tileMax (vs : List Val) : Val :=
  if vs.any Val.isNan then .nan else vs.foldl (fun a v => if a.lt v then v else a) (.inf true)

/-- The running maximum, sum and partial outputs of the tiled soft maximum (R276). -/
structure Soft where
  m : Val
  l : Val
  o : List Val
  deriving DecidableEq, Repr, Inhabited

/-- One tile of R276: `term p k` is the tile's contribution to output k, given its probabilities. -/
def softTile (v1 : Bool) (st : Soft) (vs : List Val) (term : List Val → Nat → Val) : Soft :=
  let mt := tileMax vs
  let mn := if mt.isNan then mt else if st.m.lt mt then mt else st.m
  if mn = .inf true then st
  else
    let st := if mn.eq st.m then st
      else
        let corr := if st.m = .inf true then .zero else sfuBy v1 0x01 (fsub st.m mn)
        { m := mn, l := fmul st.l corr, o := st.o.map fun x => fmul x corr }
    let p := vs.map fun v => sfuBy v1 0x01 (fsub v st.m)
    { st with l := fadd st.l (rowSum v1 p), o := (st.o.zip (upFrom 0 st.o.length)).map fun x => fadd x.1 (term p x.2) }

/-- The log-sum-exp of a finished row. -/
def softLse (v1 : Bool) (st : Soft) : Val := if st.l.isZero then .inf true else fadd st.m (sfuBy v1 0x03 st.l)

/-- Strips of a query row, a key row, and a column of V over some keys. -/
def attQ (s : State) (x : Att) (h i : Nat) : Strip :=
  let o := operandOf s x.fq x.q x.qs 0 0
  let r := h * x.seqQ + i
  readStrip s o x.d (r * (x.d / 32)) fun t => some ((r * x.d + t) * fmtBits (fwElem x.fq))

def attK (s : State) (x : Att) (h j : Nat) : Strip :=
  let o := operandOf s x.fk x.k x.ks 0 0
  let r := h * x.seqK + j
  readStrip s o x.d (r * (x.d / 32)) fun t => some ((r * x.d + t) * fmtBits (fwElem x.fk))

def attV (s : State) (x : Att) (h j0 n c : Nat) : Strip :=
  let o := operandOf s x.fv x.v x.vs 0 0
  { els := (List.range n).map fun t => some (readElem s o (((h * x.seqK + j0 + t) * x.d + c) * fmtBits (fwElem x.fv))),
    scales := if o.scale.isNone then [] else
      (List.range (ceilDiv n 32)).map fun b => readScale s o ((h * (x.seqK / 32) + j0 / 32 + b) * x.d + c),
    groups := [] }

/-- A strip of probabilities in the P format. -/
def probStrip (x : Att) (p : List Val) : Strip :=
  { els := p.map fun v => some { v := decodeElem (pFormat x) (convertTo (pFormat x) 0 0 v).code, flushed := false, bad := false, at_ := 0 },
    scales := [], groups := [] }

/-- One query row of ATTENTION: its d output values and its log-sum-exp (R220, R221, R276). -/
def attRow (s : State) (x : Att) (h i : Nat) : List Val × Val :=
  let kv := h / (x.heads / max 1 x.kvHeads)
  let qrow := attQ s x h i
  let sc := ofF32 x.scale
  let score (j : Nat) : Val := if masked x i j then .inf true else fmul (accFloat qrow (attK s x kv j) false) sc
  let st := (pieces 256 0 x.seqK).foldl (fun st t =>
    softTile false st ((upFrom t.1 t.2).map score) fun p c => accFloat (probStrip x p) (attV s x kv t.1 t.2 c) false)
    { m := .inf true, l := .zero, o := List.replicate x.d .zero }
  (st.o.map fun o => if st.l.isZero then .zero else fdiv o st.l, softLse false st)

/-- Whether the scores of a row depend on a poisoned word: its query row, and every key row that is not masked for it. The log-sum-exp
depends on no other word (R228). -/
def attBad (s : State) (x : Att) (h i : Nat) : Bool :=
  let kv := h / (x.heads / max 1 x.kvHeads)
  (List.range x.seqK).any fun j => !masked x i j && (stripBad (attQ s x h i) || stripBad (attK s x kv j))

/-- Whether the values that column c of a row adds up hold a poisoned word: those of the keys that are not masked for the row. -/
def attColBad (s : State) (x : Att) (h i c : Nat) : Bool :=
  let kv := h / (x.heads / max 1 x.kvHeads)
  (List.range x.seqK).any fun j => !masked x i j && stripBad (attV s x kv j 1 c)

/-- The result of an ATTENTION. ROUND 1 in the format word of O rounds with a seed that the operation does not carry: a free value
(notes/assumptions/28.md). -/
def attResult (s : State) (x : Att) : DataRes :=
  if attEmpty x then { status := .ok, detail := 0, writes := statsWrite s x.stats true .zero, sticky := 0 }
  else
    let rows := (List.range x.heads).flatMap fun h => (List.range x.seqQ).map fun i =>
      let bad := attBad s x h i
      (h * x.seqQ + i, attRow s x h i, bad, (List.range x.d).map fun c => bad || attColBad s x h i c)
    let f := fwElem x.fo
    let outs := rows.map fun r =>
      let cv := (r.2.1.1.zip (upFrom 0 x.d)).map fun v => convertTo x.fo Config.attSeed (r.1 * x.d + v.2) v.1
      (cv, codeChunk f (laPlus (addrOf s x.o) (packedBytes f (r.1 * x.d))) (cv.map (·.code)) r.2.2.2)
    let lse := if x.lse = 0 then [] else rows.map fun r =>
      byteChunk (laPlus (addrOf s x.lse) (4 * r.1)) (leBytes 4 (toF32 r.2.1.2)) r.2.2.1
    let kv := (List.range x.kvHeads).flatMap fun h => (List.range x.seqK).map (attK s x h)
    let vv := (List.range x.kvHeads).flatMap fun h => (pieces 256 0 x.seqK).flatMap fun t => (List.range x.d).map (attV s x h t.1 t.2)
    let qq := (List.range x.heads).flatMap fun h => (List.range x.seqQ).map (attQ s x h)
    let t := (countConv (outs.flatMap (·.1))).withInputs [inputCounts qq, inputCounts kv, inputCounts vv] (rows.flatMap (·.2.1.1))
    floatRes s x.stats (bit x.flags 1) (rows.any fun r => r.2.2.1 || r.2.2.2.any id) t (outs.map (·.2) ++ lse) []

/-- What an ATTENTION reads. -/
def attReads (s : State) (x : Att) : List (LAddr × Nat) :=
  if attEmpty x then []
  else
    let sp := attSpans x
    let at_ (i : Nat) := sp.getD i (0, 0)
    arraySpan s true (at_ 0).1 (at_ 0).2 ++ arraySpan s true (at_ 1).1 (at_ 1).2 ++ arraySpan s true (at_ 2).1 (at_ 2).2 ++
    arraySpan s (fwScale x.fq != 0) x.qs (at_ 4).2 ++ arraySpan s (fwScale x.fk != 0) x.ks (at_ 5).2 ++
    arraySpan s (fwScale x.fv != 0) x.vs (at_ 6).2

/-- Key tiles that hold a key not masked for some row of the output tile that begins at row r0 (R223). -/
def attKeyTiles (x : Att) (r0 : Nat) : Nat :=
  let last := min x.seqQ (r0 + 256) - 1
  if bit x.flags 0 then ceilDiv (min x.seqK (last + x.seqK + 1 - x.seqQ)) 256 else ceilDiv x.seqK 256

/-- Tiles of an ATTENTION, head by head, and the cycles of tile t (R208, R223). -/
def attTiles (x : Att) : Nat := if attEmpty x then 0 else x.heads * ceilDiv x.seqQ 256
def attCycles (x : Att) (t : Nat) : Nat :=
  let c := if isFp8 (fwElem x.fq) then 2 else 4
  let nt := attKeyTiles x (t % max 1 (ceilDiv x.seqQ 256) * 256)
  64 + nt * (max (2 * c * x.d) 512 + 32) + 256

/-! ### Failures of a vat during an operation (R228, R319) -/

/-- An uncorrectable error in a vat's SRAM or accumulator: a record that names the vat, the vat suspect, the output undefined, the
operation ends with UNCORRECTABLE (R228, R323, R537). -/
def vatFailure (q : Nat) (idx : U32) (vat : Nat) (outs : List (LAddr × Nat)) (s : State) : State :=
  let s := outs.foldl (fun s o => scramble o.1 o.2 s) s
  let s := { s with memctl := { s.memctl with sramUe := satAdd (2 ^ 32 - 1) s.memctl.sramUe 1 } }
  let s := errRecord { type := 2, severity := 1, source := 1, unit := vat, status := 0x0501, address := Config.freeNat s.free % sramBytes,
                       queue := q, tag := hTag (descOf s q idx), symbols := 0xFF, symbol := 0xFF, flags := 0, detail := [] }
             { s with free := s.free + 1 }
  finishOp q idx .uncorrectable 0 (unitUncorr { cls := 0, num := vat } s)

/-- A vat operation that has started: its result, or the failure of a vat during it. -/
def runVat (q : Nat) (idx : U32) (hw : Option Nat) (reads : List (LAddr × Nat)) (compute : State → DataRes) (s : State) : State :=
  match hw with
  | none => runData q idx none false reads compute s
  | some v => if v < 160 then vatFailure q idx v (chunkSpans (compute s).writes) s else s

/-- MATMUL (R207-R217). -/
def execMatmulOp (q : Nat) (idx : U32) (hw : Option Nat) (s : State) : State :=
  if opReady s q idx 0 0x10 then
    runVat q idx hw (mmReads s (mmAt s (descOf s q idx))) (fun s => mmResult s (mmAt s (descOf s q idx))) s
  else s

/-- ATTENTION (R218-R221). -/
def execAttentionOp (q : Nat) (idx : U32) (hw : Option Nat) (s : State) : State :=
  if opReady s q idx 0 0x11 then
    runVat q idx hw (attReads s (attAt s (descOf s q idx))) (fun s => attResult s (attAt s (descOf s q idx))) s
  else s

end Sys2Proof.Machine
end

