-- ==== Sys2Proof/Machine/Conv.lean ====
section
/-!
DEFINITION. CONV and RESAMPLE: activation layouts, Harp addressing, the Harp record, upsampling (R229-R241, R247, R248, R261).
-/

namespace Sys2Proof.Machine

/-! ### Layouts (R229, R230) -/

/-- The channel block of a layout. -/
def layoutB : Nat → Nat
  | 0 => 16
  | 1 => 32
  | _ => 1

/-- The padded channel count. -/
def layoutCp (l c : Nat) : Nat := roundUp c (layoutB l)

/-- The element index of (n, c, h, w). -/
def layoutIdx (l cc hh ww n c h w : Nat) : Nat :=
  let b := layoutB l
  if l = 2 then ((n * hh + h) * ww + w) * cc + c
  else ((n * (layoutCp l cc / b) + c / b) * hh + h) * ww * b + w * b + c % b

/-- The elements of a tensor with its pad channels. -/
def layoutElems (l n c h w : Nat) : Nat := n * layoutCp l c * h * w

/-- The spans of bytes that hold the real channels of a stored tensor: a blocked input's pad channels are never read (R230). -/
def layoutSpans (s : State) (f l base n c h w : Nat) : List (LAddr × Nat) :=
  let b := layoutB l
  let at_ (e k : Nat) : LAddr × Nat := (laPlus (addrOf s base) (packedBytes f e), packedBytes f k)
  if c % b = 0 then (if layoutElems l n c h w = 0 then [] else [at_ 0 (layoutElems l n c h w)])
  else (List.range n).flatMap fun m =>
    let full := c / b * h * w * b
    (if full = 0 then [] else [at_ (layoutIdx l c h w m 0 0 0) full]) ++
    (List.range (h * w)).map fun p => at_ (layoutIdx l c h w m (c / b * b) (p / w) (p % w)) (c % b)

/-- The positions of a stored tensor in storage order: batch, block of channels, row, column; each is one run of the block. -/
def layoutRuns (l n c h w : Nat) : List (Nat × Nat × Nat × Nat) :=
  let nb := layoutCp l c / layoutB l
  if l = 2 then
    (List.range n).flatMap fun n => (List.range h).flatMap fun i => (List.range w).map fun j => (n, 0, i, j)
  else
    (List.range n).flatMap fun n => (List.range nb).flatMap fun b => (List.range h).flatMap fun i =>
      (List.range w).map fun j => (n, b, i, j)

/-! ### CONV (R232-R240) -/

/-- The fields of a CONV. -/
structure Cv where
  n : Nat
  groups : Nat
  ci : Nat
  co : Nat
  h : Nat
  w : Nat
  kh : Nat
  kw : Nat
  sh : Nat
  sw : Nat
  x : Nat
  wt : Nat
  y : Nat
  fx : Nat
  fw : Nat
  fy : Nat
  fbias : Nat
  dh : Nat
  dw : Nat
  pt : Nat
  pb : Nat
  pl : Nat
  pr : Nat
  lx : Nat
  ly : Nat
  act : Nat
  flags : Nat
  xs : Nat
  ws : Nat
  ys : Nat
  xg : Nat
  wg : Nat
  yg : Nat
  bias : Nat
  stats : Nat
  harp : Nat
  seed : Nat
  zp : Int
  deriving DecidableEq, Repr, Inhabited

/-- The fields from the descriptor and the 128-byte block (R232, R233). -/
def cvOf (d p : List Byte) : Cv :=
  { n := u16 d 16, groups := u16 d 18, ci := u16 d 20, co := u16 d 22, h := u16 d 24, w := u16 d 26, kh := u8 d 28, kw := u8 d 29,
    sh := u8 d 30, sw := u8 d 31, x := u64 d 32, wt := u64 d 40, y := u64 d 48, fx := u32 p 0, fw := u32 p 4, fy := u32 p 8,
    fbias := u32 p 12, dh := u16 p 16, dw := u16 p 18, pt := u16 p 20, pb := u16 p 22, pl := u16 p 24, pr := u16 p 26,
    lx := u8 p 28, ly := u8 p 29, act := u8 p 30, flags := u8 p 31, xs := u64 p 32, ws := u64 p 40, ys := u64 p 48, xg := u64 p 56,
    wg := u64 p 64, yg := u64 p 72, bias := u64 p 80, stats := u64 p 88, harp := u64 p 96, seed := u32 p 104,
    zp := signed 8 (u8 p 108) }

def cvAt (s : State) (d : List Byte) : Cv := cvOf d (blockOf s (u64 d 56) 128)

/-- Whether the convolution is transposed. -/
def cvTr (x : Cv) : Bool := bit x.flags 2

/-- Output height and width (R235, R236). -/
def cvHo (x : Cv) : Nat := axisOut (cvTr x) x.h x.kh x.sh x.dh x.pt x.pb
def cvWo (x : Cv) : Nat := axisOut (cvTr x) x.w x.kw x.sw x.dw x.pl x.pr

/-- Input and output channels of a group, and the reduction length. -/
def cvCg (x : Cv) : Nat := x.ci / max 1 x.groups
def cvOg (x : Cv) : Nat := x.co / max 1 x.groups
def cvK (x : Cv) : Nat := cvCg x * x.kh * x.kw

def cvEmpty (x : Cv) : Bool := x.n == 0 || x.co == 0 || cvHo x == 0 || cvWo x == 0

/-- The address fields with the bytes that each spans: x, w, y, then the arrays. -/
def cvSpans (x : Cv) : List (Nat × Nat) :=
  let nx := layoutElems x.lx x.n x.ci x.h x.w
  let ny := layoutElems x.ly x.n x.co (cvHo x) (cvWo x)
  let bx := nx / 32
  let bw := x.co * (cvK x / 32)
  let by_ := ny / 32
  [(x.x, packedBytes (fwElem x.fx) nx), (x.wt, x.co * packedBytes (fwElem x.fw) (cvK x)), (x.y, packedBytes (fwElem x.fy) ny),
   (x.xs, bx), (x.ws, bw), (x.ys, by_), (x.xg, groupBytes x.fx bx), (x.wg, groupBytes x.fw bw), (x.yg, groupBytes x.fy by_),
   (x.bias, packedBytes (x.fbias % 256) x.co), (x.stats, 32), (x.harp, 16)]

/-- The block axes of scaled operands, multiples of 32: input channels, weights t, output channels; no block of a block-scaled pair
straddles two taps (R188, R230, R231). -/
def cvScaleOk (x : Cv) : Bool :=
  (!fwScaled x.fx || x.ci % 32 == 0) && (!fwScaled x.fw || cvK x % 32 == 0) && (!fwScaled x.fy || x.co % 32 == 0) &&
  ((fwScale x.fx == 0 && fwScale x.fw == 0) || cvCg x % 32 == 0)

/-- Checks 4 and 5 of R588 for CONV, in the order of R234. -/
def cvCheck (s : State) (inPlan : Bool) (d : List Byte) : Option Status :=
  let x := cvAt s d
  let p := blockOf s (u64 d 56) 128
  let sp := cvSpans x
  let cls := pairClass x.fx x.fw
  let integer := (cls.getD (0, false)).2
  firstFail [
    (fieldOk s inPlan (u64 d 56) 128, .invalidArgument), (blockClean s inPlan (u64 d 56) 128, .poisonedData),
    ([x.fx, x.fw, x.fy].all fwReservedOk && x.fbias / 256 == 0 && x.flags / 8 == 0 && zeros p 109 19, .reservedNonzero),
    (decide (1 ≤ x.groups ∧ 1 ≤ x.kh ∧ x.kh ≤ 31 ∧ 1 ≤ x.kw ∧ x.kw ≤ 31 ∧ 1 ≤ x.sh ∧ x.sh ≤ 16 ∧ 1 ≤ x.sw ∧ x.sw ≤ 16 ∧
      1 ≤ x.dh ∧ x.dh ≤ 4096 ∧ 1 ≤ x.dw ∧ x.dw ≤ 4096 ∧ x.lx ≤ 1 ∧ x.ly ≤ 1 ∧ x.act ≤ 3), .invalidArgument),
    (fwOk false (zpAllowed x.fx) x.fx && fwOk false false x.fw && fwOk true false x.fy && [0x00, 0x01, 0x13].contains x.fbias,
      .invalidArgument),
    (cls.isSome && outputOk integer x.fy && epiOk integer (x.bias != 0) x.fbias x.act && zpOk x.fx x.zp, .invalidArgument),
    ((x.ci == 0 || x.ci % x.groups == 0) && x.co % x.groups == 0, .invalidArgument),
    (decide (cvK x ≤ 16777216), .invalidArgument),
    ((fwScale x.fx == 0 || x.lx == 1) && (fwScale x.fy == 0 || x.ly == 1) && cvScaleOk x && packOk (fwElem x.fw) (cvK x),
      .invalidArgument),
    (([u64 d 56] ++ sp.map (·.1)).all (fun v => v % 16 == 0), .invalidArgument),
    (spansOk s inPlan (sp.take 3) (sp.drop 3), .invalidArgument),
    (clearOf s (sp.getD 2 (0, 0)) (sp.take 2 ++ (sp.drop 3).take 7), .invalidArgument)]

/-- The input position of a tap of an output position, or none for padding (R235-R237). -/
def cvTap (x : Cv) (i j ky kx : Nat) : Option (Nat × Nat) :=
  match axisTap (cvTr x) x.h x.sh x.dh x.pt i ky, axisTap (cvTr x) x.w x.sw x.dw x.pl j kx with
  | some u, some v => some (u, v)
  | _, _ => none

/-- Tap and channel of a reduction index (R231). -/
def cvTapOf (x : Cv) (t : Nat) : Nat × Nat × Nat := (t / cvCg x / x.kw, t / cvCg x % x.kw, t % cvCg x)

/-- The input strip of an output position of a group (R237). A block's scales are those of its first tap that is not padding; only where
group scales stand alone can a block hold taps of several groups (notes/assumptions/28.md). -/
def cvStripX (s : State) (x : Cv) (n g i j : Nat) : Strip :=
  let o := operandOf s x.fx x.x x.xs x.xg x.zp
  let w := fmtBits (fwElem x.fx)
  let pos (t : Nat) : Option (Nat × Nat × Nat) :=
    let (ky, kx, c) := cvTapOf x t
    (cvTap x i j ky kx).map fun p => (p.1, p.2, g * cvCg x + c)
  let blk (t : Nat) : Option Nat := (pos t).map fun p => ((n * (layoutCp 1 x.ci / 32) + p.2.2 / 32) * x.h + p.1) * x.w + p.2.1
  let nb := if o.scale.isNone && o.group.isNone then 0 else ceilDiv (cvK x) 32
  let first (b : Nat) : Option Nat := (upFrom (32 * b) (min 32 (cvK x - 32 * b))).findSome? blk
  { els := (List.range (cvK x)).map fun t => (pos t).map fun p =>
      readElem s o (layoutIdx x.lx x.ci x.h x.w n p.2.2 p.1 p.2.1 * w),
    scales := (List.range nb).map fun b => ((first b).map (readScale s o)).getD (.one, false),
    groups := (List.range nb).map fun b => ((first b).map (readGroup s o)).getD (.one, false) }

/-- The weight strip of an output channel. -/
def cvStripW (s : State) (x : Cv) (oc : Nat) : Strip :=
  let o := operandOf s x.fw x.wt x.ws x.wg 0
  let w := fmtBits (fwElem x.fw)
  readStrip s o (cvK x) (oc * (cvK x / 32)) fun t => some (8 * (oc * packedBytes (fwElem x.fw) (cvK x)) + t * w)

/-- The block number of an output element for its scales: blocks of 32 channels, then rows and columns; of an NHWC tensor, along each
position's channels (R188, R189, R230). -/
def outBlock (x : Cv) (n oc i j : Nat) : Nat :=
  if x.ly = 2 then ((n * cvHo x + i) * cvWo x + j) * (x.co / 32) + oc / 32 else ((n * (x.co / 32) + oc / 32) * cvHo x + i) * cvWo x + j

/-- One output element from its input and weight strips: `post` is what an engine applies to the sum before the epilogue. The existing
output that it reads goes with it. -/
def convElem (s : State) (x : Cv) (oy : Operand) (e : Epi) (grouped useOld : Bool) (post : Val → Val × Bool) (xs wst : Strip)
    (n oc i j : Nat) : OutVal × Option Strip :=
  let acc := post (if e.integer then accInt xs wst else accFloat xs wst grouped)
  let at_ := layoutIdx x.ly x.co (cvHo x) (cvWo x) n oc i j
  let old := if useOld then some (oldStrip s oy (at_ * fmtBits (fwElem x.fy)) (outBlock x n oc i j)) else none
  let bias := biasAt s e oc
  ({ v := epilogue e x.fy (old.map (oldValue e x.fy)) (bias.map (·.1)) acc.1,
     bad := pairBad xs wst || acc.2 || (old.map stripBad).getD false || (bias.map (·.2)).getD false,
     idx := ((n * x.co + oc) * cvHo x + i) * cvWo x + j }, old)

/-- One output element of a CONV, with the existing output and the input strip that it reads. -/
def cvOut (s : State) (x : Cv) (e : Epi) (ws : List Strip) (n oc i j : Nat) : OutVal × Option Strip × Strip :=
  let xs := cvStripX s x n (oc / max 1 (cvOg x)) i j
  let grouped := (operandOf s x.fx x.x x.xs x.xg 0).group.isSome || (operandOf s x.fw x.wt x.ws x.wg 0).group.isSome
  let o := convElem s x (operandOf s x.fy x.y x.ys x.yg 0) e grouped (bit x.flags 1) (fun v => (v, false)) xs (ws.getD oc default) n oc i j
  (o.1, o.2, xs)

/-- The runs of channels in which an output is stored: the positions, the run's number, its first channel and its length with pads. -/
def outRuns (x : Cv) : List ((Nat × Nat × Nat × Nat) × Nat × Nat × Nat) :=
  let b := if x.ly = 2 then x.co else layoutB x.ly
  (layoutRuns x.ly x.n x.co (cvHo x) (cvWo x)).map fun r =>
    (r, ((r.1 * ((layoutCp x.ly x.co) / max 1 b) + r.2.1) * cvHo x + r.2.2.1) * cvWo x + r.2.2.2, r.2.1 * b, b)

/-- The conversion and the writes of one run of outputs; pad channels are written +0 (R230). -/
def outRun (s : State) (x : Cv) (oy : Operand) (r : (Nat × Nat × Nat × Nat) × Nat × Nat × Nat) (row : List OutVal) :
    List Conv × List Chunk :=
  let blk := outBlock x r.1.1 r.2.2.1 r.1.2.2.1 r.1.2.2.2
  let cv := convertRow s oy x.seed blk row
  let pad := r.2.2.2 - row.length
  let full := (cv.1 ++ List.replicate pad ⟨0, false, false, false⟩, cv.2.1 ++ List.replicate pad false, cv.2.2)
  (cv.1, rowWrites oy (laPlus oy.base (packedBytes (fwElem x.fy) (r.2.1 * r.2.2.2))) blk full)

/-- The Harp record (R239). -/
def harpBytes (x : Cv) : List Byte :=
  if cvEmpty x then List.replicate 16 0
  else
    let pads := ((List.range (cvHo x)).map fun i => ((List.range (cvWo x)).map fun j =>
      ((List.range (x.kh * x.kw)).filter fun t => (cvTap x i j (t / x.kw) (t % x.kw)).isNone).length).sum).sum
    let all := cvHo x * cvWo x * x.kh * x.kw
    leBytes 8 (x.n * x.groups * pads) ++ leBytes 8 (x.n * x.groups * (all - pads))

/-- The result of a CONV (R234-R240). -/
def cvResult (s : State) (x : Cv) : DataRes :=
  let harp := if x.harp = 0 then [] else [({ addr := addrOf s x.harp, data := harpBytes x, poison := [] } : Chunk)]
  if cvEmpty x then { status := .ok, detail := 0, writes := statsWrite s x.stats true .zero ++ harp, sticky := 0 }
  else
    let oy := operandOf s x.fy x.y x.ys x.yg 0
    let e : Epi := { biasFmt := x.fbias, bias := if x.bias = 0 then none else some (addrOf s x.bias), act := x.act,
                     integer := ((pairClass x.fx x.fw).getD (0, false)).2 }
    let ws := (List.range x.co).map (cvStripW s x)
    let runs := (outRuns x).map fun r =>
      let row := (upFrom r.2.2.1 (min r.2.2.2 (x.co - r.2.2.1))).map fun oc => cvOut s x e ws r.1.1 oc r.1.2.2.1 r.1.2.2.2
      (row, outRun s x oy r (row.map (·.1)))
    let inX := inputCounts (runs.flatMap fun r => r.1.map (·.2.2))
    let inY := inputCounts (runs.flatMap fun r => r.1.filterMap (·.2.1))
    let t := (countConv (runs.flatMap (·.2.1))).withInputs [inX, inputCounts ws, inY] (runs.flatMap fun r => r.1.map (·.1.v))
    floatRes s x.stats (bit x.flags 0) (runs.any fun r => r.1.any (·.1.bad)) t (runs.flatMap (·.2.2)) harp

/-- What a CONV reads. -/
def cvReads (s : State) (x : Cv) : List (LAddr × Nat) :=
  if cvEmpty x then []
  else
    let len (i : Nat) := ((cvSpans x).getD i (0, 0)).2
    layoutSpans s (fwElem x.fx) x.lx x.x x.n x.ci x.h x.w ++ arraySpan s true x.wt (len 1) ++
    (if bit x.flags 1 then layoutSpans s (fwElem x.fy) x.ly x.y x.n x.co (cvHo x) (cvWo x) else []) ++
    arraySpan s (fwScale x.fx != 0) x.xs (len 3) ++ arraySpan s (fwScale x.fw != 0) x.ws (len 4) ++
    arraySpan s (fwScale x.fy != 0 && (fwSource x.fy == 0 || bit x.flags 1)) x.ys (len 5) ++
    arraySpan s (fwGroup x.fx != 0) x.xg (len 6) ++ arraySpan s (fwGroup x.fw != 0) x.wg (len 7) ++
    arraySpan s (fwGroup x.fy != 0) x.yg (len 8) ++ arraySpan s true x.bias (len 9)

/-- Tiles of a CONV and the cycles of one (R241). -/
def cvTiles (x : Cv) : Nat := if cvEmpty x then 0 else x.n * x.groups * ceilDiv (cvHo x * cvWo x) 256 * ceilDiv (cvOg x) 256
def cvCycles (x : Cv) : Nat := 64 + ((pairClass x.fx x.fw).getD (4, false)).1 * roundUp (cvK x) 32

/-- CONV (R232-R240). -/
def execConvOp (q : Nat) (idx : U32) (hw : Option Nat) (s : State) : State :=
  if opReady s q idx 0 0x12 then
    runVat q idx hw (cvReads s (cvAt s (descOf s q idx))) (fun s => cvResult s (cvAt s (descOf s q idx))) s
  else s

/-! ### RESAMPLE (R247, R248) -/

/-- The fields of a RESAMPLE. -/
structure Rs where
  n : Nat
  c : Nat
  h : Nat
  w : Nat
  mode : Nat
  fh : Nat
  fw : Nat
  layout : Nat
  fmt : Nat
  x : Nat
  y : Nat
  stats : Nat
  deriving DecidableEq, Repr, Inhabited

def rsOf (d : List Byte) : Rs :=
  { n := u16 d 16, c := u16 d 18, h := u16 d 20, w := u16 d 22, mode := u8 d 24, fh := u8 d 25, fw := u8 d 26, layout := u8 d 27,
    fmt := u32 d 28, x := u64 d 32, y := u64 d 40, stats := u64 d 48 }

def rsEmpty (x : Rs) : Bool := x.n == 0 || x.c == 0 || x.h == 0 || x.w == 0

/-- The address fields with their spans. -/
def rsSpans (x : Rs) : List (Nat × Nat) :=
  let f := fwElem x.fmt
  [(x.x, packedBytes f (layoutElems x.layout x.n x.c x.h x.w)),
   (x.y, packedBytes f (layoutElems x.layout x.n x.c (x.h * x.fh) (x.w * x.fw))), (x.stats, 32)]

/-- Checks 4 and 5 of R588 for RESAMPLE. -/
def rsCheck (s : State) (inPlan : Bool) (d : List Byte) : Option Status :=
  let x := rsOf d
  let sp := rsSpans x
  let factor (f : Nat) : Bool := if x.mode = 0 then decide (1 ≤ f ∧ f ≤ 8) else f == 2 || f == 4
  firstFail [
    (zeros d 56 8 && fwReservedOk x.fmt, .reservedNonzero),
    (decide (x.mode ≤ 1 ∧ x.layout ≤ 2) && factor x.fh && factor x.fw, .invalidArgument),
    (fwOk false false x.fmt && fwOk true false x.fmt && tensorFmt x.fmt && !fwScaled x.fmt && (x.mode == 0 || (floatFmt (fwElem x.fmt)).isSome), .invalidArgument),
    (x.layout != 2 || packOk (fwElem x.fmt) x.c, .invalidArgument),
    (sp.all (fun p => p.1 % 16 == 0), .invalidArgument),
    (spansOk s inPlan (sp.take 2) (sp.drop 2), .invalidArgument),
    (clearOf s (sp.getD 1 (0, 0)) (sp.take 1), .invalidArgument)]

/-- The two taps of a bilinear axis: position and weight (R248). -/
def rsTaps (n f o : Nat) : List (Nat × Val) :=
  let u : Int := 2 * o + 1 - f
  let d : Int := 2 * f
  let i0 := u / d
  let cl (i : Int) : Nat := (clampI i 0 ((n : Int) - 1)).toNat
  let e : Int := -((2 * f).size - 1 : Nat)
  [(cl i0, .fin false (d - u % d).toNat e), (cl (i0 + 1), .fin false (u % d).toNat e)]

/-- One output element: its conversion and whether it depends on poison. Bilinear rounds to nearest whatever ROUND says (R248,
notes/assumptions/28.md). -/
def rsElem (s : State) (x : Rs) (n c i j : Nat) : Conv × Bool × List Elem :=
  let o := operandOf s x.fmt x.x 0 0 0
  let f := fwElem x.fmt
  let off (u v : Nat) : Nat := layoutIdx x.layout x.c x.h x.w n c u v * fmtBits f
  if x.mode = 0 then
    let b := off (i / max 1 x.fh) (j / max 1 x.fw)
    (⟨codeAt s f o.base b, false, false, false⟩, badAt s f o.base b, [])
  else
    let taps := (rsTaps x.h x.fh i).flatMap fun p => (rsTaps x.w x.fw j).map fun r => (readElem s o (off p.1 r.1), p.2.mul r.2)
    let terms := taps.map fun t => t.2.mul t.1.v
    let v := (terms.drop 1).foldl Val.add (terms.getD 0 .zero)
    (convertTo (nearestWord x.fmt) 0 0 (round32 v), taps.any (·.1.bad), taps.map (·.1))

/-- The result of a RESAMPLE. -/
def rsResult (s : State) (x : Rs) : DataRes :=
  if rsEmpty x then { status := .ok, detail := 0, writes := statsWrite s x.stats false .zero, sticky := 0 }
  else
    let f := fwElem x.fmt
    let b := if x.layout = 2 then x.c else layoutB x.layout
    let ho := x.h * x.fh
    let wo := x.w * x.fw
    let runs := (layoutRuns x.layout x.n x.c ho wo).map fun r =>
      (upFrom (r.2.1 * b) (min b (x.c - r.2.1 * b))).map fun c => rsElem s x r.1 c r.2.2.1 r.2.2.2
    let row (r : List (Conv × Bool × List Elem)) := r.map (fun e => (e.1.code, e.2.1)) ++ List.replicate (b - r.length) (0, false)
    let all := runs.flatMap row
    let els := (runs.flatten.flatMap (·.2.2)).eraseDups
    let t := countConv (runs.flatten.map (·.1))
    let t := { t with flushed := t.flushed + els.countP (·.flushed) }
    floatRes s x.stats false (runs.any fun r => r.any (·.2.1)) t [codeChunk f (addrOf s x.y) (all.map (·.1)) (all.map (·.2))] []

def rsReads (s : State) (x : Rs) : List (LAddr × Nat) :=
  if rsEmpty x then [] else layoutSpans s (fwElem x.fmt) x.layout x.x x.n x.c x.h x.w

/-- Tiles of a RESAMPLE: 256 output positions of all channels; cycles of one. -/
def rsTiles (x : Rs) : Nat := if rsEmpty x then 0 else x.n * ceilDiv (x.h * x.fh * (x.w * x.fw)) 256
def rsCycles (x : Rs) : Nat := 64 + x.c

/-- RESAMPLE (R247, R248). -/
def execResampleOp (q : Nat) (idx : U32) (hw : Option Nat) (s : State) : State :=
  if opReady s q idx 0 0x13 then
    runVat q idx hw (rsReads s (rsOf (descOf s q idx))) (fun s => rsResult s (rsOf (descOf s q idx))) s
  else s

/-! ### Whey operations as a plan set holds them (R192, R242-R245) -/

def wheyCv (w : WheyOp) : Cv := cvOf w.desc w.block

/-- The channels of a pixel format, and the greatest code of a sample (R79, R243). -/
def pixelChannels (f : Nat) : Nat := if f ≤ 2 then 6 else if f = 3 then 3 else 4
def pixelMax (f : Nat) : Nat := if f = 1 ∨ f = 3 then 255 else if f = 5 then 4095 else 1023

/-- The greatest input code, where the input may carry a zero point (R192, R244). -/
def wheyMaxCode (w : WheyOp) : Option Nat :=
  if w.pixIn ≠ 0 then some (pixelMax w.pixIn)
  else if fwElem (wheyCv w).fx = 0x18 then some 255 else if fwElem (wheyCv w).fx = 0x19 then some 65535 else none

/-- Whether the zero points are none, one, or one for each channel, each no greater than the input's maximum code (R192). -/
def wheyZpsOk (w : WheyOp) : Bool :=
  match wheyMaxCode w with
  | some m => (decide (w.zps.length ≤ 1) || w.zps.length == (wheyCv w).ci) && w.zps.all fun z => decide (z ≤ m)
  | none => w.zps.all (· == 0)

/-- Whether the input and the weights of a Whey operation are of R242: no scales on either. -/
def wheyInputsOk (w : WheyOp) : Bool :=
  let x := wheyCv w
  (if w.pixIn = 0 then x.lx == 2 && ([0x18, 0x19, 0x11, 0x01, 0x02, 0x03, 0x04] : List Nat).contains (fwElem x.fx) &&
      fwOk false (wheyMaxCode w).isSome x.fx && !fwScaled x.fx && packOk (fwElem x.fx) x.ci
    else decide (w.pixIn ≤ 5 ∧ w.bayer ≤ 3) && x.ci == pixelChannels w.pixIn) &&
  ([0x01, 0x02, 0x03, 0x04, 0x11] : List Nat).contains (fwElem x.fw) && fwOk false false x.fw && !fwScaled x.fw

/-- Whether its output is a pixel format, or a tensor of R212 in a layout of R229; block scales need NC32HW (R230, R245). -/
def wheyOutputOk (w : WheyOp) : Bool :=
  let x := wheyCv w
  (if w.pixOut = 0 then fwOk true false x.fy && outputOk false x.fy && decide (x.ly ≤ 2) && (fwScale x.fy == 0 || x.ly == 1) &&
      (!fwScaled x.fy || x.co % 32 == 0) && (x.ly != 2 || packOk (fwElem x.fy) x.co)
    else decide (w.pixOut ≤ 5 ∧ w.bayer ≤ 3) && x.co == pixelChannels w.pixOut) &&
  [0x00, 0x01, 0x13].contains x.fbias && epiOk false (x.bias != 0) x.fbias x.act && decide (x.act ≤ 3)

/-- Whether a Whey operation lies inside the limits of R242; a plan set with one that does not is PLAN_INVALID. -/
def wheyOk (w : WheyOp) : Bool :=
  let x := wheyCv w
  decide (x.ci * x.kh * x.kw ≤ 4096 ∧ x.co ≤ 64 ∧ min x.ci x.co ≤ 16) &&
  decide (1 ≤ x.kh ∧ x.kh ≤ 8 ∧ 1 ≤ x.kw ∧ x.kw ≤ 8 ∧ 1 ≤ x.sh ∧ x.sh ≤ 8 ∧ 1 ≤ x.sw ∧ x.sw ≤ 8) &&
  decide (x.pt ≤ 7 ∧ x.pb ≤ 7 ∧ x.pl ≤ 7 ∧ x.pr ≤ 7 ∧ x.dh = 1 ∧ x.dw = 1 ∧ 1 ≤ x.groups) &&
  (x.ci == 0 || x.ci % x.groups == 0) && x.co % x.groups == 0 && [x.fx, x.fw, x.fy].all fwReservedOk &&
  wheyInputsOk w && wheyZpsOk w && wheyOutputOk w

end Sys2Proof.Machine
end

