-- ==== Sys2Proof/Machine/Rows.lean ====
section
/-!
DEFINITION. FUNC, NORM and SOFTMAX (R262-R280, R283).
-/

namespace Sys2Proof.Machine

/-- Whether a format word suits the row operations (R263). -/
def rowFmtOk (output : Bool) (w : Nat) : Bool := decide (fwElem w ≤ 4) && !fwScaled w && fwSource w == 0 && fwOk output false w

/-- Whether an output range is the input's own range with the same element width, or clear of it (R269, R283). -/
def inPlaceOk (s : State) (fx fy : Nat) (x y : Nat × Nat) : Bool :=
  (x.1 == y.1 && fmtBits (fwElem fx) == fmtBits (fwElem fy)) || !overlaps (addrOf s x.1) x.2 (addrOf s y.1) y.2

/-- A dense input operand without scales. -/
def plainOperand (s : State) (fw base : Nat) : Operand := operandOf s fw base 0 0 0

/-- A converted row written at an address: its chunk. -/
def plainRow (fw : Nat) (at_ : LAddr) (cv : List Conv) (bads : List Bool) : Chunk := codeChunk (fwElem fw) at_ (cv.map (·.code)) bads

/-- The counts of converted outputs and input elements, with amax over the values before conversion. -/
def rowStats (cv : List Conv) (ins : List Elem) (vals : List Val) : Stats :=
  let t := countConv cv
  { t with flushed := t.flushed + ins.countP (·.flushed), amax := maxAbs vals }

/-! ### FUNC (R268, R269) -/

/-- The fields of a FUNC. -/
structure Fn where
  func : Nat
  flags : Nat
  fx : Nat
  fy : Nat
  seed : Nat
  count : Nat
  x : Nat
  y : Nat
  stats : Nat
  deriving DecidableEq, Repr, Inhabited

def fnOf (d : List Byte) : Fn :=
  { func := u8 d 16, flags := u8 d 17, fx := u32 d 20, fy := u32 d 24, seed := u32 d 28, count := u64 d 32, x := u64 d 40,
    y := u64 d 48, stats := u64 d 56 }

def fnSpanX (x : Fn) : Nat × Nat := (x.x, packedBytes (fwElem x.fx) x.count)
def fnSpanY (x : Fn) : Nat × Nat := (x.y, packedBytes (fwElem x.fy) x.count)

/-- Checks 4 and 5 of R588 for FUNC. -/
def fnCheck (s : State) (inPlan : Bool) (d : List Byte) : Option Status :=
  let x := fnOf d
  firstFail [
    (x.flags / 4 == 0 && zeros d 18 2 && fwReservedOk x.fx && fwReservedOk x.fy, .reservedNonzero),
    (decide (1 ≤ x.func ∧ x.func ≤ (if bit x.flags 1 then 0x0B else 0x0C)), .invalidArgument),
    (rowFmtOk false x.fx && rowFmtOk true x.fy, .invalidArgument),
    (decide (x.count ≤ 2 ^ 40), .invalidArgument),
    ([x.x, x.y, x.stats].all (fun v => v % 16 == 0), .invalidArgument),
    (spansOk s inPlan [fnSpanX x, fnSpanY x] [(x.stats, 32)], .invalidArgument),
    (inPlaceOk s x.fx x.fy (fnSpanX x) (fnSpanY x), .invalidArgument)]

/-- The result of a FUNC. A result above FP32's range follows R183 for the output format (R264). -/
def fnResult (s : State) (x : Fn) : DataRes :=
  if x.count = 0 then { status := .ok, detail := 0, writes := statsWrite s x.stats true .zero, sticky := 0 }
  else
    let o := plainOperand s x.fx x.x
    let els := (List.range x.count).map fun i => readElem s o (i * fmtBits (fwElem x.fx))
    let raws := els.map fun e => sfuRawBy (bit x.flags 1) x.func e.v
    let cv := (raws.zip (upFrom 0 x.count)).map fun p => convertTo x.fy x.seed p.2 p.1
    floatRes s x.stats (bit x.flags 0) (els.any (·.bad)) (rowStats cv els (raws.map round32))
      [plainRow x.fy (addrOf s x.y) cv (els.map (·.bad))] []

def fnReads (s : State) (x : Fn) : List (LAddr × Nat) := if x.count = 0 then [] else [(addrOf s x.x, (fnSpanX x).2)]

/-- Tiles and cycles of R279. -/
def fnTiles (x : Fn) : Nat := ceilDiv x.count 65536
def fnCycles (x : Fn) : Nat := 64 + ceilDiv (min x.count 65536) 128

/-- FUNC (R268, R269). -/
def execFuncOp (q : Nat) (idx : U32) (hw : Option Nat) (s : State) : State :=
  if opReady s q idx 0 0x14 then
    runVat q idx hw (fnReads s (fnOf (descOf s q idx))) (fun s => fnResult s (fnOf (descOf s q idx))) s
  else s

/-! ### NORM (R271-R273) -/

/-- The fields of a NORM. -/
structure Nm where
  rows : Nat
  len : Nat
  x : Nat
  y : Nat
  gamma : Nat
  beta : Nat
  fx : Nat
  fy : Nat
  eps : Nat
  mode : Nat
  flags : Nat
  pf : Nat
  ldx : Nat
  ldy : Nat
  stats : Nat
  rowstat : Nat
  seed : Nat
  deriving DecidableEq, Repr, Inhabited

def nmOf (d p : List Byte) : Nm :=
  { rows := u32 d 16, len := u32 d 20, x := u64 d 24, y := u64 d 32, gamma := u64 d 40, beta := u64 d 48, fx := u32 p 0, fy := u32 p 4,
    eps := u32 p 8, mode := u8 p 12, flags := u8 p 13, pf := u8 p 14, ldx := u32 p 16, ldy := u32 p 20, stats := u64 p 24,
    rowstat := u64 p 32, seed := u32 p 40 }

def nmAt (s : State) (d : List Byte) : Nm := nmOf d (blockOf s (u64 d 56) 48)

def nmSpanX (x : Nm) : Nat × Nat := (x.x, stridedLen 1 0 x.ldx (x.rows, packedBytes (fwElem x.fx) x.len))
def nmSpanY (x : Nm) : Nat × Nat := (x.y, stridedLen 1 0 x.ldy (x.rows, packedBytes (fwElem x.fy) x.len))

/-- Checks 4 and 5 of R588 for NORM (R263, R271-R273, R278, R280, R283). -/
def nmCheck (s : State) (inPlan : Bool) (d : List Byte) : Option Status :=
  let x := nmAt s d
  let p := blockOf s (u64 d 56) 48
  let pb := packedBytes x.pf x.len
  let params := [(x.gamma, pb), (x.beta, pb)]
  firstFail [
    (fieldOk s inPlan (u64 d 56) 48, .invalidArgument), (blockClean s inPlan (u64 d 56) 48, .poisonedData),
    (x.flags / 8 == 0 && zeros p 15 1 && zeros p 44 4 && fwReservedOk x.fx && fwReservedOk x.fy, .reservedNonzero),
    (decide (x.rows < 2 ^ 31), .invalidArgument), (x.len != 0, .invalidExtent), (decide (x.len ≤ 1048576), .invalidArgument),
    (x.mode != 1 || x.beta == 0, .invalidArgument),
    (rowFmtOk false x.fx && rowFmtOk true x.fy, .invalidArgument),
    (decide (x.eps < 0x7F800000 ∨ x.eps = 0x80000000) && decide (x.mode ≤ 1) && decide (x.pf ≤ 1), .invalidArgument),
    (!bit x.flags 0 || (x.mode == 0 && !bit x.flags 2), .invalidArgument),
    (x.ldx % 16 == 0 && x.ldy % 16 == 0, .invalidArgument),
    (spansOk s inPlan [nmSpanX x, nmSpanY x] (params ++ [(x.stats, 32), (x.rowstat, 8 * x.rows)]), .invalidArgument),
    (inPlaceOk s x.fx x.fy (nmSpanX x) (nmSpanY x) && (x.x != x.y || x.ldx == x.ldy || decide (x.rows ≤ 1)), .invalidArgument),
    (clearOf s (nmSpanY x) params &&
      (x.rowstat == 0 || clearOf s (x.rowstat, 8 * x.rows) (nmSpanX x :: params)), .invalidArgument)]

/-- One normalised row: its values before conversion, the mean and the rstd (R273). -/
def normRow (x : Nm) (v g b : List Val) : List Val × Val × Val :=
  let v1 := bit x.flags 2
  let c := if x.mode = 0 ∧ bit x.flags 0 = true then v.getD 0 .zero else .zero
  let d := v.map fun e => fsub e c
  let sq := d.map fun e => fmul e e
  let nf := Val.ofInt x.len
  let s2 := rowSum v1 sq
  let md := fdiv (rowSum v1 d) nf
  let var0 := fsub (fdiv s2 nf) (fmul md md)
  let var := if x.mode = 0 then (if var0.lt .zero then .zero else var0) else fdiv s2 nf
  let mean := if x.mode = 0 then fadd c md else .zero
  let rstd := sfuBy v1 0x07 (fadd var (ofF32 x.eps))
  let t := v.map fun e => fmul (fsub e mean) rstd
  let t := if x.gamma = 0 then t else (t.zip g).map fun p => fmul p.1 p.2
  let t := if x.beta = 0 then t else (t.zip b).map fun p => fadd p.1 p.2
  (t, mean, rstd)

/-- The values of a parameter vector and whether any is poisoned. -/
def params (s : State) (f addr n : Nat) : List Val × Bool :=
  if addr = 0 then ([], false)
  else
    let a := addrOf s addr
    ((List.range n).map fun j => decodeElem f (codeAt s f a (j * fmtBits f)), anyPoison s a (packedBytes f n))

/-- The result of a NORM. -/
def nmResult (s : State) (x : Nm) : DataRes :=
  if x.rows = 0 then { status := .ok, detail := 0, writes := statsWrite s x.stats true .zero, sticky := 0 }
  else
    let o := plainOperand s x.fx x.x
    let g := params s x.pf x.gamma x.len
    let b := params s x.pf x.beta x.len
    let rows := (List.range x.rows).map fun r =>
      let els := (List.range x.len).map fun j => readElem s o (8 * (r * x.ldx) + j * fmtBits (fwElem x.fx))
      let (t, mean, rstd) := normRow x (els.map (·.v)) g.1 b.1
      let cv := (t.zip (upFrom 0 x.len)).map fun (p : Val × Nat) => convertTo x.fy x.seed (r * x.len + p.2) p.1
      let bad := els.any (·.bad) || g.2 || b.2
      (els, t, cv, bad,
        (plainRow x.fy (laPlus (addrOf s x.y) (r * x.ldy)) cv (cv.map fun _ => bad)) ::
        (if x.rowstat = 0 then [] else [byteChunk (laPlus (addrOf s x.rowstat) (8 * r)) (leBytes 4 (toF32 mean) ++ leBytes 4 (toF32 rstd)) bad]))
    let t := rowStats (rows.flatMap (·.2.2.1)) (rows.flatMap (·.1)) (rows.flatMap (·.2.1))
    floatRes s x.stats (bit x.flags 1) (rows.any (·.2.2.2.1)) t (rows.flatMap (·.2.2.2.2)) []

def nmReads (s : State) (x : Nm) : List (LAddr × Nat) :=
  if x.rows = 0 then []
  else rowSpans (addrOf s x.x) 1 0 x.ldx (x.rows, packedBytes (fwElem x.fx) x.len) ++
    arraySpan s true x.gamma (packedBytes x.pf x.len) ++ arraySpan s true x.beta (packedBytes x.pf x.len)

/-- The rows of a tile (R279). -/
def tileRows (len : Nat) : Nat := max 1 (min 256 (65536 / max 1 len))

def nmTiles (x : Nm) : Nat := ceilDiv x.rows (tileRows x.len)
def nmCycles (x : Nm) : Nat := let r := min x.rows (tileRows x.len); 64 + 3 * ceilDiv (r * x.len) 256 + 2 * r

/-- NORM (R271-R273). -/
def execNormOp (q : Nat) (idx : U32) (hw : Option Nat) (s : State) : State :=
  if opReady s q idx 0 0x15 then
    runVat q idx hw (nmReads s (nmAt s (descOf s q idx))) (fun s => nmResult s (nmAt s (descOf s q idx))) s
  else s

/-! ### SOFTMAX (R274-R277) -/

/-- The fields of a SOFTMAX. -/
structure Sm where
  rows : Nat
  len : Nat
  x : Nat
  y : Nat
  fx : Nat
  fy : Nat
  scale : Nat
  flags : Nat
  lse : Nat
  stats : Nat
  seed : Nat
  deriving DecidableEq, Repr, Inhabited

def smOf (d p : List Byte) : Sm :=
  { rows := u32 d 16, len := u32 d 20, x := u64 d 24, y := u64 d 32, fx := u32 d 48, fy := u32 d 52, scale := u32 p 0,
    flags := u32 p 4, lse := u64 p 8, stats := u64 p 16, seed := u32 p 24 }

def smAt (s : State) (d : List Byte) : Sm := smOf d (blockOf s (u64 d 40) 32)

def smSpanX (x : Sm) : Nat × Nat := (x.x, packedBytes (fwElem x.fx) (x.rows * x.len))
def smSpanY (x : Sm) : Nat × Nat := (x.y, packedBytes (fwElem x.fy) (x.rows * x.len))

/-- Checks 4 and 5 of R588 for SOFTMAX (R263, R274, R275, R278, R283). -/
def smCheck (s : State) (inPlan : Bool) (d : List Byte) : Option Status :=
  let x := smAt s d
  let p := blockOf s (u64 d 40) 32
  firstFail [
    (zeros d 56 8 && fwReservedOk x.fx && fwReservedOk x.fy, .reservedNonzero), (fieldOk s inPlan (u64 d 40) 32, .invalidArgument),
    (blockClean s inPlan (u64 d 40) 32, .poisonedData),
    (x.flags / 4 == 0 && zeros p 28 4, .reservedNonzero),
    (decide (x.rows < 2 ^ 31), .invalidArgument), (x.len != 0, .invalidExtent), (decide (x.len ≤ 1048576), .invalidArgument),
    (rowFmtOk false x.fx && rowFmtOk true x.fy && positiveNormal x.scale, .invalidArgument),
    (spansOk s inPlan [smSpanX x, smSpanY x] [(x.stats, 32), (x.lse, 4 * x.rows)], .invalidArgument),
    (inPlaceOk s x.fx x.fy (smSpanX x) (smSpanY x) && (x.lse == 0 || clearOf s (x.lse, 4 * x.rows) [smSpanX x]), .invalidArgument)]

/-- One row of the soft maximum: its values before conversion and its log-sum-exp (R276). -/
def softRow (x : Sm) (v : List Val) : List Val × Val :=
  let v1 := bit x.flags 1
  let st := (pieces (if v1 then 128 else 256) 0 v.length).foldl (fun st t =>
    softTile v1 st ((v.drop t.1).take t.2) fun _ _ => .zero) { m := .inf true, l := .zero, o := [] }
  (v.map fun e => if st.l.isZero then .zero else fdiv (sfuBy v1 0x01 (fsub e st.m)) st.l, softLse v1 st)

/-- The result of a SOFTMAX. -/
def smResult (s : State) (x : Sm) : DataRes :=
  if x.rows = 0 then { status := .ok, detail := 0, writes := statsWrite s x.stats true .zero, sticky := 0 }
  else
    let o := plainOperand s x.fx x.x
    let sc := ofF32 x.scale
    let rows := (List.range x.rows).map fun r =>
      let els := (List.range x.len).map fun j => readElem s o ((r * x.len + j) * fmtBits (fwElem x.fx))
      let (t, lse) := softRow x (els.map fun e => fmul e.v sc)
      let cv := (t.zip (upFrom 0 x.len)).map fun (p : Val × Nat) => convertTo x.fy x.seed (r * x.len + p.2) p.1
      let bad := els.any (·.bad)
      (els, t, cv, bad,
        (plainRow x.fy (laPlus (addrOf s x.y) (packedBytes (fwElem x.fy) (r * x.len))) cv (cv.map fun _ => bad)) ::
        (if x.lse = 0 then [] else [byteChunk (laPlus (addrOf s x.lse) (4 * r)) (leBytes 4 (toF32 lse)) bad]))
    let t := rowStats (rows.flatMap (·.2.2.1)) (rows.flatMap (·.1)) (rows.flatMap (·.2.1))
    floatRes s x.stats (bit x.flags 0) (rows.any (·.2.2.2.1)) t (rows.flatMap (·.2.2.2.2)) []

def smReads (s : State) (x : Sm) : List (LAddr × Nat) := if x.rows = 0 then [] else [(addrOf s x.x, (smSpanX x).2)]

def smTiles (x : Sm) : Nat := ceilDiv x.rows (tileRows x.len)
def smCycles (x : Sm) : Nat :=
  let r := min x.rows (tileRows x.len)
  64 + 2 * ceilDiv (r * x.len) 128 + 2 * ceilDiv (r * x.len) 256 + 2 * r

/-- SOFTMAX (R274-R277). -/
def execSoftmaxOp (q : Nat) (idx : U32) (hw : Option Nat) (s : State) : State :=
  if opReady s q idx 0 0x16 then
    runVat q idx hw (smReads s (smAt s (descOf s q idx))) (fun s => smResult s (smAt s (descOf s q idx))) s
  else s

end Sys2Proof.Machine
end

