-- ==== Sys2Proof/Machine/Ladle.lean ====
section
/-!
DEFINITION. The ladle class: TRANSFER, GATHER, SLOT_FREE, coded FP4, Cloth (R198-R201, R257-R260, R340-R348, R354).
-/

namespace Sys2Proof.Machine

/-! ### Coded FP4 (R198-R200) -/

/-- The code words of R199: length, word, FP4 code. -/
def fp4Words (lens : List Nat) : List (Nat × Nat × Nat) :=
  ((upFrom 1 12).foldl (fun (acc : Nat × List (Nat × Nat × Nat)) len =>
    let syms := (List.range 16).filter fun k => lens.getD k 0 == len
    let ws := (syms.zip (upFrom acc.1 syms.length)).map fun p => (len, p.2, p.1)
    ((acc.1 + syms.length) * 2, acc.2 ++ ws)) (0, [])).2

/-- Bits of bytes from bit 7 down. -/
def msbBits (bs : List Byte) : List Bool := bs.flatMap fun b => (List.range 8).map fun i => b.getLsbD (7 - i)

/-- One weight: the bits read so far, at most `fuel` more. -/
def fp4Sym (ws : List (Nat × Nat × Nat)) : Nat → Nat → Nat → List Bool → Option (Nat × List Bool)
  | 0, _, _, _ => none
  | _ + 1, _, _, [] => none
  | fuel + 1, len, v, b :: r =>
    match ws.find? fun w => w.1 == len + 1 && w.2.1 == 2 * v + b2n b with
    | some w => some (w.2.2, r)
    | none => fp4Sym ws fuel (len + 1) (2 * v + b2n b) r

/-- `n` weights and the bits left. -/
def fp4Syms (ws : List (Nat × Nat × Nat)) : Nat → List Bool → Option (List Nat × List Bool)
  | 0, r => some ([], r)
  | n + 1, r =>
    match fp4Sym ws 12 0 0 r with
    | none => none
    | some (c, r') => (fp4Syms ws n r').map fun p => (c :: p.1, p.2)

/-- A segment of `n` weights, or none where it is invalid (R200). -/
def fp4Segment (ws : List (Nat × Nat × Nat)) (n : Nat) (bs : List Byte) : Option (List Nat) :=
  match fp4Syms ws n (msbBits bs) with
  | some (cs, r) => if r.length < 8 ∧ r.all (fun b => !b) = true then some cs else none
  | none => none

/-- The header of an image: count, lengths, segments, data bytes. -/
structure Fp4Head where
  count : Nat
  lens : List Nat
  segments : Nat
  dataBytes : Nat
  deriving DecidableEq, Repr, Inhabited

def fp4Head (h : List Byte) : Fp4Head :=
  { count := u64 h 8, lens := (slice h 16 16).map (·.toNat), segments := u32 h 32, dataBytes := u64 h 40 }

/-- magic, version and reserved fields as R198 requires. -/
def fp4FixedOk (h : List Byte) : Bool :=
  u32 h 0 == 0x34504643 && u16 h 4 == 1 && zeros h 6 2 && zeros h 36 4 && zeros h 48 16

/-- The rest of R200 that the header alone decides. -/
def fp4HeadOk (h : List Byte) : Bool :=
  let x := fp4Head h
  let used := x.lens.filter (0 < ·)
  fp4FixedOk h && x.count % 32 == 0 && x.segments == ceilDiv x.count 4096 && x.lens.all (fun l => decide (l ≤ 12)) &&
  ((used.map fun l => 2 ^ (12 - l)).sum == 4096 || used == [1])

/-- The offsets of an image agree with it: the first 0, rising, inside the data. -/
def fp4OffsetsOk (offs : List Nat) (dataBytes : Nat) : Bool :=
  offs.head? == some 0 && ((offs.zip (offs.drop 1)).all fun p => decide (p.1 < p.2)) && offs.all fun o => decide (o ≤ dataBytes)

/-! ### Fields of TRANSFER (R343) -/

/-- The fields of a TRANSFER. -/
structure Tr where
  src : Nat
  dst : Nat
  length : Nat
  rows : Nat
  ss : Nat
  ds : Nat
  mode : Nat
  flags : Nat
  ring : Nat
  op : Nat
  deriving DecidableEq, Repr, Inhabited

def trOf (d : List Byte) : Tr :=
  { src := u64 d 16, dst := u64 d 24, length := u32 d 32, rows := u32 d 36, ss := u32 d 40, ds := u32 d 44, mode := u8 d 48,
    flags := u8 d 49, ring := u16 d 50, op := u64 d 56 }

/-- The bytes of the operand block of a mode. -/
def trBlockLen : Nat → Nat
  | 1 => 48
  | 2 => 16
  | 3 => 16
  | 4 => 16
  | _ => 0

def trBlock (s : State) (x : Tr) : List Byte := if trBlockLen x.mode = 0 then [] else blockOf s x.op (trBlockLen x.mode)

/-- The tensor of a Cloth block: element code, n, c, h, w (R343). -/
def clothDims (p : List Byte) : Nat × Nat × Nat × Nat × Nat := (u32 p 0, u16 p 4, u16 p 6, u16 p 8, u16 p 10)

/-- The blocks that a Cloth tensor holds (R257). -/
def clothBlocks (p : List Byte) : Nat :=
  let (_, n, c, h, w) := clothDims p
  n * ceilDiv c 16 * ceilDiv h 16 * ceilDiv w 16

/-- The compressed size of a block (R257). -/
def clothSize (f : Nat) (fine : Bool) : Nat := 4096 * fmtBits f / 8 * (if fine then 5 else 4) / 8

/-- The first segment and the header of a mode 2 transfer. -/
def trHead (s : State) (x : Tr) : List Byte := peek s (addrOf s x.src) 64

/-- Whether a TRANSFER has a work extent of zero (R201, R344). -/
def trEmpty (s : State) (x : Tr) : Bool :=
  x.length == 0 || x.rows == 0 || (x.mode == 2 && fp4FixedOk (trHead s x) && (fp4Head (trHead s x)).count == 0)

/-- Row bytes at the source and at the destination. -/
def trRowBytes (s : State) (x : Tr) : Nat × Nat :=
  let p := trBlock s x
  match x.mode with
  | 0 => (x.length, x.length)
  | 1 => (packedBytes (fwElem (u32 p 0)) x.length, packedBytes (fwElem (u32 p 4)) x.length)
  | 2 =>
    let h := fp4Head (trHead s x)
    let ws := min (4096 * x.length) (h.count - 4096 * u32 p 0)
    (64 + 8 * h.segments + h.dataBytes, ws / 2)
  | 3 =>
    let (f, n, c, hh, w) := clothDims p
    (packedBytes f (layoutElems 0 n c hh w), x.length * clothSize f (bit x.flags 2))
  | 4 =>
    let (f, n, c, hh, w) := clothDims p
    (x.length * clothSize f (bit x.flags 2), packedBytes f (layoutElems 0 n c hh w))
  | _ => (0, x.length)

/-- The span of rows at a stride. -/
def rowsLen (rows stride n : Nat) : Nat := if rows = 0 ∨ n = 0 then 0 else (rows - 1) * stride + n

/-- Lengths of the source span and of the destination span. -/
def trSpanLens (s : State) (x : Tr) : Nat × Nat :=
  if trEmpty s x then (0, 0)
  else let b := trRowBytes s x; (rowsLen x.rows x.ss b.1, rowsLen x.rows x.ds b.2)

/-- The base of a destination: the address field, or the open slot plus the offset (R343, R346). -/
def dstField (slot : Option Nat) (dst : Nat) : Nat :=
  match slot with
  | some b => b + dst
  | none => dst

/-- The address of the open slot of a ring, where the descriptor names one. -/
def openSlotOf (s : State) (ring : Nat) : Option Nat :=
  if ring = 0xFFFF then none else (mget s.rings ring).map fun v => slotAddr v 0

/-- Whether a slot ring number names a ring that is set up, or none. -/
def ringNamed (s : State) (ring : Nat) : Bool := ring == 0xFFFF || (mget s.rings ring).isSome

/-- The bytes of a slot of a ring. -/
def slotBytesOf (s : State) (ring : Nat) : Nat := ((mget s.rings ring).map (·.slotBytes)).getD 0

/-- Whether a write into a slot stays below slot_bytes (R347). -/
def slotFits (s : State) (ring dst len : Nat) : Bool := ring == 0xFFFF || len == 0 || decide (dst + len ≤ slotBytesOf s ring)

/-- The arrays of a mode 1 transfer: scales and groups of source and destination. -/
def cvtArrays (x : Tr) (p : List Byte) : List (Nat × Nat) :=
  let nb := x.rows * (x.length / 32)
  let fs := u32 p 0
  let fd := u32 p 4
  [(if fwScale fs = 0 then 0 else u64 p 8, nb), (if fwScale fd = 0 then 0 else u64 p 16, nb),
   (if fwGroup fs = 0 then 0 else u64 p 24, groupBytes fs nb), (if fwGroup fd = 0 then 0 else u64 p 32, groupBytes fd nb)]

/-- The checks of a mode's operand block fields (R343, R344). DESIGN CHOICE (notes/assumptions/17.md): a transfer of modes 3 and 4 whose
length differs from the block count fails even where one of the two is 0; only rows 0 passes without that test. DEDUCED
(notes/assumptions/28.md): mode 1 takes the formats of tensor operands alone. -/
def trModeOk (s : State) (inPlan : Bool) (x : Tr) (p : List Byte) : Bool :=
  match x.mode with
  | 0 => x.op == 0
  | 1 =>
    let fs := u32 p 0
    let fd := u32 p 4
    fwOk false false fs && fwOk true false fd && tensorFmt fs && tensorFmt fd && packOk (fwElem fs) x.length && packOk (fwElem fd) x.length &&
    (!(fwScaled fs || fwScaled fd) || x.length % 32 == 0) && (cvtArrays x p).all fun a => fieldOkOr0 s inPlan a.1 a.2
  | 2 => decide (x.rows ≤ 1)
  | 5 => x.op == 0
  | _ => [0x01, 0x02, 0x03, 0x04].contains (u32 p 0) && decide (x.rows ≤ 1) && (x.rows == 0 || x.length == clothBlocks p)

/-- Whether the range of a mode 2 transfer stays below the segments field (R344). An image whose fixed fields are wrong is met later,
with CODE_CORRUPT. -/
def fp4RangeOk (s : State) (x : Tr) (p : List Byte) : Bool :=
  x.mode != 2 || x.length == 0 || x.rows == 0 || !fp4FixedOk (trHead s x) || (fp4Head (trHead s x)).count == 0 ||
  decide (u32 p 0 + x.length ≤ (fp4Head (trHead s x)).segments)

/-- Whether a queue lies in the scope of the debug token in force at a level (R518, R519). -/
def inScope (s : State) (level q : Nat) : Bool :=
  decide (level ≤ s.sec.level) && s.sec.token.any fun t => decide (t.firstQueue ≤ q ∧ q < t.firstQueue + t.queueCount)

/-- The reads that a debug level grants beyond R303 and R342: trace buffers and activity counters in the reserved region from D1 on, the
SRAM of vats that run a plan job of a queue in scope from D2 on (R518). -/
def debugRead (s : State) (q v len : Nat) : Bool :=
  match laddr s v with
  | some (.hbm x) => inScope s 1 q && decide (0x74000000 ≤ x ∧ x + len ≤ reservedEnd)
  | some (.sram vat off) =>
    inScope s 2 q && decide (off + len ≤ sramBytes) &&
    s.plan.job.any fun j => inScope s 2 j.queue && (planSetOf s j.planSet).any fun p => p.units.contains { cls := 0, num := vat }
  | _ => false

/-- Whether a queue's TRANSFER may read a span. -/
def trSrcOk (s : State) (inPlan : Bool) (q v len : Nat) : Bool := fieldOk s inPlan v len || (!inPlan && debugRead s q v len)

/-- Checks 4 and 5 of R588 for TRANSFER. -/
def trCheck (s : State) (inPlan : Bool) (q : Nat) (d : List Byte) : Option Status :=
  let x := trOf d
  let p := trBlock s x
  let bl := trBlockLen x.mode
  let lens := trSpanLens s x
  let dst := dstField (openSlotOf s x.ring) x.dst
  let full := !slotFits s x.ring x.dst lens.2
  let blkReserved := match x.mode with
    | 1 => zeros p 44 4 && fwReservedOk (u32 p 0) && fwReservedOk (u32 p 4)
    | 2 => zeros p 4 12
    | 3 => zeros p 12 4
    | 4 => zeros p 12 4
    | _ => true
  firstFail [
    (zeros d 52 4 && x.flags / 8 == 0, .reservedNonzero),
    (decide (x.mode ≤ 5) && (bl == 0 || fieldOk s inPlan x.op bl), .invalidArgument),
    (bl == 0 || blockClean s inPlan x.op bl, .poisonedData),
    (blkReserved, .reservedNonzero),
    (ringNamed s x.ring && trModeOk s inPlan x p, .invalidArgument),
    (x.mode == 5 || trSrcOk s inPlan q x.src (if x.mode = 2 && !trEmpty s x then 64 else 0), .invalidArgument),
    (fp4RangeOk s x p, .invalidArgument),
    (decide (x.rows ≤ 1) || decide ((trRowBytes s x).2 ≤ x.ds ∧ (x.mode = 5 ∨ (trRowBytes s x).1 ≤ x.ss)), .invalidArgument),
    (x.mode == 5 || trSrcOk s inPlan q x.src lens.1, .invalidArgument),
    (full || fieldOk s inPlan dst lens.2, .invalidArgument),
    (x.mode == 5 || full || !overlaps (addrOf s x.src) lens.1 (addrOf s dst) lens.2, .invalidArgument)]

/-! ### The modes (R344) -/

/-- Bytes at an address with the poison of each. -/
def copyChunk (s : State) (a dst : LAddr) (n : Nat) : Chunk :=
  { addr := dst, data := peek s a n, poison := peekPoison s a n }

/-- Whether any chunk carries poison. -/
def anyBad (cs : List Chunk) : Bool := cs.any fun c => c.poison.any id

/-- The bytes of some chunks. -/
def chunkBytes (cs : List Chunk) : Nat := (cs.map (·.data.length)).sum

/-- A result of chunks: POISONED_DATA where one is bad, the bytes written as detail (R319, R335). -/
def chunksRes (cs : List Chunk) : DataRes :=
  { status := dataStatus (anyBad cs), detail := min (2 ^ 32 - 1) (chunkBytes cs), writes := cs, sticky := 0 }

/-- Mode 0: copy; mode 5: fill. -/
def trCopy (s : State) (x : Tr) (dst : LAddr) : DataRes :=
  chunksRes ((List.range x.rows).map fun r =>
    if x.mode = 5 then
      byteChunk (laPlus dst (r * x.ds)) ((List.range x.length).map fun i => BitVec.ofNat 8 (x.src / 2 ^ (8 * (i % 8)))) false
    else copyChunk s (laPlus (addrOf s x.src) (r * x.ss)) (laPlus dst (r * x.ds)) x.length)

/-- Mode 1: convert. -/
def trConvert (s : State) (x : Tr) (p : List Byte) (dst : LAddr) : DataRes :=
  let fs := u32 p 0
  let fd := u32 p 4
  let oi := operandOf s fs x.src (u64 p 8) (u64 p 24) 0
  let oo := { operandOf s fd 0 (u64 p 16) (u64 p 32) 0 with base := dst }
  let nb := x.length / 32
  let rows := (List.range x.rows).map fun r =>
    let els := (List.range x.length).map fun j => readElem s oi (8 * (r * x.ss) + j * fmtBits (fwElem fs))
    let sc (j : Nat) : (Val × Bool) × (Val × Bool) :=
      if fwScaled fs then (readScale s oi (r * nb + j / 32), readGroup s oi (r * nb + j / 32)) else ((.one, false), (.one, false))
    let vals := (els.zip (upFrom 0 x.length)).map fun e =>
      let c := sc e.2
      let v := if fwScaled fs then scaledValue e.1.v c.1.1 c.2.1 else e.1.v
      (({ v := v, bad := e.1.bad || c.1.2 || c.2.2, idx := r * x.length + e.2 } : OutVal), e.1.flushed, c.1.1.isNan || c.2.1.isNan)
    let cv := convertRow s oo (u32 p 40) (r * nb) (vals.map (·.1))
    (vals, cv, rowWrites oo (laPlus dst (r * x.ds)) (r * nb) cv)
  let t := countConv (rows.flatMap (·.2.1.1))
  let t := { t with flushed := t.flushed + (rows.flatMap (·.1)).countP (·.2.1), nan := t.nan + (rows.flatMap (·.1)).countP (·.2.2) }
  let cs := rows.flatMap (·.2.2)
  { status := dataStatus (anyBad cs), detail := min (2 ^ 32 - 1) (x.rows * packedBytes (fwElem fd) x.length), writes := cs,
    sticky := stickyOf t }

/-- The offset entries of an image and whether each is poisoned. -/
def fp4Offsets (s : State) (x : Tr) (n : Nat) : List (Nat × Bool) :=
  (List.range n).map fun k =>
    let a := laPlus (addrOf s x.src) (64 + 8 * k)
    (leNat (peek s a 8), anyPoison s a 8)

/-- One segment of a mode 2 transfer: none where it is invalid, otherwise its chunk. `after` says that an earlier segment read
poison. -/
def fp4Chunk (s : State) (x : Tr) (h : Fp4Head) (offs : List (Nat × Bool)) (dst : LAddr) (first j : Nat) (after : Bool) :
    Option Chunk :=
  let n := min 4096 (h.count - 4096 * j)
  let a := offs.getD j (0, false)
  let b := if j + 1 < h.segments then offs.getD (j + 1) (0, false) else (h.dataBytes, false)
  let at_ := laPlus (addrOf s x.src) (64 + 8 * h.segments + a.1)
  let out := laPlus dst (2048 * (j - first))
  if after || a.2 || b.2 || anyPoison s at_ (b.1 - a.1) then
    some (byteChunk out ((List.range (n / 2)).map fun i => Config.freeByte (s.free + 2048 * (j - first) + i)) true)
  else (fp4Segment (fp4Words h.lens) n (peek s at_ (b.1 - a.1))).map fun cs => byteChunk out (packCodes 0x07 cs) false

/-- The segments from one on, until one is invalid: the chunks, and whether all were valid. -/
def fp4Chunks (s : State) (x : Tr) (h : Fp4Head) (offs : List (Nat × Bool)) (dst : LAddr) (first : Nat) :
    List Nat → Bool → List Chunk × Bool
  | [], _ => ([], true)
  | j :: r, after =>
    match fp4Chunk s x h offs dst first j after with
    | none => ([], false)
    | some c =>
      let rest := fp4Chunks s x h offs dst first r (after || c.poison.any id)
      (c :: rest.1, rest.2)

/-- Mode 2: expand coded FP4. -/
def trExpand (s : State) (x : Tr) (p : List Byte) (dst : LAddr) : DataRes :=
  let hb := trHead s x
  let h := fp4Head hb
  let first := u32 p 0
  let headBad := anyPoison s (addrOf s x.src) 64
  let offs := fp4Offsets s x h.segments
  if !headBad && (!fp4HeadOk hb || (!(offs.any (·.2)) && !fp4OffsetsOk (offs.map (·.1)) h.dataBytes)) then .fail .codeCorrupt
  else
    let r := fp4Chunks s x h offs dst first (upFrom first x.length) headBad
    { status := if !r.2 then .codeCorrupt else dataStatus (anyBad r.1), detail := min (2 ^ 32 - 1) (chunkBytes r.1), writes := r.1,
      sticky := 0, used := 2048 * x.length }

/-- The elements of a Cloth block: (n, c, h, w) for each, none beyond a dimension (R257). -/
def clothElems (p : List Byte) (b : Nat) : List (Option (Nat × Nat × Nat × Nat)) :=
  let (_, _, c, h, w) := clothDims p
  let bw := ceilDiv w 16
  let bh := ceilDiv h 16
  let bc := ceilDiv c 16
  let n := b / (bc * bh * bw)
  (List.range 4096).map fun e =>
    let cc := b / (bh * bw) % bc * 16 + e / 256
    let hh := b / bw % bh * 16 + e / 16 % 16
    let ww := b % bw * 16 + e % 16
    if cc < c ∧ hh < h ∧ ww < w then some (n, cc, hh, ww) else none

/-- The byte offset of an element of the NC16HW tensor of a Cloth block. -/
def clothOff (p : List Byte) (e : Nat × Nat × Nat × Nat) : Nat :=
  let (f, _, c, h, w) := clothDims p
  layoutIdx 0 c h w e.1 e.2.1 e.2.2.1 e.2.2.2 * fmtBits f / 8

/-- The compressed forms of a block of zeros and of a block that holds an infinity or a NaN: free, and not the same (R258). -/
def clothForms (f : Nat) (fine : Bool) : List Byte × List Byte :=
  let zero := padTo (clothSize f fine) (Config.clothZero f fine)
  let nan := padTo (clothSize f fine) (Config.clothNan f fine)
  (zero, if nan = zero then nan.modify 0 (· ^^^ 1) else nan)

/-- The compressed form of a block of codes (R258, R259): internal to the part, so a free value. -/
def clothPack (f : Nat) (fine : Bool) (codes : List Nat) : List Byte :=
  if codes.any fun c => (decodeElem f c).isNan || (decodeElem f c).isInf then (clothForms f fine).2
  else if codes.all fun c => (decodeElem f c).isZero then (clothForms f fine).1
  else padTo (clothSize f fine) (Config.clothBlock f fine codes)

/-- The codes to which a compressed block expands (R258): zeros, the canonical NaN in every element, or free values, whose error bound of
R258 is not modelled (notes/assumptions/17.md). -/
def clothUnpack (f : Nat) (fine : Bool) (bytes : List Byte) : Nat → Nat :=
  let codes := Config.clothExpand f fine bytes
  fun i =>
    if bytes = (clothForms f fine).1 then 0
    else if bytes = (clothForms f fine).2 then ((floatFmt f).map (·.nanCode)).getD 0
    else codes.getD i 0 % 2 ^ fmtBits f

/-- Mode 3: Cloth compress. -/
def trCompress (s : State) (x : Tr) (p : List Byte) (dst : LAddr) : DataRes :=
  let f := u32 p 0
  let fine := bit x.flags 2
  let size := clothSize f fine
  let src := addrOf s x.src
  chunksRes ((List.range x.length).map fun b =>
    let es := clothElems p b
    let codes := es.map fun e => (e.map fun e => codeAt s f src (8 * clothOff p e)).getD 0
    let bad := es.any fun e => (e.map fun e => badAt s f src (8 * clothOff p e)).getD false
    byteChunk (laPlus dst (b * size)) (clothPack f fine codes) bad)

/-- Mode 4: Cloth expand. -/
def trClothExpand (s : State) (x : Tr) (p : List Byte) (dst : LAddr) : DataRes :=
  let f := u32 p 0
  let fine := bit x.flags 2
  let size := clothSize f fine
  let src := addrOf s x.src
  let parts := (List.range x.length).map fun b =>
    let a := laPlus src (b * size)
    let codes := clothUnpack f fine (peek s a size)
    let bad := anyPoison s a size
    ((clothElems p b).zip (upFrom 0 4096)).filterMap fun e => e.1.map fun pos =>
      (codes e.2, codeChunk f (laPlus dst (clothOff p pos)) [codes e.2] [bad])
  let cs := parts.flatten.map (·.2)
  let nans := parts.flatten.countP fun c => (decodeElem f c.1).isNan
  { chunksRes cs with sticky := stickyOf { Stats.zero with nan := nans } }

/-- The result of a TRANSFER whose open slot, if it writes one, lies at `slot`. A write at or beyond slot_bytes fails with OUTPUT_FULL
and leaves the slot's written bytes undefined (R347). -/
def trResult (s : State) (x : Tr) (slot : Option Nat) : DataRes :=
  if trEmpty s x then chunksRes []
  else
    let lens := trSpanLens s x
    let dst := addrOf s (dstField slot x.dst)
    let p := trBlock s x
    if !slotFits s x.ring x.dst lens.2 then
      { DataRes.fail .outputFull with undef := [(dst, min lens.2 (slotBytesOf s x.ring - x.dst))] }
    else
      match x.mode with
      | 1 => trConvert s x p dst
      | 2 => trExpand s x p dst
      | 3 => trCompress s x p dst
      | 4 => trClothExpand s x p dst
      | _ => trCopy s x dst

/-- What a TRANSFER reads. -/
def trReads (s : State) (x : Tr) : List (LAddr × Nat) :=
  if trEmpty s x then []
  else
    let p := trBlock s x
    let src := addrOf s x.src
    match x.mode with
    | 0 => (List.range x.rows).map fun r => (laPlus src (r * x.ss), x.length)
    | 1 =>
      ((List.range x.rows).map fun r => (laPlus src (r * x.ss), (trRowBytes s x).1)) ++
      ((cvtArrays x p).zip (upFrom 0 4)).filterMap fun a =>
        if a.1.1 = 0 ∨ (a.2 = 1 ∧ fwSource (u32 p 4) = 1) then none else some (addrOf s a.1.1, a.1.2)
    | 2 =>
      let h := fp4Head (trHead s x)
      let offs := (fp4Offsets s x h.segments).map (·.1)
      (src, 64) :: (if h.segments = 0 then [] else [(laPlus src 64, 8 * h.segments)]) ++
      ((upFrom (u32 p 0) x.length).filterMap fun j =>
        let a := offs.getD j 0
        let b := if j + 1 < h.segments then offs.getD (j + 1) 0 else h.dataBytes
        if a < b ∧ b ≤ h.dataBytes then some (laPlus src (64 + 8 * h.segments + a), b - a) else none)
    | 5 => []
    | _ => [(src, (trRowBytes s x).1)]

/-- Whether a TRANSFER travels on the light path (R352, R435). -/
def trLight (s : State) (x : Tr) : Bool := x.mode == 0 && decide (x.length * x.rows ≤ 256 ∧ 16 < s.fabric.topology.modules)

/-- The slot address that an operation is bound to. -/
def slotOf (s : State) (q : Nat) (idx : U32) : Option Nat := ((getOp s q idx).bind (·.slot)).map (·.2)

/-- TRANSFER (R343, R344). -/
def execTransferOp (q : Nat) (idx : U32) (s : State) : State :=
  if opReady s q idx 1 0x01 then
    let x := trOf (descOf s q idx)
    runData q idx (cacheOf s q idx (bit x.flags 0)) (trLight s x) (trReads s x) (fun s => trResult s x (slotOf s q idx)) s
  else s

/-- Bytes that a TRANSFER reads and writes: its charge is the larger (R341). -/
def trCost (s : State) (x : Tr) : Nat :=
  if trEmpty s x then 0
  else
    let b := trRowBytes s x
    let reads := if x.mode = 2 then ((trReads s x).drop 2).map (·.2) |>.sum else ((trReads s x).map (·.2)).sum
    let scales := if x.mode = 1 && fwSource (u32 (trBlock s x) 4) == 1 && fwScale (u32 (trBlock s x) 4) != 0 then x.rows * (x.length / 32) else 0
    max reads (x.rows * b.2 + scales)

/-- The charge of a run of `n` segments from one of a mode 2 transfer: coded bytes and offset entries read, or bytes written (R341). -/
def fp4RunCost (s : State) (x : Tr) (j n : Nat) : Nat :=
  let h := fp4Head (trHead s x)
  let offs := (fp4Offsets s x h.segments).map (·.1)
  let last := if j + n < h.segments then offs.getD (j + n) 0 else h.dataBytes
  let entries := min (n + 1) (h.segments - j)
  max (last - offs.getD j 0 + 8 * entries) (min (4096 * n) (h.count - 4096 * j) / 2)

/-! ### GATHER (R345) -/

/-- The fields of a GATHER. -/
structure Ga where
  src : Nat
  dst : Nat
  count : Nat
  rb : Nat
  idx : Nat
  wide : Nat
  flags : Nat
  ring : Nat
  stride : Nat
  bound : Nat
  deriving DecidableEq, Repr, Inhabited

def gaOf (d : List Byte) : Ga :=
  { src := u64 d 16, dst := u64 d 24, count := u32 d 32, rb := u32 d 36, idx := u64 d 40, wide := u8 d 48, flags := u8 d 49,
    ring := u16 d 50, stride := u32 d 52, bound := u32 d 56 }

def gaScatter (x : Ga) : Bool := bit x.flags 0

/-- Bytes of an index entry. -/
def gaIdxBytes (x : Ga) : Nat := if x.wide = 1 then 8 else 4

/-- Spans of the dense side, the indexed side and the index stream (R344). -/
def gaDense (x : Ga) : Nat := x.count * x.rb
def gaIndexed (x : Ga) : Nat := if x.count = 0 ∨ x.bound = 0 then 0 else (x.bound - 1) * x.stride + x.rb
def gaIdxLen (x : Ga) : Nat := x.count * gaIdxBytes x

def gaSrcLen (x : Ga) : Nat := if gaScatter x then gaDense x else gaIndexed x
def gaDstLen (x : Ga) : Nat := if gaScatter x then gaIndexed x else gaDense x

/-- Checks 4 and 5 of R588 for GATHER. -/
def gaCheck (s : State) (inPlan : Bool) (d : List Byte) : Option Status :=
  let x := gaOf d
  let dst := dstField (openSlotOf s x.ring) x.dst
  let full := !slotFits s x.ring x.dst (gaDstLen x)
  firstFail [
    (x.flags / 8 == 0 && zeros d 60 4, .reservedNonzero),
    (decide (1 ≤ x.rb ∧ x.rb ≤ 1048576 ∧ x.wide ≤ 1 ∧ x.rb ≤ x.stride) && ringNamed s x.ring, .invalidArgument),
    (fieldOk s inPlan x.src (gaSrcLen x) && fieldOk s inPlan x.idx (gaIdxLen x), .invalidArgument),
    (full || fieldOk s inPlan dst (gaDstLen x), .invalidArgument),
    (full || (!overlaps (addrOf s x.src) (gaSrcLen x) (addrOf s dst) (gaDstLen x) &&
      !overlaps (addrOf s x.idx) (gaIdxLen x) (addrOf s dst) (gaDstLen x)), .invalidArgument)]

/-- The entries of the index stream until one is poisoned or out of range: the rows, and the status that ends them. -/
def gaEntries (s : State) (x : Ga) : List Nat → List (Nat × Nat) × Status
  | [] => ([], .ok)
  | k :: r =>
    let a := laPlus (addrOf s x.idx) (k * gaIdxBytes x)
    let i := leNat (peek s a (gaIdxBytes x))
    if anyPoison s a (gaIdxBytes x) then ([], .poisonedData)
    else if x.bound ≤ i then ([], .invalidArgument)
    else let rest := gaEntries s x r; ((k, i) :: rest.1, rest.2)

/-- The result of a GATHER (R345, R354). -/
def gaResult (s : State) (x : Ga) (slot : Option Nat) : DataRes :=
  if x.count = 0 then chunksRes []
  else
    let src := addrOf s x.src
    let dst := addrOf s (dstField slot x.dst)
    if !slotFits s x.ring x.dst (gaDstLen x) then
      { DataRes.fail .outputFull with undef := [(dst, min (gaDstLen x) (slotBytesOf s x.ring - x.dst))] }
    else
      let es := gaEntries s x (List.range x.count)
      let cs := es.1.map fun e =>
        if gaScatter x then copyChunk s (laPlus src (e.1 * x.rb)) (laPlus dst (e.2 * x.stride)) x.rb
        else copyChunk s (laPlus src (e.2 * x.stride)) (laPlus dst (e.1 * x.rb)) x.rb
      let all := if gaScatter x then (List.range x.bound).map fun i => (laPlus dst (i * x.stride), x.rb) else [(dst, gaDense x)]
      match es.2 with
      | .ok => chunksRes cs
      | .poisonedData =>
        { chunksRes cs with
          status := .poisonedData,
          undef := if gaScatter x then all else [(laPlus dst (es.1.length * x.rb), (x.count - es.1.length) * x.rb)] }
      | st => { DataRes.fail st with detail := min (2 ^ 32 - 1) (chunkBytes cs), undef := all }

/-- What a GATHER reads: the index stream and the source rows it names. -/
def gaReads (s : State) (x : Ga) : List (LAddr × Nat) :=
  if x.count = 0 then []
  else
    let src := addrOf s x.src
    (addrOf s x.idx, gaIdxLen x) ::
    (if gaScatter x then [(src, gaDense x)]
     else match addrOf s x.idx with
       | .remote _ _ => [(src, gaIndexed x)]
       | _ => ((gaEntries s x (List.range x.count)).1.map fun e => (laPlus src (e.2 * x.stride), x.rb)).eraseDups)

/-- GATHER (R345). -/
def execGatherOp (q : Nat) (idx : U32) (s : State) : State :=
  if opReady s q idx 1 0x02 then
    let x := gaOf (descOf s q idx)
    runData q idx (cacheOf s q idx (bit x.flags 1)) false (gaReads s x) (fun s => gaResult s x (slotOf s q idx)) s
  else s

/-- The charge of a GATHER: index bytes count as read bytes. -/
def gaCost (x : Ga) : Nat := if x.count = 0 then 0 else gaDense x + gaIdxLen x

/-! ### SLOT_FREE (R348) -/

/-- Checks 4 and 5 of R588 for SLOT_FREE. -/
def sfCheck (s : State) (d : List Byte) : Option Status :=
  firstFail [(zeros d 18 2 && zeros d 24 40, .reservedNonzero), ((mget s.rings (u16 d 16)).isSome, .invalidArgument)]

/-- SLOT_FREE (R348). -/
def execSlotFreeOp (q : Nat) (idx : U32) (s : State) : State :=
  if opReady s q idx 1 0x03 then
    let d := descOf s q idx
    match mget s.rings (u16 d 16) with
    | none => finishOp q idx .invalidArgument 0 s
    | some v =>
      if (v.tail - v.head).toNat < u32 d 20 then finishOp q idx .invalidArgument 0 s
      else finishOp q idx .ok 0 (freeSlots (u16 d 16) (u32 d 20) s)
  else s

end Sys2Proof.Machine
end

