-- ==== Sys2Proof/Machine/Crypto.lean ====
section
/-!
DEFINITION. SHA3-256 (FIPS 202), cSHAKE and KMAC (NIST SP 800-185), the two CRCs and Adler-32, as the rules that use them
name them (R94, R147, R392, R420, R499, R284).
-/

namespace Sys2Proof.Machine

/-! ### Keccak-f[1600] -/

/-- The exclusive-or of the five lanes of a column. -/
def column (a : List U64) (x : Nat) : U64 := [x, x + 5, x + 10, x + 15, x + 20].foldl (fun w i => w ^^^ a.getD i 0) 0

/-- theta: every lane takes the sum of the column before its own and of the turned column after it. -/
def mixColumns (a : List U64) : List U64 :=
  let sums := (List.range 5).map (column a)
  (List.range 25).map fun i => a.getD i 0 ^^^ sums.getD ((i + 4) % 5) 0 ^^^ (sums.getD ((i + 1) % 5) 0).rotateLeft 1

/-- The lane to which pi moves a lane; from lane 1 on, 24 such moves visit every lane but lane 0. -/
def laneAfter (i : Nat) : Nat := i / 5 + 5 * ((2 * (i % 5) + 3 * (i / 5)) % 5)

/-- rho and pi in one walk: the lane of each move turns by the next triangular number on its way. -/
def turnLanes (a : List U64) : List U64 :=
  ((List.range 24).foldl (fun (p : Nat × List U64) t =>
    (laneAfter p.1, p.2.set (laneAfter p.1) ((a.getD p.1 0).rotateLeft ((t + 1) * (t + 2) / 2)))) (1, a)).2

/-- chi, row by row. -/
def bendRows (a : List U64) : List U64 :=
  (List.range 5).flatMap fun y =>
    let row := (a.drop (5 * y)).take 5
    (List.range 5).map fun x => row.getD x 0 ^^^ (row.getD ((x + 2) % 5) 0 &&& ~~~ row.getD ((x + 1) % 5) 0)

/-- The shift register of iota, x^8 + x^6 + x^5 + x^4 + 1, one step on. -/
def shiftStep (r : Nat) : Nat := if 128 ≤ r then (2 * r) ^^^ 0x171 else 2 * r

/-- The constant of a round from the shift register, whose next seven bits stand at the places 2^j - 1, and the register after it. -/
def roundKey (r : Nat) : U64 × Nat :=
  (List.range 7).foldl (fun p j => (if p.2 % 2 = 1 then p.1 ||| (1 <<< (2 ^ j - 1)) else p.1, shiftStep p.2)) (0, r)

/-- Rounds of the permutation from a state of the shift register. -/
def keccakRounds : Nat → Nat → List U64 → List U64
  | 0, _, a => a
  | n + 1, r, a => keccakRounds n (roundKey r).2 ((bendRows (turnLanes (mixColumns a))).modify 0 (· ^^^ (roundKey r).1))

/-- The permutation of 24 rounds. -/
def keccakF (a : List U64) : List U64 := keccakRounds 24 1 a

/-! ### Sponge -/

/-- A block of bytes added into the state. -/
def absorbBlock (a : List U64) (b : List Byte) : List U64 :=
  (List.range 25).map fun i => a.getD i 0 ^^^ BitVec.ofNat 64 (u64 b (8 * i))

/-- Absorb the whole blocks of a message. -/
def absorb (rate : Nat) : Nat → List U64 → List Byte → List U64
  | 0, a, _ => a
  | n + 1, a, m => absorb rate n (keccakF (absorbBlock a (m.take rate))) (m.drop rate)

/-- The message with the pad10*1 of a domain byte. -/
def keccakPad (rate domain : Nat) (m : List Byte) : List Byte :=
  let gap := rate - m.length % rate
  if gap = 1 then m ++ [BitVec.ofNat 8 (domain + 128)]
  else m ++ [BitVec.ofNat 8 domain] ++ List.replicate (gap - 2) 0 ++ [0x80]

/-- Squeeze blocks of output. -/
def squeeze (rate : Nat) : Nat → List U64 → List Byte
  | 0, _ => []
  | n + 1, a => (a.flatMap fun w => leBytes 8 w.toNat).take rate ++ squeeze rate n (keccakF a)

/-- The sponge: rate in bytes, domain byte, output bytes. -/
def sponge (rate domain out : Nat) (m : List Byte) : List Byte :=
  let p := keccakPad rate domain m
  (squeeze rate (ceilDiv out rate) (absorb rate (p.length / rate) (List.replicate 25 0) p)).take out

/-- SHA3-256 (FIPS 202). -/
def sha3_256 (m : List Byte) : List Byte := sponge 136 0x06 32 m

/-! ### KMAC (NIST SP 800-185) -/

/-- The number of bytes of a value, at least one. -/
def byteCount (n : Nat) : Nat := max 1 (ceilDiv (Nat.size n) 8)

def leftEncode (n : Nat) : List Byte := BitVec.ofNat 8 (byteCount n) :: beBytes (byteCount n) n
def rightEncode (n : Nat) : List Byte := beBytes (byteCount n) n ++ [BitVec.ofNat 8 (byteCount n)]
def encodeString (m : List Byte) : List Byte := leftEncode (8 * m.length) ++ m

/-- Bytes with their width in front, filled to a multiple of it. -/
def bytepad (m : List Byte) (w : Nat) : List Byte :=
  let x := leftEncode w ++ m
  x ++ List.replicate (roundUp x.length w - x.length) 0

/-- cSHAKE with the function name KMAC at a rate: 168 for KMAC128, 136 for KMAC256. -/
def kmac (rate : Nat) (key msg : List Byte) (outBytes : Nat) (custom : String) : List Byte :=
  sponge rate 0x04 outBytes
    (bytepad (encodeString (ascii "KMAC") ++ encodeString (ascii custom)) rate ++
      bytepad (encodeString key) rate ++ msg ++ rightEncode (8 * outBytes))

def kmac128 (key msg : List Byte) (outBytes : Nat) (custom : String) : List Byte := kmac 168 key msg outBytes custom
def kmac256 (key msg : List Byte) (outBytes : Nat) (custom : String) : List Byte := kmac 136 key msg outBytes custom

/-! ### CRCs and Adler-32 -/

/-- Eight steps of a reflected CRC. -/
def crcByte (poly : U32) (c : U32) (b : Byte) : U32 :=
  (List.range 8).foldl (fun c _ => if c.getLsbD 0 then (c >>> 1) ^^^ poly else c >>> 1) (c ^^^ b.setWidth 32)

/-- A reflected CRC with initial value and final exclusive-or of all ones. -/
def crcOf (poly : U32) (m : List Byte) : U32 := m.foldl (crcByte poly) 0xFFFFFFFF ^^^ 0xFFFFFFFF

/-- CRC-32 of IEEE 802.3 (R420), also of gzip. -/
def crc32 (m : List Byte) : U32 := crcOf 0xEDB88320 m

/-- CRC-32C (R147). -/
def crc32c (m : List Byte) : U32 := crcOf 0x82F63B78 m

/-- Adler-32 continued from its two sums. -/
def adlerStep (ab : Nat × Nat) (b : Byte) : Nat × Nat :=
  let a := (ab.1 + b.toNat) % 65521
  (a, (ab.2 + a) % 65521)

/-- Adler-32 (RFC 1950). -/
def adler32 (m : List Byte) : Nat :=
  let (a, b) := m.foldl adlerStep (1, 0)
  b * 65536 + a

end Sys2Proof.Machine
end

