-- ==== Sys2Proof/Machine/Mailbox.lean ====
section
/-!
DEFINITION. The mailbox protocol: headers, the catalogue, the checks of R390, sessions' counters, forwarding, the order of
settings commands, responses and the history (R385-R402).
-/

namespace Sys2Proof.Machine

/-! ### The catalogue (R402) -/

/-- One row of the catalogue: critical, settings, payload bytes without the tag. -/
structure CatRow where
  critical : Bool
  settings : Bool
  payload : Nat
  deriving DecidableEq, Repr, Inhabited

/-- The catalogue of R402, with the payload lengths that the defining chapters give. -/
def catalogue : Nat → Option CatRow
  | 0x0001 | 0x0002 | 0x0003 | 0x0005 => some ⟨false, false, 0⟩
  | 0x0004 => some ⟨false, false, 3548⟩
  | 0x0101 => some ⟨false, false, 64⟩
  | 0x0102 => some ⟨false, false, 8⟩
  | 0x0103 | 0x0104 | 0x0105 | 0x0106 => some ⟨false, false, 32⟩
  | 0x0201 => some ⟨false, true, 32⟩
  | 0x0202 | 0x0301 | 0x0302 => some ⟨false, true, 8⟩
  | 0x0303 | 0x0305 => some ⟨false, true, 0⟩
  | 0x0304 => some ⟨false, true, 24⟩
  | 0x0401 | 0x0402 | 0x0403 => some ⟨false, true, 8⟩
  | 0x0404 => some ⟨true, true, 8⟩
  | 0x0501 => some ⟨true, true, 8⟩
  | 0x0502 => some ⟨false, true, 8⟩
  | 0x0601 => some ⟨true, true, 4064⟩
  | 0x0602 => some ⟨true, true, 8⟩
  | 0x0603 => some ⟨false, false, 0⟩
  | 0x0701 => some ⟨false, false, 40⟩
  | 0x0702 => some ⟨true, true, 1320⟩
  | 0x0703 => some ⟨true, true, 3804⟩
  | 0x0704 => some ⟨true, true, 104⟩
  | 0x0801 | 0x0802 | 0x0803 => some ⟨false, true, 8⟩
  | 0x0804 => some ⟨false, true, 16⟩
  | 0x0805 => some ⟨true, true, 8⟩
  | 0x0806 => some ⟨true, true, 32⟩
  | _ => none

/-- SESSION_INIT, SESSION_FINISH and SESSION_CLOSE (R402). -/
def isSessionCmd (op : Nat) : Bool := op == 3 || op == 4 || op == 5

/-! ### Headers (R388, R389) -/

/-- The 32 bytes of a command header. -/
def cmdHeaderBytes (op : Nat) (c : MbCall) : List Byte :=
  leBytes 2 op ++ leBytes 2 c.flags ++ leBytes 4 c.sequence ++ leBytes 4 c.length ++ leBytes 1 c.target ++
  leBytes 3 c.rsvd ++ leBytes 4 c.session ++ leBytes 4 (c.rsvd / 2 ^ 24) ++ leBytes 8 c.counter

/-- The call that a command buffer of R385 spells: header bytes and payload. -/
def callOf (m : Nat) (h p : List Byte) : Nat × MbCall :=
  (u16 h 0, { mb := m, flags := u16 h 2, sequence := u32 h 4, length := u32 h 8, target := u8 h 12,
              rsvd := leNat (slice h 13 3) + 2 ^ 24 * u32 h 20, session := u32 h 16, counter := u64 h 24, payload := p })

/-- The 32 bytes of a response header. -/
def rspHeaderBytes (c : Cmd) (st : Status) (length flags session steps : Nat) : List Byte :=
  leBytes 2 c.opcode ++ leBytes 2 (statusCode st) ++ leBytes 4 c.sequence ++ leBytes 4 length ++ leBytes 1 c.target ++
  leBytes 1 flags ++ leBytes 2 0 ++ leBytes 4 session ++ leBytes 4 steps ++ leBytes 8 c.counter

/-- The tag of a command (R392): over the header and the payload up to the tag. -/
def cmdTag (key header body : List Byte) : List Byte := kmac128 key (header ++ body) 16 "IZ2 MBOX CMD"

/-- The tag of a response (R392). -/
def rspTag (key header body : List Byte) : List Byte := kmac128 key (header ++ body) 16 "IZ2 MBOX RSP"

/-! ### Boxes and responses -/

def getBox (s : State) (m : Nat) : Mailbox := s.fmw.boxes.getD m Mailbox.idle

def modBox (m : Nat) (f : Mailbox → Mailbox) (s : State) : State :=
  { s with fmw := { s.fmw with boxes := s.fmw.boxes.modify m f } }

/-- The box that takes a command's response. Box m + 8 does not exist: it stands for host mailbox m whose response a function-level reset
discards (R465). -/
def boxOf : CmdSrc → Nat
  | .mailbox m => m
  | .forwarded _ mb => mb

/-- The mailbox number of a command's source, and its entry module. -/
def srcBox : CmdSrc → Nat
  | .mailbox m => m % 8
  | .forwarded _ mb => mb

def srcEntry (s : State) : CmdSrc → Nat
  | .mailbox _ => self s
  | .forwarded e _ => e

/-- The module runs a command to its end: its history holds the last 16 (R404). -/
def noteHistory (c : Cmd) (st : Status) (s : State) : State :=
  let e : HistEntry := { sequence := c.sequence, opcode := c.opcode, status := st, entry := srcEntry s c.src,
                         mailbox := srcBox c.src, counter := c.counter % 2 ^ 32 }
  { s with fmw := { s.fmw with history := (e :: s.fmw.history).take 16 } }

/-- Write a response into its mailbox: the response is there before DONE reads 1 and before the interrupt (R386). `flags` are
response flag bits 1 and 2; bit 0 and the tag follow from the command (R392). A SESSION_FINISH that opened its session gives
the session's number as its payload's first word; its response names that session, carries the tag alone and is keyed by the
new session (R395). -/
def writeResponse (m : Nat) (c : Cmd) (st : Status) (flags steps : Nat) (payload : List Byte) (s : State) : State :=
  let opened := c.opcode == 4 && st == .ok
  let session := if opened then leNat (payload.take 4) else c.session
  let payload := if opened then [] else payload
  let c := if opened then { c with
      tagged := true, rspKey := ((s.fmw.sessions.find? fun x => x.id == session).map (·.rspKey)).getD [] } else c
  let len := payload.length + (if c.tagged then 16 else 0)
  let h := rspHeaderBytes c st len (flags + b2n c.tagged) session steps
  let body := if c.tagged then payload ++ rspTag c.rspKey h payload else payload
  let s := modBox m (fun b => { b with
    busy := false, done := true, steps := min 0xFFFF steps, rspHeader := h, rspPayload := padTo 4096 body }) s
  let b := getBox s m
  if b.irqEn && m != 4 then raiseMsix b.vector s else s

/-- The broadcast block of R398. -/
def broadcastBlock (s : State) (results : List (Nat × Status)) : List Byte :=
  let present := upFrom 0 s.fabric.topology.modules
  let mask (p : Nat → Bool) : Nat := (present.map fun n => if p n then 2 ^ n else 0).foldl (· + ·) 0
  leBytes 8 (mask fun _ => true) ++ leBytes 8 (mask fun n => (alookup results n).getD .ok == .ok) ++
  (upFrom 0 64).flatMap fun n => leBytes 2 (if n < s.fabric.topology.modules then statusCode ((alookup results n).getD .ok) else 0)

/-- The status of a broadcast: OK when every module returned OK, otherwise that of the lowest-numbered module that did not (R398). -/
def broadcastStatus (n : Nat) (results : List (Nat × Status)) : Status :=
  ((upFrom 0 n).findSome? fun k =>
    match alookup results k with
    | some st => if st = .ok then none else some st
    | none => none).getD .ok

/-- Whether a forward is the one of a command. -/
def sameCmd (a b : Cmd) : Bool := decide (a.src = b.src) && a.sequence == b.sequence && a.opcode == b.opcode

/-! ### Effective ticks of a configuration (R44, R101, R351, R412, R546) -/

/-- The commands for which the entry module fixes one effective tick for every module: CULTURE_COMMIT, INDEX_COMMIT, TICK_CONFIG, BW_SPLIT
and FW_ACTIVATE. -/
def fixesTick (op : Nat) : Bool := [0x0303, 0x0305, 0x0401, 0x0402, 0x0602].contains op

/-- Where the effective tick stands in the response payload of such a command. -/
def tickOffset (op : Nat) : Nat := if op = 0x0303 ∨ op = 0x0305 then 8 else 0

/-- The effective tick of a response payload; a refusal and an activation at reset hold none. -/
def payloadTick (op : Nat) (payload : List Byte) : Option Nat :=
  if fixesTick op && payload.length == tickOffset op + 8 then some (u64 payload (tickOffset op)) else none

/-- A response payload with the effective tick that has been fixed. -/
def withTick (op tick : Nat) (payload : List Byte) : List Byte :=
  if (payloadTick op payload).isSome then payload.take (tickOffset op) ++ leBytes 8 tick else payload

/-- Whether a pending change that a command asked for is due at a count. -/
def effectDue (s : State) (op eff count : Nat) : Bool := decide (eff ≤ count) && !s.fmw.unfixed.contains op

/-- A command of this module has an effective tick of its own, or, as part of a broadcast, awaits the one that the entry module fixes. -/
def noteFixed (c : Cmd) (payload : List Byte) (s : State) : State :=
  if (payloadTick c.opcode payload).isSome then
    { s with fmw := { s.fmw with unfixed := if c.target = 0xFF then sadd s.fmw.unfixed c.opcode else sdel s.fmw.unfixed c.opcode } }
  else s

/-- The effective tick that the entry module has fixed, in the head's count, replaces that of the pending change. -/
def fixEffect (op tick : Nat) (s : State) : State :=
  if !s.fmw.unfixed.contains op then s
  else
    let eff := ownTick s tick
    let s := { s with fmw := { s.fmw with unfixed := sdel s.fmw.unfixed op } }
    if op = 0x0303 then { s with culture := { s.culture with commitAt := s.culture.commitAt.map fun _ => eff } }
    else if op = 0x0305 then { s with index := { s.index with commitAt := s.index.commitAt.map fun _ => eff } }
    else if op = 0x0401 then { s with tick := { s.tick with next := s.tick.next.map fun n => (eff, n.2) } }
    else if op = 0x0402 then { s with fmw := { s.fmw with bwNext := s.fmw.bwNext.map fun n => (eff, n.2) } }
    else { s with fw := { s.fw with live := s.fw.live.map fun n => (n.1, eff) } }

/-- An effective tick reaches this module: of a change of a broadcast, or of a plan set replacement that the head applies on it, which
names its new plan set as PLAN_SET_REPLACE does (R412, R539). -/
def takeEffective (op tick : Nat) (payload : List Byte) (s : State) : State :=
  if op = 0x0804 then
    if s.plan.job.isSome then
      { s with plan := { s.plan with replace := some { newSet := u32 payload 8, earliest := ownTick s tick } } }
    else s
  else fixEffect op tick s

/-- The entry module fixes the effective tick of a broadcast, counted from the tick in which the last module completed, for itself and for
every module that completed. -/
def fixBroadcast (f : Forwarding) (s : State) : State :=
  if f.effective = 0 then s
  else
    (f.results.filter fun r => r.2 == .ok && r.1 != self s).foldl (fun s r => emit (.effectiveTick r.1 f.cmd.opcode f.effective) s)
      (fixEffect f.cmd.opcode f.effective s)

/-- A forward with the response of one of its targets. -/
def Forwarding.answer (f : Forwarding) (payload : List Byte) : Forwarding :=
  { f with effective := max f.effective ((payloadTick f.cmd.opcode payload).getD 0) }

/-- A forward whose answers are all there gives its response (R397, R398). -/
def settleForward (f : Forwarding) (s : State) : State :=
  if f.awaited.isEmpty && f.ownDone then
    let s := { s with fmw := { s.fmw with forwards := s.fmw.forwards.filter fun g => !sameCmd g.cmd f.cmd } }
    let s := if f.cmd.target = 0xFF then fixBroadcast f s else s
    let m := boxOf f.cmd.src
    let unknown := f.results.any fun r => r.2 == .moduleUnreachable || r.2 == .moduleLost
    let flags := 2 * b2n (f.results.any fun r => r.1 != self s) + 4 * b2n unknown
    if f.cmd.target = 0xFF then
      writeResponse m f.cmd (broadcastStatus s.fabric.topology.modules f.results) flags 0
        (broadcastBlock s f.results ++ withTick f.cmd.opcode f.effective f.ownPayload) s
    else
      writeResponse m f.cmd ((f.results.head?.map (·.2)).getD .ok) flags 0 f.ownPayload s
  else { s with fmw := { s.fmw with forwards := s.fmw.forwards.map fun g => if sameCmd g.cmd f.cmd then f else g } }

/-- A command that this module ran has completed: recorded, then answered in its mailbox, to its entry module, or as this
module's part of a broadcast (R389, R397, R398, R404). -/
def finishCmd (c : Cmd) (st : Status) (steps : Nat) (payload : List Byte) (s : State) : State :=
  let s := noteHistory c st s
  match c.src with
  | .forwarded e _ => emit (.response e c.sequence st payload) (noteFixed c payload s)
  | .mailbox m =>
    if c.target = 0xFF then
      match s.fmw.forwards.find? fun f => sameCmd f.cmd c with
      | some f =>
        settleForward { f.answer payload with results := aset f.results (self s) st, ownPayload := payload, ownDone := true }
          (noteFixed c payload s)
      | none => writeResponse m c st 0 steps payload s
    else writeResponse m c st 0 steps payload (noteFixed c payload s)

/-! ### Handlers -/

/-- What a handler gives: a response now, or a command that keeps its mailbox BUSY. -/
inductive HRes where
  | done (st : Status) (payload : List Byte) (s : State)
  | later (s : State)
  deriving Repr

/-- A handler runs one command past its checks. -/
abbrev Handler := Cmd → State → HRes

/-- A handler's refusal: nothing changes. -/
def deny (st : Status) (s : State) : HRes := .done st [] s

/-- Give the turn to the first waiting settings command's place: the running one has ended. -/
def endTurn (s : State) : State := { s with fmw := { s.fmw with running := none } }

/-- Run a settings command whose turn has come (R400). -/
def startSettings (h : Handler) (c : Cmd) (s : State) : State :=
  let s := { s with fmw := { s.fmw with running := some { cmd := c, bytesLeft := 0, steps := 0, stepTick := 0, asked := false, reqs := [], status := .ok } } }
  match h c s with
  | .done st pl s => finishCmd c st 0 pl (endTurn s)
  | .later s => s

/-- Run a command on this module: settings commands one at a time in their order of arrival, others at once (R400). -/
def runCmd (h : Handler) (settings : Bool) (c : Cmd) (s : State) : State :=
  if settings then
    if s.fmw.running.isSome || !s.fmw.waiting.isEmpty then
      { s with fmw := { s.fmw with waiting := s.fmw.waiting ++ [c] } }
    else startSettings h c s
  else
    match h c s with
    | .done st pl s => finishCmd c st 0 pl s
    | .later s => s

/-- The next settings command takes its turn. -/
def nextSettings (h : Handler) (s : State) : State :=
  match s.fmw.running, s.fmw.waiting with
  | none, c :: r => startSettings h c { s with fmw := { s.fmw with waiting := r } }
  | _, _ => s

/-! ### Check 9: lifecycle, debug and power (R523-R527), recovery (R506, R562) -/

/-- The lifecycle state code (R507). -/
def lifecycle (s : State) : Nat :=
  if s.fuses.retired then 3 else if s.fuses.deployed then 2 else if s.fuses.provisioned then 1 else 0

/-- The recovery set of R506. -/
def inRecoverySet (op : Nat) : Bool := [1, 2, 3, 4, 5, 0x601, 0x603, 0x805].contains op

/-- R525: what the lifecycle state allows. LIFECYCLE_SET itself is decided by R508. -/
def lifecycleAllows (lc op : Nat) : Bool :=
  lc != 3 || [1, 2, 3, 4, 5, 0x701, 0x703, 0x603, 0x502, 0x501, 0x805].contains op

/-- R521, R527: what D3 forbids: SESSION_INIT, ATTEST, DEBUG_TOKEN and the commands that write the cave. -/
def debugAllows (level op : Nat) : Bool :=
  level != 3 || !([3, 0x701, 0x703, 0x404, 0x601, 0x602, 0x702, 0x704, 0x803].contains op)

/-- R526: what the power state allows. -/
def powerAllows (state op : Nat) : Bool :=
  match state with
  | 0 | 1 => true
  | 2 => !([0x201, 0x301, 0x304, 0x602, 0x803, 0x802, 0x804].contains op)
  | _ => [1, 2, 3, 4, 5, 0x701, 0x703, 0x702, 0x704, 0x404, 0x501, 0x502, 0x805, 0x403, 0x601, 0x603].contains op

/-- Check 9 of R390. -/
def allowed (s : State) (op : Nat) : Option Status :=
  if (s.sec.recovery || s.start.failed) && !inRecoverySet op then some .recoveryMode
  else if !lifecycleAllows (lifecycle s) op then some .lifecycleDenied
  else if !debugAllows s.sec.level op then some .debugDenied
  else if !powerAllows s.power.state op then some .powerDenied
  else none

/-! ### Checks 1-8 (R390) -/

/-- What checks 1-8 find: a failure with the command it is answered for, or the command, with the state in which its counter is
consumed. -/
inductive Entry where
  | fail (c : Cmd) (st : Status) (s : State)
  | pass (c : Cmd) (s : State)
  deriving Repr

/-- A tag or SESSION_FINISH signature check has failed: 16 within 1 s start the refusal of R513. -/
def authFailure (s : State) : State :=
  let now := s.tick.timebase
  let fs := now :: s.fmw.failures.filter fun t => now < t + 1000000000
  let lock := s.fmw.lockout || 16 ≤ fs.length
  let s := { s with fmw := { s.fmw with failures := fs, lockout := lock } }
  if lock && (s.fmw.lastFailEvent = 0 || s.fmw.lastFailEvent + 1000000000 ≤ now) then
    raise 0x0606 1 (leBytes 4 fs.length) { s with fmw := { s.fmw with lastFailEvent := max 1 now } }
  else s

/-- Checks 1-8 of R390 on a call, with the session counter consumed at check 7. -/
def entryChecks (op : Nat) (call : MbCall) (s : State) : Entry :=
  let tagged := bit call.flags 0
  let base : Cmd := { src := .mailbox call.mb, opcode := op, tagged := false, sequence := call.sequence,
                      target := call.target, session := call.session, counter := call.counter, payload := [], rspKey := [] }
  if 4096 < call.length ∨ (tagged ∧ call.length < 16) then .fail base .invalidArgument s
  else if call.flags / 2 ≠ 0 ∨ call.rsvd ≠ 0 then .fail base .reservedNonzero s
  else match catalogue op with
  | none => .fail base .invalidArgument s
  | some row =>
    if row.critical ∧ ¬ tagged then .fail base .authFail s
    else if !tagged then
      if call.target ≠ 0xFF ∧ ¬ inConfig s call.target = true then .fail base .invalidArgument s
      else .pass { base with payload := call.payload.take call.length } s
    else
      match s.fmw.sessions.find? fun x => x.id == call.session && x.isOpen with
      | none => .fail base .sessionInvalid s
      | some x =>
        let body := call.payload.take (call.length - 16)
        let tag := (call.payload.drop (call.length - 16)).take 16
        if cmdTag x.cmdKey (cmdHeaderBytes op call) body ≠ tag then .fail base .authFail (authFailure s)
        else
          let c := { base with tagged := true, payload := body, rspKey := x.rspKey }
          if call.counter ≤ x.lastCounter then .fail c .counterStale s
          else
            let x' := { x with lastCounter := call.counter, since := s.tick.timebase }
            let s := { s with fmw := { s.fmw with sessions := s.fmw.sessions.map fun y => if y.id == x.id then x' else y } }
            if call.target ≠ 0xFF ∧ ¬ inConfig s call.target = true then .fail c .invalidArgument s else .pass c s

/-! ### Running a command on its target -/

/-- Checks 9 and 10 at the target, then the command (R390, R397). `args` is check 10. -/
def targetRun (h : Handler) (args : State → Nat → List Byte → Option Status) (c : Cmd) (s : State) : State :=
  match allowed s c.opcode with
  | some st => finishCmd c st 0 [] s
  | none =>
    match args s c.opcode c.payload with
    | some st => finishCmd c st 0 [] s
    | none => runCmd h ((catalogue c.opcode).map (·.settings) |>.getD false) c s

/-- The forwarded form of a command (R397). -/
def forwardOf (s : State) (c : Cmd) : Forwarded :=
  { entry := self s, mailbox := srcBox c.src, opcode := c.opcode, sequence := c.sequence, counter := c.counter,
    target := c.target, payload := c.payload }

/-- Send a command past checks 1-8 to its targets (R397, R398). A target that cannot be reached gives the status of R443 with
the outcome unknown (R399). -/
def route (h : Handler) (args : State → Nat → List Byte → Option Status) (c : Cmd) (s : State) : State :=
  if c.target = self s ∨ (c.target = 0xFF ∧ s.fabric.topology.modules = 1) then
    if c.target = 0xFF then
      targetRun h args c
        { s with fmw := { s.fmw with forwards := s.fmw.forwards ++
          [{ cmd := c, awaited := [], results := [], ownPayload := [], ownDone := false }] } }
    else targetRun h args c s
  else
    let targets := if c.target = 0xFF then (upFrom 0 s.fabric.topology.modules).filter (· != self s) else [c.target]
    let up := targets.filter (reachable s)
    let dead := targets.filter fun m => !reachable s m
    let f : Forwarding := { cmd := c, awaited := up, results := dead.map fun m => (m, .moduleUnreachable), ownPayload := [],
                            ownDone := decide (c.target ≠ 0xFF) }
    let s := { s with fmw := { s.fmw with forwards := s.fmw.forwards ++ [f] } }
    let s := up.foldl (fun s m => emit (.forward m (forwardOf s c)) s) s
    if c.target = 0xFF then targetRun h args c s else settleForward f s

/-- Serve an accepted command: checks 1-8, then its targets. The session commands must target the entry module, and so must
TOPOLOGY_SET (R402, R431). -/
def serve (h : Handler) (args : State → Nat → List Byte → Option Status) (op : Nat) (call : MbCall) (s : State) : State :=
  match entryChecks op call s with
  | .fail c st s => writeResponse call.mb c st 0 0 [] s
  | .pass c s =>
    if (isSessionCmd op || op == 0x806) && c.target != self s then writeResponse call.mb c .invalidArgument 0 0 [] s
    else if op == 5 && !c.tagged then writeResponse call.mb c .sessionInvalid 0 0 [] s
    else route h args c s

/-- Whether a mailbox serves: the management mailbox once Mehrore or the guard core serves it, the host mailboxes from firmware
ready or a start failure, in A0-A2 (R387, R489, R506, R559, R562). -/
def boxServes (s : State) (m : Nat) : Bool :=
  if m = 4 then decide (5 ≤ s.start.seq) || s.sec.recovery || s.start.failed
  else (s.start.fwReady || s.start.failed) && s.power.state != 3 && decide (m < 4)

/-- Whether commands wait with BUSY set: every hub core halted (R528) or a live activation under way (R546). -/
def boxesPaused (s : State) : Bool := s.sec.halted == 7 || s.fw.live.isSome

/-- GO on a mailbox whose command buffer the host has filled (R386): accepted only while BUSY and DONE are 0, else REJECTED. -/
def submit (h : Handler) (args : State → Nat → List Byte → Option Status) (op : Nat) (call : MbCall) (s : State) : State :=
  let b := getBox s call.mb
  if !boxServes s call.mb then s
  else if b.busy || b.done then modBox call.mb (fun b => { b with rejected := true }) s
  else
    let s := modBox call.mb (fun b => { b with
      busy := true, steps := 0, cmdHeader := cmdHeaderBytes op call, cmdPayload := padTo 4096 call.payload }) s
    if boxesPaused s then { s with fmw := { s.fmw with parked := s.fmw.parked ++ [(op, call)] } }
    else serve h args op call s

/-- Serve the commands that waited while the mailboxes were paused (R528, R546). -/
def unpark (h : Handler) (args : State → Nat → List Byte → Option Status) (s : State) : State :=
  if boxesPaused s then s
  else s.fmw.parked.foldl (fun s p => serve h args p.1 p.2 s) { s with fmw := { s.fmw with parked := [] } }

end Sys2Proof.Machine
end

