-- ==== Sys2Proof/Machine/Culture.lean ====
section
/-!
DEFINITION. Culture set images, fingerprints, the banks with their staging, commit and retirement (R94-R103), package images and
plan set checks (R52, R53, R74, R409, R410).
-/

namespace Sys2Proof.Machine

/-! ### Culture set images (R94, R95) -/

/-- One CDF of an image from its directory entry; none where R94 or R95 is broken. -/
def parseCdf (version dataBytes : Nat) (dir data : List Byte) : Option Cdf :=
  let i := u16 dir 0
  let l := u16 dir 2
  let es := (List.range (l + 1)).map fun k => u16 data (2 * (i + k))
  if u16 dir 6 = 0 ∧ 3 ≤ l ∧ l ≤ (if version = 1 then 127 else 255) ∧ i + l < dataBytes / 2 ∧
      es.head? = some 0 ∧ es.getLast? = some 32768 ∧ ((es.zip (es.drop 1)).all fun p => decide (p.1 < p.2)) = true
  then some { vmin := i16 dir 4, cdf := es } else none

/-- A culture set image as R94 and R95 accept it. -/
def parseCulture (img : List Byte) : Option CultureSet :=
  let version := u16 img 4
  let n := u16 img 6
  let kind := u16 img 8
  let dataBytes := u32 img 12
  if u32 img 0 = 0x544C5543 ∧ (version = 1 ∨ version = 2) ∧ 1 ≤ n ∧ n ≤ (if version = 1 then 64 else 128) ∧ kind ≤ 2 ∧
      zeros img 10 2 = true ∧ zeros img 20 12 = true ∧ dataBytes % 2 = 0 ∧ 2 ≤ dataBytes ∧ dataBytes ≤ 65536 ∧
      img.length = 64 + 8 * n + dataBytes ∧ sha3_256 (img.drop 64) = slice img 32 32 then
    let data := img.drop (64 + 8 * n)
    let cdfs := (List.range n).map fun k => parseCdf version dataBytes (slice img (64 + 8 * k) 8) data
    if cdfs.all Option.isSome then
      some { version := version, kind := kind, setId := u32 img 16, cdfs := cdfs.filterMap id, image := img }
    else none
  else none

/-- The set of a kind: 0 y, 1 y-intra, 2 z. -/
def cultureSet (sets : List CultureSet) (kind : Nat) : Option CultureSet := sets.find? fun x => x.kind == kind

/-- The sets of a model as step 2 of R410 and R113 require them: one z, one y, a y-intra exactly when declared, no other, all of the
exact section's version. -/
def setsOk (m : ExactModel) (sets : List CultureSet) : Bool :=
  let count (k : Nat) := sets.countP fun x => x.kind == k
  count 2 == 1 && count 0 == 1 && count 1 == b2n m.hasIntra && sets.all fun x => x.version == m.version

/-- The exact fingerprint of a model (R96). -/
def fingerprint (m : PkgModel) : List Byte :=
  let img (k : Nat) := ((cultureSet m.sets k).map (·.image)).getD []
  sha3_256 (m.section_ ++ img 2 ++ img 0 ++ (if m.exact.hasIntra then img 1 else []))

/-! ### Plan sets (R51-R53, R74, R113, R282) -/

/-- The frequency of an operating point in MHz (R469). -/
def pointMhz (p : Nat) : Nat :=
  [1050, 1000, 950, 900, 850, 800, 750, 700, 650, 600, 550, 500, 450, 400, 375, 350].getD p 350

/-- A vat's current maximum in MHz (R28, R227). -/
def vatMhz (step : Nat) : Nat := 1050 + 25 * step

/-- Whether a unit runs on a fixed clock of 1.00 GHz: the hub's ladles and Press engines, and the ports' logic (R29). -/
def onHubClock (u : UnitId) : Bool := (u.cls == 3 && decide (64 ≤ u.num)) || u.cls == 4 || u.cls == 5

/-- The clock of a unit in MHz at a point: a unit of the hub at its fixed clock, a vat at P0 at its planned frequency, every other unit at
the point's frequency (R28, R29, R226). -/
def unitMhz (v : Variant) (u : UnitId) (p : Nat) : Nat :=
  if onHubClock u then 1000
  else if u.cls = 0 ∧ p = 0 then ((alookup v.planned u.num).getD 0 |> fun f => if f = 0 then 1050 else f) else pointMhz p

/-- The slack rule of R53: at every point from P0 to the lowest floor, every unit's cycles of every step fit in 97% of the tick
after the boundary window. -/
def slackOk (periodUs : Nat) (v : Variant) : Bool :=
  let tickNs := periodUs * 1000 * v.stretch / 16
  let deepest := (v.floors.map (·.2)).foldl max 0
  (upFrom 0 (deepest + 1)).all fun p => v.busy.all fun step => step.all fun b =>
    decide (b.2 * 1000 ≤ (tickNs - 2000 - ceilDiv (tickNs * 3) 100) * unitMhz v b.1 p)

/-- A list that does not decrease. -/
def rising (l : List Nat) : Bool := (l.zip (l.drop 1)).all fun p => decide (p.1 ≤ p.2)

/-- Every operation that a plan set fixes, in any variant. -/
def planOps (p : PlanSet) : List PlanOp := p.variants.flatMap fun v => v.work.flatten.flatMap (·.2)

/-- Whether an operation belongs to the exact path (R74). -/
def isExactOp : PlanOp → Bool
  | .exact _ _ _ _ _ => true
  | .records _ _ _ _ _ _ _ => true
  | .maskY _ _ _ _ _ _ _ => true
  | _ => false

/-- The exact tensors of an operation: those of an exact primitive, the rounded y or z, means, scale values and masked y (R74, R78). -/
def exactTensors : PlanOp → List Nat
  | .exact _ _ ins out _ => out :: ins.map (·.1)
  | .roundLatent _ dst _ => [dst]
  | .records _ _ _ mu sigma _ _ => [mu, sigma]
  | .maskY _ _ _ _ _ src dst => [src, dst]
  | _ => []

/-- What an operation of the analysis or synthesis regime writes, as far as it shows it (R74). -/
def floatWrites : PlanOp → List Nat
  | .vat d => match hOpcode d with
    | 0x10 => [u64 d 48]
    | 0x12 => [u64 d 48]
    | 0x13 => [u64 d 40]
    | 0x14 => [u64 d 48]
    | 0x15 => [u64 d 32]
    | 0x16 => [u64 d 32]
    | _ => []
  | .ladle d => if hOpcode d = 1 ∧ ((trOf d).mode = 1 ∨ (trOf d).mode = 4) then [(trOf d).dst] else []
  | .reduce _ out _ _ => [out.base]
  | .update _ outs _ _ => outs.map (·.2.base)
  | .whey w => [(wheyCv w).y]
  | .pcm _ _ _ _ out => [out.base]
  | _ => []

/-- Whether an update applies a special function. -/
def updUsesFunc : UpdExp → Bool
  | .src _ => false
  | .const _ => false
  | .neg a => updUsesFunc a
  | .add a b => updUsesFunc a || updUsesFunc b
  | .sub a b => updUsesFunc a || updUsesFunc b
  | .mul a b => updUsesFunc a || updUsesFunc b
  | .div a b => updUsesFunc a || updUsesFunc b
  | .func _ _ => true

/-- The tensors to which an operation applies a special function. -/
def functionReads : PlanOp → List Nat
  | .vat d => match hOpcode d with
    | 0x14 => [u64 d 40]
    | 0x15 => [u64 d 24]
    | 0x16 => [u64 d 24]
    | _ => []
  | .update srcs outs _ _ => if outs.any (fun o => updUsesFunc o.1) then srcs.map (·.base) else []
  | _ => []

/-- The tensors that an operation routes through Cloth (R260). -/
def clothTensors : PlanOp → List Nat
  | .ladle d => if hOpcode d = 1 ∧ ((trOf d).mode = 3 ∨ (trOf d).mode = 4) then [(trOf d).src, (trOf d).dst] else []
  | _ => []

/-- The tensors that an operation reads in a format that it shows, with the element code. -/
def formatReads : PlanOp → List (Nat × Nat)
  | .vat d => if hOpcode d = 0x14 then [(u64 d 40, fwElem (u32 d 20))] else if hOpcode d = 0x13 then [(u64 d 32, fwElem (u32 d 28))] else []
  | .roundLatent src _ _ => [(src.base, fwElem src.fw)]
  | .reduce srcs _ _ _ => srcs.map fun p => (p.base, fwElem p.fw)
  | .update srcs _ _ _ => srcs.map fun p => (p.base, fwElem p.fw)
  | .whey w => if w.pixIn = 0 then [((wheyCv w).x, fwElem (wheyCv w).fx)] else []
  | _ => []

/-- Whether an exact operation keeps the bounds of R81, and applies a version 1 lookup only in the version 1 arithmetic of a plan set that
names a version 1 model (R81, R282). -/
def exactOpOk (named : List ExactModel) : PlanOp → Bool
  | .exact v1 op _ _ wide => xopOk (!named.isEmpty && named.all fun m => m.kind == 1) wide op &&
    (!isV1Lookup op || (v1 && named.any fun m => m.version == 1))
  | _ => true

/-- Whether nothing of an exact plan set breaks one of the five causes of R74, or R282. -/
def exactPlanOk (named : List ExactModel) (p : PlanSet) : Bool :=
  let ops := planOps p
  let tensors := ops.flatMap exactTensors
  let clear (l : List Nat) : Bool := l.all fun a => !tensors.contains a
  clear (ops.flatMap clothTensors) && clear (ops.flatMap floatWrites) && clear (ops.flatMap functionReads) &&
  (ops.flatMap formatReads).all (fun a => !tensors.contains a.1 || a.2 == 0x11 || a.2 == 0x12 || a.2 == 0x13) &&
  ops.all (exactOpOk named)

/-- Whether a plan set keeps R50-R53, R74, R113, R242 and R282. `own` are the models that the package declares, `known` those of other
installed packages and of the active bank. -/
def planOk (own known : List (Nat × ExactModel)) (p : PlanSet) : Bool :=
  let named := p.models.flatMap fun i => match alookup own i with
    | some m => [m]
    | none => (known.filter fun e => e.1 == i).map (·.2)
  decide (1 ≤ p.stepCount ∧ p.stepCount ≤ 65536) && p.swaps.length == p.stepCount && (p.swaps.getLast?.getD false) &&
  decide (1 ≤ p.variants.length ∧ p.variants.length ≤ 8) &&
  rising (p.variants.map (·.stretch)) && p.variants.all (fun v => decide (16 ≤ v.stretch ∧ v.stretch ≤ 64)) &&
  p.variants.all (fun v => p.domain.all fun m => (alookup v.floors m).isSome) &&
  p.domain.all (fun m => rising (p.variants.map fun v => (alookup v.floors m).getD 0)) &&
  (p.variants.all fun v => v.digest == ((p.variants.head?.map (·.digest)).getD []) && v.digest.length == 16) &&
  (p.variants.all fun v => v.steps == ((p.variants.head?.map (·.steps)).getD []) && v.steps.length == p.stepCount) &&
  p.variants.all (slackOk (p.period * 10)) &&
  (!(p.pool.isSome || (planOps p).any isExactOp || !p.v1Lookups.isEmpty) || p.isExact) &&
  (!p.isExact || (p.exactClean && exactPlanOk named p)) &&
  p.wheyClean && (planOps p).all (fun op => match op with
    | .whey w => wheyOk w
    | _ => true) &&
  (!p.isEncode || !named.any fun m => m.version == 1) &&
  p.v1Lookups.all fun i => (own ++ known).any (fun e => e.1 == i && e.2.version == 1) &&
    match alookup own i with
    | some m => m.version == 1
    | none => true

/-! ### Package images (R409) -/

/-- One entry of the section directory. -/
structure Section where
  type : Nat
  id : Nat
  offset : Nat
  length : Nat
  deriving DecidableEq, Repr, Inhabited

/-- The section directory of an image. -/
def sectionsOf (img : List Byte) : List Section :=
  (List.range (u16 img 6)).map fun k =>
    let e := slice img (64 + 16 * k) 16
    { type := u16 e 0, id := u32 e 4, offset := u32 e 8, length := u32 e 12 }

/-- Numbers all different. -/
def distinct (l : List Nat) : Bool := decide l.Nodup

/-- Whether two sections share no byte. -/
def apart (a b : Section) : Bool := decide (a.offset + a.length ≤ b.offset ∨ b.offset + b.length ≤ a.offset ∨ a.length = 0 ∨ b.length = 0)

/-- Pairwise apart. -/
def allApart : List Section → Bool
  | [] => true
  | x :: r => r.all (apart x) && allApart r

/-- The rules of R409 on an image of a length. -/
def imageOk (img : List Byte) (len : Nat) : Bool :=
  let ss := sectionsOf img
  let n := u16 img 6
  u32 img 0 == 0x4B505A49 && u16 img 4 == 1 && decide (1 ≤ n ∧ n ≤ 256) && u32 img 8 == len && img.length == len &&
  zeros img 12 4 && zeros img 48 16 && sha3_256 (img.drop 64) == slice img 16 32 &&
  ((List.range n).all fun k => zeros img (64 + 16 * k + 2) 2) &&
  ss.all (fun x => decide (1 ≤ x.type ∧ x.type ≤ 4 ∧ 64 + 16 * n ≤ x.offset ∧ x.offset + x.length ≤ len)) && allApart ss &&
  distinct ((ss.filter fun x => x.type == 1).map (·.id)) && distinct ((ss.filter fun x => x.type == 3).map (·.id)) &&
  (ss.filter fun x => x.type == 2).all fun x => ss.any fun y => y.type == 1 && y.id == x.id

/-- The bytes of a section. -/
def sectionBytes (img : List Byte) (x : Section) : List Byte := slice img x.offset x.length

/-- Steps 1-4 of R410 on an image: a status, or the models and plan sets. `known` are the models that a plan set may name beside the
image's own (R113). -/
def validateImage (known : List (Nat × ExactModel)) (img : List Byte) (len : Nat) : Status × List PkgModel × List (Nat × PlanSet) :=
  if !imageOk img len then (.planInvalid, [], [])
  else
    let ss := sectionsOf img
    let cultures := (ss.filter fun x => x.type == 2).map fun x => (x.id, parseCulture (sectionBytes img x))
    let exacts := (ss.filter fun x => x.type == 1).map fun x => (x.id, sectionBytes img x, Config.decodeExact (sectionBytes img x))
    let plans := (ss.filter fun x => x.type == 3).map fun x => (x.id, Config.decodePlanSet (sectionBytes img x))
    let setsFor (i : Nat) := cultures.filterMap fun c => if c.1 == i then c.2 else none
    if cultures.any (fun c => c.2.isNone) || exacts.any (fun e => match e.2.2 with
        | some m => !setsOk m (setsFor e.1)
        | none => false) then (.cultureInvalid, [], [])
    else if exacts.any fun e => match e.2.2 with
        | some m => !exactOk m || m.zmap.any fun z => decide ((((cultureSet (setsFor e.1) 2).map (·.cdfs.length)).getD 0) ≤ z)
        | none => true then (.planInvalid, [], [])
    else
      let models := exacts.filterMap fun e => e.2.2.map fun m =>
        ({ id := e.1, section_ := e.2.1, exact := m, sets := setsFor e.1, exactAt := 0 } : PkgModel)
      if plans.any fun p => match p.2 with
          | some ps => !planOk (models.map fun m => (m.id, m.exact)) known ps
          | none => true then (.planInvalid, [], [])
      else (.ok, models, plans.filterMap fun p => p.2.map fun ps => (p.1, ps))

/-! ### Banks (R97-R103) -/

/-- The sampling entries of an operation that are admitted, bound to a generation, and have not begun (R99). -/
def grantedKeys (o : Op) (gen : Nat) : Nat :=
  if o.phase = .done then 0 else ((o.sample.grants.filter fun g => g.2.1 == gen).map (·.2.2)).sum

/-- The wheels that are bound to a generation: open contexts, admitted range coding operations that have bound a wheel and
not yet opened or closed it, and admitted sampling entries (R99). -/
def boundWheels (s : State) (gen : Nat) : Nat :=
  (s.rc.map fun e => (e.ctxs.filter fun c => c.2.bound && c.2.generation == gen).length).sum +
  (s.queues.map fun q =>
    if q.2.cls = 2 then q.2.ops.countP fun o => o.bound && o.epoch == gen
    else if q.2.cls = 4 then (q.2.ops.map fun o => grantedKeys o gen).sum else 0).sum

/-- The generation before the active one; the count wraps at 255 (R103). -/
def formerGen (g : Nat) : Nat := (g + 255) % 256

/-- The former generation retires once no wheel is bound to it (R101). -/
def retireCulture (s : State) : State :=
  if s.culture.shadowState = 1 ∧ boundWheels s (formerGen s.culture.generation) = 0 then
    raise 0x0201 0 (leBytes 1 (formerGen s.culture.generation))
      { s with culture := { s.culture with shadowState := 0, shadow := [] } }
  else s

/-- CULTURE_COMMIT takes effect (R101). -/
def commitCulture (s : State) : State :=
  match s.culture.commitAt with
  | none => s
  | some _ =>
    retireCulture { s with culture :=
      { s.culture with activeBank := 1 - s.culture.activeBank, generation := (s.culture.generation + 1) % 256,
                       active := s.culture.shadow, shadow := s.culture.active, shadowState := 1, commitAt := none } }

/-- The slots of 64 KiB that the sets of some models take (R95, R97): a bank of 1 MiB has 16 of them ("The engines" of Range coding). -/
def slotsUsed (ms : List ModelEntry) : Nat := (ms.map (·.sets.length)).sum

/-- The model entries in which CULTURE_STAGE and CULTURE_REMOVE act: a free shadow bank starts as a copy of the active one (R100). -/
def stagingBank (s : State) : List ModelEntry := if s.culture.shadowState = 0 then s.culture.active else s.culture.shadow

/-- Whether a stage or remove must still wait: a commit is pending or the shadow bank drains (R100, R102). -/
def cultureWaits (s : State) : Bool := s.culture.commitAt.isSome || s.culture.shadowState == 1

/-- Words of the table SRAM of some engines are written, which ends the errors in them; an armed injection acts on a word that is
(R139, R325, R326). -/
def tableWritten (engine : Nat → Bool) (word : Nat → Bool) (s : State) : State :=
  let v := s.memctl.inject.toNat
  let off := (s.memctl.injectLo.toNat + 2 ^ 32 * s.memctl.injectHi.toNat) / 32 * 32
  let here (source n o : Nat) : Bool := source == 3 && engine n && word o
  let hit := bit v 31 && here (bits v 27 24) (bits v 23 16) off
  let l : Latent := { symbols := if bits v 1 0 = 3 then 0 else bits v 1 0, symbol := bits v 15 8, mark := bits v 1 0 == 3, injected := true }
  let kept := s.memctl.sramLatent.filter fun x => !here x.1 x.2.1 x.2.2.1
  { s with memctl := { s.memctl with
    inject := if hit then s.memctl.inject &&& 0x7FFFFFFF#32 else s.memctl.inject,
    sramLatent := if hit && bits v 1 0 != 0 then kept ++ [(3, bits v 23 16, off, l)] else kept } }

/-- The bank and the slot of 64 KiB of a word of table SRAM: two banks of 1 MiB. -/
def tableBank (off : Nat) : Nat := off / 1048576
def tableSlot (off : Nat) : Nat := off % 1048576 / 65536

/-- The shadow bank as a stage leaves it: the first after a commit copies the active bank into it (R100), and the sets of the model that is
staged go to their slots, on every engine. -/
def setStaging (ms : List ModelEntry) (slots : List Nat) (s : State) : State :=
  let copied := s.culture.shadowState == 0
  let shadow := 1 - s.culture.activeBank
  tableWritten (fun n => decide (n < 16)) (fun o => tableBank o == shadow && (copied || slots.contains (tableSlot o)))
    { s with culture := { s.culture with shadow := ms, shadowState := 2 } }

/-- The lowest free slots of a bank of 16 for some sets (R95, R97, notes/assumptions/20.md). -/
def freeSlotsFor (keep : List ModelEntry) (n : Nat) : List Nat :=
  ((List.range 16).filter fun k => !(keep.any fun e => e.slots.contains k)).take n


/-- CULTURE_STAGE once its bank is free (R100, R102): validation, room, registration. -/
def stageModel (package : Nat) (p : PkgModel) (s : State) : State × Status :=
  let keep := (stagingBank s).filter fun e => e.id != p.id
  if p.sets.any (fun x => (parseCulture x.image).isNone) || !setsOk p.exact p.sets then (s, .cultureInvalid)
  else if !exactOk p.exact then (s, .planInvalid)
  else if 8 ≤ keep.length ∨ 16 < slotsUsed keep + p.sets.length then (s, .noCapacity)
  else
    let e : ModelEntry :=
      { id := p.id, package := package, fingerprint := fingerprint p, version := p.exact.version, sets := p.sets,
        slots := freeSlotsFor keep p.sets.length, exact := p.exact, exactAt := p.exactAt }
    (setStaging (keep ++ [e]) e.slots s, .ok)

/-- CULTURE_STATUS (R103). -/
def cultureStatus (s : State) : Nat :=
  let c := s.culture
  let draining := if c.shadowState = 1 then boundWheels s (formerGen c.generation) else 0
  min 32767 draining * 2 ^ 16 + c.generation * 2 ^ 8 + min 7 c.active.length * 2 ^ 5 + b2n (c.active.length == 8) * 2 ^ 4 +
  c.shadowState * 4 + b2n (c.active.any fun e => e.version == 1) * 2 + c.activeBank

end Sys2Proof.Machine
end

