-- ==== Sys2Proof/Machine/Wheel.lean ====
section
/-!
DEFINITION. Wheels and their symbols: the header and its checks (R142-R149), rANS coding and decoding (R116-R126), latent tensors,
tokens and digests (R104, R171).
-/

namespace Sys2Proof.Machine

/-! ### The header (R143) -/

/-- The fields of a wheel header. -/
structure Wheel where
  magic : Nat
  version : Nat
  kind : Nat
  modelId : Nat
  len : Nat
  print : List Byte
  dimA : Nat
  dimB : Nat
  cY : Nat
  cZ : Nat
  slabs : Nat
  phases : Nat
  frames : Nat
  lanes : Nat
  words : Nat
  headerLen : Nat
  inputFormat : Nat
  bayer : Nat
  reserved : Nat
  key : Nat
  deriving DecidableEq, Repr, Inhabited

/-- The header of a wheel's bytes. -/
def wheelOf (w : List Byte) : Wheel :=
  { magic := u32 w 0, version := u16 w 4, kind := u16 w 6, modelId := u32 w 8, len := u32 w 12, print := slice w 16 16,
    dimA := u16 w 32, dimB := u16 w 34, cY := u16 w 36, cZ := u16 w 38, slabs := u8 w 40, phases := u8 w 41,
    frames := u8 w 42, lanes := u8 w 43, words := u32 w 44, headerLen := u16 w 48, inputFormat := u8 w 50,
    bayer := u8 w 51, reserved := u32 w 52, key := u64 w 56 }

/-- The passes of a frame, z pass included. -/
def passesOf (h : Wheel) : Nat := h.slabs * h.phases + 1

/-- The pass record of frame f and position q: start_word and cycles (R144). -/
def passRecord (w : List Byte) (h : Wheel) (f q : Nat) : Nat × Nat :=
  (u32 w (64 + 8 * (f * passesOf h + q)), u32 w (68 + 8 * (f * passesOf h + q)))

/-- input_format and bayer_order lie within R145 (R172 uses them of a version 1 wheel too). -/
def pixelFieldsOk (h : Wheel) : Bool :=
  (if h.kind = 0 then decide (1 ≤ h.inputFormat ∧ h.inputFormat ≤ 5) else h.inputFormat == 0x10 || h.inputFormat == 0x11) &&
  (if h.inputFormat = 4 ∨ h.inputFormat = 5 then decide (h.bayer ≤ 3) else h.bayer == 0)

/-- The fields that a template supplies lie within R145 and R146. -/
def wheelShapeOk (h : Wheel) : Bool :=
  decide (h.kind ≤ 1) && h.cY % 16 == 0 && decide (16 ≤ h.cY ∧ h.cY ≤ 512) && h.cZ % 16 == 0 && decide (16 ≤ h.cZ ∧ h.cZ ≤ 256) &&
  decide (1 ≤ h.slabs ∧ h.slabs ≤ (if h.version = 1 then 4 else 8) ∧ h.slabs ≤ h.cY / 16 ∧ 1 ≤ h.phases ∧ h.phases ≤ 2) &&
  (if h.kind = 0 then
    h.dimA % 2 == 0 && h.dimB % 2 == 0 && decide (64 ≤ h.dimA ∧ h.dimA ≤ 8192 ∧ 64 ≤ h.dimB ∧ h.dimB ≤ 8192)
   else decide (1 ≤ h.dimA ∧ h.dimA ≤ 16 ∧ 1 ≤ h.dimB ∧ h.dimB ≤ 3072)) &&
  (h.version == 1 || pixelFieldsOk h)

/-- The most frames of a wheel of a kind (R145). -/
def maxFrames (kind : Nat) : Nat := if kind = 1 then 16 else 64

/-- Check 7 of R148. -/
def wheelFieldsOk (h : Wheel) : Bool := wheelShapeOk h && decide (h.frames ≤ maxFrames h.kind) && h.reserved == 0

/-- Check 9 of R148. -/
def startsOk (h : Wheel) (starts : List Nat) : Bool :=
  starts.head? == some 0 && rising starts && starts.all fun x => decide (x ≤ h.words)

/-- Checks 1-9 of R148 on a wheel of a given length. DESIGN CHOICE: none of them bounds the length from above, so a wheel longer than the
2^30 bytes of R142 passes (notes/assumptions/37.md). -/
def wheelCheck (w : List Byte) : Option Status :=
  let h := wheelOf w
  let n := w.length
  let starts := (List.range (h.frames * passesOf h)).map fun k => u32 w (64 + 8 * k)
  firstFail [
    (decide (212 ≤ n), .wheelCorrupt),
    (u32 w (n - 4) == (crc32c (w.take (n - 4))).toNat, .wheelCorrupt),
    (h.magic == 0x4C454857 && (h.version == 1 || h.version == 2), .wheelCorrupt),
    (h.len == n, .wheelCorrupt),
    (h.frames != 0, .invalidExtent),
    (h.lanes == 32, .wheelCorrupt),
    (wheelFieldsOk h, .wheelCorrupt),
    (h.headerLen == 64 + 8 * h.frames * passesOf h && n == h.headerLen + 132 + 2 * h.words, .wheelCorrupt),
    (startsOk h starts, .wheelCorrupt)]

/-! ### Binding (R97-R99, checks 10 and 11) -/

/-- The model entries of a generation: those of the active bank, or of the former one while it drains. -/
def entriesOf (s : State) (gen : Nat) : List ModelEntry :=
  if gen = s.culture.generation then s.culture.active else s.culture.shadow

/-- The shapes of a wheel's latents. -/
def shapeOf (h : Wheel) : (Nat × Nat) × (Nat × Nat) := latentShape h.kind h.dimA h.dimB

/-- The elements of pass position q of a wheel's frames. -/
def wheelElems (e : ModelEntry) (h : Wheel) (q : Nat) : List (Nat × Nat × Nat) := elementsOf e.exact (shapeOf h) q

/-- The groups of 32 elements of a pass. -/
def groupsOf (e : ModelEntry) (h : Wheel) (q : Nat) : Nat := ceilDiv (wheelElems e h q).length 32

/-- Whether a header fits the pass structure and the frame dimensions of a model (R96, R148). -/
def structureOk (e : ModelEntry) (h : Wheel) : Bool :=
  let m := e.exact
  h.kind == m.kind && h.cY == m.cY && h.cZ == m.cZ && h.slabs == m.slabs.length && h.phases == m.phases &&
  (if h.kind = 0 then m.dims.contains (h.dimA, h.dimB) else m.dims.any fun d => d.1 == h.dimA)

/-- The model entry that a wheel's header names, or TABLE_MISMATCH (R98). -/
def bindEntry (es : List ModelEntry) (h : Wheel) : Option ModelEntry :=
  es.find? fun e => e.id == h.modelId && e.fingerprint.take 16 == h.print && e.version == h.version

/-- Check 11 of R148. -/
def boundOk (e : ModelEntry) (h : Wheel) (w : List Byte) : Bool :=
  structureOk e h && (List.range h.frames).all fun f => (List.range (passesOf h)).all fun q =>
    decide (groupsOf e h q ≤ (passRecord w h f q).2)

/-! ### rANS (R116, R124, R125) -/

/-- Word i of a wheel's payload. -/
def wheelWord (w : List Byte) (h : Wheel) (i : Nat) : Option Nat := if i < h.words then some (u16 w (h.headerLen + 128 + 2 * i)) else none

/-- The state of a lane and the position after a coder symbol. -/
def decAdv (rd : Nat → Option Nat) (x start freq pos : Nat) : Option (Nat × Nat) :=
  let y := freq * (x / 32768) + x % 32768 - start
  if y < 65536 then (rd pos).map fun v => (y * 65536 + v, pos + 1) else some (y, pos)

/-- One uniform byte. -/
def decByte (rd : Nat → Option Nat) (x pos : Nat) : Option (Nat × Nat × Nat) :=
  let b := x % 32768 / 128
  (decAdv rd x (b * 128) 128 pos).map fun p => (b, p.1, p.2)

/-- The first bytes of an escape: up to the first that is not 0, at most three (R118). -/
def egLead (rd : Nat → Option Nat) : Nat → Nat → Nat → Nat → Option (Nat × Nat × Nat × Nat)
  | 0, _, _, _ => none
  | n + 1, nb, x, pos =>
    match decByte rd x pos with
    | none => none
    | some (b, x, pos) => if b = 0 then egLead rd n (nb + 1) x pos else some (b, nb + 1, x, pos)

/-- Further bytes of an escape. -/
def egMore (rd : Nat → Option Nat) : Nat → Nat → Nat → Nat → Option (Nat × Nat × Nat)
  | 0, acc, x, pos => some (acc, x, pos)
  | n + 1, acc, x, pos =>
    match decByte rd x pos with
    | none => none
    | some (b, x, pos) => egMore rd n (acc * 256 + b) x pos

/-- An escape magnitude: the value, its bytes, the lane state and the position (R118). -/
def egDecode (rd : Nat → Option Nat) (x pos : Nat) : Option (Nat × Nat × Nat × Nat) :=
  match egLead rd 3 0 x pos with
  | none => none
  | some (acc, nb, x, pos) =>
    let n := 8 * nb - Nat.size acc
    if 16 < n then none
    else
      let width := 2 * n + 1
      let need := max nb ((width + 7) / 8)
      match egMore rd (need - nb) acc x pos with
      | none => none
      | some (acc, x, pos) =>
        let pad := 8 * need - width
        if acc % 2 ^ pad ≠ 0 then none else some (acc / 2 ^ pad - 1, need, x, pos)

/-- One element: its value, its escape bytes, the lane state and the position. -/
def decElem (rd : Nat → Option Nat) (d : Cdf) (x pos : Nat) : Option (Int × Nat × Nat × Nat) :=
  let k := findIndex (x % 32768) d
  let start := d.cdf.getD k 0
  match decAdv rd x start (d.cdf.getD (k + 1) 0 - start) pos with
  | none => none
  | some (x, pos) =>
    if k = 0 ∨ k = cdfLen d - 1 then (egDecode rd x pos).map fun r => (fromIndex k r.1 d, r.2.1, r.2.2.1, r.2.2.2)
    else some (fromIndex k 0 d, 0, x, pos)

/-- The elements of a pass from element e on, each with its CDF and mean: values, lane states, position and cycles. None is a
WHEEL_CORRUPT (R88, R125). `extra` is the greatest escape of the group so far. -/
def decElems (rd : Nat → Option Nat) : Nat → List (Cdf × Int) → List Nat → Nat → Nat → Option (List Int × List Nat × Nat × Nat)
  | e, [], st, pos, extra => some ([], st, pos, if e % 32 = 0 then 0 else 1 + extra)
  | e, (d, mu) :: r, st, pos, extra =>
    match decElem rd d (st.getD (e % 32) 65536) pos with
    | none => none
    | some (v, nb, x, pos) =>
      let v := v + mu
      if v < -32768 ∨ 32767 < v then none
      else
        let extra := max extra nb
        let close := e % 32 = 31
        match decElems rd (e + 1) r (st.set (e % 32) x) pos (if close then 0 else extra) with
        | none => none
        | some (vs, st, pos, cyc) => some (v :: vs, st, pos, cyc + if close then 1 + extra else 0)

/-- The CDF of each element of a pass with the mean that is added: the z set by zmap, or the y set of the frame by the records
(R84, R93). -/
def passCdfs (e : ModelEntry) (f q : Nat) (es : List (Nat × Nat × Nat)) (recs : List (Int × Nat)) : List (Cdf × Int) :=
  if q = 0 then
    let z := ((cultureSet e.sets 2).map (·.cdfs)).getD []
    es.map fun p => (z.getD (e.exact.zmap.getD p.1 0) default, 0)
  else
    let y := ((cultureSet e.sets (if f = 0 ∧ e.exact.hasIntra = true then 1 else 0)).map (·.cdfs)).getD []
    recs.map fun r => (y.getD r.2 default, r.1)

/-- The CDFs of the y set of a frame. -/
def ySetCount (e : ModelEntry) (f : Nat) : Nat :=
  ((cultureSet e.sets (if f = 0 ∧ e.exact.hasIntra = true then 1 else 0)).map (·.cdfs.length)).getD 0

/-- The 32 lane states of a payload, when every one is at least 2^16. -/
def loadStates (w : List Byte) (h : Wheel) : Option (List Nat) :=
  let st := (List.range 32).map fun l => u32 w (h.headerLen + 4 * l)
  if st.all fun x => decide (65536 ≤ x) then some st else none

/-- One pass of a wheel from its lane states and position: start_word must match and the cycles must equal the record (R125). -/
def decodePass (e : ModelEntry) (w : List Byte) (f q : Nat) (recs : List (Int × Nat)) (st : List Nat) (pos : Nat) :
    Option (List Int × List Nat × Nat) :=
  let h := wheelOf w
  let r := passRecord w h f q
  if pos ≠ r.1 then none
  else
    match decElems (wheelWord w h) 0 (passCdfs e f q (wheelElems e h q) recs) st pos 0 with
    | none => none
    | some (vs, st, pos, cyc) => if cyc = r.2 then some (vs, st, pos) else none

/-- The final checks of R125. -/
def finalOk (w : List Byte) (st : List Nat) (pos : Nat) : Bool := st.all (· == 65536) && pos == (wheelOf w).words

/-! ### Encoding (R118, R124) -/

/-- One coder symbol put: the lane state and the stack, last pushed first. -/
def encPut (start freq : Nat) (p : Nat × List Nat) : Nat × List Nat :=
  let p := if freq * 131072 ≤ p.1 then (p.1 / 65536, p.1 % 65536 :: p.2) else p
  (p.1 / freq * 32768 + p.1 % freq + start, p.2)

/-- The escape bytes of a magnitude. -/
def egBytes (mag : Nat) : List Nat :=
  let v := mag + 1
  let width := 2 * (Nat.size v - 1) + 1
  let nb := (width + 7) / 8
  let code := v * 2 ^ (40 - width)
  (List.range nb).map fun i => code / 2 ^ (32 - 8 * i) % 256

/-- One element put: its escape bytes last first, then its index. -/
def encElem (d : Cdf) (v : Int) (p : Nat × List Nat) : Nat × List Nat :=
  let (k, mag) := toIndex v d
  let p := if k = 0 ∨ k = cdfLen d - 1 then (egBytes mag).reverse.foldl (fun p b => encPut (b * 128) 128 p) p else p
  encPut (d.cdf.getD k 0) (d.cdf.getD (k + 1) 0 - d.cdf.getD k 0) p

/-- Whether a symbol is an escape, and its escape bytes. -/
def escapeBytes (d : Cdf) (v : Int) : Nat :=
  let (k, mag) := toIndex v d
  if k = 0 ∨ k = cdfLen d - 1 then (egBytes mag).length else 0

/-- The elements of a pass put in reverse: lane states and stack. -/
def encElems : Nat → List (Cdf × Int) → List Nat × List Nat → List Nat × List Nat
  | _, [], p => p
  | e, (d, v) :: r, p =>
    let (st, stack) := encElems (e + 1) r p
    let (x, stack) := encElem d v (st.getD (e % 32) 65536, stack)
    (st.set (e % 32) x, stack)

/-- The cycles of a pass: per group 1 and its greatest escape (R123). -/
def passCycles (xs : List (Cdf × Int)) : Nat :=
  ((pieces 32 0 xs.length).map fun p =>
    1 + (((xs.drop p.1).take p.2).map fun x => escapeBytes x.1 x.2).foldl max 0).sum

/-- The encoder's state: lane states, stack, and the passes done so far, each with its depth and cycles. -/
structure EncRun where
  states : List Nat
  stack : List Nat
  passes : List (Nat × Nat)
  deriving DecidableEq, Repr, Inhabited

/-- Put the passes of a wheel, last first; the list is in decode order. -/
def encPasses : List (List (Cdf × Int)) → EncRun
  | [] => { states := List.replicate 32 65536, stack := [], passes := [] }
  | p :: r =>
    let t := encPasses r
    let (st, stack) := encElems 0 p (t.states, t.stack)
    { states := st, stack := stack, passes := (stack.length, passCycles p) :: t.passes }

/-- What a frame gives the encoder: z, y and the context records, in the index order of R129. -/
structure EncFrame where
  z : List Int
  y : List Int
  recs : List (Int × Nat)
  deriving DecidableEq, Repr, Inhabited

/-- The index of an element in its dense tensor (R129). -/
def denseIdx (hw : Nat × Nat) (e : Nat × Nat × Nat) : Nat := (e.1 * hw.1 + e.2.1) * hw.2 + e.2.2

/-- The symbols of one pass of a frame with their CDFs. -/
def encSymbols (e : ModelEntry) (h : Wheel) (f q : Nat) (x : EncFrame) : List (Cdf × Int) :=
  let es := wheelElems e h q
  if q = 0 then
    (passCdfs e f 0 es []).zip es |>.map fun p => (p.1.1, x.z.getD (denseIdx (shapeOf h).2 p.2) 0)
  else
    let at_ (p : Nat × Nat × Nat) := denseIdx (shapeOf h).1 p
    let recs := es.map fun p => x.recs.getD (at_ p) (0, 0)
    (passCdfs e f q es recs).zip es |>.map fun p => (p.1.1, x.y.getD (at_ p.2) 0 - p.1.2)

/-- The finished wheel of a template and frames: bytes, words, escaped elements (R124, R134, R149). -/
def encodeWheel (e : ModelEntry) (tmpl : List Byte) (xs : List EncFrame) : List Byte × Nat × Nat :=
  let h := { wheelOf tmpl with frames := xs.length }
  let passes := (xs.zip (List.range xs.length)).flatMap fun x => (List.range (passesOf h)).map fun q => encSymbols e h x.2 q x.1
  let run := encPasses passes
  let nw := run.stack.length
  let headerLen := 64 + 8 * xs.length * passesOf h
  let len := headerLen + 132 + 2 * nw
  let head := tmpl.take 12 ++ leBytes 4 len ++ e.fingerprint.take 16 ++ slice tmpl 32 10 ++ leBytes 1 xs.length ++ leBytes 1 32 ++
    leBytes 4 nw ++ leBytes 2 headerLen ++ slice tmpl 50 2 ++ leBytes 4 0 ++ slice tmpl 56 8
  let table := run.passes.flatMap fun p => leBytes 4 (nw - p.1) ++ leBytes 4 p.2
  let body := head ++ table ++ run.states.flatMap (leBytes 4) ++ run.stack.flatMap (leBytes 2)
  (body ++ leBytes 4 (crc32c body).toNat, nw, (passes.map fun p => p.countP fun x => escapeBytes x.1 x.2 != 0).sum)

/-! ### Latents, digests and tokens -/

/-- The decoded latents of a frame: z and y, from the passes decoded so far; elements not yet decoded are 0 (R90). -/
def latentsOf (e : ModelEntry) (h : Wheel) (vals : List (Nat × Nat × List Int)) (f : Nat) : Tensor × Tensor :=
  let sh := shapeOf h
  (vals.filter fun v => v.1 == f).foldl (fun t v =>
    let es := wheelElems e h v.2.1
    if v.2.1 = 0 then (scatter t.1 es v.2.2, t.2) else (t.1, scatter t.2 es v.2.2))
    (Tensor.zero e.exact.cZ sh.2.1 sh.2.2, Tensor.zero e.exact.cY sh.1.1 sh.1.2)

/-- The bytes of values as i16. -/
def i16Bytes (vs : List Int) : List Byte := vs.flatMap fun v => leBytes 2 (wrapInt 16 v)

/-- The latent digest of R104 over the first n frames. -/
def latentDigest (e : ModelEntry) (h : Wheel) (vals : List (Nat × Nat × List Int)) (n : Nat) : List Byte :=
  sha3_256 ((List.range n).flatMap fun f =>
    let t := latentsOf e h vals f
    i16Bytes t.1.data ++ i16Bytes t.2.data)

/-- The context records of a y pass computed by the exact path (R84, R89-R93). -/
def exactRecords (e : ModelEntry) (h : Wheel) (vals : List (Nat × Nat × List Int)) (f q : Nat) : List (Int × Nat) :=
  let t := latentsOf e h vals f
  let prev := if f = 0 then Tensor.zero t.2.c t.2.h t.2.w else (latentsOf e h vals (f - 1)).2
  contextOf e.exact (ySetCount e f) (f == 0) t.1 prev t.2 (wheelElems e h q)

/-- Decode the passes of a list from a state, with the exact path between them: the values, lane states and position. -/
def decodeAll (e : ModelEntry) (w : List Byte) : List (Nat × Nat) → List (Nat × Nat × List Int) → List Nat → Nat →
    Option (List (Nat × Nat × List Int) × List Nat × Nat)
  | [], vals, st, pos => some (vals, st, pos)
  | (f, q) :: r, vals, st, pos =>
    let recs := if q = 0 then [] else exactRecords e (wheelOf w) vals f q
    match decodePass e w f q recs st pos with
    | none => none
    | some (vs, st, pos) => decodeAll e w r (vals ++ [(f, q, vs)]) st pos

/-- The passes of the first n frames in decode order (R120). -/
def passList (h : Wheel) (n : Nat) : List (Nat × Nat) :=
  (List.range n).flatMap fun f => (List.range (passesOf h)).map fun q => (f, q)

/-- One latent tensor in a layout: 0 CHW, 1 HWC, 2 patches (R171). -/
def tokenOrder (layout ph pw : Nat) (t : Tensor) : List Int :=
  if layout = 0 then t.data
  else if layout = 1 then
    (List.range (t.h * t.w)).flatMap fun p => (List.range t.c).map fun c => t.at_ c (p / t.w) (p % t.w)
  else
    (List.range (t.h / ph * (t.w / pw))).flatMap fun p => (List.range (ph * pw)).flatMap fun r =>
      (List.range t.c).map fun c => t.at_ c (p / (t.w / pw) * ph + r / pw) (p % (t.w / pw) * pw + r % pw)

/-- The token data of some frames (R171). -/
def tokenBytes (layout ph pw flags : Nat) (ts : List (Tensor × Tensor)) : List Byte :=
  let vs := ts.flatMap fun t => tokenOrder layout ph pw t.2 ++ (if bit flags 0 then tokenOrder (min 1 layout) 1 1 t.1 else [])
  i16Bytes (if bit flags 1 then vs.map (· + 32768) else vs)

end Sys2Proof.Machine
end

