-- ==== Sys2Proof/Machine/Index.lean ====
section
/-!
DEFINITION. The wheel index: entries, probe sequences, LOOKUP, PUT and DELETE, epochs and their retirement (R150-R161).
-/

namespace Sys2Proof.Machine

/-! ### Entries (R151) -/

/-- The bytes of a table, and of a bucket. -/
def tableBytes : Nat := 67108864
def buckets : Nat := 262144

/-- The device address of a table (R303). -/
def tableBase (t : Nat) : Nat := 0x10000000 + tableBytes * t

def entKey (e : List Byte) : Nat := u64 e 0
def entAddr (e : List Byte) : Nat := u64 e 8
def entLen (e : List Byte) : Nat := u32 e 16
def entFrames (e : List Byte) : Nat := u8 e 20
def entFlags (e : List Byte) : Nat := u8 e 21
def entModule (e : List Byte) : Nat := u8 e 22
def entTag (e : List Byte) : Nat := u32 e 24
def entLocation (e : List Byte) : Nat := bits (entFlags e) 3 2

/-- Reserved bits and bytes of an entry are zero. -/
def entReservedOk (e : List Byte) : Bool := bits (entFlags e) 7 5 == 0 && zeros e 23 1 && zeros e 28 4

/-- The field ranges of R151. -/
def entRangesOk (e : List Byte) : Bool :=
  entKey e != 0 && decide (212 ≤ entLen e ∧ entLen e ≤ 1073741824 ∧ 1 ≤ entFrames e ∧ entFrames e ≤ 64) && entLocation e != 3 &&
  (if entLocation e = 1 then decide (entModule e ≤ 63) else entModule e == 0)

def entEmpty (e : List Byte) : Bool := e.all (· == 0)
def entLive (e : List Byte) : Bool := bits (entFlags e) 1 0 == 1 && entRangesOk e && entReservedOk e
def entTombstone (e : List Byte) : Bool := bits (entFlags e) 1 0 == 2 && entRangesOk e && entReservedOk e

/-- An entry that PUT accepts, or the status that refuses it. -/
def putRefusal (e : List Byte) : Option Status :=
  firstFail [(entReservedOk e, .reservedNonzero), (entLive e, .invalidArgument)]

/-- An entry that INDEX_LOAD accepts, or the status that refuses it. -/
def loadRefusal (e : List Byte) : Option Status :=
  if entEmpty e then none
  else firstFail [(entReservedOk e, .reservedNonzero), (entLive e || entTombstone e, .invalidArgument)]

/-! ### Probing (R152, R153) -/

/-- The home bucket of a key. -/
def home (key : Nat) : Nat := 0x9E3779B97F4A7C15 * key % 2 ^ 64 / 2 ^ 46

/-- The device address of the i-th bucket of a key's probe sequence. -/
def probeAddr (table key i : Nat) : Nat := tableBase table + 256 * ((home key + i) % buckets)

/-- A bucket's entries with their addresses. -/
def bucketAt (s : State) (a : Nat) : List (Nat × List Byte) := (List.range 8).map fun k => (a + 32 * k, bread s.hbm (a + 32 * k) 32)

/-- The lookup of R152 from the i-th bucket on: a status and the live entry. -/
def lookupBucket (who : Who) (table key i : Nat) (s : State) : State × Option (Status × List Byte) :=
  let a := probeAddr table key i
  let s := touchHbm who a 256 s
  if anyPoison s (.hbm a) 256 then (s, some (.poisonedData, []))
  else
    let es := bucketAt s a
    match es.find? fun e => entLive e.2 && entKey e.2 == key with
    | some e => (s, some (.ok, e.2))
    | none => if es.any fun e => entEmpty e.2 then (s, some (.clipAbsent, [])) else (s, none)

/-- The probe sequence from bucket `i` on, at most `n` buckets. -/
def lookupFrom (who : Who) (table key : Nat) : Nat → Nat → State → State × Status × List Byte
  | 0, _, s => (s, .clipAbsent, [])
  | n + 1, i, s =>
    match lookupBucket who table key i s with
    | (s, some r) => (s, r.1, r.2)
    | (s, none) => lookupFrom who table key n (i + 1) s

def lookupKey (who : Who) (table key : Nat) (s : State) : State × Status × List Byte := lookupFrom who table key 16 0 s

/-- The full probe sequence of a key read through: whether a bucket is poisoned, and its 128 entries (R153, R159). -/
def probeAll (who : Who) (table key : Nat) (s : State) : State × Bool × List (Nat × List Byte) :=
  let as := (List.range 16).map (probeAddr table key)
  let s := as.foldl (fun s a => touchHbm who a 256 s) s
  (s, as.any fun a => anyPoison s (.hbm a) 256, as.flatMap (bucketAt s))

/-- A change of the fill count of a table. -/
def addFill (table : Nat) (d : Int) (s : State) : State :=
  if table = s.index.active then { s with index := { s.index with fill := ((s.index.fill : Int) + d).toNat } }
  else { s with index := { s.index with shadowFill := ((s.index.shadowFill : Int) + d).toNat } }

/-- A change of the active table counted while the shadow table is staging (R161). -/
def noteInsert (table : Nat) (s : State) : State :=
  if table = s.index.active ∧ s.index.shadowState = 2 then
    { s with index := { s.index with inserts := satAdd (2 ^ 32 - 1) s.index.inserts 1 } }
  else s

/-- A put (R153). -/
def putEntryIn (who : Who) (table : Nat) (e : List Byte) (s : State) : State × Status :=
  let (s, bad, es) := probeAll who table (entKey e) s
  if bad then (s, .poisonedData)
  else match es.find? fun x => entLive x.2 && entKey x.2 == entKey e with
    | some x => (noteInsert table (writeHbm x.1 e [] s), .ok)
    | none =>
      match es.find? fun x => entEmpty x.2 || entTombstone x.2 with
      | some x => (noteInsert table (addFill table 1 (writeHbm x.1 e [] s)), .ok)
      | none => (s, .indexFull)

/-- A delete: the live entry becomes a tombstone (R153). -/
def deleteIn (who : Who) (table key : Nat) (s : State) : State × Status :=
  let (s, bad, es) := probeAll who table key s
  if bad then (s, .poisonedData)
  else match es.find? fun x => entLive x.2 && entKey x.2 == key with
    | some x =>
      (noteInsert table (addFill table (-1) (writeHbm x.1 (x.2.set 21 (BitVec.ofNat 8 (entFlags x.2 + 1))) [] s)), .ok)
    | none => (s, .clipAbsent)

/-! ### Epochs (R156-R158) -/

/-- The table of an epoch: the active one, or the former one while it drains. -/
def epochTable (s : State) (epoch : Nat) : Nat := if epoch = s.index.epoch then s.index.active else 1 - s.index.active

/-- The epoch before the active one. -/
def formerEpoch (e : Nat) : Nat := (e + 2 ^ 32 - 1) % 2 ^ 32

/-- The operations bound to an epoch. -/
def boundOps (s : State) (epoch : Nat) : Nat :=
  (s.queues.map fun q => if q.2.cls = 4 then q.2.ops.countP fun o => o.bound && o.epoch == epoch else 0).sum

/-- The former epoch retires once no operation is bound to it (R157). -/
def retireIndex (s : State) : State :=
  if s.index.shadowState = 1 ∧ boundOps s (formerEpoch s.index.epoch) = 0 then
    raise 0x0202 0 (leBytes 4 (formerEpoch s.index.epoch)) { s with index := { s.index with shadowState := 0, shadowFill := 0 } }
  else s

/-- INDEX_COMMIT takes effect (R158). -/
def commitIndex (s : State) : State :=
  match s.index.commitAt with
  | none => s
  | some _ =>
    retireIndex { s with index :=
      { s.index with epoch := (s.index.epoch + 1) % 2 ^ 32, active := 1 - s.index.active, shadowState := 1,
                     fill := s.index.shadowFill, shadowFill := s.index.fill, inserts := 0, commitAt := none } }

/-- Whether an INDEX_LOAD must still wait: a commit is pending or the shadow table drains (R158). -/
def indexWaits (s : State) : Bool := s.index.commitAt.isSome || s.index.shadowState == 1

/-- Copy the active table into the shadow table, its poisoned buckets poisoned, or clear the shadow table (R158). The copy reads the
active table: an error in it that no read has met is corrected or detected now. -/
def beginStaging (copy : Bool) (s : State) : State :=
  let src := tableBase s.index.active
  let dst := tableBase (1 - s.index.active)
  let inside (b : Nat) (k : Nat) : Bool := decide (b ≤ k ∧ k < b + tableBytes)
  let unread := if copy then s.memctl.latent.filter fun p => inside src (p.1 * 32) else []
  let s := unread.foldl (fun s p => touchWord Who.none s p.1) s
  let listed := s.hbm.filter fun c => inside src c.1
  let clear : Sparse Byte := s.hbm.filter fun c => !inside dst c.1
  let bad := saddAll [] ((s.poison.filter fun w => inside src (w * 32)).flatMap fun w =>
    upFrom ((w * 32 - src) / 256 * 8) 8)
  let s := if copy then
      { s with hbm := listed.foldl (fun m c => bput m (c.1 - src + dst) c.2) clear,
               poison := saddAll (s.poison.filter fun w => !inside dst (w * 32)) (bad.map fun k => dst / 32 + k) }
    else { s with hbm := clear, poison := s.poison.filter fun w => !inside dst (w * 32) }
  { s with
    memctl := { s.memctl with latent := s.memctl.latent.filter fun p => !inside dst (p.1 * 32) },
    index := { s.index with shadowState := 2, shadowFill := if copy then s.index.fill else 0, inserts := 0 } }

/-- Live entries of a run of buckets of a table. -/
def liveCount (s : State) (a n : Nat) : Nat :=
  (List.range (8 * n)).countP fun k => entLive (bread s.hbm (a + 32 * k) 32)

/-- A run of whole buckets written into the shadow table (R158). -/
def loadRun (bucket : Nat) (image : List Byte) (s : State) : State :=
  let a := tableBase (1 - s.index.active) + 256 * bucket
  let n := image.length / 256
  let before := liveCount s a n
  let s := writeHbm a image [] s
  { s with index := { s.index with shadowFill := s.index.shadowFill - before + liveCount s a n } }

/-- INDEX_STATUS (R161). -/
def indexStatus (s : State) : Nat :=
  min 65535 (if s.index.shadowState = 1 then boundOps s (formerEpoch s.index.epoch) else 0) * 256 + s.index.shadowState * 4 +
  s.index.active

/-! ### LOOKUP, PUT, DELETE (R154, R155) -/

/-- Checks 4 and 5 of R588 for LOOKUP. -/
def lkCheck (s : State) (d : List Byte) : Option Status :=
  firstFail [(zeros d 32 32, .reservedNonzero), (fieldOk s false (u64 d 24) 32, .invalidArgument)]

/-- Checks 4 and 5 of R588 for PUT. -/
def ptCheck (d : List Byte) : Option Status :=
  let e := slice d 16 32
  firstFail [(entReservedOk e && zeros d 48 16, .reservedNonzero), (entLive e, .invalidArgument)]

/-- Checks 4 and 5 of R588 for DELETE. -/
def dlCheck (d : List Byte) : Option Status :=
  firstFail [(zeros d 24 40, .reservedNonzero), (u64 d 16 != 0, .invalidArgument)]

/-- Whether an operation runs: started, and not yet ended. -/
def started (o : Op) : Bool := o.phase == .running || o.phase == .blocked

/-- The admissions of an index operation that have not taken effect: of a SAMPLE those of its keys that are not resolved, of another
operation its own until it has run; an operation whose header wait holds is admitted again when that ends (R155, R334). -/
def indexOrders (o : Op) : List Nat :=
  if o.phase = .done ∨ hHint o.desc = true then []
  else if hOpcode o.desc = 1 then o.sample.grants.map (·.1)
  else if o.phase = .blocked ∨ (started o = false ∧ hWait o.desc = true) then []
  else [o.order]

/-- Whether every index operation that was admitted before the n-th admission has taken effect (R155). -/
def indexTurnOf (s : State) (n : Nat) : Bool :=
  s.queues.all fun e => e.2.cls != 4 || e.2.ops.all fun o => (indexOrders o).all fun m => decide (n ≤ m)

/-- Whether it is an index operation's turn: the first of its admissions that have not taken effect is the first of all (R155). -/
def indexTurn (s : State) (q : Nat) (idx : U32) : Bool :=
  (getOp s q idx).all fun o => (indexOrders o).head?.all (indexTurnOf s)

/-- The table that an operation is bound to (R157). -/
def opTable (s : State) (q : Nat) (idx : U32) : Nat := epochTable s (((getOp s q idx).map (·.epoch)).getD s.index.epoch)

/-- LOOKUP (R152, R154): the entry is written at out_addr. -/
def execLookupOp (q : Nat) (idx : U32) (s : State) : State :=
  if opReady s q idx 4 0x02 && indexTurn s q idx then
    let d := descOf s q idx
    let (s, st, e) := lookupKey (whoOf q d) (opTable s q idx) (u64 d 16) s
    let ws := if st = .ok then [byteChunk (addrOf s (u64 d 24)) e false] else []
    commitUp q idx false { status := st, detail := 0, writes := ws, sticky := 0 } s
  else s

/-- PUT (R153, R154). -/
def execPutOp (q : Nat) (idx : U32) (s : State) : State :=
  if opReady s q idx 4 0x03 && indexTurn s q idx then
    let d := descOf s q idx
    let (s, st) := putEntryIn (whoOf q d) (opTable s q idx) (slice d 16 32) s
    finishOp q idx st 0 s
  else s

/-- DELETE (R153, R154). -/
def execDeleteOp (q : Nat) (idx : U32) (s : State) : State :=
  if opReady s q idx 4 0x04 && indexTurn s q idx then
    let d := descOf s q idx
    let (s, st) := deleteIn (whoOf q d) (opTable s q idx) (u64 d 16) s
    finishOp q idx st 0 s
  else s

end Sys2Proof.Machine
end

