-- ==== Sys2Proof/Machine/Range.lean ====
section
/-!
DEFINITION. The range coding engines: stream contexts, DECODE_BEGIN, DECODE_PASS, DECODE_END and ENCODE_WHEEL with its closed-loop
check (R98-R106, R115, R127-R141).
-/

namespace Sys2Proof.Machine

/-! ### Contexts (R115, R127) -/

def engineOf (c : Nat) : Nat := c / 64
def slotNo (c : Nat) : Nat := c % 64

def getEngine (s : State) (n : Nat) : RcEngine := s.rc.getD n RcEngine.idle

def modEngine (n : Nat) (f : RcEngine → RcEngine) (s : State) : State := { s with rc := s.rc.modify n f }

def getCtx (s : State) (c : Nat) : Option Ctx := mget (getEngine s (engineOf c)).ctxs (slotNo c)

/-- Whether no earlier operation of the same context in the queue is still to run (R137). -/
def ctxTurnOf (v : Queue) (o : Op) : Bool :=
  !((v.ops.takeWhile fun p => p.index != o.index).any fun p =>
    p.phase != .done && !hHint p.desc && u16 p.desc 16 == u16 o.desc 16)

/-- The queue whose ENCODE_WHEEL holds a context: the earliest admitted of those that have started and whose turn in their queue it is.
It opens the context as soon as both are so and the context is closed (R127). -/
def encoderOf (s : State) (c : Nat) : Option Nat :=
  (s.queues.flatMap fun e => (e.2.ops.filter fun o => e.2.cls == 2 && started o && hOpcode o.desc == 4 && !hHint o.desc &&
    u16 o.desc 16 == c && ctxTurnOf e.2 o).map fun o => (o.order, e.1)).foldl (fun b x => match b with
      | none => some x
      | some y => if x.1 < y.1 then some x else some y) none |>.map (·.2)

/-- Whether an ENCODE_WHEEL of another queue holds a context (R127). -/
def encodesElsewhere (s : State) (owner c : Nat) : Bool := (encoderOf s c).any (· != owner)

/-- The closed contexts of an engine that encodes hold. -/
def encodingOn (s : State) (n : Nat) : List Nat :=
  (upFrom (64 * n) 32).filter fun c => (getCtx s c).isNone && (encoderOf s c).isSome

def setCtx (c : Nat) (x : Ctx) (s : State) : State :=
  modEngine (engineOf c) (fun e => { e with ctxs := mput e.ctxs (slotNo c) x }) s

/-- Close a context: its binding ends with it (R99). -/
def closeCtx (c : Nat) (s : State) : State :=
  retireCulture (modEngine (engineOf c) (fun e => { e with ctxs := mdel e.ctxs (slotNo c) }) s)

/-- The address of the scratch area of an ENCODE_WHEEL descriptor, and its length, from its parameter block. -/
def scratchOf (s : State) (d : List Byte) : LAddr × Nat :=
  let p := blockOf s (u64 d 24) 48
  (addrOf s (u64 p 32), u32 p 12)

/-- Close every context of a queue, those of its sampling entries and checks among them; the scratch of an encode that was being checked
is undefined (R139, R169). -/
def closeContexts (q : Nat) (s : State) : State :=
  let checked := s.rc.flatMap fun e => (e.ctxs.filter fun p =>
    p.2.queue == q && (p.2.mode == .checking || (decide (32 ≤ p.1) && p.2.checks.isSome))).map (·.2.desc)
  let s := checked.foldl (fun s d => scramble (scratchOf s d).1 (scratchOf s d).2 s) s
  let closed : List RcEngine := s.rc.map fun e => { e with ctxs := e.ctxs.filter fun p => p.2.queue != q }
  retireCulture { s with rc := closed }

/-- A wheel failed with WHEEL_CORRUPT on an engine (R141). -/
def noteCorrupt (n : Nat) (st : Status) (s : State) : State :=
  if st = .wheelCorrupt then modEngine n (fun e => { e with corrupt := satAdd 65535 e.corrupt 1 }) s else s

/-- A context fails: its binding ends (R138). -/
def failCtx (c : Nat) (x : Ctx) (st : Status) (s : State) : State :=
  retireCulture (noteCorrupt (engineOf c) st (setCtx c { x with mode := .failed, status := st, bound := false } s))

/-- Whether an engine takes new wheels (R139). -/
def engineUp (s : State) (n : Nat) : Bool := unitUp s { cls := 1, num := n } && decide (n < 16)

/-- The model entry that a context's wheel is bound to. -/
def ctxEntry (s : State) (x : Ctx) : ModelEntry := (bindEntry (entriesOf s x.generation) (wheelOf x.wheel)).getD default

/-! ### DECODE_BEGIN (R128) -/

/-- Checks 4 and 5 of R588 for DECODE_BEGIN. -/
def dbCheck (s : State) (inPlan : Bool) (d : List Byte) : Option Status :=
  let check := u16 d 18 != 0xFFFF
  firstFail [
    (zeros d 32 32, .reservedNonzero),
    (decide (u16 d 16 < 1024 ∧ slotNo (u16 d 16) < 32), .invalidArgument),
    (!check || (inPlan && decide (u16 d 18 < 1024)), .invalidArgument),
    (!check || u32 d 20 == 0, .invalidArgument),
    (if check then u64 d 24 == 0 else fieldOk s inPlan (u64 d 24) (u32 d 20), .invalidArgument),
    (u32 d 20 == 0 || engineUp s (engineOf (u16 d 16)), .noCapacity)]

/-- Whether a DECODE_BEGIN opens no context: a wheel of length 0 (R128). -/
def dbEmpty (d : List Byte) : Bool := u32 d 20 == 0 && u16 d 18 == 0xFFFF

/-- What a DECODE_BEGIN reads: the address and length of its wheel, and for a check the context whose staged wheel that is; none where that
context is not in the checking state, is another owner's, or lies on the checking engine itself (R104). DESIGN CHOICE: the spec gives that
last case no status; it ends like a context in the wrong state (notes/assumptions/37.md). -/
def beginSource (s : State) (owner : Nat) (d : List Byte) : Option (LAddr × Nat × Option Ctx) :=
  if u16 d 18 = 0xFFFF then some (addrOf s (u64 d 24), u32 d 20, none)
  else
    (getCtx s (u16 d 18)).bind fun x =>
      if x.mode = .checking ∧ x.queue = owner ∧ engineOf (u16 d 18) ≠ engineOf (u16 d 16) then some (x.src, x.wheel.length, some x)
      else none

/-- The span of the wheel that a DECODE_BEGIN reads. -/
def dbReads (s : State) (owner : Nat) (d : List Byte) : List (LAddr × Nat) :=
  if dbEmpty d then [] else (beginSource s owner d).toList.map fun x => (x.1, x.2.1)

/-- The checks of R148 and the load of the states: the bound entry's states, or the status of the first that fails. -/
def openWheel (es : List ModelEntry) (w : List Byte) : Except Status (ModelEntry × List Nat) :=
  match wheelCheck w with
  | some st => .error st
  | none =>
    match bindEntry es (wheelOf w) with
    | none => .error .tableMismatch
    | some e =>
      if !boundOk e (wheelOf w) w then .error .wheelCorrupt
      else match loadStates w (wheelOf w) with
        | none => .error .wheelCorrupt
        | some st => .ok (e, st)

/-- A closed-loop failure: counted on both engines and recorded (R105, R106, R141). -/
def loopMismatch (enc chk level q : Nat) (cause : Status) (scratch : Nat) (d : List Byte) (s : State) : State :=
  let bump (e : RcEngine) : RcEngine := { e with clMismatch := satAdd 255 e.clMismatch 1 }
  errRecord { type := 0x20, severity := 1, source := 9, unit := enc, status := 0x0405, address := bits scratch 39 0, queue := q,
              tag := hTag d, symbols := 0xFF, symbol := 0xFF, flags := 0,
              detail := leBytes 2 chk ++ leBytes 1 level ++ [0] ++ leBytes 2 (statusCode cause) ++ [0, 0] ++ leBytes 8 (u64 d 48) }
    (modEngine chk bump (modEngine enc bump s))

/-- A level 2 check fails: its record names both engines and the encode that it checks ends (R105, R106). -/
def loseCheck (chk t : Nat) (cause : Status) (s : State) : State :=
  match getCtx s t with
  | none => s
  | some x => closeCtx t (loopMismatch (engineOf t) chk 2 x.queue cause (u64 (blockOf s (u64 x.desc 24) 48) 32) x.desc s)

/-- DECODE_BEGIN for an owner, bound to a generation: the status and the state with the context open (R128). A check that fails here ends
the encode that it checks (R106). -/
def rcBegin (owner gen : Nat) (d : List Byte) (s : State) : State × Status :=
  let c := u16 d 16
  if dbEmpty d then (s, .ok)
  else if (getCtx s c).isSome || (encoderOf s c).isSome then (s, .contextState)
  else match beginSource s owner d with
    | none => (s, .contextState)
    | some (a, n, chk) =>
      let gen := (chk.map (·.generation)).getD gen
      let failing (st : Status) : State × Status :=
        let s := noteCorrupt (engineOf c) st s
        (if chk.isSome then loseCheck (engineOf c) (u16 d 18) st s else s, st)
      if anyPoison s a n then failing .poisonedData
      else match openWheel (entriesOf s gen) (peek s a n) with
        | .error st => failing st
        | .ok (_, st) =>
          (setCtx c { mode := .decoding, queue := owner, status := .ok, wheel := peek s a n, src := a, generation := gen, bound := true,
                      frame := 0, pass := 0, states := st, word := 0, values := [], checks := chk.map fun _ => u16 d 18, desc := d } s,
           .ok)

/-! ### DECODE_PASS (R129-R131) -/

/-- The elements of z and of y of a wheel's frames. -/
def frameSizes (h : Wheel) : Nat × Nat :=
  (h.cZ * (shapeOf h).2.1 * (shapeOf h).2.2, h.cY * (shapeOf h).1.1 * (shapeOf h).1.2)

/-- The elements of the tensors of an open context's wheel, z and y. -/
def ctxSizes (s : State) (c : Nat) : Nat × Nat :=
  match getCtx s c with
  | some x => frameSizes (wheelOf x.wheel)
  | none => (0, 0)

/-- Checks 4 and 5 of R588 for DECODE_PASS. The tensor and its records have the dimensions of the wheel that the context decodes. -/
def dpCheck (s : State) (inPlan : Bool) (d : List Byte) : Option Status :=
  let n := ctxSizes s (u16 d 16)
  firstFail [
    (zeros d 22 2 && zeros d 40 24, .reservedNonzero),
    (decide (u16 d 16 < 1024 ∧ slotNo (u16 d 16) < 32), .invalidArgument),
    (decide (u16 d 18 ≤ 63), .invalidArgument),
    (if u16 d 20 = 0 then u64 d 24 == 0 else fieldOk s inPlan (u64 d 24) (4 * n.2), .invalidArgument),
    (fieldOk s inPlan (u64 d 32) (2 * (if u16 d 20 = 0 then n.1 else n.2)), .invalidArgument)]

/-- The context that a pass decodes in, if it is the owner's, decoding, and next in order. -/
def passCtx (s : State) (owner : Nat) (d : List Byte) : Except Status Ctx :=
  match getCtx s (u16 d 16) with
  | none => .error .contextState
  | some x =>
    if x.queue ≠ owner then .error .contextState
    else if x.mode = .failed then .error x.status
    else if x.mode ≠ .decoding then .error .contextState
    else if (u16 d 18, u16 d 20) ≠ (x.frame, x.pass) ∨ (wheelOf x.wheel).frames ≤ x.frame then .error .passOrder
    else .ok x

/-- The dense indices of the elements of a pass. -/
def passIndices (s : State) (x : Ctx) (q : Nat) : List Nat :=
  let h := wheelOf x.wheel
  let hw := if q = 0 then (shapeOf h).2 else (shapeOf h).1
  (wheelElems (ctxEntry s x) h q).map (denseIdx hw)

/-- What a pass reads: the context records of its elements. -/
def dpReads (s : State) (owner : Nat) (d : List Byte) : List (LAddr × Nat) :=
  match passCtx s owner d with
  | .error _ => []
  | .ok x => if u16 d 20 = 0 then [] else (passIndices s x (u16 d 20)).map fun i => (laPlus (addrOf s (u64 d 24)) (4 * i), 4)

/-- The next pass of a wheel in decode order. -/
def nextPass (h : Wheel) (f q : Nat) : Nat × Nat := if q + 1 < passesOf h then (f, q + 1) else (f + 1, 0)

/-- An uncorrectable error of a word of an engine's table SRAM: a record, the engine offline (R139, R323, R537). -/
def tableFailure (who : Who) (n off : Nat) (l : Latent) (s : State) : State :=
  let s := modEngine n (fun e => { e with offline := true, tableUncorr := satAdd 255 e.tableUncorr 1 }) s
  let s := { s with memctl := { s.memctl with sramUe := satAdd (2 ^ 32 - 1) s.memctl.sramUe 1 } }
  unitUncorr { cls := 1, num := n } (sramRecord 2 2 3 n off 0x0501 who l s)

/-- The errors in the words of an engine's table SRAM where a model's sets stand, in the bank of a generation (R97). -/
def tableErrors (s : State) (n gen : Nat) (e : ModelEntry) : List (Nat × Nat × Nat × Latent) :=
  let bank := if gen = s.culture.generation then s.culture.activeBank else 1 - s.culture.activeBank
  s.memctl.sramLatent.filter fun x =>
    x.1 == 3 && x.2.1 == n && tableBank x.2.2.1 == bank && e.slots.contains (tableSlot x.2.2.1)

/-- A pass reads its model's sets from the table SRAM of its engine: a one-symbol error is corrected, another is uncorrectable. `fault` is
one that arises in the read. The state, and whether the read failed (R139). -/
def tableRead (who : Who) (n gen : Nat) (e : ModelEntry) (fault : Bool) (s : State) : State × Bool :=
  let found := tableErrors s n gen e
  let s := { s with memctl := { s.memctl with sramLatent := s.memctl.sramLatent.filter fun x => !found.contains x } }
  let bad (x : Nat × Nat × Nat × Latent) : Bool := x.2.2.2.mark || decide (1 < x.2.2.2.symbols)
  let s := found.foldl (fun s x =>
    if bad x then tableFailure who n x.2.2.1 x.2.2.2 s else correctSram 3 n x.2.2.1 who x.2.2.2 s) s
  let s := if fault then
      tableFailure who n (Config.freeNat s.free % 2097152) { symbols := 0, symbol := 0xFF, mark := false, injected := false }
        { s with free := s.free + 1 }
    else s
  (s, fault || found.any bad)

/-- The span of words of a wheel's payload between two positions. -/
def wordSpan (x : Ctx) (pos pos' : Nat) : LAddr × Nat := (laPlus x.src ((wheelOf x.wheel).headerLen + 128 + 2 * pos), 2 * (pos' - pos))

/-- DECODE_PASS for an owner: the result and the state with the context advanced or failed (R130, R131, R138). The words of the pass are
read as it runs: one that has become uncorrectable since DECODE_BEGIN fails the context (R139). -/
def rcPass (owner : Nat) (fault : Bool) (d : List Byte) (s : State) : State × DataRes :=
  match passCtx s owner d with
  | .error st => (s, DataRes.fail st)
  | .ok x =>
    let c := u16 d 16
    let q := u16 d 20
    let e := ctxEntry s x
    let is_ := passIndices s x q
    let out (i : Nat) := laPlus (addrOf s (u64 d 32)) (2 * i)
    let undefined : List (LAddr × Nat) := is_.map fun i => (out i, 2)
    let failing (st : Status) (s : State) : State × DataRes :=
      (failCtx c x st s, { status := st, detail := 0, writes := [], sticky := 0, undef := undefined })
    let rec_ (i : Nat) := peek s (laPlus (addrOf s (u64 d 24)) (4 * i)) 4
    let bad := q != 0 && is_.any fun i => anyPoison s (laPlus (addrOf s (u64 d 24)) (4 * i)) 4
    let raw := if q = 0 then [] else is_.map rec_
    let recs := raw.map fun r => (i16 r 0, u8 r 2)
    let (s, lost) := tableRead (whoOf owner d) (engineOf c) x.generation e fault s
    if lost then failing .uncorrectable s
    else if bad then failing .poisonedData s
    else if raw.any fun r => u8 r 3 != 0 then failing .reservedNonzero s
    else if recs.any fun r => decide (ySetCount e x.frame ≤ r.2) then failing .invalidArgument s
    else
      let run := decodePass e x.wheel x.frame q recs x.states x.word
      let span := wordSpan x x.word ((run.map (·.2.2)).getD (wheelOf x.wheel).words)
      let s := touch (whoOf owner d) span.1 span.2 s
      if anyPoison s span.1 span.2 then failing .poisonedData s
      else match run with
        | none => failing .wheelCorrupt s
        | some (vs, st, pos) =>
          let n := nextPass (wheelOf x.wheel) x.frame q
          let writes := (is_.zip vs).map fun p => byteChunk (out p.1) (leBytes 2 (wrapInt 16 p.2)) false
          (setCtx c { x with frame := n.1, pass := n.2, states := st, word := pos, values := x.values ++ [(x.frame, q, vs)] } s,
           { status := .ok, detail := 0, writes := writes, sticky := 0 })

/-! ### The closed loop (R104-R106, R135) -/

/-- The parameter block of ENCODE_WHEEL (R133). -/
structure EncParams where
  model : Nat
  frames : Nat
  templateLen : Nat
  scratchLen : Nat
  template : Nat
  table : Nat
  scratch : Nat
  deriving DecidableEq, Repr, Inhabited

def encParams (p : List Byte) : EncParams :=
  { model := u32 p 0, frames := u16 p 4, templateLen := u32 p 8, scratchLen := u32 p 12, template := u64 p 16, table := u64 p 24,
    scratch := u64 p 32 }

/-- The block of an ENCODE_WHEEL descriptor. -/
def ewBlock (s : State) (d : List Byte) : List Byte := blockOf s (u64 d 24) 48

def ewParams (s : State) (d : List Byte) : EncParams := encParams (ewBlock s d)

/-- The index entry that a released wheel is inserted with (R154). -/
def releaseEntry (dest key len frames : Nat) : List Byte :=
  let space := bits dest 63 62
  leBytes 8 key ++ leBytes 8 (if space = 2 then bits dest 51 0 else bits dest 39 0) ++ leBytes 4 len ++ leBytes 1 frames ++
  leBytes 1 (1 + 4 * space) ++ leBytes 1 (if space = 1 then bits dest 61 56 else 0) ++ List.replicate 9 0

/-- The release of a wheel: the copy to dest_addr, the index entry, the result record (R104, R133, R135, R154). -/
def releaseWheel (q : Nat) (d w : List Byte) (words escaped : Nat) (s : State) : State × DataRes :=
  let copy := byteChunk (addrOf s (u64 d 32)) w false
  let (s, st) := if bit (u8 d 19) 0 then
      putEntryIn (whoOf q d) s.index.active (releaseEntry (u64 d 32) (u64 d 48) w.length (wheelOf w).frames) s
    else (s, .ok)
  let result := if st = .ok ∧ u64 d 56 ≠ 0 then
      [byteChunk (addrOf s (u64 d 56)) (leBytes 4 w.length ++ leBytes 4 words ++ leBytes 4 escaped ++ leBytes 4 0) false]
    else []
  (s, { status := st, detail := 0, writes := copy :: result, sticky := 0 })

/-- DECODE_END checks (R588). -/
def deCheck (s : State) (inPlan : Bool) (d : List Byte) : Option Status :=
  firstFail [
    (zeros d 18 6 && zeros d 32 32, .reservedNonzero),
    (decide (u16 d 16 < 1024 ∧ slotNo (u16 d 16) < 32), .invalidArgument),
    (fieldOkOr0 s inPlan (u64 d 24) 32, .invalidArgument)]

/-- The end of a check decode: the encode that it checks is released, or fails with CLOSED_LOOP_MISMATCH (R105, R135). The digest goes to
the digest address of the DECODE_END that ends with OK (R132). -/
def endCheck (c t : Nat) (failed : Option Status) (digest : List Byte) (dest : List Chunk) (s : State) : State × DataRes :=
  match getCtx s t with
  | none => (s, DataRes.fail .contextState)
  | some x =>
    let h := wheelOf x.wheel
    if failed.isSome || latentDigest (ctxEntry s x) h x.values h.frames != digest then
      (loseCheck (engineOf c) t (failed.getD .ok) s, DataRes.fail .closedLoopMismatch)
    else
      let (s, r) := releaseWheel x.queue x.desc x.wheel h.words x.word (closeCtx t s)
      (s, { r with writes := r.writes ++ if r.status = .ok then dest else [] })

/-- DECODE_END for an owner (R132, R138). A check decode ends the encode that it checks. -/
def rcEnd (owner : Nat) (d : List Byte) (s : State) : State × DataRes :=
  let c := u16 d 16
  match getCtx s c with
  | none => (s, DataRes.fail .contextState)
  | some x =>
    let h := wheelOf x.wheel
    if x.queue ≠ owner then (s, DataRes.fail .contextState)
    else if x.mode = .failed then
      match x.checks with
      | some t => endCheck c t (some x.status) [] [] (closeCtx c s)
      | none => (closeCtx c s, DataRes.fail x.status)
    else if x.mode ≠ .decoding then (s, DataRes.fail .contextState)
    else if x.frame < h.frames then (s, DataRes.fail .passOrder)
    else
      let good := finalOk x.wheel x.states x.word
      let digest := latentDigest (ctxEntry s x) h x.values h.frames
      let closed := closeCtx c (if good then s else noteCorrupt (engineOf c) .wheelCorrupt s)
      let writes := if u64 d 24 = 0 then [] else [byteChunk (addrOf s (u64 d 24)) digest false]
      match x.checks with
      | some t => endCheck c t (if good then none else some .wheelCorrupt) digest writes closed
      | none => if good then (closed, { status := .ok, detail := 0, sticky := 0, writes := writes }) else (closed, DataRes.fail .wheelCorrupt)

/-! ### ENCODE_WHEEL (R133-R135, R149) -/

/-- The header template of an encode. -/
def ewTemplate (s : State) (d : List Byte) : List Byte := blockOf s (ewParams s d).template 64

/-- The checks of R149 on a template, against the entries of a generation. -/
def templateCheck (es : List ModelEntry) (p : EncParams) (flags key : Nat) (t : List Byte) : Option Status :=
  let h := wheelOf t
  firstFail [
    (p.templateLen == 64, .invalidArgument), (h.magic == 0x4C454857, .invalidArgument), (h.version == 2, .invalidArgument),
    (h.modelId == p.model, .invalidArgument),
    (es.any fun e => e.id == p.model, .tableMismatch),
    ((es.find? fun e => e.id == p.model).all fun e => e.version == 2, .invalidArgument),
    (wheelShapeOk h && (es.find? fun e => e.id == p.model).all fun e => structureOk e h, .invalidArgument),
    (!bit flags 0 || (h.key != 0 && h.key == key), .invalidArgument),
    (decide (p.frames ≤ maxFrames h.kind), .invalidArgument)]

/-- Checks 4 and 5 of R588 for ENCODE_WHEEL; level 2 only in a plan (R135). -/
def ewCheck (s : State) (inPlan : Bool) (d : List Byte) : Option Status :=
  let p := ewParams s d
  let blockAt := fieldOk s inPlan (u64 d 24) 48
  firstFail [
    (bits (u8 d 19) 7 1 == 0 && zeros d 20 4 && zeros d 44 4 &&
      (!blockAt || (zeros (ewBlock s d) 6 2 && zeros (ewBlock s d) 40 8)), .reservedNonzero),
    (decide (u16 d 16 < 1024 ∧ slotNo (u16 d 16) < 32), .invalidArgument),
    (decide (u8 d 18 ≤ 1) || (u8 d 18 == 2 && inPlan), .invalidArgument),
    (blockAt, .invalidArgument),
    (p.frames != 0, .invalidExtent),
    (p.templateLen == 64, .invalidArgument),
    (fieldOk s inPlan p.template 64 && fieldOk s inPlan p.table (32 * p.frames) && fieldOk s inPlan p.scratch p.scratchLen,
      .invalidArgument),
    (fieldOk s inPlan (u64 d 32) (u32 d 40) && fieldOkOr0 s inPlan (u64 d 56) 16, .invalidArgument)]
  <|> templateCheck s.culture.active p (u8 d 19) (u64 d 48) (ewTemplate s d)
  <|> firstFail [(engineUp s (engineOf (u16 d 16)), .noCapacity)]

/-- The 32-byte frame table entry of a frame. -/
def frameEntry (s : State) (p : EncParams) (f : Nat) : List Byte := peek s (laPlus (addrOf s p.table) (32 * f)) 32

/-- The tensors of a frame: z, y and records, with their lengths. -/
def frameSpans (s : State) (h : Wheel) (p : EncParams) (f : Nat) : List (LAddr × Nat) :=
  let t := frameEntry s p f
  let n := frameSizes h
  [(addrOf s (u64 t 0), 2 * n.1), (addrOf s (u64 t 8), 2 * n.2), (addrOf s (u64 t 16), 4 * n.2)]

/-- What an encode reads: block, template, frame table, tensors and records. -/
def ewReads (s : State) (d : List Byte) : List (LAddr × Nat) :=
  let p := ewParams s d
  [(addrOf s (u64 d 24), 48), (addrOf s p.template, 64), (addrOf s p.table, 32 * p.frames)] ++
  (List.range p.frames).flatMap (frameSpans s (wheelOf (ewTemplate s d)) p)

/-- Whether the frame table and the records of an encode are well formed, or the status that refuses them. DESIGN CHOICE: they are judged
when the encode runs, not at its admission (notes/assumptions/37.md). -/
def framesCheck (s : State) (inPlan : Bool) (e : ModelEntry) (h : Wheel) (p : EncParams) : Option Status :=
  let n := frameSizes h
  let fs := List.range p.frames
  let recAt (f i : Nat) := peek s (laPlus (addrOf s (u64 (frameEntry s p f) 16)) (4 * i)) 4
  firstFail [
    (fs.all fun f => zeros (frameEntry s p f) 24 8, .reservedNonzero),
    (fs.all fun f => fieldOk s inPlan (u64 (frameEntry s p f) 0) (2 * n.1) && fieldOk s inPlan (u64 (frameEntry s p f) 8) (2 * n.2) &&
      fieldOk s inPlan (u64 (frameEntry s p f) 16) (4 * n.2), .invalidArgument),
    (!(ewPoison fs), .poisonedData),
    (fs.all fun f => (List.range n.2).all fun i => u8 (recAt f i) 3 == 0, .reservedNonzero),
    (fs.all fun f => (List.range n.2).all fun i => decide (u8 (recAt f i) 2 < ySetCount e f), .invalidArgument)]
where
  /-- Whether a tensor or a record of a frame is poisoned. -/
  ewPoison (fs : List Nat) : Bool := fs.any fun f => (frameSpans s h p f).any fun a => anyPoison s a.1 a.2

/-- A frame as the encoder reads it. -/
def encFrame (s : State) (h : Wheel) (p : EncParams) (f : Nat) : EncFrame :=
  let t := frameEntry s p f
  let n := frameSizes h
  let rd (field n : Nat) := (List.range n).map fun i => i16 (peek s (laPlus (addrOf s field) (2 * i)) 2) 0
  { z := rd (u64 t 0) n.1, y := rd (u64 t 8) n.2,
    recs := (List.range n.2).map fun i =>
      let r := peek s (laPlus (addrOf s (u64 t 16)) (4 * i)) 4
      (i16 r 0, u8 r 2) }

/-- The latents of an encode in the form of a context's values: one entry per pass. -/
def encValues (e : ModelEntry) (h : Wheel) (xs : List EncFrame) : List (Nat × Nat × List Int) :=
  (xs.zip (List.range xs.length)).flatMap fun x => (List.range (passesOf h)).map fun q =>
    let hw := if q = 0 then (shapeOf h).2 else (shapeOf h).1
    let src := if q = 0 then x.1.z else x.1.y
    (x.2, q, (wheelElems e h q).map fun el => src.getD (denseIdx hw el) 0)

/-- The checking engine of level 1: the next one after the encoding engine that is in service, not offline, and has a free device
context (R135). -/
def checkEngine (s : State) (n : Nat) : Option Nat :=
  ((upFrom (n + 1) 15).map (· % 16)).find? fun k =>
    engineUp s k && !(getEngine s k).offline && decide (((getEngine s k).ctxs.filter fun c => 32 ≤ c.1).length < 32)

/-- The checking decode of level 1: the staged wheel with the encoder's records, against the encoder's digest. None: the digests are equal;
otherwise the status of the failed decode, or OK for a digest mismatch. -/
def checkDecode (e : ModelEntry) (es : List ModelEntry) (w : List Byte) (bad : Bool) (xs : List EncFrame) (mine : List Byte) : Option Status :=
  if bad then some .poisonedData
  else match openWheel es w with
    | .error st => some st
    | .ok (_, st) =>
      let h := wheelOf w
      let run := (passList h h.frames).foldl (fun (a : Option (List (Nat × Nat × List Int) × List Nat × Nat)) fq =>
        a.bind fun (v : List (Nat × Nat × List Int) × List Nat × Nat) =>
          let recs := (wheelElems e h fq.2).map fun el =>
            ((xs.getD fq.1 default).recs.getD (denseIdx (shapeOf h).1 el) (0, 0))
          (decodePass e w fq.1 fq.2 (if fq.2 = 0 then [] else recs) v.2.1 v.2.2).map fun (r : List Int × List Nat × Nat) =>
            (v.1 ++ [(fq.1, fq.2, r.1)], r.2.1, r.2.2)) (some ([], st, 0))
      match run with
      | none => some .wheelCorrupt
      | some (vals, st, pos) =>
        if !finalOk w st pos then some .wheelCorrupt
        else if latentDigest e h vals h.frames != mine then some .ok
        else none

/-- The device context, if there is one, that checks the encode of a context at level 1. -/
def checkOf (s : State) (c : Nat) : Option Nat :=
  (upFrom 0 16).findSome? fun n => ((getEngine s n).ctxs.find? fun x => decide (32 ≤ x.1) && x.2.checks == some c).map fun x => 64 * n + x.1

/-- The device context that checks an owner's own encode. -/
def ownCheck (s : State) (owner : Nat) (d : List Byte) : Option Nat :=
  (checkOf s (u16 d 16)).filter fun k => (getCtx s k).any fun x => x.queue == owner && x.desc == d

/-- The lowest free device slot of an engine (R115, R164). -/
def freeDevice (s : State) (n : Nat) : Option Nat := (upFrom 32 32).find? fun k => (mget (getEngine s n).ctxs k).isNone

/-- The level 1 check of an owner's encode is given up with its device context, if it still holds one. -/
def dropCheck (owner : Nat) (d : List Byte) (s : State) : State :=
  match ownCheck s owner d with
  | some k => closeCtx k s
  | none => s

/-- ENCODE_WHEEL for an owner, bound to a generation (R133-R135): assembly in scratch, and at level 0 the release. At level 1 a device
context of the checking engine opens on the staged wheel; a plan's level 2 encode stays open in the checking state. -/
def rcEncode (inPlan : Bool) (owner gen : Nat) (fault : Bool) (d : List Byte) (s : State) : State × DataRes :=
  let c := u16 d 16
  let p := ewParams s d
  let tmpl := ewTemplate s d
  let h := wheelOf tmpl
  let scratch := addrOf s p.scratch
  if (getCtx s c).isSome || encodesElsewhere s owner c then (s, DataRes.fail .contextState)
  else if [(addrOf s (u64 d 24), 48), (addrOf s p.template, 64), (addrOf s p.table, 32 * p.frames)].any fun a => anyPoison s a.1 a.2 then
    (s, DataRes.fail .poisonedData)
  else match (entriesOf s gen).find? fun e => e.id == p.model with
  | none => (s, DataRes.fail .tableMismatch)
  | some e =>
    match framesCheck s inPlan e h p with
    | some st => (s, DataRes.fail st)
    | none =>
      let (s, lost) := tableRead (whoOf owner d) (engineOf c) gen e fault s
      let xs := (List.range p.frames).map (encFrame s h p)
      let (w, words, escaped) := encodeWheel e tmpl xs
      let failing (st : Status) : State × DataRes := (s, { DataRes.fail st with undef := [(scratch, p.scratchLen)] })
      let staged (mode : CtxMode) (checks : Option Nat) : Ctx :=
        { mode := mode, queue := owner, status := .ok, wheel := w, src := scratch, generation := gen, bound := true, frame := 0, pass := 0,
          states := [], word := escaped, values := encValues e { h with frames := p.frames } xs, checks := checks, desc := d }
      let stage : DataRes := { status := .ok, detail := 0, writes := [byteChunk scratch w false], sticky := 0 }
      if lost then failing .uncorrectable
      else if p.scratchLen < w.length ∨ u32 d 40 < w.length then failing .outputFull
      else if u8 d 18 = 0 then
        let (s, r) := releaseWheel owner d w words escaped s
        (s, { r with writes := stage.writes ++ r.writes })
      else if u8 d 18 = 2 then (setCtx c (staged .checking none) s, stage)
      else
        match (checkEngine s (engineOf c)).bind fun k => (freeDevice s k).map fun j => 64 * k + j with
        | none => failing .noCapacity
        | some k => (setCtx k (staged .decoding (some c)) s, stage)

/-- What the level 1 check in a device context reads: the staged wheel, and the encoder's records once more. -/
def checkReads (s : State) (k : Nat) : List (LAddr × Nat) := (getCtx s k).toList.map fun x => (x.src, x.wheel.length)

/-- The level 1 check of an encode in a device context: the verdict, and on equal digests the release (R104, R105, R135). -/
def rcCheck (k : Nat) (inPlan : Bool) (d : List Byte) (s : State) : State × DataRes :=
  match getCtx s k with
  | none => (s, DataRes.fail .contextState)
  | some x =>
    let p := ewParams s d
    let h := wheelOf (ewTemplate s d)
    let e := ((entriesOf s x.generation).find? fun e => e.id == p.model).getD default
    let w := peek s x.src x.wheel.length
    let xs := (List.range p.frames).map (encFrame s h p)
    let (s, lost) := tableRead (whoOf x.queue d) (engineOf k) x.generation e false s
    let verdict := if lost then some .uncorrectable
      else if (framesCheck s inPlan e h p).isSome then framesCheck s inPlan e h p
      else checkDecode e (entriesOf s x.generation) w (anyPoison s x.src x.wheel.length) xs
        (latentDigest e (wheelOf x.wheel) x.values p.frames)
    let s := closeCtx k s
    match verdict with
    | none => releaseWheel x.queue d w (wheelOf w).words x.word s
    | some st =>
      (loopMismatch (engineOf (u16 d 16)) (engineOf k) 1 x.queue st p.scratch d (noteCorrupt (engineOf k) st s),
       DataRes.fail .closedLoopMismatch)

/-! ### Cost (R136) -/

/-- The charge of a DECODE_PASS; none while it must hold its head: the DECODE_BEGIN of its context has not completed, or its engine is
offline (R136, R139). Earlier passes of its context that have not run advance the wheel where they keep the order. A pass that will not
decode costs nothing. -/
def passCharge (s : State) (q : Nat) (d : List Byte) : Option Nat :=
  let c := u16 d 16
  let before := (getQ s q).ops.filter fun o => o.phase != .done && u16 o.desc 16 == c && !hHint o.desc
  if before.any fun o => hOpcode o.desc == 1 && !dbEmpty o.desc then none
  else match getCtx s c with
    | none => some 0
    | some x =>
      let h := wheelOf x.wheel
      let at_ := (before.filter fun o => hOpcode o.desc == 2).foldl (fun (p : Nat × Nat) o =>
        if (u16 o.desc 18, u16 o.desc 20) = p then nextPass h p.1 p.2 else p) (x.frame, x.pass)
      if x.queue = q ∧ x.mode = .decoding ∧ (u16 d 18, u16 d 20) = at_ ∧ at_.1 < h.frames then
        if (getEngine s (engineOf c)).offline then none else some (32 * ((passRecord x.wheel h at_.1 at_.2).2 + 8))
      else some 0

/-- The pass steps of an ENCODE_WHEEL in the order in which they run, then the final step, then at level 1 the checking passes
(R136). -/
def encodeSteps (s : State) (d : List Byte) : List Nat :=
  let p := ewParams s d
  let h := wheelOf (ewTemplate s d)
  match (s.culture.active.find? fun e => e.id == p.model) with
  | none => []
  | some e =>
    let per := (List.range (passesOf h)).map fun q => 32 * (6 * groupsOf e h q + 8)
    let all (l : List Nat) := (List.range p.frames).flatMap fun _ => l
    all per.reverse ++ [32 * 16] ++ (if u8 d 18 = 1 then all per else [])

/-! ### Queue operations -/

/-- Whether no earlier operation of the same context in the queue is still to run (R137). -/
def ctxTurn (s : State) (q : Nat) (idx : U32) : Bool := (getOp s q idx).all (ctxTurnOf (getQ s q))

/-- Whether no operation that was admitted earlier still runs on the operation's engine (R137). -/
def engineTurn (s : State) (q : Nat) (idx : U32) : Bool :=
  (getOp s q idx).all fun o => s.queues.all fun e => e.2.cls != 2 || e.2.ops.all fun p =>
    !(started p && !hHint p.desc && engineOf (u16 p.desc 16) == engineOf (u16 o.desc 16) && decide (p.order < o.order))

/-- The generation that an operation is bound to (R99). -/
def opGen (s : State) (q : Nat) (idx : U32) : Nat := ((getOp s q idx).map (·.epoch)).getD s.culture.generation

/-- The operation's own binding ends: its context holds it now, or its wheel has ended (R99). -/
def unbindOp (q : Nat) (idx : U32) (s : State) : State := retireCulture (modOp q idx (fun o => { o with bound := false }) s)

/-- Whether an offline engine holds an operation: a pass that would decode (R138, R139), and, DESIGN CHOICE, a DECODE_BEGIN and an
ENCODE_WHEEL, which read the banks that are being rewritten; for the check of an encode the engine is the checking one
(notes/assumptions/37.md). -/
def holdsOffline (s : State) (opcode : Nat) (d : List Byte) : Bool :=
  let c := u16 d 16
  let engine := if opcode = 4 then (checkOf s c).getD c else c
  (getEngine s (engineOf engine)).offline && (opcode == 1 || opcode == 4 ||
    (opcode == 2 && (getCtx s c).any fun x => x.mode == .decoding))

/-- Whether a range coding row may apply: it has started, it is its context's turn and its engine's, and its engine is not offline
(R137, R139). -/
def rcReady (s : State) (q : Nat) (idx : U32) (opcode : Nat) : Bool :=
  opReady s q idx 2 opcode && ctxTurn s q idx && engineTurn s q idx && !holdsOffline s opcode (descOf s q idx)

/-- DECODE_BEGIN (R128). -/
def execDecodeBeginOp (q : Nat) (idx : U32) (s : State) : State :=
  if rcReady s q idx 0x01 then
    let d := descOf s q idx
    withData q idx none false (dbReads s q d) (fun _ => []) (fun s =>
      let (s, st) := rcBegin q (opGen s q idx) d s
      unbindOp q idx (finishOp q idx st 0 s)) s
  else s

/-- DECODE_PASS (R130). `tableFault` is an uncorrectable error that the pass meets in its engine's table SRAM. -/
def execDecodePassOp (q : Nat) (idx : U32) (tableFault : Bool) (s : State) : State :=
  if rcReady s q idx 0x02 then
    let d := descOf s q idx
    withData q idx none false (dpReads s q d) (fun _ => []) (fun s =>
      let (s, r) := rcPass q tableFault d s
      commitUp q idx false r s) s
  else s

/-- DECODE_END (R132). -/
def execDecodeEndOp (q : Nat) (idx : U32) (s : State) : State :=
  if rcReady s q idx 0x03 then
    let (s, r) := rcEnd q (descOf s q idx) s
    commitUp q idx false r s
  else s

/-- The write of a staged wheel, after which the level 1 check is still to come. -/
def stageWheel (q : Nat) (idx : U32) (r : DataRes) (s : State) : State :=
  if (r.writes.any fun c => isHost c.addr) && !hostUp s then hostFails q idx (chunkSpans r.writes) s
  else
    let s := r.writes.foldl (fun s c => writeChunk q idx false c s) (modOp q idx (fun o => { o with remote := false }) s)
    match getOp s q idx with
    | none => s
    | some o =>
      if o.status ≠ .ok then finishOp q idx o.status 0 s
      else if o.reqs.isEmpty then s else modOp q idx (fun o => { o with phase := .blocked }) s

/-- An encode that has ended leaves no check behind, and its binding ends. -/
def encodeEnds (q : Nat) (idx : U32) (d : List Byte) (s : State) : State :=
  if (getOp s q idx).any fun o => o.phase == .done then unbindOp q idx (dropCheck q d s) else s

/-- ENCODE_WHEEL (R133): the assembly and its release; at level 1 the check of the staged wheel follows as the operation's next part.
`fault` is an uncorrectable error that it meets in its engine's table SRAM. -/
def execEncodeWheelOp (q : Nat) (idx : U32) (fault : Bool) (s : State) : State :=
  if rcReady s q idx 0x04 then
    let d := descOf s q idx
    encodeEnds q idx d (match ownCheck s q d with
      | some k => withData q idx none false (checkReads s k) (fun _ => []) (fun s =>
          let (s, r) := rcCheck k false d s
          commitUp q idx false r s) s
      | none => withData q idx none false (ewReads s d) (fun s => [scratchOf s d]) (fun s =>
          let (s, r) := rcEncode false q (opGen s q idx) fault d s
          if (ownCheck s q d).isSome then stageWheel q idx r s else unbindOp q idx (commitUp q idx false r s)) s)
  else s

/-- TABLE_SRAM_REWRITE (R139): both banks of an offline engine are rewritten from the committed images, and it resumes. -/
def rewriteTables (n : Nat) (s : State) : State :=
  if (getEngine s n).offline then tableWritten (· == n) (fun _ => true) (modEngine n (fun e => { e with offline := false }) s) else s

/-- Whether an engine runs an operation: one of a queue with a step in this tick, or one of a plan's step that awaits other modules
(R141). -/
def engineRuns (s : State) (n : Nat) : Bool :=
  (s.queues.any fun e => e.2.cls == 2 && e.2.ops.any fun o =>
    (o.phase == .running || o.phase == .blocked) && !hHint o.desc && o.stepTick == s.tick.count && engineOf (u16 o.desc 16) == n) ||
  s.plan.job.any fun j => j.units.any fun r => r.unit == { cls := 1, num := n } && r.phase != 0

/-- RC_STATE (R141). -/
def rcState (s : State) (n : Nat) : Nat :=
  let e := getEngine s n
  let low := (e.ctxs.filter fun c => decide (c.1 < 32)).length
  (low + (encodingOn s n).length) * 2 ^ 16 + (e.ctxs.length - low) * 2 ^ 8 + 2 * b2n (e.offline || (getSvc s { cls := 1, num := n }).state == 2) + b2n (engineRuns s n)

/-- RC_FAULTS (R141). -/
def rcFaults (s : State) (n : Nat) : Nat :=
  let e := getEngine s n
  e.corrupt * 2 ^ 16 + e.tableUncorr * 2 ^ 8 + e.clMismatch

end Sys2Proof.Machine
end

