-- ==== Sys2Proof/Machine/Sample.lean ====
section
/-!
DEFINITION. Sampling: SAMPLE and its entries, from clip keys to token slots (R162-R172).
-/

namespace Sys2Proof.Machine

/-! ### Plan sets of the installed library -/

/-- Whether the job in force runs a plan set (R163). -/
def planRuns (s : State) (i : Nat) : Bool :=
  match s.plan.job with
  | some j => j.planSet == i
  | none => false

/-! ### The descriptor (R162, R163) -/

/-- The fields of SAMPLE. -/
structure Sa where
  count : Nat
  ring : Nat
  layout : Nat
  ph : Nat
  pw : Nat
  list : Nat
  plan : Nat
  mode : Nat
  flags : Nat
  result : Nat
  deriving DecidableEq, Repr, Inhabited

def saOf (d : List Byte) : Sa :=
  { count := u32 d 16, ring := u16 d 20, layout := u8 d 22, ph := bits (u8 d 23) 3 0, pw := bits (u8 d 23) 7 4, list := u64 d 24,
    plan := u32 d 32, mode := u8 d 36, flags := u8 d 37, result := u64 d 40 }

/-- Entry k of the sampling list: clip_key, first_frame, frame_count. -/
def saEntry (s : State) (x : Sa) (k : Nat) : Nat × Nat × Nat :=
  let e := peek s (laPlus (addrOf s x.list) (16 * k)) 16
  (u64 e 0, u8 e 8, u8 e 9)

/-- The patch field: each of ph and pw is 1, 2 or 4, and 1 unless the layout is 2. -/
def patchOk (x : Sa) : Bool :=
  [1, 2, 4].contains x.ph && [1, 2, 4].contains x.pw && (x.layout == 2 || (x.ph == 1 && x.pw == 1))

/-- Checks 4 and 5 of R588 for SAMPLE, the whole list's reserved bytes among them (R163, R168); mode 1 ignores layout and patch (R172). -/
def saCheck (s : State) (d : List Byte) : Option Status :=
  let x := saOf d
  let n := if x.count ≤ 65536 then x.count else 0
  let at_ := fieldOk s false x.list (16 * n)
  let entry (k : Nat) := peek s (laPlus (addrOf s x.list) (16 * k)) 16
  firstFail [
    (bits x.flags 7 3 == 0 && zeros d 38 2 && zeros d 48 16 &&
      (!at_ || !blockClean s false x.list (16 * n) || (List.range n).all fun k => zeros (entry k) 10 6), .reservedNonzero),
    (decide (x.count ≤ 65536), .invalidArgument),
    ((mget s.rings x.ring).isSome, .invalidArgument),
    (x.mode == 1 || (decide (x.layout ≤ 2) && patchOk x), .invalidArgument),
    (at_, .invalidArgument), (blockClean s false x.list (16 * n), .poisonedData),
    ((planSetOf s x.plan).isSome, .invalidArgument),
    (decide (x.mode ≤ 1), .invalidArgument),
    (x.mode == 0 || ((planSetOf s x.plan).any fun p => p.isSynthesis && p.pool.isSome), .invalidArgument),
    (fieldOkOr0 s false x.result 32, .invalidArgument)]

/-- The keys that a SAMPLE resolves: its non-empty entries (R164). -/
def saKeys (s : State) (x : Sa) : Nat := (List.range x.count).countP fun k => (saEntry s x k).2.2 != 0

/-! ### Device contexts, staging buffers, the pool (R115, R164) -/

/-- The open device contexts of an engine. -/
def deviceLoad (s : State) (n : Nat) : Nat := ((getEngine s n).ctxs.filter fun c => decide (32 ≤ c.1)).length

/-- Whether an engine takes sampled wheels: in service and not offline (R164). -/
def deviceUp (s : State) (n : Nat) : Bool := engineUp s n && !(getEngine s n).offline

/-- The engine that an entry takes: in service, not offline, with the fewest open device contexts, the lowest among equals, and a free
device slot (R164). -/
def deviceEngine (s : State) : Option Nat :=
  ((upFrom 0 16).filter fun n => deviceUp s n && decide (deviceLoad s n < 32)).foldl (fun b n => match b with
    | none => some n
    | some m => if deviceLoad s n < deviceLoad s m then some n else some m) none

/-- The device context that an entry takes: on that engine the lowest free device slot (R164). -/
def deviceContext (s : State) : Option Nat := (deviceEngine s).bind fun n => (freeDevice s n).map fun k => 64 * n + k

/-- The unfinished SAMPLE operations of every queue. -/
def samples (s : State) : List Op :=
  s.queues.flatMap fun e => if e.2.cls = 4 then e.2.ops.filter fun o => o.phase != .done && hOpcode o.desc == 1 && !hHint o.desc else []

/-- How many more entries may be admitted: free device contexts, less the admitted entries that have not begun; none while the plan set
does not run (R163, R164). -/
def sampleRoom (s : State) (plan : Nat) : Nat :=
  if planRuns s plan then
    (((upFrom 0 16).filter (deviceUp s)).map fun n => 32 - deviceLoad s n).sum -
      ((samples s).flatMap fun o => o.sample.grants.map (·.2.2)).sum
  else 0

/-- The device address of a staging buffer (R164, R303). -/
def stageBase (b : Nat) : Nat := 0x18000000 + 2097152 * b

/-- The lowest staging buffer that no entry holds. -/
def freeStage (s : State) : Option Nat :=
  (List.range 256).find? fun b => !((samples s).any fun o => o.sample.flights.any fun x => x.stage == some b)

/-! ### Entries under way (R164) -/

def modRun (q : Nat) (idx : U32) (f : SampleRun → SampleRun) (s : State) : State :=
  modOp q idx (fun o => { o with sample := f o.sample }) s

/-- The entry under way of a number. -/
def getFlight (s : State) (q : Nat) (idx : U32) (k : Nat) : Option Flight :=
  (getOp s q idx).bind fun o => o.sample.flights.find? fun x => x.k == k

def modFlight (q : Nat) (idx : U32) (k : Nat) (f : Flight → Flight) (s : State) : State :=
  modRun q idx (fun r => { r with flights := r.flights.map fun x => if x.k = k then f x else x }) s

/-- An entry ends with a status, the header of its wheel where checks 1-9 of R148 passed, and its data, and awaits its slot. Its binding
ends; one that failed gives up its context, one that decoded keeps it until its slot is written (R99, R167). -/
def endFlight (q : Nat) (idx : U32) (fl : Flight) (st : Status) (header data : List Byte) (s : State) : State :=
  let s := match fl.ctx.bind fun c => (getCtx s c).map fun v => (c, v) with
    | none => s
    | some (c, v) =>
      if st = .ok then retireCulture (setCtx c { v with bound := false } s) else closeCtx c (noteCorrupt (engineOf c) st s)
  modFlight q idx fl.k (fun x => { x with
    status := st, ctx := if st = .ok then x.ctx else none, stage := none, reqs := [], passes := 0, out := some (header, data) }) s

/-- One key of the first admission that has keys left is resolved. -/
def useGrant : List (Nat × Nat × Nat) → List (Nat × Nat × Nat)
  | [] => []
  | (o, g, n) :: r => if n ≤ 1 then r else (o, g, n - 1) :: r

/-- The next entry starts: it is resolved in the bound epoch and its range is held against the index entry (R164, R165). It is bound to
the generation of the boundary that admitted it (R99). -/
def startEntry (q : Nat) (idx : U32) (o : Op) (s : State) : State :=
  let x := saOf o.desc
  let k := o.sample.next
  let (key, ff, n) := saEntry s x k
  let (s, st, e) := if key = 0 then (s, Status.invalidArgument, []) else lookupKey (whoOf q o.desc) (epochTable s o.epoch) key s
  let st := if st = .ok ∧ entFrames e < ff + n then .invalidArgument else st
  let fl : Flight :=
    { k := k, entry := e, status := st, ctx := none, stage := none,
      generation := ((o.sample.grants.head?).map (·.2.1)).getD s.culture.generation, reqs := [], fetched := false, passes := 0, out := none }
  let s := modRun q idx (fun r => { r with next := k + 1, grants := useGrant r.grants, flights := r.flights ++ [fl] }) s
  if st = .ok then s else endFlight q idx fl st [] [] s

/-- The device context of an entry opens (R164). -/
def openFlight (q : Nat) (idx : U32) (o : Op) (fl : Flight) (s : State) : State :=
  match fl.ctx, deviceContext s with
  | none, some c =>
    modFlight q idx fl.k (fun x => { x with ctx := some c })
      (setCtx c { mode := .decoding, queue := q, status := .ok, wheel := [], src := .hbm (entAddr fl.entry), generation := fl.generation,
                  bound := true, frame := 0, pass := 0, states := [], word := 0, values := [], checks := none, desc := o.desc } s)
  | _, _ => s

/-! ### The fetch (R164, R165) -/

/-- Where the wheel of an index entry lies; its own module's number at location 1 means local HBM. -/
def wheelSource (s : State) (e : List Byte) : LAddr :=
  match entLocation e with
  | 1 => if entModule e = self s then .hbm (entAddr e) else .remote (entModule e) (entAddr e)
  | 2 => .host (entAddr e)
  | _ => .hbm (entAddr e)

/-- Why the wheel of an index entry cannot be fetched. DESIGN CHOICE: a location 1 entry whose module lies outside the configuration, and
an address that no operation may name, fail with INVALID_ARGUMENT (notes/assumptions/35.md). -/
def wheelRefusal (s : State) (e : List Byte) : Option Status :=
  let n := entLen e
  match wheelSource s e with
  | .hbm a => if spanOk s false (.hbm a) n then none else some .invalidArgument
  | .remote m a =>
    if 2097152 < n then some .noCapacity
    else if !inConfig s m || !spanOk s false (.remote m a) n then some .invalidArgument else lostStatus s m
  | a =>
    if 2097152 < n then some .noCapacity
    else if !spanOk s false a n then some .invalidArgument else if hostUp s then none else some .hostUnreachable

/-- Why the wheel of an entry is not decoded once checks 1-9 of R148 have passed, or the lane states. DESIGN CHOICE: a header with fewer
frames than the range, under an index entry that allows it, fails with INVALID_ARGUMENT (notes/assumptions/35.md). -/
def entryRefusal (s : State) (x : Sa) (key last generation : Nat) (w : List Byte) : Except Status (List Nat) :=
  let h := wheelOf w
  let y := (shapeOf h).1
  let served := ((planSetOf s x.plan).bind (·.pool)).any fun p => p.2.contains h.modelId
  if h.version = 2 ∧ h.key ≠ 0 ∧ h.key ≠ key then .error .wheelCorrupt
  else if !served then .error .noCapacity
  else if x.mode = 1 ∧ pixelFieldsOk h = false then .error .wheelCorrupt
  else match openWheel (entriesOf s generation) w with
    | .error st => .error st
    | .ok (_, st) =>
      if h.frames < last then .error .invalidArgument
      else if x.mode = 0 ∧ (y.1 % x.ph ≠ 0 ∨ y.2 % x.pw ≠ 0) then .error .invalidArgument
      else .ok st

/-- The wheel of an entry lies in HBM or in its buffer: it is checked and bound, and its y passes are asked of the pool (R148, R164). -/
def checkFlight (q : Nat) (idx : U32) (o : Op) (fl : Flight) (c : Nat) (v : Ctx) (src : LAddr) (s : State) : State :=
  let x := saOf o.desc
  let (key, ff, n) := saEntry s x fl.k
  let len := entLen fl.entry
  let s := touch (whoOf q o.desc) src len s
  if anyPoison s src len then endFlight q idx fl .poisonedData [] [] s
  else
    let w := peek s src len
    match wheelCheck w with
    | some st => endFlight q idx fl st [] [] s
    | none =>
      match entryRefusal s x key (ff + n) fl.generation w with
      | .error st => endFlight q idx fl st (w.take 64) [] s
      | .ok st =>
        modFlight q idx fl.k (fun f => { f with fetched := true, passes := (passesOf (wheelOf w) - 1) * (ff + n) })
          (setCtx c { v with wheel := w, src := src, states := st } s)

/-- The requests for a wheel in another module's HBM. -/
def askWheel (q : Nat) (idx : U32) (k m a len : Nat) (s : State) : State :=
  (pieces 4096 a len).foldl (fun s p =>
    let (s, t) := issue 2 m p.1 p.2 0 [] [] none q idx s
    modFlight q idx k (fun f => { f with reqs := f.reqs ++ [(m, t)] }) s) s

/-- A wheel outside local HBM is copied into its staging buffer, its poisoned words poisoned. -/
def copyWheel (b : Nat) (src : LAddr) (len : Nat) (s : State) : State := writeHbm (stageBase b) (peek s src len) (peekPoison s src len) s

/-- The fetch of an entry's wheel: in place from local HBM, from host memory at once, from another module by requests (R164). -/
def fetchFlight (q : Nat) (idx : U32) (o : Op) (fl : Flight) (s : State) : State :=
  match fl.ctx.bind fun c => (getCtx s c).map fun v => (c, v) with
  | none => s
  | some (c, v) =>
    let src := wheelSource s fl.entry
    let len := entLen fl.entry
    if fl.fetched = true ∨ fl.reqs ≠ [] then s
    else if fl.status ≠ .ok then endFlight q idx fl fl.status [] [] s
    else match fl.stage with
      | some b => checkFlight q idx o fl c v (.hbm (stageBase b)) (copyWheel b src len s)
      | none =>
        match wheelRefusal s fl.entry, src, freeStage s with
        | some st, _, _ => endFlight q idx fl st [] [] (if st = .hostUnreachable then hostFailed s else s)
        | none, .hbm a, _ => checkFlight q idx o fl c v (.hbm a) s
        | none, _, none => s
        | none, .remote m a, some b => askWheel q idx fl.k m a len (modFlight q idx fl.k (fun f => { f with stage := some b }) s)
        | none, _, some b =>
          checkFlight q idx o fl c v (.hbm (stageBase b))
            (copyWheel b src len (touch Who.none src len (modFlight q idx fl.k (fun f => { f with stage := some b }) s)))

/-! ### Decoding (R165, R166, R171, R172) -/

/-- The bytes of a frame of a synthesis output (R172): by the input format, the last frame of an audio wheel cropped. -/
def pixelBytes (h : Wheel) (f : Nat) : Nat :=
  let samples := if f + 1 = h.frames then h.dimB else 3072
  match h.inputFormat with
  | 1 => h.dimA * h.dimB * 3 / 2
  | 2 => h.dimA * h.dimB * 3
  | 3 => h.dimA * h.dimB * 3
  | 4 => h.dimA * h.dimB * 2
  | 5 => h.dimA * h.dimB * 2
  | 0x10 => 2 * h.dimA * samples
  | _ => 3 * h.dimA * samples

/-- A Bayer value lies in the low 10 or 12 bits of its u16 (R172). -/
def pixelCap (format i : Nat) (b : Byte) : Byte :=
  if i % 2 = 0 then b else if format = 4 then b &&& 3 else if format = 5 then b &&& 15 else b

/-- One frame of a synthesis output (R109, R111, R172): the same for the same plan set and latents, and under exact synthesis what the exact
decoder network alone gives (notes/assumptions/35.md). -/
def synthFrame (s : State) (plan : Nat) (e : ModelEntry) (h : Wheel) (vals : List (Nat × Nat × List Int)) (f : Nat) : List Byte :=
  let fields := [h.kind, h.dimA, h.dimB, h.inputFormat, h.bayer]
  let t (k : Nat) := latentsOf e h vals k
  let digest := ((s.packages.find? fun p => (alookup p.planSets plan).isSome).map (·.digest)).getD []
  let past := (List.range (f + 1)).map fun k => ((t k).1.data, (t k).2.data)
  let prev := if f = 0 then Tensor.zero (t f).2.c (t f).2.h (t f).2.w else (t (f - 1)).2
  let net := ((alookup (runNet { e.exact with nodes := e.exact.decoder } (f == 0) (t f).1 prev (t f).2) e.exact.pixels).getD default).data
  let exact := (planSetOf s plan).any (·.exactSynthesis)
  (List.range (pixelBytes h f)).map fun i =>
    pixelCap h.inputFormat i (if exact then Config.exactPixels fields net i else Config.synthesis digest plan fields past i)

/-- The length of a model's exact section in HBM. -/
def sectionLen (s : State) (e : ModelEntry) : Nat :=
  ((s.packages.find? fun p => p.id == e.package).bind fun p => (p.models.find? fun m => m.id == e.id).map (·.section_.length)).getD 0

/-- The frames of a checked wheel up to the last one requested are decoded and the requested ones formatted: the state after the reads, the
status and the data. The exact path reads the model's exact section; its poison and that of the words fail the wheel (R83, R139, R165,
R166). -/
def decodeEntry (who : Who) (x : Sa) (ff n c : Nat) (v : Ctx) (fault : Bool) (s : State) : State × Status × List Byte :=
  let e := ctxEntry s v
  let h := wheelOf v.wheel
  let (s, lost) := tableRead who (engineOf c) v.generation e fault s
  let net := LAddr.hbm e.exactAt
  let s := touch who net (sectionLen s e) s
  let run := decodeAll e v.wheel (passList h (ff + n)) [] v.states 0
  let span := wordSpan v 0 ((run.map (·.2.2)).getD h.words)
  if lost then (s, .uncorrectable, [])
  else if anyPoison s net (sectionLen s e) then (s, .poisonedData, [])
  else
    let s := touch who span.1 span.2 s
    if anyPoison s span.1 span.2 then (s, .poisonedData, [])
    else match run with
      | none => (s, .wheelCorrupt, [])
      | some (vals, st, pos) =>
        if ff + n = h.frames ∧ ¬ finalOk v.wheel st pos = true then (s, .wheelCorrupt, [])
        else
          let data := if x.mode = 1 then (upFrom ff n).flatMap (synthFrame s x.plan e h vals)
            else tokenBytes x.layout x.ph x.pw x.flags ((upFrom ff n).map (latentsOf e h vals))
          if slotBytesOf s x.ring < 64 + data.length then (s, .outputFull, []) else (s, .ok, data)

/-- The pool computes the context records of an entry's passes as far as its capacity in the step allows, and the entry is decoded once it has
them all, unless its engine is offline (R139, R164). `fault` is an uncorrectable error that the next decode meets in table SRAM. -/
def decodeFlight (q : Nat) (idx : U32) (o : Op) (fl : Flight) (fault : Bool) (s : State) : State × Bool :=
  match fl.ctx.bind fun c => (getCtx s c).map fun v => (c, v) with
  | none => (s, fault)
  | some (c, v) =>
    if fl.fetched = false then (s, fault)
    else
      let x := saOf o.desc
      let take := min fl.passes s.plan.poolLeft
      let s := modFlight q idx fl.k (fun f => { f with passes := f.passes - take })
        { s with plan := { s.plan with poolLeft := s.plan.poolLeft - take } }
      if take < fl.passes ∨ (getEngine s (engineOf c)).offline = true then (s, fault)
      else
        let (_, ff, n) := saEntry s x fl.k
        let (s, st, data) := decodeEntry (whoOf q o.desc) x ff n c v fault s
        (endFlight q idx fl st (v.wheel.take 64) data s, false)

/-- One entry goes on as far as it can; while its plan set does not run it fails with PREEMPTED (R165). -/
def advanceFlight (q : Nat) (idx : U32) (k : Nat) (p : State × Bool) : State × Bool :=
  let run (f : Op → Flight → State → State) (s : State) : State :=
    match getOp s q idx, getFlight s q idx k with
    | some o, some fl => if fl.out.isSome then s else f o fl s
    | _, _ => s
  let s := run (fun o fl s => if planRuns s (saOf o.desc).plan then s else endFlight q idx fl .preempted [] [] s) p.1
  let s := run (fetchFlight q idx) (run (openFlight q idx) s)
  match getOp s q idx, getFlight s q idx k with
  | some o, some fl => if fl.out.isSome then (s, p.2) else decodeFlight q idx o fl p.2 s
  | _, _ => (s, p.2)

/-- The job of a plan set stops: the entries of its pool that have not ended fail with PREEMPTED (R165). -/
def poolStops (plan : Nat) (s : State) : State :=
  s.queues.foldl (fun s e =>
    if e.2.cls ≠ 4 then s
    else e.2.ops.foldl (fun s o =>
      if o.phase = .done ∨ hOpcode o.desc ≠ 1 ∨ hHint o.desc = true ∨ (saOf o.desc).plan ≠ plan then s
      else o.sample.flights.foldl (fun s fl => if fl.out.isSome then s else endFlight e.1 o.index fl .preempted [] [] s) s) s) s

/-! ### Slots (R167, R170) -/

/-- The 64-byte header of a token slot. DESIGN CHOICE: bits 0 and 1 of its flags are 0 for a failed entry, which holds no z and no values
(notes/assumptions/35.md). -/
def slotHeader (x : Sa) (key ff n epoch tick : Nat) (fl : Flight) (header : List Byte) (len : Nat) : List Byte :=
  let h := if header = [] then default else wheelOf header
  let sh := if header = [] then ((0, 0), (0, 0)) else shapeOf h
  let pixels := x.mode = 1
  leBytes 8 key ++ leBytes 4 fl.k ++ leBytes 4 (entTag fl.entry) ++ leBytes 2 (statusCode fl.status) ++ leBytes 1 ff ++ leBytes 1 n ++
  leBytes 4 h.modelId ++ leBytes 4 len ++ leBytes 2 (if pixels then 0 else h.cY) ++
  leBytes 2 (if pixels then 0 else sh.1.1) ++ leBytes 2 (if pixels then 0 else sh.1.2) ++ leBytes 1 x.layout ++
  leBytes 1 ((if fl.status = .ok ∧ ¬ pixels then bits x.flags 1 0 else 0) + 4 * b2n (h.version == 1)) ++
  leBytes 2 h.cZ ++ leBytes 2 sh.2.1 ++ leBytes 2 sh.2.2 ++ leBytes 2 0 ++ leBytes 4 epoch ++ leBytes 8 tick ++ leBytes 8 0

/-- The 32-byte result record (R168). -/
def sampleResult (r : SampleRun) (epoch : Nat) : List Byte :=
  leBytes 4 r.delivered ++ leBytes 4 r.failed ++ leBytes 4 r.dropped ++ leBytes 4 r.empty ++ leBytes 8 r.tokens ++
  leBytes 4 epoch ++ leBytes 4 0

/-- A SAMPLE ends early: its contexts close (R169). -/
def sampleFails (q : Nat) (idx : U32) (st : Status) (s : State) : State := closeContexts q (finishOp q idx st 0 s)

/-- What a SAMPLE has written is visible: its slot is published. A write to another module that completes in a later tick than its header
says is followed by one of that tick (R167, R170, R347). -/
def sampleVisible (q : Nat) (idx : U32) (ring : Nat) (s : State) : State :=
  match getOp s q idx, mget s.rings ring with
  | some o, some v =>
    if o.sample.slotTick = s.tick.count then publishSlot ring (modOp q idx (fun o => { o with publish := none, phase := .running }) s)
    else
      let s := modRun q idx (fun r => { r with slotTick := s.tick.count }) s
      let s := writeChunk q idx false (byteChunk (laPlus (addrOf s (slotAddr v 0)) 48) (leBytes 8 s.tick.count) false) s
      match getOp s q idx with
      | none => s
      | some o => if o.status ≠ .ok then sampleFails q idx o.status s else modOp q idx (fun o => { o with phase := .blocked }) s
  | _, _ => s

/-- Write the slot of an entry and publish it once the write is visible; a slot in another module awaits its completions. A slot
that cannot be written ends the SAMPLE with the status of the write. -/
def sampleSlot (q : Nat) (idx : U32) (ring : Nat) (data : List Byte) (s : State) : State :=
  match mget s.rings ring with
  | none => s
  | some v =>
    let a := addrOf s (slotAddr v 0)
    let s := openSlot ring q s
    if isHost a && !hostUp s then sampleFails q idx .hostUnreachable (hostFailed s)
    else
      let s := writeChunk q idx false (byteChunk a data false) (modRun q idx (fun r => { r with slotTick := s.tick.count }) s)
      match getOp s q idx with
      | none => s
      | some o =>
        if o.status ≠ .ok then sampleFails q idx o.status s
        else if o.reqs.isEmpty then sampleVisible q idx ring s
        else modOp q idx (fun o => { o with phase := .blocked, publish := some ring }) s

/-- The first entry under way leaves, counted, and its context closes. -/
def leaveFlight (q : Nat) (idx : U32) (fl : Flight) (f : SampleRun → SampleRun) (s : State) : State :=
  let s := match fl.ctx with
    | some c => closeCtx c s
    | none => s
  modRun q idx (fun r => f { r with flights := r.flights.drop 1 }) s

/-- The entries that have ended leave in list order, each into a slot while the ring has room, or dropped (R167). -/
def deliver (q : Nat) (idx : U32) : Nat → State → State
  | 0, s => s
  | fuel + 1, s =>
    match getOp s q idx with
    | none => s
    | some o =>
      let x := saOf o.desc
      match if o.phase = .running then o.sample.flights.head? else none with
      | none => s
      | some fl =>
        match fl.out with
        | none => s
        | some (header, data) =>
          if fl.status ≠ .ok ∧ bit x.flags 2 = true then
            deliver q idx fuel (leaveFlight q idx fl (fun r => { r with dropped := r.dropped + 1 }) s)
          else if !slotReady s x.ring q then s
          else
            let (key, ff, n) := saEntry s x fl.k
            let s := leaveFlight q idx fl (fun r =>
              if fl.status = .ok then { r with delivered := r.delivered + 1, tokens := r.tokens + data.length }
              else { r with failed := r.failed + 1 }) s
            deliver q idx fuel
              (sampleSlot q idx x.ring (slotHeader x key ff n o.epoch s.tick.count fl header data.length ++ data) s)

/-! ### SAMPLE and its entries -/

/-- Empty entries are passed over (R164). -/
def skipEmpty (q : Nat) (idx : U32) : Nat → State → State
  | 0, s => s
  | fuel + 1, s =>
    match getOp s q idx with
    | none => s
    | some o =>
      let x := saOf o.desc
      if o.sample.next < x.count ∧ (saEntry s x o.sample.next).2.2 = 0 then
        skipEmpty q idx fuel (modRun q idx (fun r => { r with next := r.next + 1, empty := r.empty + 1 }) s)
      else s

/-- With no entry left the result record is written and the SAMPLE ends (R168). -/
def sampleEnd (q : Nat) (idx : U32) (s : State) : State :=
  match getOp s q idx with
  | none => s
  | some o =>
    let x := saOf o.desc
    if o.phase = .running ∧ x.count ≤ o.sample.next ∧ o.sample.flights = [] then
      let record := if x.count = 0 ∨ x.result = 0 then [] else [byteChunk (addrOf s x.result) (sampleResult o.sample o.epoch) false]
      commitUp q idx false { status := .ok, detail := 0, writes := record, sticky := 0 } s
    else s

/-- A SAMPLE goes on as far as it can: its entries under way in list order, its slots, its end. -/
def sampleAdvance (q : Nat) (idx : U32) (fault : Bool) (s : State) : State :=
  match getOp s q idx with
  | none => s
  | some o =>
    if o.phase = .done then s
    else
      let n := (saOf o.desc).count
      let s := skipEmpty q idx (n + 1) s
      let s := (o.sample.flights.foldl (fun p fl => advanceFlight q idx fl.k p) (s, fault)).1
      sampleEnd q idx (deliver q idx (o.sample.flights.length + 1) s)

/-- Whether an operation is a SAMPLE that has started and has not ended. -/
def sampling (s : State) (q : Nat) (o : Op) : Bool := (getQ s q).cls == 4 && hOpcode o.desc == 1 && !hHint o.desc && started o

/-- Whether a SAMPLE may start its next entry: the entry is admitted and it is its turn, and a device context and capacity of the pool are
free (R155, R164). -/
def sampleReady (s : State) (q : Nat) (o : Op) : Bool :=
  let x := saOf o.desc
  decide (o.sample.next < x.count ∧ (saEntry s x o.sample.next).2.2 ≠ 0) && !o.sample.grants.isEmpty && indexTurn s q o.index &&
  (deviceContext s).isSome && (!planRuns s x.plan || decide (0 < s.plan.poolLeft))

/-- SAMPLE (R162): what needs no further entry to start. -/
def execSampleOp (q : Nat) (idx : U32) (s : State) : State :=
  match getOp s q idx with
  | none => s
  | some o => if sampling s q o then sampleAdvance q idx false s else s

/-- SAMPLE_ENTRY (R164): the next non-empty entry in list order starts, and the SAMPLE goes on. `tableFault` is an uncorrectable error that
the next decode meets in its engine's table SRAM. -/
def execSampleEntryOp (q : Nat) (idx : U32) (tableFault : Bool) (s : State) : State :=
  match getOp s q idx with
  | none => s
  | some o =>
    if sampling s q o then
      let s := skipEmpty q idx ((saOf o.desc).count + 1) s
      match getOp s q idx with
      | none => s
      | some o => sampleAdvance q idx tableFault (if sampleReady s q o then startEntry q idx o s else s)
    else s

end Sys2Proof.Machine
end

