-- ==== Sys2Proof/Machine/Press.lean ====
section
/-!
DEFINITION. The Press engines: DEFLATE, zlib and gzip streams, COMPRESS and INFLATE (R23, R284-R299).
-/

namespace Sys2Proof.Machine

/-! ### Bits and Huffman codes (RFC 1951) -/

/-- `n` bits of a value, least significant first. -/
def lsb (n v : Nat) : List Bool := (List.range n).map fun i => bit v i

/-- The value of bits, least significant first. -/
def lsbVal : List Bool → Nat
  | [] => 0
  | b :: r => b2n b + 2 * lsbVal r

/-- The bits of bytes in stream order. -/
def streamBits (bs : List Byte) : List Bool := bs.flatMap fun b => lsb 8 b.toNat

/-- The whole bytes of bits, the last padded with zeros. -/
def packBits (bs : List Bool) : List Byte :=
  (pieces 8 0 bs.length).map fun p => BitVec.ofNat 8 (lsbVal ((bs.drop p.1).take p.2))

/-- The canonical codes of code lengths: for each symbol its code, most significant bit first. -/
def canonical (lens : List Nat) : List (List Bool) :=
  let count (l : Nat) := lens.countP (· == l)
  let first (l : Nat) : Nat := (List.range l).foldl (fun c k => if k = 0 then 0 else (c + count k) * 2) 0
  (lens.zip (List.range lens.length)).map fun p =>
    if p.1 = 0 then []
    else (lsb p.1 (first p.1 + (lens.take p.2).countP (· == p.1))).reverse

/-- What reading a symbol gives. -/
inductive Sym where
  | more
  | bad
  | sym (v : Nat) (rest : List Bool)
  deriving DecidableEq, Repr, Inhabited

/-- The symbol of the next code: walked length by length. -/
def walkCode (lens : List Nat) : Nat → Nat → Nat → Nat → Nat → List Bool → Sym
  | 0, _, _, _, _, _ => .bad
  | _, _, _, _, _, [] => .more
  | n + 1, l, code, first, index, b :: r =>
    let code := code + b2n b
    let count := lens.countP (· == l)
    if code < first + count then
      match ((List.range lens.length).filter fun i => lens.getD i 0 == l)[code - first]? with
      | some v => .sym v r
      | none => .bad
    else walkCode lens n (l + 1) (2 * code) (2 * (first + count)) (index + count) r

def readSym (lens : List Nat) (bs : List Bool) : Sym := walkCode lens 15 1 0 0 0 bs

/-- The Kraft sum of code lengths in units of 2^-15. -/
def kraft (lens : List Nat) : Nat := (lens.map fun l => if l = 0 then 0 else 2 ^ (15 - l)).sum

/-- A table that a stream may use: complete, or one code of one bit, or no code (RFC 1951). -/
def tableOk (lens : List Nat) : Bool :=
  kraft lens == 32768 || lens.all (· == 0) || (lens.filter (· != 0)) == [1]

def lenBase : List Nat := [3, 4, 5, 6, 7, 8, 9, 10, 11, 13, 15, 17, 19, 23, 27, 31, 35, 43, 51, 59, 67, 83, 99, 115, 131, 163, 195, 227, 258]
def lenExtra : List Nat := [0, 0, 0, 0, 0, 0, 0, 0, 1, 1, 1, 1, 2, 2, 2, 2, 3, 3, 3, 3, 4, 4, 4, 4, 5, 5, 5, 5, 0]
def distBase : List Nat :=
  [1, 2, 3, 4, 5, 7, 9, 13, 17, 25, 33, 49, 65, 97, 129, 193, 257, 385, 513, 769, 1025, 1537, 2049, 3073, 4097, 6145, 8193,
   12289, 16385, 24577]
def distExtra : List Nat :=
  [0, 0, 0, 0, 1, 1, 2, 2, 3, 3, 4, 4, 5, 5, 6, 6, 7, 7, 8, 8, 9, 9, 10, 10, 11, 11, 12, 12, 13, 13]
def clOrder : List Nat := [16, 17, 18, 0, 8, 7, 9, 6, 10, 5, 11, 4, 12, 3, 13, 2, 14, 1, 15]

/-- The fixed code lengths. -/
def fixedLit : List Nat := List.replicate 144 8 ++ List.replicate 112 9 ++ List.replicate 24 7 ++ List.replicate 8 8
def fixedDist : List Nat := List.replicate 32 5

/-! ### COMPRESS: search (R288) -/

/-- Chain depth, lazy matching and the length at which a search stops, by level. -/
def searchOf (level : Nat) : Nat × Bool × Nat :=
  [(4, false, 8), (8, false, 16), (16, false, 32), (16, true, 16), (32, true, 32), (128, true, 128), (256, true, 128),
   (1024, true, 258), (4096, true, 258)].getD (level - 1) (4, false, 8)

/-- The length of the match between two places of the data, at most 258 and within the block. -/
def matchLen (d : List Byte) (a b limit : Nat) : Nat :=
  (((d.drop a).zip ((d.drop b).take (min 258 (limit - b)))).takeWhile fun p => p.1 == p.2).length

/-- The best match at a place among the chain's candidates, nearest first; the search stops at a length (R288). -/
def bestMatch (d : List Byte) (stop limit : Nat) (at_ : Nat) : List Nat → Nat × Nat → Nat × Nat
  | [], best => best
  | c :: r, best =>
    let n := matchLen d c at_ limit
    let best := if best.1 < n then (n, at_ - c) else best
    if stop ≤ best.1 then best else bestMatch d stop limit at_ r best

/-- The places of the window whose three bytes match, nearest first, to the chain depth. -/
def chainOf (d : List Byte) (depth at_ : Nat) : List Nat :=
  (((List.range (min at_ 32768)).map fun k => at_ - 1 - k).filter fun c => (d.drop c).take 3 == (d.drop at_).take 3).take depth

/-- The match at a place: length and distance, or length 0. -/
def findMatch (level : Nat) (d : List Byte) (at_ limit : Nat) : Nat × Nat :=
  let (depth, _, stop) := searchOf level
  if limit < at_ + 3 then (0, 0)
  else
    let m := bestMatch d stop limit at_ (chainOf d depth at_) (0, 0)
    if m.1 < 3 then (0, 0) else m

/-- The parse of a block into literals (length 0) and matches, from a place to the end of the block. -/
def parseBlock (level : Nat) (d : List Byte) (limit : Nat) : Nat → Nat → List (Nat × Nat)
  | 0, _ => []
  | fuel + 1, at_ =>
    if limit ≤ at_ then []
    else
      let m := findMatch level d at_ limit
      let (_, lazy_, stop) := searchOf level
      let literal : Nat × Nat := (0, (d.getD at_ 0).toNat)
      if m.1 = 0 then literal :: parseBlock level d limit fuel (at_ + 1)
      else if lazy_ && decide (m.1 < stop) && decide (m.1 < (findMatch level d (at_ + 1) limit).1) then
        literal :: parseBlock level d limit fuel (at_ + 1)
      else m :: parseBlock level d limit fuel (at_ + m.1)

/-! ### COMPRESS: blocks (R289) -/

/-- The code of a length: symbol, extra bits and their value. -/
def lenCode (n : Nat) : Nat × Nat × Nat :=
  let k := if n = 258 then 28 else (lenBase.take 28).countP (· ≤ n) - 1
  (257 + k, lenExtra.getD k 0, n - lenBase.getD k 0)

/-- The code of a distance. -/
def distCode (n : Nat) : Nat × Nat × Nat :=
  let k := distBase.countP (· ≤ n) - 1
  (k, distExtra.getD k 0, n - distBase.getD k 0)

/-- The symbols of a parse under two code tables, with the end of the block. -/
def codeTokens (lit dist : List (List Bool)) (ts : List (Nat × Nat)) : List Bool :=
  (ts.flatMap fun t =>
    if t.1 = 0 then lit.getD t.2 []
    else
      let l := lenCode t.1
      let d := distCode t.2
      lit.getD l.1 [] ++ lsb l.2.1 l.2.2 ++ dist.getD d.1 [] ++ lsb d.2.1 d.2.2) ++ lit.getD 256 []

/-- Symbol counts of a parse: literal and length codes, distance codes. -/
def tokenCounts (ts : List (Nat × Nat)) : List Nat × List Nat :=
  ((List.range 286).map fun v => (ts.countP fun t => (if t.1 = 0 then t.2 else (lenCode t.1).1) == v) + b2n (v == 256),
   (List.range 30).map fun v => ts.countP fun t => t.1 != 0 && (distCode t.2).1 == v)

/-- Code lengths that the code-length symbols spell; none where they repeat nothing. -/
def spellLens : List (Nat × Nat) → List Nat → Option (List Nat)
  | [], acc => some acc
  | (s, x) :: r, acc =>
    if s ≤ 15 then spellLens r (acc ++ [s])
    else if s = 16 then match acc.getLast? with
      | some l => spellLens r (acc ++ List.replicate (3 + x) l)
      | none => none
    else if s = 17 then spellLens r (acc ++ List.replicate (3 + x) 0)
    else spellLens r (acc ++ List.replicate (11 + x) 0)

/-- The extra bits of a code-length symbol. -/
def clExtra (s : Nat) : Nat := if s = 16 then 2 else if s = 17 then 3 else if s = 18 then 7 else 0

/-- A complete table for any block: the lengths that the choice of R289 falls back on when it is no valid table. -/
def plainTable : List Nat × List Nat × List (Nat × Nat) × List Nat :=
  let lit := List.replicate 226 8 ++ List.replicate 60 9
  let dist := List.replicate 2 4 ++ List.replicate 28 5
  (lit, dist, (lit ++ dist).map fun l => (l, 0), List.replicate 13 4 ++ List.replicate 6 5)

/-- Whether a choice of tables is one that RFC 1951 and R289 allow for these counts. -/
def dynOk (counts : List Nat × List Nat) (t : List Nat × List Nat × List (Nat × Nat) × List Nat) : Bool :=
  let (lit, dist, seq, cl) := t
  decide (257 ≤ lit.length ∧ lit.length ≤ 286 ∧ 1 ≤ dist.length ∧ dist.length ≤ 30) && cl.length == 19 &&
  (lit ++ dist).all (fun l => decide (l ≤ 15)) && cl.all (fun l => decide (l ≤ 7)) && tableOk lit && tableOk dist &&
  kraft cl == 32768 && spellLens seq [] == some (lit ++ dist) &&
  seq.all (fun p => decide (p.1 ≤ 18 ∧ p.2 < 2 ^ clExtra p.1) && cl.getD p.1 0 != 0) &&
  ((List.range 286).all fun v => counts.1.getD v 0 == 0 || lit.getD v 0 != 0) &&
  ((List.range 30).all fun v => counts.2.getD v 0 == 0 || dist.getD v 0 != 0)

/-- The tables of a dynamic block. -/
def dynTables (level : Nat) (counts : List Nat × List Nat) : List Nat × List Nat × List (Nat × Nat) × List Nat :=
  let t := Config.dynTable level counts.1 counts.2
  if dynOk counts t then t else plainTable

/-- The bits of a coded block without its final bit: type, tables and symbols. -/
def codedBlock (level table : Nat) (ts : List (Nat × Nat)) : List Bool :=
  if table = 0 then lsb 2 1 ++ codeTokens (canonical fixedLit) (canonical fixedDist) ts
  else
    let (lit, dist, seq, cl) := dynTables level (tokenCounts ts)
    let clCodes := canonical cl
    lsb 2 2 ++ lsb 5 (lit.length - 257) ++ lsb 5 (dist.length - 1) ++ lsb 4 15 ++ clOrder.flatMap (fun s => lsb 3 (cl.getD s 0)) ++
    seq.flatMap (fun p => clCodes.getD p.1 [] ++ lsb (clExtra p.1) p.2) ++ codeTokens (canonical lit) (canonical dist) ts

/-- The bits of a stored block without its final bit, after `used` bits of the stream. -/
def storedBlock (used : Nat) (data : List Byte) : List Bool :=
  lsb 2 0 ++ List.replicate ((8 - (used + 3) % 8) % 8) false ++ lsb 16 data.length ++ lsb 16 (65535 - data.length) ++ streamBits data

/-- Add one block to the bits of the stream: the smaller form, the coded one on a tie (R289). -/
def addBlock (level table : Nat) (final : Bool) (d : List Byte) (a b : Nat) (out : List Bool) : List Bool :=
  let coded := codedBlock level table (parseBlock level d b (b - a) a)
  let stored := storedBlock out.length ((d.drop a).take (b - a))
  out ++ final :: (if coded.length ≤ stored.length then coded else stored)

/-- The ends of the blocks of a job: every 32,768 bytes of the stream and the end of the job (R289). `done` bytes precede it. -/
def blockEnds (done n : Nat) : List (Nat × Nat) :=
  let first := min n (32768 - done % 32768)
  (if first = 0 then [] else [(0, first)]) ++ (pieces 32768 first (n - first)).map fun p => (p.1, p.1 + p.2)

/-- The blocks of a job after the bits already there; a final job without input writes one empty fixed-code block (R23, R294). -/
def jobBlocks (level table : Nat) (final : Bool) (window data : List Byte) (done : Nat) (out : List Bool) : List Bool :=
  let ends := blockEnds done data.length
  let d := window ++ data
  let w := window.length
  if data.isEmpty then (if final then out ++ [true] ++ lsb 2 1 ++ List.replicate 7 false else out)
  else (ends.zip (List.range ends.length)).foldl (fun out p =>
    addBlock level table (final && p.2 + 1 == ends.length) d (w + p.1.1) (w + p.1.2) out) out

/-! ### Framing (R284) -/

/-- The header that COMPRESS writes. -/
def frameHeader (framing level : Nat) : List Byte :=
  match framing with
  | 0 => []
  | 1 => [0x78, if level = 1 then 0x01 else if level ≤ 5 then 0x5E else if level = 6 then 0x9C else 0xDA]
  | _ => [0x1F, 0x8B, 8, 0, 0, 0, 0, 0, if level = 9 then 2 else if level = 1 then 4 else 0, 255]

/-- The running check of a framing continued over data: Adler-32, CRC-32 or 0 (R287). -/
def frameCheck (framing check : Nat) (data : List Byte) : Nat :=
  match framing with
  | 0 => 0
  | 1 =>
    let r := data.foldl adlerStep (check % 65536, check / 65536)
    r.2 * 65536 + r.1
  | _ => (data.foldl (crcByte 0xEDB88320) (BitVec.ofNat 32 check ^^^ 0xFFFFFFFF) ^^^ 0xFFFFFFFF).toNat

/-- The check of no data. -/
def frameStart (framing : Nat) : Nat := if framing = 1 then 1 else 0

/-- The trailer of a framing. -/
def frameTrailer (framing check total : Nat) : List Byte :=
  match framing with
  | 0 => []
  | 1 => beBytes 4 check
  | _ => leBytes 4 check ++ leBytes 4 total

/-! ### INFLATE (R284, R293, R295) -/

/-- Where a decoder stands. Phases: 0 header, 1 block header, 2 stored bytes, 3 codes, 4 trailer, 5 ended, 6 gzip extra length,
7 extra bytes, 8 name, 9 comment, 10 header CRC. `bits` are the input bits not yet used, `used` the bits used so far. -/
structure Inf where
  phase : Nat
  final : Bool
  left : Nat
  gzFlags : Nat
  gzCrc : Nat
  lit : List Nat
  dist : List Nat
  bits : List Bool
  used : Nat
  total : Nat
  check : Nat
  window : List Byte
  out : List Byte
  deriving DecidableEq, Repr, Inhabited

/-- A decoder at the start of a stream. -/
def Inf.start (framing : Nat) : Inf :=
  { phase := if framing = 0 then 1 else 0, final := false, left := 0, gzFlags := 0, gzCrc := 0, lit := [], dist := [], bits := [],
    used := 0, total := 0, check := frameStart framing, window := [], out := [] }

/-- What a step of the decoder gives: the next state, more input needed, or a fault with its reason. -/
inductive InfStep where
  | go (x : Inf)
  | more
  | fault (reason : Nat)
  deriving Repr, Inhabited

/-- Use `n` bits. -/
def Inf.eat (n : Nat) (x : Inf) : Inf := { x with bits := x.bits.drop n, used := x.used + n }

/-- Bytes of output. -/
def Inf.put (framing : Nat) (bs : List Byte) (x : Inf) : Inf :=
  let w := x.window ++ bs
  { x with out := x.out ++ bs, window := w.drop (w.length - 32768), total := x.total + bs.length,
           check := frameCheck framing x.check bs }

/-- The bytes of a match: each is the byte `dist` back. -/
def copyBack (dist : Nat) : Nat → List Byte → List Byte
  | 0, _ => []
  | n + 1, w =>
    let b := w.getD (w.length - dist) 0
    b :: copyBack dist n (w ++ [b])

/-- The phase after a gzip header field, by the flags that are left: FEXTRA 4, FNAME 8, FCOMMENT 16, FHCRC 2. -/
def gzNext (x : Inf) : Inf :=
  if bit x.gzFlags 2 then { x with phase := 6, gzFlags := x.gzFlags - 4 }
  else if bit x.gzFlags 3 then { x with phase := 8, gzFlags := x.gzFlags - 8 }
  else if bit x.gzFlags 4 then { x with phase := 9, gzFlags := x.gzFlags - 16 }
  else if bit x.gzFlags 1 then { x with phase := 10, gzFlags := x.gzFlags - 2 }
  else { x with phase := 1 }

/-- The bytes that the next `n` bits spell. -/
def Inf.peekBytes (n : Nat) (x : Inf) : List Byte := packBits (x.bits.take (8 * n))

/-- Use header bytes of gzip, with their CRC. -/
def gzEat (n : Nat) (x : Inf) : Inf := { x.eat (8 * n) with gzCrc := frameCheck 2 x.gzCrc (x.peekBytes n) }

/-- Whether the first bytes of a header that are there already break its form (R284, R295 reason 1): of zlib CM, CINFO, FDICT and FCHECK, of
gzip its two magic bytes, CM and the reserved bits of FLG. -/
def headerBad (framing n : Nat) (v : List Byte) : Bool :=
  if framing = 1 then
    (decide (1 ≤ n) && (bits (u8 v 0) 3 0 != 8 || decide (7 < bits (u8 v 0) 7 4))) ||
    (decide (2 ≤ n) && (bit (u8 v 1) 5 || (u8 v 0 * 256 + u8 v 1) % 31 != 0))
  else
    (decide (1 ≤ n) && u8 v 0 != 0x1F) || (decide (2 ≤ n) && u8 v 1 != 0x8B) || (decide (3 ≤ n) && u8 v 2 != 8) ||
    (decide (4 ≤ n) && decide (32 ≤ u8 v 3))

/-- The header of a stream (R284, R295 reason 1): it fails at the first byte that breaks its form. -/
def infHeader (framing : Nat) (x : Inf) : InfStep :=
  let want := if framing = 1 then 2 else 10
  let n := min want (x.bits.length / 8)
  let v := x.peekBytes n
  if headerBad framing n v then .fault 1
  else if n < want then .more
  else if framing = 1 then .go { x.eat 16 with phase := 1 }
  else .go (gzNext { gzEat 10 x with gzFlags := u8 v 3 - u8 v 3 % 2 })

/-- The code lengths of a dynamic block from the code-length codes: the lengths and the bits left. `none` asks for more input,
`some none` is an invalid table. -/
def readLens (cl : List Nat) (want : Nat) : Nat → List Nat → List Bool → Option (Option (List Nat × List Bool))
  | 0, acc, bs => if acc.length = want then some (some (acc, bs)) else some none
  | fuel + 1, acc, bs =>
    if acc.length = want then some (some (acc, bs))
    else if want < acc.length then some none
    else match readSym cl bs with
      | .more => none
      | .bad => some none
      | .sym v r =>
        if r.length < clExtra v then none
        else
          let x := lsbVal (r.take (clExtra v))
          match spellLens [(v, x)] acc with
          | none => some none
          | some acc => readLens cl want fuel acc (r.drop (clExtra v))

/-- A block header (R295 reason 2). -/
def infBlock (x : Inf) : InfStep :=
  if x.bits.length < 3 then .more
  else
    let final := lsbVal (x.bits.take 1) == 1
    let y : Inf := { x.eat 3 with final := final }
    match lsbVal ((x.bits.drop 1).take 2) with
    | 0 =>
      let pad := (8 - y.used % 8) % 8
      if y.bits.length < pad + 32 then .more
      else
        let len := lsbVal ((y.bits.drop pad).take 16)
        let nlen := lsbVal ((y.bits.drop (pad + 16)).take 16)
        if len + nlen ≠ 65535 then .fault 2 else .go { y.eat (pad + 32) with phase := 2, left := len }
    | 1 => .go { y with phase := 3, lit := fixedLit, dist := fixedDist }
    | 2 =>
      if y.bits.length < 14 then .more
      else
        let hlit := 257 + lsbVal (y.bits.take 5)
        let hdist := 1 + lsbVal ((y.bits.drop 5).take 5)
        let hclen := 4 + lsbVal ((y.bits.drop 10).take 4)
        if 286 < hlit then .fault 2
        else if y.bits.length < 14 + 3 * hclen then .more
        else
          let raw := (List.range hclen).map fun k => lsbVal ((y.bits.drop (14 + 3 * k)).take 3)
          let cl := (List.range 19).map fun s => raw.getD (clOrder.idxOf s) 0
          if kraft cl ≠ 32768 then .fault 2
          else match readLens cl (hlit + hdist) (hlit + hdist) [] (y.bits.drop (14 + 3 * hclen)) with
            | none => .more
            | some none => .fault 2
            | some (some (lens, rest)) =>
              let lit := lens.take hlit
              let dist := lens.drop hlit
              if lit.getD 256 0 = 0 ∨ ¬ tableOk lit = true ∨ ¬ tableOk dist = true then .fault 2
              else .go { y.eat (y.bits.length - rest.length) with phase := 3, lit := lit, dist := dist }
    | _ => .fault 2

/-- The end of a block. -/
def infBlockEnd (framing : Nat) (x : Inf) : Inf :=
  if x.final then { x with phase := if framing = 0 then 5 else 4 } else { x with phase := 1 }

/-- One symbol of a coded block (R295 reasons 3 and 4). -/
def inflCode (framing : Nat) (x : Inf) : InfStep :=
  match readSym x.lit x.bits with
  | .more => .more
  | .bad => .fault 3
  | .sym v r =>
    if v < 256 then .go (Inf.put framing [BitVec.ofNat 8 v] (x.eat (x.bits.length - r.length)))
    else if v = 256 then .go (infBlockEnd framing (x.eat (x.bits.length - r.length)))
    else if 285 < v then .fault 3
    else
      let k := v - 257
      let ex := lenExtra.getD k 0
      if r.length < ex then .more
      else
        let len := lenBase.getD k 0 + lsbVal (r.take ex)
        match readSym x.dist (r.drop ex) with
        | .more => .more
        | .bad => .fault 3
        | .sym dv r2 =>
          if 29 < dv then .fault 3
          else
            let dx := distExtra.getD dv 0
            if r2.length < dx then .more
            else
              let dist := distBase.getD dv 0 + lsbVal (r2.take dx)
              if x.total < dist then .fault 4
              else .go (Inf.put framing (copyBack dist len x.window) (x.eat (x.bits.length - (r2.length - dx))))

/-- The trailer (R295 reason 6). -/
def infTrailer (framing : Nat) (x : Inf) : InfStep :=
  let pad := (8 - x.used % 8) % 8
  let n := if framing = 1 then 4 else 8
  if x.bits.length < pad + 8 * n then .more
  else
    let y := x.eat pad
    if y.peekBytes n ≠ frameTrailer framing x.check x.total then .fault 6 else .go { y.eat (8 * n) with phase := 5 }

/-- One step of the decoder. -/
def infStep (framing : Nat) (x : Inf) : InfStep :=
  match x.phase with
  | 0 => infHeader framing x
  | 1 => infBlock x
  | 2 =>
    if x.left = 0 then .go (infBlockEnd framing x)
    else if x.bits.length < 8 then .more
    else
      let n := min x.left (x.bits.length / 8)
      .go { Inf.put framing (x.peekBytes n) (x.eat (8 * n)) with left := x.left - n }
  | 3 => inflCode framing x
  | 4 => infTrailer framing x
  | 6 => if x.bits.length < 16 then .more else .go { gzEat 2 x with phase := 7, left := leNat (x.peekBytes 2) }
  | 7 =>
    if x.left = 0 then .go (gzNext x)
    else if x.bits.length < 8 then .more
    else .go { gzEat 1 x with left := x.left - 1 }
  | 8 => if x.bits.length < 8 then .more else .go (if x.peekBytes 1 = [0] then gzNext (gzEat 1 x) else gzEat 1 x)
  | 9 => if x.bits.length < 8 then .more else .go (if x.peekBytes 1 = [0] then gzNext (gzEat 1 x) else gzEat 1 x)
  | 10 =>
    if x.bits.length < 16 then .more
    else if leNat (x.peekBytes 2) ≠ x.gzCrc % 65536 then .fault 1
    else .go (gzNext (x.eat 16))
  | _ => .more

/-- How a run of the decoder ends: at the end of the stream, out of input, at a fault, or with its output full. -/
inductive InfEnd where
  | ended (x : Inf)
  | starved (x : Inf)
  | fault (reason : Nat) (x : Inf)
  | full
  deriving Repr, Inhabited

/-- Run the decoder (R294: the output is checked against its capacity byte by byte). -/
def infRun (framing cap : Nat) : Nat → Inf → InfEnd
  | 0, x => .starved x
  | fuel + 1, x =>
    if x.phase = 5 then .ended x
    else match infStep framing x with
      | .more => .starved x
      | .fault r => .fault r x
      | .go y => if cap < y.out.length then .full else infRun framing cap fuel y

/-- Steps enough for any input: every step uses a bit or leaves a phase. -/
def infFuel (x : Inf) : Nat := 4 * x.bits.length + 16

/-! ### State blocks (R290, R291) -/

/-- The 2,016 bytes of the coder area: the decoder's position, its unused bits and its tables. The form is the part's own (R290). -/
def coderArea (x : Inf) : List Byte :=
  let partBytes := packBits x.bits
  let nib (l : List Nat) := (pieces 2 0 l.length).map fun p => BitVec.ofNat 8 (l.getD p.1 0 + 16 * (if p.2 = 2 then l.getD (p.1 + 1) 0 else 0))
  padTo 2016 (leBytes 1 x.phase ++ leBytes 1 (b2n x.final) ++ leBytes 2 x.left ++ leBytes 1 x.gzFlags ++ leBytes 1 (x.used % 8) ++
    leBytes 2 x.bits.length ++ leBytes 4 x.gzCrc ++ leBytes 2 x.lit.length ++ leBytes 2 x.dist.length ++
    padTo 144 (nib x.lit) ++ padTo 16 (nib x.dist) ++ partBytes)

/-- The decoder that a coder area holds. -/
def coderRead (c : List Byte) (total check : Nat) (window : List Byte) : Inf :=
  let nib (o n : Nat) := (List.range n).map fun i => u8 c (o + i / 2) / 16 ^ (i % 2) % 16
  { phase := u8 c 0, final := u8 c 1 == 1, left := u16 c 2, gzFlags := u8 c 4, gzCrc := u32 c 8, lit := nib 16 (u16 c 12),
    dist := nib 160 (u16 c 14), bits := (streamBits (c.drop 176)).take (u16 c 6), used := u8 c 5, total := total, check := check,
    window := window, out := [] }

/-- The bytes of a state block. -/
def stateBlock (kind framing check total level table pendBits pendValue : Nat) (coder window : List Byte) : List Byte :=
  let head := leBytes 4 0x53535250 ++ leBytes 2 1 ++ leBytes 1 kind ++ leBytes 1 framing ++ leBytes 4 check ++
    leBytes 4 window.length ++ leBytes 8 total ++ leBytes 1 level ++ leBytes 1 table ++ leBytes 1 pendBits ++ leBytes 1 pendValue
  let tail := padTo 2016 coder ++ padTo 32768 window
  head ++ leBytes 4 (crc32c (head ++ leBytes 4 0 ++ tail)).toNat ++ tail

/-- Whether a loaded block is one that continues a job (R291). -/
def stateOk (b : List Byte) (kind framing level table : Nat) : Bool :=
  u32 b 0 == 0x53535250 && u16 b 4 == 1 && u8 b 6 == kind && u8 b 7 == framing && u8 b 24 == level && u8 b 25 == table &&
  u32 b 28 == (crc32c (b.take 28 ++ leBytes 4 0 ++ b.drop 32)).toNat && decide (u32 b 12 ≤ 32768)

/-! ### Jobs (R286, R287, R294) -/

/-- The fields of a Press descriptor. -/
structure Pr where
  framing : Nat
  level : Nat
  table : Nat
  flags : Nat
  len : Nat
  src : Nat
  dst : Nat
  cap : Nat
  state : Nat
  result : Nat
  deriving DecidableEq, Repr, Inhabited

def prOf (d : List Byte) : Pr :=
  { framing := u8 d 16, level := u8 d 17, table := u8 d 18, flags := u8 d 19, len := u32 d 20, src := u64 d 24, dst := u64 d 32,
    cap := u32 d 40, state := u64 d 48, result := u64 d 56 }

def prFinal (x : Pr) : Bool := bit x.flags 0
def prLoad (x : Pr) : Bool := bit x.flags 1
def prSave (x : Pr) : Bool := bit x.flags 2

/-- Checks 4 and 5 of R588 for COMPRESS and INFLATE. -/
def prCheck (s : State) (inflate : Bool) (d : List Byte) : Option Status :=
  let x := prOf d
  let o := addrOf s x.dst
  firstFail [
    (bits x.flags 7 4 == 0 && zeros d 44 4, .reservedNonzero),
    (decide (x.framing ≤ 2), .invalidArgument),
    (if inflate then x.level == 0 else decide (1 ≤ x.level ∧ x.level ≤ 9), .invalidArgument),
    (if inflate then x.table == 0 else decide (x.table ≤ 1), .invalidArgument),
    (!inflate || (!bit x.flags 0 && !bit x.flags 3), .invalidArgument),
    (fieldOk s false x.src x.len && fieldOk s false x.dst x.cap && fieldOkOr0 s false x.state 34816 && fieldOkOr0 s false x.result 16,
      .invalidArgument),
    (x.state != 0 || !(prLoad x || prSave x), .invalidArgument),
    (!overlaps o x.cap (addrOf s x.src) x.len && (x.state == 0 || !overlaps o x.cap (addrOf s x.state) 34816), .invalidArgument)]

/-- Whether a job is a no-op: no input, and nothing that it must still write (R17, R23, R294). -/
def prEmpty (inflate : Bool) (x : Pr) : Bool := x.len == 0 && (inflate || !prFinal x)

/-- The decoder of an INFLATE before its input: at the start of a stream, or as a loaded state block holds it. -/
def inflBegin (s : State) (x : Pr) : Inf :=
  if prLoad x then
    let b := peek s (addrOf s x.state) 34816
    coderRead (slice b 32 2016) (u64 b 16) (u32 b 8) (slice b 2048 (u32 b 12))
  else Inf.start x.framing

/-- The input bytes that a decoder has used up since `x0`. -/
def usedBytes (x : Pr) (x0 y : Inf) : Nat := min x.len (ceilDiv (y.used - x0.used - x0.bits.length) 8)

/-- How an INFLATE runs. -/
def inflRun (s : State) (x : Pr) : InfEnd :=
  let x0 := inflBegin s x
  let x1 : Inf := { x0 with bits := x0.bits ++ streamBits (peek s (addrOf s x.src) x.len) }
  infRun x.framing x.cap (infFuel x1) x1

/-- The input bytes that a job reads: all of it, but of an INFLATE none after the end of its stream (R284), and of one that meets a fault
none after the 64 KiB in which it lies (notes/assumptions/36.md). -/
def inputRead (s : State) (inflate : Bool) (x : Pr) : Nat :=
  if inflate then
    match inflRun s x with
    | .ended y => usedBytes x (inflBegin s x) y
    | .fault _ y => min x.len (roundUp (usedBytes x (inflBegin s x) y + 1) 65536)
    | _ => x.len
  else x.len

/-- What a job reads; a no-op that continues a stream takes the running check from its state block (R287). -/
def prReads (s : State) (inflate : Bool) (x : Pr) : List (LAddr × Nat) :=
  let state := if prLoad x then [(addrOf s x.state, 34816)] else []
  if prEmpty inflate x then (if x.result = 0 then [] else state)
  else
    match addrOf s x.src with
    | .remote m a => (.remote m a, x.len) :: state
    | a => (a, inputRead s inflate x) :: state

/-- Whether what a job has read is poisoned. -/
def prPoison (s : State) (inflate : Bool) (x : Pr) : Bool :=
  anyPoison s (addrOf s x.src) (inputRead s inflate x) || (prLoad x && anyPoison s (addrOf s x.state) 34816)

/-- The running check of a stream before a job (R287). -/
def checkBefore (s : State) (x : Pr) : Nat := if prLoad x then u32 (peek s (addrOf s x.state) 34816) 8 else frameStart x.framing

/-- The result record (R287). -/
def prRecord (s : State) (x : Pr) (outLen inUsed check : Nat) (ended : Bool) (reason : Nat) : List Chunk :=
  if x.result = 0 then []
  else [byteChunk (addrOf s x.result)
    (leBytes 4 outLen ++ leBytes 4 inUsed ++ leBytes 4 check ++ leBytes 1 (b2n ended) ++ leBytes 1 reason ++ [0, 0]) false]

/-- A failure that leaves the output undefined. -/
def prFail (s : State) (x : Pr) (st : Status) : DataRes := { DataRes.fail st with undef := [(addrOf s x.dst, x.cap)] }

/-- A no-op: its record alone, with the running check (R17, R287, R294). -/
def prNoop (s : State) (x : Pr) : DataRes :=
  if x.result ≠ 0 ∧ prLoad x = true ∧ anyPoison s (addrOf s x.state) 34816 = true then DataRes.fail .poisonedData
  else { status := .ok, detail := 0, writes := prRecord s x 0 0 (checkBefore s x) false 0, sticky := 0 }

/-- COMPRESS (R288-R294). The state block follows the output, and the record follows both (R287, R291). -/
def compressResult (s : State) (x : Pr) : DataRes :=
  let data := peek s (addrOf s x.src) x.len
  let b := if prLoad x then peek s (addrOf s x.state) 34816 else []
  if prEmpty false x then prNoop s x
  else if prPoison s false x then prFail s x .poisonedData
  else if prLoad x && !stateOk b 0 x.framing x.level x.table then DataRes.fail .invalidArgument
  else
    let check0 := checkBefore s x
    let total0 := if prLoad x then u64 b 16 else 0
    let window := if prLoad x then slice b 2048 (u32 b 12) else []
    let head := if prLoad x then lsb (u8 b 26) (u8 b 27) else streamBits (frameHeader x.framing x.level)
    let all := jobBlocks x.level x.table (prFinal x) window data total0 head
    let check := frameCheck x.framing check0 data
    let total := total0 + data.length
    let pend := if prFinal x then 0 else all.length % 8
    let out := if prFinal x then packBits all ++ frameTrailer x.framing check total else packBits (all.take (all.length - pend))
    let whole := !prLoad x && prFinal x && !bit x.flags 3 && x.len != 0
    let w := window ++ data
    let shrinkAt := x.len
    if whole && decide (x.len ≤ out.length) && decide (shrinkAt ≤ x.cap + 1) then
      { prFail s x .notShrunk with writes := prRecord s x 0 x.len check false 0 }
    else if x.cap < out.length then prFail s x .outputFull
    else
      let saved := if prSave x then
          [byteChunk (addrOf s x.state) (stateBlock 0 x.framing check total x.level x.table pend
            (lsbVal (all.drop (all.length - pend))) [] (w.drop (w.length - 32768))) false]
        else []
      { status := .ok, detail := 0, sticky := 0,
        writes := [byteChunk (addrOf s x.dst) out false], after := saved ++ prRecord s x out.length x.len check (prFinal x) 0 }

/-- INFLATE (R293-R295). -/
def inflateResult (s : State) (x : Pr) : DataRes :=
  let b := if prLoad x then peek s (addrOf s x.state) 34816 else []
  if prEmpty true x then prNoop s x
  else if prPoison s true x then prFail s x .poisonedData
  else if prLoad x && !stateOk b 1 x.framing 0 0 then DataRes.fail .invalidArgument
  else
    let used := usedBytes x (inflBegin s x)
    let corrupt (reason : Nat) (y : Inf) : DataRes :=
      { prFail s x .streamCorrupt with writes := prRecord s x y.out.length (used y) y.check false reason }
    let done (y : Inf) (ended : Bool) (consumed : Nat) : DataRes :=
      let saved := if prSave x then
          [byteChunk (addrOf s x.state) (stateBlock 1 x.framing y.check y.total 0 0 0 0 (coderArea y) y.window) false]
        else []
      { status := .ok, detail := 0, sticky := 0,
        writes := [byteChunk (addrOf s x.dst) y.out false], after := saved ++ prRecord s x y.out.length consumed y.check ended 0 }
    match inflRun s x with
    | .full => prFail s x .outputFull
    | .fault r y => corrupt r y
    | .ended y => done { y with bits := [] } true (used y)
    | .starved y => if prSave x then done y false x.len else corrupt 5 y

/-! ### Engines (R296-R299) -/

/-- The lowest-numbered idle engine in service (R296). -/
def idlePress (s : State) : Option Nat :=
  (List.range 4).find? fun n => unitUp s { cls := 4, num := n } && (s.press[n]?.map (·.job.isNone)).getD false

/-- An uncorrectable error in an engine's window or table SRAM (R299, R537). -/
def pressFailure (q : Nat) (idx : U32) (n : Nat) (out : LAddr × Nat) (s : State) : State :=
  let s := scramble out.1 out.2 s
  let s := modPress n (fun e => { e with sramUncorr := satAdd 255 e.sramUncorr 1 }) s
  let s := { s with memctl := { s.memctl with sramUe := satAdd (2 ^ 32 - 1) s.memctl.sramUe 1 } }
  let s := errRecord { type := 2, severity := 1, source := 5, unit := n, status := 0x0501, address := Config.freeNat s.free % 65536,
                       queue := q, tag := hTag (descOf s q idx), symbols := 0xFF, symbol := 0xFF, flags := 0, detail := [] }
             { s with free := s.free + 1 }
  finishOp q idx .uncorrectable 0 (unitUncorr { cls := 4, num := n } s)

/-- The end of a job on its engine: the engine is idle again, a corrupt stream is counted (R298). -/
def pressEnd (q : Nat) (idx : U32) (s : State) : State :=
  match getOp s q idx with
  | none => s
  | some o =>
    if o.phase ≠ .done then s
    else
      let s := match pressOf s q idx with
        | some n => if o.status = .streamCorrupt then modPress n (fun e => { e with corrupt := satAdd 65535 e.corrupt 1 }) s else s
        | none => s
      freePress q idx s

/-- A Press job that has started. `hw` is an uncorrectable error that its engine meets. -/
def runPress (q : Nat) (idx : U32) (inflate : Bool) (hw : Option Nat) (s : State) : State :=
  let x := prOf (descOf s q idx)
  match hw, pressOf s q idx with
  | some _, some n => freePress q idx (pressFailure q idx n (addrOf s x.dst, x.cap) s)
  | _, _ =>
    pressEnd q idx (runData q idx none false (prReads s inflate x)
      (fun s => if inflate then inflateResult s x else compressResult s x) s)

/-- COMPRESS (R289). -/
def execCompressOp (q : Nat) (idx : U32) (hw : Option Nat) (s : State) : State :=
  if opReady s q idx 3 0x01 then runPress q idx false hw s else s

/-- INFLATE (R293). -/
def execInflateOp (q : Nat) (idx : U32) (hw : Option Nat) (s : State) : State :=
  if opReady s q idx 3 0x02 then runPress q idx true hw s else s

/-- How one step of an INFLATE ends: at the end of the stream or a fault, out of its input, or with 1 MiB of output. -/
inductive StepEnd where
  | over
  | input (y : Inf)
  | output (y : Inf)

/-- One step of an INFLATE: it decodes what it has until 1 MiB of output would be passed (R296). -/
def inflStep (framing : Nat) : Nat → Inf → StepEnd
  | 0, _ => .over
  | n + 1, x =>
    if x.phase = 5 then .over
    else match infStep framing x with
      | .more => .input x
      | .fault _ => .over
      | .go y => if 1048576 < y.out.length then .output x else inflStep framing n y

/-- The steps of an INFLATE: each takes up to 64 KiB of input, what the last step left of its own among it (R296). -/
def inflSteps (framing : Nat) : Nat → List Bool → Inf → Nat
  | 0, _, _ => 0
  | n + 1, rest, x =>
    let room := 524288 - x.bits.length
    let x1 : Inf := { x with bits := x.bits ++ rest.take room, out := [] }
    let rest := rest.drop room
    match inflStep framing (infFuel x1) x1 with
    | .over => 1
    | .input y => if rest.isEmpty then 1 else 1 + inflSteps framing n rest y
    | .output y => 1 + inflSteps framing n rest y

/-- The charges of a Press job: its input in steps of 64 KiB, or 65,536 for each step of an INFLATE that takes more than one (R296). The
steps of an input in another module are counted by its length alone, since it is not yet here (notes/assumptions/36.md). -/
def pressCharge (s : State) (inflate : Bool) (x : Pr) : List Nat :=
  if x.len = 0 then []
  else if !inflate then (pieces 65536 0 x.len).map (·.2)
  else
    let here (a : LAddr) : Bool := match a with
      | .remote _ _ => false
      | _ => true
    let input := streamBits (peek s (addrOf s x.src) x.len)
    let n := if here (addrOf s x.src) && (!prLoad x || here (addrOf s x.state)) then
        inflSteps x.framing (ceilDiv x.len 65536 + ceilDiv x.cap 1048576 + 1) input (inflBegin s x)
      else ceilDiv x.len 65536
    if n ≤ 1 then [min x.len 65536] else List.replicate n 65536

/-- PRESS_STATE (R298). -/
def pressState (s : State) (n : Nat) : Nat :=
  let off := 8 * b2n ((getSvc s { cls := 4, num := n }).state == 2)
  match (s.press[n]?.bind (·.job)) with
  | some (q, _, inf) => q * 2 ^ 16 + off + 4 * b2n inf + 1
  | none => off

/-- PRESS_FAULTS (R298). -/
def pressFaults (s : State) (n : Nat) : Nat := ((s.press[n]?.map fun e => e.corrupt * 2 ^ 16 + e.sramUncorr * 2 ^ 8).getD 0)

end Sys2Proof.Machine
end

