-- ==== Sys2Proof/Machine/Signal.lean ====
section
/-!
DEFINITION. Host signal descriptors and hints (R358-R369, R485), and the check of RUN_PLAN (R55, R376).
-/

namespace Sys2Proof.Machine

/-! ### Host signal descriptors (R368, R369) -/

def sgCounter (d : List Byte) : Nat := u16 d 16
def sgModule (d : List Byte) : Nat := u8 d 18
def sgAmount (d : List Byte) : U32 := BitVec.ofNat 32 (u32 d 20)

/-- Whether the counter of a host signal descriptor lies in this module. -/
def sgLocal (s : State) (d : List Byte) : Bool := sgModule d == 0xFF || sgModule d == self s

/-- Send the counter operation of a descriptor to its module and await the result (R369): 1 SIGNAL, 2 SUB, 3 WAIT_GE, 4 ACQUIRE. The
address field of the request carries the counter and the operation. -/
def sgRemote (op q : Nat) (idx : U32) (d : List Byte) (s : State) : State :=
  awaitOrEnd q idx (issueFor q idx 3 (sgModule d) (sgCounter d + 2 ^ 16 * op) 0 (sgAmount d).toNat [] [] none s)

/-- SIGNAL (R358, R359, R368). -/
def execSignalOp (q : Nat) (idx : U32) (s : State) : State :=
  if opReady s q idx 5 0x01 then
    let d := descOf s q idx
    if sgLocal s d then
      if !storeTurn s q idx (sgCounter d) then s
      else
        let (s, st) := signalCounter (sgCounter d) (sgAmount d) s
        finishOp q idx st 0 s
    else sgRemote 1 q idx d s
  else s

/-- SUB (R358, R359, R368). -/
def execSubOp (q : Nat) (idx : U32) (s : State) : State :=
  if opReady s q idx 5 0x02 then
    let d := descOf s q idx
    if sgLocal s d then
      if !storeTurn s q idx (sgCounter d) then s
      else
        let (s, st) := subCounter (sgCounter d) (sgAmount d) s
        finishOp q idx st 0 s
    else sgRemote 2 q idx d s
  else s

/-- The arrival of a descriptor's wait at a local counter: it completes at once, or waits and holds its queue's head (R363, R364). -/
def sgArrive (acquire : Bool) (q : Nat) (idx : U32) (d : List Byte) (s : State) : State :=
  if !storeTurn s q idx (sgCounter d) then s
  else
    let r := arriveWait (sgCounter d) { who := .signal q idx, acquire := acquire, amount := sgAmount d } s
    match r.2 with
    | some st => finishOp q idx st 0 r.1
    | none => modOp q idx (fun o => { o with phase := .blocked }) r.1

/-- WAIT_GE (R358, R360, R363, R368). -/
def execWaitGeOp (q : Nat) (idx : U32) (s : State) : State :=
  if opReady s q idx 5 0x03 then
    let d := descOf s q idx
    if sgLocal s d then sgArrive false q idx d s else sgRemote 3 q idx d s
  else s

/-- ACQUIRE (R358, R360, R363, R368). -/
def execAcquireOp (q : Nat) (idx : U32) (s : State) : State :=
  if opReady s q idx 5 0x04 then
    let d := descOf s q idx
    if sgLocal s d then sgArrive true q idx d s else sgRemote 4 q idx d s
  else s

/-! ### Hints (R334, R485) -/

/-- The ticks of a hint's phase that remain at a first tick in the module's own count. -/
def hintPhase (first : Nat) (s : State) (d : List Byte) : Nat × Nat :=
  let start := if u64 d 16 = 0 then s.tick.count + 1 else ownTick s (u64 d 16)
  (max first start, start + u32 d 24 - max first start)

/-- HINT: the phase joins the controller's prediction from the next boundary on; a phase that has passed changes nothing. -/
def execHintOp (q : Nat) (idx : U32) (s : State) : State :=
  match getOp s q idx with
  | none => s
  | some o =>
    if hHint o.desc && o.phase == .running then
      let p := hintPhase (s.tick.count + 1) s o.desc
      let h : Hint := { start := p.1, ticks := p.2, watts := u16 o.desc 28, cls := u8 o.desc 30 }
      let s := if p.2 = 0 then s else { s with power := { s.power with hints := s.power.hints ++ [h] } }
      finishOp q idx .ok 0 s
    else s

/-! ### RUN_PLAN (R55, R56, R376) -/

/-- The fields of RUN_PLAN. -/
structure Rp where
  plan : Nat
  rounds : Nat
  start : Nat
  first : Nat
  flags : Nat
  argLen : Nat
  arg : Nat
  deriving DecidableEq, Repr, Inhabited

def rpOf (d : List Byte) : Rp :=
  { plan := u32 d 16, rounds := u32 d 20, start := u64 d 24, first := u16 d 32, flags := u16 d 34, argLen := u32 d 36,
    arg := u64 d 40 }

/-- Whether a ladle address is an address of HBM. -/
def isHbm : LAddr → Bool
  | .hbm _ => true
  | .remote _ _ => true
  | _ => false

/-- Whether the argument table lies where an operation may read it; an empty table is read nowhere. -/
def rpArgOk (s : State) (x : Rp) : Bool :=
  x.argLen == 0 || match addrField s false x.arg x.argLen with
    | some a => isHbm a
    | none => false

/-- The argument table's bytes. -/
def rpArgBytes (s : State) (x : Rp) : List Byte := if x.argLen = 0 then [] else peek s (addrOf s x.arg) x.argLen

/-- What the argument table binds for the plan set it names. -/
def rpArgs (s : State) (x : Rp) : Option ArgTable :=
  (planSetOf s x.plan).bind fun p => Config.decodeArgs p (rpArgBytes s x)

/-- Whether a table binds every tensor, ring and counter of a plan set (R55). -/
def argsBind (p : PlanSet) (a : ArgTable) : Bool :=
  decide (p.tensors ≤ a.tensors.length ∧ p.rings ≤ a.rings.length ∧ p.counters ≤ a.counters.length)

/-- Whether an input tensor's entry gives a format code of R79, and a Bayer order where the format has one. -/
def inputOk (i : Nat × Nat) : Bool :=
  [1, 2, 3, 4, 5, 0x10, 0x11].contains i.1 && ((i.1 != 4 && i.1 != 5) || decide (i.2 ≤ 3))

/-- Checks 4 and 5 of R588 for RUN_PLAN, in ascending offset order, then the bindings (R55, R79, R376). -/
def rpCheck (s : State) (q : Nat) (d : List Byte) : Option Status :=
  let x := rpOf d
  let p := (planSetOf s x.plan).getD default
  let args := rpArgs s x
  firstFail [
    (x.flags / 2 == 0 && zeros d 48 16, .reservedNonzero),
    ((planSetOf s x.plan).isSome, .invalidArgument),
    (x.start != 0 || decide (p.domain.length ≤ 1), .invalidArgument),
    (decide (x.first < p.stepCount) && p.swaps.getD x.first false, .invalidArgument),
    (x.argLen % 16 == 0, .invalidArgument),
    (rpArgOk s x, .invalidArgument),
    (x.argLen == 0 || !anyPoison s (addrOf s x.arg) x.argLen, .poisonedData),
    (args.any (argsBind p), .invalidArgument),
    (!p.isEncode || (args.getD default).inputs.all inputOk, .invalidArgument),
    ((localCounters s (args.getD default)).all (fun c => c != 0xFFFF), .invalidArgument),
    ((localCounters s (args.getD default)).all (fun c => (getC s c).mode == .claimed && (getC s c).owner == q), .counterState)]

/-- How often a start was deferred before its RUN_PLAN was admitted here (R56). -/
def deferredBy (s : State) (planSet start : Nat) : Nat :=
  ((s.plan.absent.find? fun a => a.1 == planSet && a.2.1 == start).map (·.2.2)).getD 0

/-- The request of an admitted RUN_PLAN; its start tick in the module's own count, with the deferrals so far (R56). -/
def planReqOf (s : State) (q : Nat) (idx : U32) (d : List Byte) : PlanReq :=
  let x := rpOf d
  let start := ownTick s x.start
  let k := deferredBy s x.plan start
  { queue := q, index := idx, planSet := x.plan, rounds := x.rounds, start := start + k, firstStep := x.first,
    args := (rpArgs s x).getD default, stopAtSwap := bit x.flags 0, deferrals := k }

/-- The counters of an argument table count as owned by a running plan job from admission on (R376). -/
def reserveCounters (a : ArgTable) (s : State) : State :=
  (localCounters s a).foldl (fun s c => modC c (fun k => { k with inJob := true }) s) s

/-- Counters of an argument table go back to their queue. -/
def returnCounters (a : ArgTable) (s : State) : State :=
  (localCounters s a).foldl (fun s c => modC c (fun k => { k with inJob := false }) s) s

/-- RUN_PLAN (R55-R57): the started descriptor asks for its job; with no rounds it is a no-op (R17). -/
def execRunPlanOp (q : Nat) (idx : U32) (s : State) : State :=
  if opReady s q idx 0 0x01 then
    let d := descOf s q idx
    if u32 d 20 = 0 then finishOp q idx .ok 0 s
    else modOp q idx (fun o => { o with phase := .blocked }) s
  else s

end Sys2Proof.Machine
end

