-- ==== Sys2Proof/Machine/Work.lean ====
section
/-!
DEFINITION. What the operations that a tick plan fixes compute: descriptor forms, exact primitives, context records, the masked y,
reductions, updates and Whey layers (R50, R78-R84, R90, R112, R202, R203, R242-R246, R437).
-/

namespace Sys2Proof.Machine

/-! ### Operands of plan operations -/

def poOperand (s : State) (p : PlanOperand) : Operand := operandOf s p.fw p.base p.scale p.group 0

/-- The spans of `n` elements of an operand: codes, block scales, group scales. -/
def poSpans (s : State) (p : PlanOperand) (n : Nat) : List (LAddr × Nat) :=
  let nb := ceilDiv n 32
  arraySpan s true p.base (packedBytes (fwElem p.fw) n) ++ arraySpan s (fwScale p.fw != 0) p.scale nb ++
  arraySpan s (fwGroup p.fw != 0) p.group (groupBytes p.fw nb)

/-- The elements of an operand with their scales (R187). -/
def poStrips (s : State) (p : PlanOperand) (n : Nat) : List Strip :=
  let o := poOperand s p
  (List.range n).map fun i => oldStrip s o (i * fmtBits (fwElem p.fw)) (i / 32)

/-- The value of a read element under R187, and whether it depends on a poisoned word. -/
def poVal (x : Strip) : Val × Bool := (stripValue x, stripBad x)

/-- The writes of `n` FP32 values through an output operand, and what their conversions count. -/
def poWrite (s : State) (p : PlanOperand) (seed : Nat) (vs : List (Val × Bool)) : List Chunk × Stats :=
  let o := poOperand s p
  let row := (vs.zip (upFrom 0 vs.length)).map fun v => ({ v := v.1.1, bad := v.1.2, idx := v.2 } : OutVal)
  let cv := convertRow s o seed 0 row
  (rowWrites o o.base 0 cv, countConv cv.1)

/-- What an operation over operands gives: its writes, and the sticky bits of its outputs and of its inputs, each counted once (R186,
R195, R197). -/
def poRes (ins : List (List Strip)) (outs : List (List Chunk × Stats)) : DataRes :=
  let counts := ins.map inputCounts
  let sticky := (outs.map fun w => stickyOf w.2).foldl (· ||| ·) (stickyOf (Stats.zero.withInputs counts []))
  chunksRes (outs.flatMap (·.1)) |> fun r => { r with sticky := sticky }

/-- Whether an operand of `n` elements has a format word, a packing and a block axis that R174, R176, R179 and R188 accept. -/
def poCheck (output : Bool) (n : Nat) (p : PlanOperand) : Option Status :=
  firstFail [
    (fwReservedOk p.fw, .reservedNonzero),
    (fwOk output false p.fw && tensorFmt p.fw && packOk (fwElem p.fw) n && (!fwScaled p.fw || n % 32 == 0), .invalidArgument)]

/-! ### Reductions and updates (R202, R203, R437) -/

/-- The result of a reduction: every input widened to FP32, added in the order given, converted once. -/
def reduceResult (s : State) (srcs : List PlanOperand) (out : PlanOperand) (n seed : Nat) : DataRes :=
  let ins := srcs.map fun p => poStrips s p n
  let sums := (List.range n).map fun i =>
    ins.foldl (fun acc v => let x := poVal (v.getD i default); (fadd acc.1 x.1, acc.2 || x.2)) (Val.zero, false)
  poRes ins [poWrite s out seed sums]

/-- The FP32 value of an update expression, and whether an input that it uses depends on a poisoned word. -/
def evalUpd (ins : List (Val × Bool)) : UpdExp → Val × Bool
  | .src k => ins.getD k (.zero, false)
  | .const c => (ofF32 c, false)
  | .neg a => ((evalUpd ins a).1.negate, (evalUpd ins a).2)
  | .add a b => (fadd (evalUpd ins a).1 (evalUpd ins b).1, (evalUpd ins a).2 || (evalUpd ins b).2)
  | .sub a b => (fsub (evalUpd ins a).1 (evalUpd ins b).1, (evalUpd ins a).2 || (evalUpd ins b).2)
  | .mul a b => (fmul (evalUpd ins a).1 (evalUpd ins b).1, (evalUpd ins a).2 || (evalUpd ins b).2)
  | .div a b => (fdiv (evalUpd ins a).1 (evalUpd ins b).1, (evalUpd ins a).2 || (evalUpd ins b).2)
  | .func c a => (sfu c (evalUpd ins a).1, (evalUpd ins a).2)

/-- The result of an update: each stored value read once, computed in FP32, each result written once. -/
def updateResult (s : State) (srcs : List PlanOperand) (outs : List (UpdExp × PlanOperand)) (n seed : Nat) : DataRes :=
  let ins := srcs.map fun p => poStrips s p n
  let at_ (i : Nat) := ins.map fun v => poVal (v.getD i default)
  poRes ins (outs.map fun o => poWrite s o.2 seed ((List.range n).map fun i => evalUpd (at_ i) o.1))

/-- The rounding of an analysis output to i16, in the analysis regime: it counts as any conversion does (R78, R181, R184). -/
def roundResult (s : State) (src : PlanOperand) (dst n : Nat) : DataRes :=
  let xs := poStrips s src n
  let cs := xs.map fun x => convertTo 0x12 0 0 (poVal x).1
  poRes [xs] [([codeChunk 0x12 (addrOf s dst) (cs.map (·.code)) (xs.map stripBad)], countConv cs)]

/-- The bytes of a PCM sample, and the samples of an audio frame (R79, R107). -/
def pcmBytes (fmt : Nat) : Nat := if fmt = 0x10 then 2 else 3

/-- The samples of a channel with its last frame padded to 3,072 (R108). -/
def pcmPadded (samples : Nat) : Nat := roundUp samples 3072

/-- PCM samples as the input channels of a 1-D signal: each channel's samples in turn, zeros to a whole frame, converted once (R79, R107,
R108). -/
def pcmResult (s : State) (fmt channels samples src : Nat) (out : PlanOperand) : DataRes :=
  let b := pcmBytes fmt
  let vs := (List.range channels).flatMap fun c => (List.range (pcmPadded samples)).map fun t =>
    if t < samples then
      let a := laPlus (addrOf s src) (b * (t * channels + c))
      (Val.ofInt (signed (8 * b) (leNat (peek s a b))), anyPoison s a b)
    else (Val.zero, false)
  poRes [] [poWrite s out 0 vs]

/-! ### The exact path (R80-R84, R90, R112) -/

/-- An exact tensor in memory: i16 elements in channel, row, column order, and the poison of each element as 0 or 1 (R83). -/
def exactIn (s : State) (t : Nat × Nat × Nat × Nat) : Tensor × Tensor :=
  let n := t.2.1 * t.2.2.1 * t.2.2.2
  let a (i : Nat) := laPlus (addrOf s t.1) (2 * i)
  ({ c := t.2.1, h := t.2.2.1, w := t.2.2.2, data := (List.range n).map fun i => i16 (peek s (a i) 2) 0 },
   { c := t.2.1, h := t.2.2.1, w := t.2.2.2, data := (List.range n).map fun i => (b2n (anyPoison s (a i) 2) : Nat) })

/-- Which elements of an exact primitive's output depend on poison, from the poison of its inputs: an element is poisoned when it reads a
poisoned one. -/
def taintXOp (op : XOp) (ins : List Tensor) : Tensor :=
  let a := ins.getD 0 default
  let b := ins.getD 1 default
  let either (x y : Int) : Int := if x ≠ 0 ∨ y ≠ 0 then 1 else 0
  match op with
  | .conv w _ _ _ _ _ kh kw sy sx dy dx padT padB padL padR groups tr =>
    let cg := a.c / max 1 groups
    let og := w.length / max 1 groups
    Tensor.build w.length (axisOut tr a.h kh sy dy padT padB) (axisOut tr a.w kw sx dx padL padR) fun o i j =>
      if (List.range (kh * kw * cg)).any fun t =>
          match axisTap tr a.h sy dy padT i (t / cg / kw), axisTap tr a.w sx dx padL j (t / cg % kw) with
          | some u, some v => a.at_ (o / max 1 og * cg + t % cg) u v != 0
          | _, _ => false
      then 1 else 0
  | .ewAdd _ _ _ _ _ _ => Tensor.build a.c a.h a.w fun c i j => either (a.at_ c i j) (b.at_ c i j)
  | .ewMul _ _ _ _ => Tensor.build a.c a.h a.w fun c i j => either (a.at_ c i j) (b.at_ c i j)
  | .up fh fw => Tensor.build a.c (a.h * fh) (a.w * fw) fun c i j => a.at_ c (i / max 1 fh) (j / max 1 fw)
  | .concat => { c := (ins.map (·.c)).sum, h := a.h, w := a.w, data := ins.flatMap (·.data) }
  | .slice c0 n => Tensor.build n a.h a.w fun c i j => a.at_ (c0 + c) i j
  | _ => a

/-- The result of one exact primitive; XOUT writes i32. -/
def exactResult (s : State) (v1 : Bool) (op : XOp) (ins : List (Nat × Nat × Nat × Nat)) (out : Nat) (wide : Bool) : DataRes :=
  let ts := ins.map (exactIn s)
  let f := if wide then 0x13 else 0x12
  let r := runXOp v1 op (ts.map (·.1))
  let bad := taintXOp op (ts.map (·.2))
  { status := .ok, detail := 0, sticky := 0,
    writes := [codeChunk f (addrOf s out) (r.data.map (wrapInt (if wide then 32 else 16))) (bad.data.map (· != 0))] }

/-- The model entry that an exact operation uses: of the generation to which an open context's wheel is bound, else of the active bank
(R99, R102, R114). -/
def planEntry (s : State) (ctx : Option Nat) (model : Nat) : Option ModelEntry :=
  let es := match ctx.bind (getCtx s) with
    | some x => entriesOf s x.generation
    | none => s.culture.active
  es.find? fun e => e.id == model

/-- The context records of a tensor's elements (R84, R112, R129). -/
def recordsResult (s : State) (e : Option ModelEntry) (intra : Bool) (mu sigma dst n : Nat) : DataRes :=
  match e with
  | none => DataRes.fail .tableMismatch
  | some e =>
    let v1 := e.exact.version == 1
    let count := ySetCount e (if intra then 0 else 1)
    let rd (b i : Nat) := i32 (peek s (laPlus (addrOf s b) (4 * i)) 4) 0
    let bad (i : Nat) := anyPoison s (laPlus (addrOf s mu) (4 * i)) 4 || anyPoison s (laPlus (addrOf s sigma) (4 * i)) 4
    chunksRes ((List.range n).map fun i => byteChunk (laPlus (addrOf s dst) (4 * i))
      (leBytes 2 (wrapInt 16 (roundMean v1 (rd mu i))) ++ leBytes 1 (scaleIndex v1 (rd sigma i) e.exact.thresholds count) ++ [0])
      (bad i))

/-- The masked y of pass p: the elements of the passes before it, 0 elsewhere (R90). -/
def maskResult (s : State) (e : Option ModelEntry) (h w p src dst : Nat) : DataRes :=
  match e with
  | none => DataRes.fail .tableMismatch
  | some e =>
    let keep := ((upFrom 1 p).flatMap fun q => elementsOf e.exact ((h, w), (0, 0)) q).map (denseIdx (h, w))
    chunksRes ((List.range (e.exact.cY * h * w)).map fun i =>
      let a := laPlus (addrOf s src) (2 * i)
      if keep.contains i then byteChunk (laPlus (addrOf s dst) (2 * i)) (peek s a 2) (anyPoison s a 2)
      else byteChunk (laPlus (addrOf s dst) (2 * i)) [0, 0] false)

/-! ### Whey engines (R79, R242-R245) -/

/-- The place of a Bayer channel R, Gr, Gb, B in its 2 x 2 cell, by order 0 RGGB, 1 GRBG, 2 GBRG, 3 BGGR (R79, R243). -/
def bayerPlace (order c : Nat) : Nat × Nat :=
  let cells : List (List (Nat × Nat)) :=
    [[(0, 0), (0, 1), (1, 0), (1, 1)], [(0, 1), (0, 0), (1, 1), (1, 0)], [(1, 0), (1, 1), (0, 0), (0, 1)], [(1, 1), (1, 0), (0, 1), (0, 0)]]
  ((cells.getD order []).getD c (0, 0))

/-- Where channel c of grid position (i, j) of a pixel frame lies: the sample's row and column in its plane, and the plane's byte offset
and stride. `h` is the grid's height. -/
def pixelPlace (fmt order : Nat) (strides : Nat × Nat) (h c i j : Nat) : Nat × Nat × Nat × Nat :=
  match fmt with
  | 3 => (0, strides.1, i, 3 * j + c)
  | 4 => let p := bayerPlace order c; (0, strides.1, 2 * i + p.1, 2 * j + p.2)
  | 5 => let p := bayerPlace order c; (0, strides.1, 2 * i + p.1, 2 * j + p.2)
  | _ =>
    if c < 4 then (0, strides.1, 2 * i + c / 2, 2 * j + c % 2)
    else (2 * h * strides.1 + (c - 4) * (h * strides.2), strides.2, i, j)

/-- The bytes that hold a sample of an input format, and its value (R79). -/
def pixelSample (s : State) (fmt : Nat) (base : LAddr) (p : Nat × Nat × Nat × Nat) : Nat × Bool :=
  let row := laPlus base (p.1 + p.2.1 * p.2.2.1)
  let x := p.2.2.2
  let one (o : Nat) : Nat := leNat (peek s (laPlus row o) 1)
  match fmt with
  | 2 => (bits (leNat (peek s (laPlus row (2 * x)) 2)) 9 0, anyPoison s (laPlus row (2 * x)) 2)
  | 4 =>
    let g := 5 * (x / 4)
    (4 * one (g + x % 4) + bits (one (g + 4)) (2 * (x % 4) + 1) (2 * (x % 4)),
     anyPoison s (laPlus row (g + x % 4)) 1 || anyPoison s (laPlus row (g + 4)) 1)
  | 5 =>
    let g := 3 * (x / 2)
    (16 * one (g + x % 2) + bits (one (g + 2)) (4 * (x % 2) + 3) (4 * (x % 2)),
     anyPoison s (laPlus row (g + x % 2)) 1 || anyPoison s (laPlus row (g + 2)) 1)
  | _ => (one x, anyPoison s (laPlus row x) 1)

/-- The bytes of one frame of a pixel format from its grid's height and its strides. -/
def pixelFrame (fmt : Nat) (strides : Nat × Nat) (h : Nat) : Nat :=
  if fmt ≤ 2 then 2 * h * strides.1 + 2 * h * strides.2 else if fmt = 3 then h * strides.1 else 2 * h * strides.1

/-- The bytes of a row of a pixel input's first plane and of its chroma planes, from its grid's width (R79). -/
def pixelRow (fmt w : Nat) : Nat × Nat :=
  match fmt with
  | 1 => (2 * w, w)
  | 2 => (4 * w, 2 * w)
  | 3 => (3 * w, 0)
  | 4 => (2 * w / 4 * 5, 0)
  | _ => (3 * w, 0)

/-- Whether a pixel input's strides hold its rows at multiples of 16 bytes; the width of a RAW10 frame is a multiple of 4 (R79). -/
def stridesOk (w : WheyOp) : Bool :=
  let x := wheyCv w
  let r := pixelRow w.pixIn x.w
  w.pixIn == 0 || (decide (r.1 ≤ w.strides.1 ∧ r.2 ≤ w.strides.2) && w.strides.1 % 16 == 0 && w.strides.2 % 16 == 0 &&
    (w.pixIn != 4 || x.w % 2 == 0))

/-- The zero point of a channel (R244). -/
def wheyZp (w : WheyOp) (c : Nat) : Nat := if w.zps.length ≤ 1 then w.zps.getD 0 0 else w.zps.getD c 0

/-- An input element of a Whey operation: q = code - zp (R243, R244). -/
def wheyElem (s : State) (w : WheyOp) (n ch : Nat) (p : Nat × Nat) : Elem :=
  let x := wheyCv w
  let e : Elem := if w.pixIn = 0 then
      readElem s (operandOf s x.fx x.x 0 0 0) (layoutIdx x.lx x.ci x.h x.w n ch p.1 p.2 * fmtBits (fwElem x.fx))
    else
      let base := laPlus (addrOf s x.x) (n * pixelFrame w.pixIn w.strides x.h)
      let v := pixelSample s w.pixIn base (pixelPlace w.pixIn w.bayer w.strides x.h ch p.1 p.2)
      { v := .ofInt v.1, flushed := false, bad := v.2, at_ := ((n * x.ci + ch) * x.h + p.1) * x.w + p.2 }
  { e with v := e.v.sub (.ofInt (wheyZp w ch)) }

/-- The input strip of an output position, without scales (R243, R244). -/
def wheyStripX (s : State) (w : WheyOp) (n g i j : Nat) : Strip :=
  let x := wheyCv w
  { els := (List.range (cvK x)).map fun t =>
      let (ky, kx, c) := cvTapOf x t
      (cvTap x i j ky kx).map (wheyElem s w n (g * cvCg x + c)),
    scales := [], groups := [] }

/-- One output value of a Whey layer, after its scale and epilogue, with the existing output and the inputs that it reads (R242, R245). -/
def wheyOut (s : State) (w : WheyOp) (oy : Operand) (e : Epi) (ws : List Strip) (n oc i j : Nat) : OutVal × Option Strip × Strip :=
  let x := wheyCv w
  let xs := wheyStripX s w n (oc / max 1 (cvOg x)) i j
  let sc := laPlus (addrOf s w.scale) (4 * oc)
  let post (v : Val) : Val × Bool := if w.scale = 0 then (v, false) else (fmul v (ofF32 (leNat (peek s sc 4))), anyPoison s sc 4)
  let o := convElem s x oy e false (bit x.flags 1 && w.pixOut == 0) post xs (ws.getD oc default) n oc i j
  (o.1, o.2, xs)

/-- The write of one sample of a pixel output: the format's bytes, one u16 for Bayer formats (R172, R245). -/
def pixelWrite (s : State) (w : WheyOp) (o : OutVal) (n c i j : Nat) : Conv × Chunk :=
  let x := wheyCv w
  let p := pixelPlace w.pixOut w.bayer w.stridesOut (cvHo x) c i j
  let width := if w.pixOut = 1 ∨ w.pixOut = 3 then 1 else 2
  let cv := convertInt 16 0 (pixelMax w.pixOut) o.v
  let base := laPlus (addrOf s x.y) (n * pixelFrame w.pixOut w.stridesOut (cvHo x))
  (cv, byteChunk (laPlus base (p.1 + p.2.1 * p.2.2.1 + width * p.2.2.2)) (leBytes width cv.code) o.bad)

/-- The result of a Whey operation: a tensor under the epilogue and the conversion of R216, or pixels. -/
def wheyResult (s : State) (w : WheyOp) : DataRes :=
  let x := wheyCv w
  let harp := if x.harp = 0 then [] else [({ addr := addrOf s x.harp, data := harpBytes x, poison := [] } : Chunk)]
  if cvEmpty x then { status := .ok, detail := 0, writes := statsWrite s x.stats true .zero ++ harp, sticky := 0 }
  else
    let oy := operandOf s x.fy x.y x.ys x.yg 0
    let e : Epi := { biasFmt := x.fbias, bias := if x.bias = 0 then none else some (addrOf s x.bias), act := x.act, integer := false }
    let ws := (List.range x.co).map (cvStripW s x)
    let runs := (outRuns (if w.pixOut = 0 then x else { x with ly := 2 })).map fun r =>
      let row := (upFrom r.2.2.1 (min r.2.2.2 (x.co - r.2.2.1))).map fun oc => (oc, wheyOut s w oy e ws r.1.1 oc r.1.2.2.1 r.1.2.2.2)
      (row.map (·.2), if w.pixOut = 0 then outRun s x oy r (row.map (·.2.1))
        else (row.map fun o => pixelWrite s w o.2.1 r.1.1 o.1 r.1.2.2.1 r.1.2.2.2).unzip)
    let inX := inputCounts (runs.flatMap fun r => r.1.map (·.2.2))
    let inY := inputCounts (runs.flatMap fun r => r.1.filterMap (·.2.1))
    let t := (countConv (runs.flatMap (·.2.1))).withInputs [inX, inputCounts ws, inY] (runs.flatMap fun r => r.1.map (·.1.v))
    floatRes s x.stats (bit x.flags 0) (runs.any fun r => r.1.any (·.1.bad)) t (runs.flatMap (·.2.2)) harp

/-- What a Whey operation reads. -/
def wheyReads (s : State) (w : WheyOp) : List (LAddr × Nat) :=
  let x := wheyCv w
  if cvEmpty x then []
  else
    let len (i : Nat) := ((cvSpans x).getD i (0, 0)).2
    (if w.pixIn = 0 then layoutSpans s (fwElem x.fx) x.lx x.x x.n x.ci x.h x.w
     else arraySpan s true x.x (x.n * pixelFrame w.pixIn w.strides x.h)) ++
    arraySpan s true x.wt (len 1) ++
    (if w.pixOut = 0 then
      (if bit x.flags 1 then layoutSpans s (fwElem x.fy) x.ly x.y x.n x.co (cvHo x) (cvWo x) else []) ++
      arraySpan s (fwScale x.fy != 0 && (fwSource x.fy == 0 || bit x.flags 1)) x.ys (len 5) ++ arraySpan s (fwGroup x.fy != 0) x.yg (len 8)
     else []) ++
    arraySpan s true x.bias (len 9) ++ arraySpan s true w.scale (4 * x.co)

/-! ### One data operation of a plan -/

/-- What a data operation of a plan reads, and what it computes; none for an operation of another kind. -/
def planData (s : State) (op : PlanOp) : Option (List (LAddr × Nat) × (State → DataRes)) :=
  match op with
  | .vat d =>
    match hOpcode d with
    | 0x10 => some (mmReads s (mmAt s d), fun s => mmResult s (mmAt s d))
    | 0x11 => some (attReads s (attAt s d), fun s => attResult s (attAt s d))
    | 0x12 => some (cvReads s (cvAt s d), fun s => cvResult s (cvAt s d))
    | 0x13 => some (rsReads s (rsOf d), fun s => rsResult s (rsOf d))
    | 0x14 => some (fnReads s (fnOf d), fun s => fnResult s (fnOf d))
    | 0x15 => some (nmReads s (nmAt s d), fun s => nmResult s (nmAt s d))
    | 0x16 => some (smReads s (smAt s d), fun s => smResult s (smAt s d))
    | _ => none
  | .ladle d =>
    match hOpcode d with
    | 1 => some (trReads s (trOf d), fun s => trResult s (trOf d) (openSlotOf s (trOf d).ring))
    | 2 => some (gaReads s (gaOf d), fun s => gaResult s (gaOf d) (openSlotOf s (gaOf d).ring))
    | _ => none
  | .exact v1 x ins out wide =>
    some (ins.map fun t => (addrOf s t.1, 2 * t.2.1 * t.2.2.1 * t.2.2.2), fun s => exactResult s v1 x ins out wide)
  | .roundLatent src dst n => some (poSpans s src n, fun s => roundResult s src dst n)
  | .records c m intra mu sigma dst n =>
    some ([(addrOf s mu, 4 * n), (addrOf s sigma, 4 * n)], fun s => recordsResult s (planEntry s c m) intra mu sigma dst n)
  | .maskY c m h w p src dst =>
    let cY := ((planEntry s c m).map (·.exact.cY)).getD 0
    some ([(addrOf s src, 2 * cY * h * w)], fun s => maskResult s (planEntry s c m) h w p src dst)
  | .pcm fmt channels samples src out =>
    some ([(addrOf s src, pcmBytes fmt * channels * samples)], fun s => pcmResult s fmt channels samples src out)
  | .reduce srcs out n seed => some (srcs.flatMap fun p => poSpans s p n, fun s => reduceResult s srcs out n seed)
  | .update srcs outs n seed => some (srcs.flatMap fun p => poSpans s p n, fun s => updateResult s srcs outs n seed)
  | .whey w => some (wheyReads s w, fun s => wheyResult s w)
  | .rindStore src dst len _ _ _ _ => some ([(addrOf s src, len)], fun s => chunksRes [copyChunk s (addrOf s src) (addrOf s dst) len])
  | _ => none

/-! ### The checks of a plan operation (R74-R81, R173-R261, R344: the same fields hold in a plan step, R207) -/

/-- The checks of a plan operation's own fields, in the order of its descriptor form where it has one. -/
def planShape (s : State) (q : Nat) (op : PlanOp) : Option Status :=
  match op with
  | .vat d =>
    match hOpcode d with
    | 0x10 => mmCheck s true d
    | 0x11 => attCheck s true d
    | 0x12 => cvCheck s true d
    | 0x13 => rsCheck s true d
    | 0x14 => fnCheck s true d
    | 0x15 => nmCheck s true d
    | 0x16 => smCheck s true d
    | _ => some .invalidArgument
  | .ladle d =>
    match hOpcode d with
    | 1 => trCheck s true q d
    | 2 => gaCheck s true d
    | _ => some .invalidArgument
  | .range d =>
    match hOpcode d with
    | 1 => dbCheck s true d
    | 2 => dpCheck s true d
    | 3 => deCheck s true d
    | 4 => ewCheck s true d
    | _ => some .invalidArgument
  | .roundLatent src _ n => poCheck false n src
  | .reduce srcs out n _ => (srcs.findSome? (poCheck false n)) <|> poCheck true n out
  | .update srcs outs n _ => (srcs.findSome? (poCheck false n)) <|> outs.findSome? fun o => poCheck true n o.2
  | .whey w => if stridesOk w then none else some .invalidArgument
  | .pcm fmt channels samples _ out =>
    firstFail [((fmt == 0x10 || fmt == 0x11) && decide (1 ≤ channels ∧ channels ≤ 16), .invalidArgument)] <|>
      poCheck true (channels * pcmPadded samples) out
  | _ => none

/-- Whether a span is one that a plan operation of a unit may name: inside its memory and outside the reserved region; a vat operation
names no vat's SRAM but its own (R206, R303, R342). -/
def planSpanOk (s : State) (u : UnitId) (op : PlanOp) (r : LAddr × Nat) : Bool :=
  r.2 == 0 || (spanOk s true r.1 r.2 && match op, r.1 with
    | .vat _, .sram v _ => u.cls == 0 && v == u.num
    | _, _ => true)

/-- The status that keeps a plan operation from its effect: it reads and writes nothing, and its unit goes on (R207,
notes/assumptions/30.md). -/
def planCheck (s : State) (u : UnitId) (q : Nat) (op : PlanOp) : Option Status :=
  let spans := match planData s op with
    | some (reads, f) => reads ++ chunkSpans (f s).writes
    | none => []
  planShape s q op <|> firstFail [(spans.all (planSpanOk s u op), .invalidArgument)]

end Sys2Proof.Machine
end

