-- ==== Sys2Proof/Machine/Admit.lean ====
section
/-!
DEFINITION. Admission of dynamic work at a boundary, its steps, its start and its completion (R66-R69, R208, R332-R341, R347, R588).
-/

namespace Sys2Proof.Machine

/-! ### The checks of R588 -/

/-- Checks 4 and 5: the operation's own. -/
def opCheck (s : State) (q cls : Nat) (d : List Byte) : Option Status :=
  match cls, hOpcode d with
  | 0, 0x01 => rpCheck s q d
  | 0, 0x10 => mmCheck s false d
  | 0, 0x11 => attCheck s false d
  | 0, 0x12 => cvCheck s false d
  | 0, 0x13 => rsCheck s false d
  | 0, 0x14 => fnCheck s false d
  | 0, 0x15 => nmCheck s false d
  | 0, 0x16 => smCheck s false d
  | 1, 1 => trCheck s false q d
  | 1, 2 => gaCheck s false d
  | 1, 3 => sfCheck s d
  | 2, 1 => dbCheck s false d
  | 2, 2 => dpCheck s false d
  | 2, 3 => deCheck s false d
  | 2, 4 => ewCheck s false d
  | 3, 1 => prCheck s false d
  | 3, 2 => prCheck s true d
  | 4, 1 => saCheck s d
  | 4, 2 => lkCheck s d
  | 4, 3 => ptCheck d
  | 4, 4 => dlCheck d
  | 5, _ => signalCheck s d
  | _, _ => some .invalidArgument

/-- Every check of R588 on a descriptor of a queue, in order. -/
def descCheck (s : State) (q : Nat) (d : List Byte) : Option Status :=
  let v := getQ s q
  headerCheck v d <|> (if hHint d then hintCheck d else opCheck s q v.cls d)

/-! ### Extents and costs (R17, R66, R69) -/

/-- Whether a descriptor has a zero extent, is a hint, or completes without engine work: it uses no capacity (R69, R136, R334, R344,
R345, R360). -/
def zeroExtent (s : State) (q cls : Nat) (d : List Byte) : Bool :=
  hHint d ||
  match cls, hOpcode d with
  | 0, 0x01 => (rpOf d).rounds == 0
  | 0, 0x10 => mmEmpty (mmAt s d)
  | 0, 0x11 => attEmpty (attAt s d)
  | 0, 0x12 => cvEmpty (cvAt s d)
  | 0, 0x13 => rsEmpty (rsOf d)
  | 0, 0x14 => (fnOf d).count == 0
  | 0, 0x15 => (nmAt s d).rows == 0
  | 0, 0x16 => (smAt s d).rows == 0
  | 1, 1 => trEmpty s (trOf d)
  | 1, 2 => (gaOf d).count == 0
  | 1, 3 => u32 d 20 == 0
  | 2, 1 => dbEmpty d
  | 2, 2 => passCharge s q d == some 0
  | 3, _ => (prOf d).len == 0
  | 4, 1 => (saOf d).count == 0
  | 5, _ => u32 d 20 == 0
  | _, _ => false

/-- No work. -/
def Work.zero : Work := { left := 0, grain := 1, fixed := [] }

/-- Whether no capacity is left to admit. -/
def Work.allDone (w : Work) : Bool := w.left == 0 && w.fixed.isEmpty

/-- Tiles of a descriptor vat operation, the cycles of tile t, and those of the epilogue of a vat's last tile in a step, which MATMUL and
CONV have beside their tiles (R208, R222, R223, R246, R279). -/
def vatTiles (s : State) (d : List Byte) : Nat × (Nat → Nat) × Nat :=
  match hOpcode d with
  | 0x10 => (mmTiles (mmAt s d), fun _ => mmCycles (mmAt s d), 256)
  | 0x11 => (attTiles (attAt s d), attCycles (attAt s d), 0)
  | 0x12 => (cvTiles (cvAt s d), fun _ => cvCycles (cvAt s d), 256)
  | 0x13 => (rsTiles (rsOf d), fun _ => rsCycles (rsOf d), 0)
  | 0x14 => (fnTiles (fnOf d), fun _ => fnCycles (fnOf d), 0)
  | 0x15 => (nmTiles (nmAt s d), fun _ => nmCycles (nmAt s d), 0)
  | _ => (smTiles (smAt s d), fun _ => smCycles (smAt s d), 0)

/-- Whether an opcode of the plan class is a descriptor vat operation. -/
def isVat (cls : Nat) (d : List Byte) : Bool := cls == 0 && hOpcode d != 1

/-- Whether a ladle descriptor moves data, and so takes a ladle (R340, R348). -/
def takesLadle (cls : Nat) (d : List Byte) : Bool := cls == 1 && hOpcode d != 3

/-- What a checked descriptor of positive extent has to have admitted. -/
def workOf (s : State) (q cls : Nat) (d : List Byte) : Work :=
  match cls, hOpcode d with
  | 0, 0x01 => { left := 0, grain := 1, fixed := [1] }
  | 0, _ => { left := (vatTiles s d).1, grain := 1, fixed := [] }
  | 1, 1 =>
    if (trOf d).mode = 2 then { left := (trOf d).length, grain := 1, fixed := [] }
    else { left := trCost s (trOf d), grain := 4096, fixed := [] }
  | 1, 2 => { left := gaCost (gaOf d), grain := 4096, fixed := [] }
  | 2, 1 => { left := 0, grain := 1, fixed := [32 * 8] }
  | 2, 2 => { left := 0, grain := 1, fixed := (passCharge s q d).toList }
  | 2, 3 => { left := 0, grain := 1, fixed := [32 * 8] }
  | 2, 4 => { left := 0, grain := 1, fixed := encodeSteps s d }
  | 3, 1 => { left := 0, grain := 1, fixed := pressCharge s false (prOf d) }
  | 3, 2 => { left := 0, grain := 1, fixed := pressCharge s true (prOf d) }
  | 4, 1 => { left := saKeys s (saOf d), grain := 1, fixed := [] }
  | 4, _ => { left := 1, grain := 1, fixed := [] }
  | 5, _ => { left := 1, grain := 1, fixed := [] }
  | _, _ => Work.zero

/-! ### Capacity -/

/-- What is left of a class's capacity in the tick. -/
def capOf (s : State) (cls : Nat) : Cap := s.tick.caps.getD cls { descs := 0, budget := 0 }

/-- A step takes one descriptor and its charge. -/
def spend (cls charge : Nat) (s : State) : State :=
  { s with tick := { s.tick with caps := s.tick.caps.modify cls fun c => { descs := c.descs - 1, budget := c.budget - charge } } }

/-- The plan set in force. -/
def planInForce (s : State) : Option PlanSet := s.plan.job.bind fun j => planSetOf s j.planSet

/-- The greatest per-tick budget of a class over every step of every variant of the plan set in force (R69). -/
def maxBudget (s : State) (cls : Nat) : Option Nat :=
  (planInForce s).map fun p => (p.variants.flatMap fun v => v.caps.map fun c => (c.getD cls { descs := 0, budget := 0 }).budget).foldl max 0

/-- Whether an indivisible step can never be admitted under the plan set in force (R69). -/
def neverFits (s : State) (cls charge : Nat) : Bool := (maxBudget s cls).any fun m => decide (m < charge)

/-! ### Groups, ladles -/

/-- The mark of a plan sequencer group that a descriptor vat operation holds. -/
def groupUnit (g : Nat) : UnitId := { cls := 16, num := g }

/-- How many unfinished operations hold a unit. -/
def heldCount (s : State) (u : UnitId) : Nat := (s.queues.map fun e => e.2.ops.countP fun o => o.phase != .done && o.unit == some u).sum

/-- Whether a group is free (R208, R537). -/
def groupFree (s : State) (g : Nat) : Bool :=
  !((planInForce s).any fun p => p.units.any fun u => u.cls == 0 && u.num / 10 == g) &&
  ((upFrom (10 * g) 10).all fun n => unitUp s { cls := 0, num := n } && !(getSvc s { cls := 0, num := n }).suspect) &&
  !held s (groupUnit g)

/-- The lowest-numbered free group. -/
def freeGroup (s : State) : Option Nat := (List.range 16).find? (groupFree s)

/-- The length of the tick in ns (R43). -/
def tickLength (s : State) : Nat := s.tick.period * 10000 * s.tick.stretch / 16

/-- The place of the least of some numbers, the first among equals. -/
def leastAt (l : List Nat) : Nat := l.idxOf (l.foldl min (l.headD 0))

/-- The tiles from tile t on, at most n, that the vats of a group run within some cycles: each goes to the vat that has the least to do, the
lowest among equals (notes/assumptions/12.md). -/
def fitTiles (cost : Nat → Nat) (free : Nat) : Nat → Nat → List Nat → Nat
  | 0, _, _ => 0
  | n + 1, t, loads =>
    let k := leastAt loads
    if loads.getD k 0 + cost t ≤ free then 1 + fitTiles cost free n (t + 1) (loads.modify k (· + cost t)) else 0

/-- The tiles of a descriptor vat operation, `left` of which remain, that a group of ten vats runs in the free time of the tick at the point
in force (R208, R222, R226). -/
def tilesFit (s : State) (d : List Byte) (left : Nat) : Nat :=
  let (total, cost, last) := vatTiles s d
  let free := (tickLength s - 2000) * pointMhz s.power.point / 1000 - last
  if hOpcode d = 0x11 then fitTiles cost free left (total - left) (List.replicate 10 0) else 10 * (free / max 1 (cost 0))

/-- The ladles of a set (R328). -/
def ladlesOf (set : Nat) : List Nat := if set = 2 then upFrom 64 8 else upFrom (32 * set) 32

/-- The ladle that a transfer takes: in service, fewer than 8 outstanding, the fewest, the lowest-numbered among equals (R340, R354). -/
def freeLadle (s : State) (set : Nat) : Option Nat :=
  let load (n : Nat) := heldCount s { cls := 3, num := n }
  ((ladlesOf set).filter fun n => unitUp s { cls := 3, num := n } && decide (load n < 8)).foldl (fun b n => match b with
    | none => some n
    | some m => if load n < load m then some n else some m) none

/-! ### One step (R67, R68) -/

/-- A step that is admitted: its charge, whether it takes a descriptor, the work that remains, the group it takes. -/
structure StepTake where
  charge : Nat
  desc : Bool
  rest : Work
  unit : Option UnitId
  deriving DecidableEq, Repr, Inhabited

/-- Whether a step is admitted, waits, or can never be admitted. -/
inductive StepRes where
  | fits (x : StepTake)
  | waits
  | fails (st : Status)
  deriving DecidableEq, Repr, Inhabited

/-- The longest run of indivisible costs from the front that fits. -/
def takeFixed : List Nat → Nat → List Nat × List Nat
  | [], _ => ([], [])
  | c :: r, avail => if c ≤ avail then ((takeFixed r (avail - c)).1 ++ [c], (takeFixed r (avail - c)).2) else ([], c :: r)

/-- The most segments, at most n, of a mode 2 transfer from segment j whose charge fits. -/
def takeSegments (s : State) (x : Tr) (j avail : Nat) : Nat → Nat
  | 0 => 0
  | n + 1 => if fp4RunCost s x j (n + 1) ≤ avail then n + 1 else takeSegments s x j avail n

/-- The next step of a descriptor: `full` is its class's capacity in the whole tick, `first` its first admission. A first step whose whole
cost is within the tick's capacity and does not fit what is left stays at the head. A SAMPLE has as many keys admitted as it can start
entries (R164). A Press job is not indivisible and waits for capacity (R66, R69, R299). -/
def nextStep (s : State) (cls : Nat) (d : List Byte) (w : Work) (first : Bool) (full : Nat) : StepRes :=
  let cap := capOf s cls
  let sample := cls == 4 && hOpcode d == 1
  let avail := if sample then min cap.budget (sampleRoom s (saOf d).plan) else cap.budget
  let full := if sample then min full (sampleRoom s (saOf d).plan) else full
  if isVat cls d then
    let fit := tilesFit s d w.left
    if fit = 0 ∨ (first = true ∧ neverFits s 0 1 = true) then .fails .noCapacity
    else
      match freeGroup s with
      | none => .waits
      | some g =>
        let x : StepTake := { charge := b2n first, desc := first, rest := { w with left := w.left - fit }, unit := some (groupUnit g) }
        if first && (cap.descs == 0 || avail == 0) then .waits else .fits x
  else if cap.descs = 0 then .waits
  else if cls = 1 ∧ hOpcode d = 1 ∧ (trOf d).mode = 2 then
    let x := trOf d
    let j := u32 (trBlock s x) 0 + (x.length - w.left)
    let n := takeSegments s x j avail w.left
    if neverFits s 1 (fp4RunCost s x j 1) then .fails .noCapacity
    else if n = w.left ∨ (n ≠ 0 ∧ (first = false ∨ full < fp4RunCost s x j w.left)) then
      .fits { charge := fp4RunCost s x j n, desc := true, rest := { w with left := w.left - n }, unit := none }
    else .waits
  else if !w.fixed.isEmpty then
    let t := takeFixed w.fixed avail
    if cls ≠ 3 ∧ neverFits s cls (w.fixed.foldl max 0) = true then .fails .noCapacity
    else if t.2.isEmpty || (!t.1.isEmpty && (!first || decide (full < w.fixed.sum))) then
      .fits { charge := t.1.sum, desc := true, rest := { w with fixed := t.2 }, unit := none }
    else .waits
  else if w.left = 0 then .fits { charge := 0, desc := true, rest := w, unit := none }
  else if cls ≠ 1 ∧ neverFits s cls 1 = true then .fails .noCapacity
  else if w.left ≤ avail then .fits { charge := w.left, desc := true, rest := { w with left := 0 }, unit := none }
  else if w.grain ≤ avail ∧ (first = false ∨ full < w.left) then
    .fits { charge := avail, desc := true, rest := { w with left := w.left - avail }, unit := none }
  else .waits

/-! ### Operand blocks in other modules (notes/assumptions/21.md) -/

/-- A checked field's span, if it has one. -/
def fieldSpan (s : State) (inPlan : Bool) (field len : Nat) : List (LAddr × Nat) :=
  if len = 0 then [] else (addrField s inPlan field len).toList.map fun a => (a, len)

/-- The operand block, argument table or list that the checks of a descriptor read. -/
def blockSpans (s : State) (inPlan : Bool) (cls : Nat) (d : List Byte) : List (LAddr × Nat) :=
  if hHint d then []
  else
    match cls, hOpcode d with
    | 0, 0x01 => fieldSpan s inPlan (rpOf d).arg (rpOf d).argLen
    | 0, 0x10 => fieldSpan s inPlan (u64 d 56) 128
    | 0, 0x11 => fieldSpan s inPlan (u64 d 56) 72
    | 0, 0x12 => fieldSpan s inPlan (u64 d 56) 128
    | 0, 0x15 => fieldSpan s inPlan (u64 d 56) 48
    | 0, 0x16 => fieldSpan s inPlan (u64 d 40) 32
    | 1, 1 => fieldSpan s inPlan (trOf d).op (trBlockLen (trOf d).mode)
    | 4, 1 => if (saOf d).count ≤ 65536 then fieldSpan s inPlan (saOf d).list (16 * (saOf d).count) else []
    | _, _ => []

/-- What the checks and the cost of a descriptor read. -/
def headSpans (s : State) (inPlan : Bool) (cls : Nat) (d : List Byte) : List (LAddr × Nat) :=
  blockSpans s inPlan cls d ++
  if hHint d then []
  else
    match cls, hOpcode d with
    | 1, 1 =>
      let x := trOf d
      if x.mode = 2 then fieldSpan s inPlan x.src 64 ++ fieldSpan s inPlan (x.src + 64) (8 * (fp4Head (trHead s x)).segments) else []
    | 2, 4 => fieldSpan s inPlan (u64 d 24) 48 ++ fieldSpan s inPlan (ewParams s d).template 64
    | _, _ => []

/-- Whether a span lies in another module. -/
def isRemote : LAddr → Bool
  | .remote _ _ => true
  | _ => false

/-- Whether the head's checks may run: every remote span has arrived; or the status that ends the descriptor; or the state after asking,
in which the head waits. -/
inductive HeadRes where
  | ready
  | fails (st : Status)
  | waits (s : State)
  deriving DecidableEq, Repr

/-- Ask for one span of another module for the head of a queue. -/
def askHead (q : Nat) (idx : U32) (a : LAddr × Nat) (s : State) : State :=
  match a.1 with
  | .remote m x =>
    (pieces 4096 x a.2).foldl (fun s p =>
      match lostStatus s m with
      | some st => modQ q (fun v => { v with blk := v.blk.map fun b => { b with status := st } }) s
      | none =>
        let s := (issue 2 m p.1 p.2 0 [] [] none q idx s).1
        modQ q (fun v => { v with blk := v.blk.map fun b => { b with want := b.want ++ [(.remote m p.1, p.2)] } }) s) s
  | _ => s

/-- What the head of a queue still needs from other modules. -/
def headFetch (q : Nat) (idx : U32) (d : List Byte) (s : State) : HeadRes :=
  let v := getQ s q
  let b : HeadFetch := match v.blk with
    | some b => if b.index = idx then b else { index := idx, got := [], want := [], status := .ok }
    | none => { index := idx, got := [], want := [], status := .ok }
  let need := (headSpans s false v.cls d).filter fun r => isRemote r.1 && !b.got.contains r
  if b.status ≠ .ok then .fails b.status
  else if !b.want.isEmpty then .waits s
  else if need.isEmpty then .ready
  else .waits (need.foldl (fun s r => askHead q idx r s) (modQ q (fun v => { v with blk := some { b with got := b.got ++ need } }) s))

/-! ### Admission (R67, R334, R347) -/

/-- A descriptor just admitted. -/
def freshOp (idx : U32) (d : List Byte) : Op := { (default : Op) with index := idx, desc := d, work := Work.zero, before := Work.zero }

/-- The head of a queue becomes an admitted operation. -/
def pushOp (q : Nat) (o : Op) (s : State) : State :=
  modQ q (fun v => { v with head := v.head + 1, fetched := v.fetched.drop 1, ops := v.ops ++ [o], blk := none }) s

/-- The slot ring that a descriptor writes or publishes: its number and whether it publishes. -/
def ringOf (s : State) (cls : Nat) (d : List Byte) : Option (Nat × Bool) :=
  match cls, hOpcode d with
  | 1, 1 => let x := trOf d; if x.ring ≠ 0xFFFF ∧ (bit x.flags 1 = true ∨ trEmpty s x = false) then some (x.ring, bit x.flags 1) else none
  | 1, 2 => let x := gaOf d; if x.ring ≠ 0xFFFF ∧ (bit x.flags 2 = true ∨ x.count ≠ 0) then some (x.ring, bit x.flags 2) else none
  | _, _ => none

/-- Whether the units and slots that a descriptor needs beside capacity are free. -/
def placeReady (s : State) (q cls : Nat) (d : List Byte) : Bool :=
  let v := getQ s q
  if hHint d then true
  else
    ((ringOf s cls d).all fun r => slotReady s r.1 q) &&
    (!takesLadle cls d || zeroExtent s q cls d || (freeLadle s v.ladleSet).isSome) &&
    (cls != 2 || hOpcode d != 2 || (passCharge s q d).isSome) &&
    (cls != 3 || zeroExtent s q cls d || (idlePress s).isSome) &&
    (cls != 4 || hOpcode d != 1 || zeroExtent s q cls d || planRuns s (saOf d).plan)

/-- What an admission takes beside capacity: the bound generation or epoch, the open slot, the ladle, the Press engine, the plan
request and its counters (R56, R99, R157, R296, R340, R347, R376). -/
def takePlaces (q : Nat) (o : Op) (s : State) : State :=
  let v := getQ s q
  let d := o.desc
  let zero := zeroExtent s q v.cls d
  if hHint d then pushOp q o s
  else
    match v.cls with
    | 0 =>
      if hOpcode d = 1 ∧ zero = false then
        let r := planReqOf s q o.index d
        reserveCounters r.args (pushOp q o { s with plan := { s.plan with waiting := s.plan.waiting ++ [r] } })
      else pushOp q o s
    | 1 =>
      let o := { o with unit := if takesLadle 1 d && !zero then (freeLadle s v.ladleSet).map fun n => { cls := 3, num := n } else none }
      match ringOf s 1 d with
      | none => pushOp q o s
      | some (r, pub) =>
        pushOp q { o with slot := (openSlotOf s r).map fun a => (r, a), publish := if pub then some r else none } (openSlot r q s)
    | 2 =>
      if (hOpcode d = 1 ∧ zero = false) ∨ hOpcode d = 4 then pushOp q { o with epoch := s.culture.generation, bound := true } s
      else pushOp q o s
    | 3 =>
      match if zero then none else idlePress s with
      | some n => modPress n (fun e => { e with job := some (q, o.index, hOpcode d == 2) }) (pushOp q o s)
      | none => pushOp q o s
    | 4 => pushOp q { o with epoch := s.index.epoch, bound := true } s
    | _ => pushOp q o s

/-- An operation that takes a step in this tick; the keys of a SAMPLE's step are bound to the generation of the boundary (R99). -/
def stepped (s : State) (cls : Nat) (w : Work) (x : StepTake) (o : Op) : Op :=
  let keys := if cls = 4 ∧ hOpcode o.desc = 1 ∧ x.charge ≠ 0 then [(s.tick.admissions, s.culture.generation, x.charge)] else []
  { o with work := x.rest, before := w, stepTick := s.tick.count, charge := x.charge, order := s.tick.admissions,
           unit := if x.unit.isSome then x.unit else o.unit, sample := { o.sample with grants := o.sample.grants ++ keys } }

/-- One more admission. -/
def countAdmission (s : State) : State := { s with tick := { s.tick with admissions := s.tick.admissions + 1 } }

/-- The checks of a descriptor read its block, table or list (R319, R588). -/
def readBlocks (q cls : Nat) (d : List Byte) (s : State) : State :=
  (blockSpans s false cls d).foldl (fun s r => touch (whoOf q d) r.1 r.2 s) s

/-- Admit a head whose operand blocks have arrived, if it can be: the state, and whether it was. One that fails a check is admitted and
ends at once (R67, R588). -/
def placeHead (full : List Cap) (q : Nat) (o : Op) (s : State) : State × Bool :=
  let v := getQ s q
  let d := o.desc
  match descCheck s q d with
  | some st => (pushOp q { o with phase := .done, status := st } s, true)
  | none =>
    if !placeReady s q v.cls d then (s, false)
    else if zeroExtent s q v.cls d then (takePlaces q { o with order := s.tick.admissions } (countAdmission s), true)
    else
      let w := workOf s q v.cls d
      match nextStep s v.cls d w true (full.getD v.cls { descs := 0, budget := 0 }).budget with
      | .waits => (s, false)
      | .fails st => (pushOp q { o with phase := .done, status := st } s, true)
      | .fits x =>
        let s := takePlaces q (stepped s v.cls w x o) (countAdmission s)
        (if x.desc then spend v.cls x.charge s else s, true)

/-- Admit the head of a queue if it can be: the state, and whether it was. A poisoned ring word stops the queue (R67, R338). -/
def admitHead (full : List Cap) (q : Nat) (s : State) : State × Bool :=
  let v := getQ s q
  if v.mode ≠ .running ∨ v.reset.isSome = true ∨ v.snap = v.head then (s, false)
  else
    match v.fetched with
    | [] => (s, false)
    | (d, bad) :: _ =>
      let o := freshOp v.head d
      if bad then
        (stopQueue q .poisonedData (pushOp q { o with phase := .done, status := .poisonedData, noTag := true } s), true)
      else
        match headFetch q v.head d s with
        | .fails st => (pushOp q { o with phase := .done, status := st } s, true)
        | .waits s => (s, false)
        | .ready => placeHead full q o (readBlocks q v.cls d s)

/-- Whether an operation has not started. -/
def unstarted (o : Op) : Bool := o.phase == .admitted || o.phase == .waiting || o.phase == .released

/-- Whether an admitted operation holds its queue's head: steps are still to be admitted, its header wait holds, it waits at a counter, or
it is a RUN_PLAN or a SAMPLE that has not ended (R57, R68, R167, R334, R364). -/
def holdsHead (cls : Nat) (o : Op) : Bool :=
  o.phase != .done &&
  (!o.work.allDone || (unstarted o && hWait o.desc) ||
   (!hHint o.desc && ((cls == 5 && decide (3 ≤ hOpcode o.desc) && u32 o.desc 20 != 0) ||
     (cls == 0 && hOpcode o.desc == 1 && u32 o.desc 20 != 0) ||
     (cls == 4 && hOpcode o.desc == 1 && u32 o.desc 16 != 0))))

/-- The operation that holds a queue's head. -/
def holder (v : Queue) : Option Op := v.ops.find? (holdsHead v.cls)

/-- Admit the next step of an operation that needs one in this tick: a later step of one that runs, or again the step of one whose header
wait still holds (R68, R334). The state, and whether a step was admitted. -/
def admitStep (full : List Cap) (q : Nat) (o : Op) (s : State) : State × Bool :=
  let v := getQ s q
  let again := unstarted o && hWait o.desc && o.charge != 0
  let w := if again then o.before else o.work
  if o.stepTick = s.tick.count ∨ (again = false ∧ (o.work.allDone = true ∨ unstarted o = true)) then (s, false)
  else
    let s := modOp q o.index (fun p => { p with
      unit := if isVat v.cls o.desc then none else p.unit, sample := if again then { p.sample with grants := [] } else p.sample }) s
    match nextStep s v.cls o.desc w again (full.getD v.cls { descs := 0, budget := 0 }).budget with
    | .waits => (s, false)
    | .fails st => (freePress q o.index (finishOp q o.index st 0 s), true)
    | .fits x =>
      let s := modOp q o.index (stepped s v.cls w x) (countAdmission s)
      (if x.desc then spend v.cls x.charge s else s, true)

/-- Visit a queue: steps of the operation at its head, then heads until one is not admitted (R67). -/
def visitQueue (full : List Cap) (q : Nat) : Nat → State → State × Bool
  | 0, s => (s, false)
  | fuel + 1, s =>
    match holder (getQ s q) with
    | some o =>
      let (s, got) := admitStep full q o s
      if (holder (getQ s q)).isSome then (s, got)
      else let (s, more) := visitQueue full q fuel s; (s, got || more)
    | none =>
      let (s, got) := admitHead full q s
      if got then let (s, _) := visitQueue full q fuel s; (s, true) else (s, false)

/-- The queues of a class and priority, in the order in which they are visited: after the one served last (R67). -/
def visitOrder (s : State) (cls prio : Nat) : List Nat :=
  let qs := (s.queues.filter fun e => e.2.mode != .disabled && e.2.cls == cls && e.2.prio == prio).map (·.1)
  match s.tick.served.find? fun x => x.1 == cls && x.2.1 == prio with
  | some (_, _, l) => qs.filter (fun q => decide (l < q)) ++ qs.filter (fun q => decide (q ≤ l))
  | none => qs

/-- Note the queue served last. -/
def noteServed (cls prio q : Nat) (s : State) : State :=
  { s with tick := { s.tick with served := (cls, prio, q) :: s.tick.served.filter fun x => !(x.1 == cls && x.2.1 == prio) } }

/-- Admission of one class: priority 7 first, round-robin among equals. -/
def admitClass (full : List Cap) (cls : Nat) (s : State) : State :=
  [7, 6, 5, 4, 3, 2, 1, 0].foldl (fun s prio =>
    (visitOrder s cls prio).foldl (fun s q =>
      let v := getQ s q
      let (s, got) := visitQueue full q (v.fetched.length + v.ops.length + 2) s
      if got then noteServed cls prio q s else s) s) s

/-- A tick that offers no capacity admits nothing (R63, R490, R542). -/
def admitNone (s : State) : State := { s with tick := { s.tick with caps := [] } }

/-- Step 7 of R64: admission into the capacity of the tick. -/
def admitAll (caps : List Cap) (s : State) : State :=
  (List.range 6).foldl (fun s c => admitClass caps c s) { s with tick := { s.tick with caps := caps } }

/-! ### Start, steps, completion (R334-R337) -/

/-- Start an operation whose wait has been met, once its fence is met too and its step is charged in this tick (R334). -/
def tryStart (q : Nat) (o : Op) (s : State) : State :=
  if hFence o.desc && (getQ s q).done != o.index then s
  else if hWait o.desc && o.charge != 0 && o.stepTick != s.tick.count then s
  else modOp q o.index (fun p => { p with phase := .running }) s

/-- DESCRIPTOR_START (R334): the header wait arrives at its counter; met, and with the fence met, the operation starts. A wait that was met is
tested again where the start came later: a counter that is free by then, or poisoned, ends the descriptor (R367, R379, R382, R588). -/
def startDescriptor (q : Nat) (idx : U32) (s : State) : State :=
  match getOp s q idx with
  | none => s
  | some o =>
    if s.tick.windowOpen then s
    else
      match o.phase with
      | .admitted =>
        if hWait o.desc then
          if !storeTurn s q idx (hWaitCounter o.desc) then s
          else
            let r := arriveWait (hWaitCounter o.desc)
              { who := .header q idx, acquire := false, amount := BitVec.ofNat 32 (hWaitValue o.desc) } s
            match r.2 with
            | none => modOp q idx (fun o => { o with phase := .waiting }) r.1
            | some .ok => tryStart q o (modOp q idx (fun o => { o with phase := .released }) r.1)
            | some st => freePress q idx (finishOp q idx st 0 r.1)
        else tryStart q o s
      | .released =>
        match ctrRefusal s (hWaitCounter o.desc) with
        | none => tryStart q o s
        | some st =>
          let s := freePress q idx (finishOp q idx st 0 s)
          if st = .counterState then s else stopQueue q st s
      | _ => s

/-- OPERATION_STEP (R68): a later step of an operation cut into steps enters the capacity that the tick has left. -/
def stepOperation (q : Nat) (idx : U32) (s : State) : State :=
  match getOp s q idx with
  | none => s
  | some o => if unstarted o || o.phase == .done || s.tick.state == 3 then s else (admitStep s.tick.caps q o s).1

/-- A RUN_PLAN that ends before its job has started takes its request with it, and its counters go back to the queue (R376). -/
def dropRequest (q : Nat) (idx : U32) (s : State) : State :=
  match s.plan.waiting.find? fun r => r.queue == q && r.index == idx with
  | some r => returnCounters r.args { s with plan := { s.plan with waiting := s.plan.waiting.filter fun r => !(r.queue == q && r.index == idx) } }
  | none => s

/-- OPERATION_COMPLETE (R335, R336): the record of a queue's oldest operation that has finished; bindings that end retire their generation
or epoch (R100, R157). -/
def completeOperation (q : Nat) (s : State) : State :=
  let v := getQ s q
  match v.ops.find? fun o => o.index == v.done with
  | none => s
  | some o => if o.phase = .done then retireIndex (retireCulture (writeRecord q o (dropRequest q o.index s))) else s

end Sys2Proof.Machine
end

