-- ==== Sys2Proof/Machine/Job.lean ====
section
/-!
DEFINITION. Plan jobs: how their units run a step, how they start, move on, complete, are pre-empted, replaced and fail, and the owner
reset of a queue (R45, R50-R57, R250-R255, R339, R351, R359, R376-R382, R538-R541).
-/

namespace Sys2Proof.Machine

/-! ### The units of a step -/

def modJob (f : Job → Job) (s : State) : State := { s with plan := { s.plan with job := s.plan.job.map f } }

def modUnit (u : UnitId) (f : UnitRun → UnitRun) (s : State) : State :=
  modJob (fun j => { j with units := j.units.map fun r => if r.unit == u then f r else r }) s

/-- The number by which a unit's remote requests are known among the queues' (MODEL): above every queue. -/
def unitQueue (u : UnitId) : Nat := 4096 + u.cls * 256 + u.num

/-- The plan job fails at the next boundary with a status (R359, R379, R443). -/
def failSoon (st : Status) (s : State) : State := modJob (fun j => { j with failing := j.failing <|> some st }) s

/-- Whether a status of a unit's access fails the plan job (R359, R379, R443, R538). -/
def failsJob (st : Status) : Bool :=
  [Status.uncorrectable, .moduleLost, .moduleUnreachable, .hostUnreachable, .ownerReset, .counterState, .counterOverflow,
   .counterUnderflow].contains st

/-- A unit sends one request to another module and awaits its answer. -/
def unitIssue (u : UnitId) (kind dst address len amount : Nat) (data : List Byte) (bad : List Nat) (cache : Option Nat) (s : State) : State :=
  match lostStatus s dst with
  | some st => failSoon st s
  | none =>
    let (s, t) := issue kind dst address len amount data bad cache (unitQueue u) 0 s
    modUnit u (fun r => { r with reqs := r.reqs ++ [(dst, t)] }) s

/-- A unit asks for spans of other modules, with the requests of its die that bring lines it needs too, and awaits them in a phase. -/
def unitAsk (u : UnitId) (cache : Option Nat) (spans : List (Nat × Nat × Nat)) (shared : List (Nat × Nat)) (phase : Nat) (s : State) : State :=
  let s := modUnit u (fun r => { r with reqs := r.reqs ++ shared }) s
  let s := spans.foldl (fun s r => (pieces 4096 r.2.1 r.2.2).foldl (fun s p => unitIssue u 2 r.1 p.1 p.2 0 [] [] cache s) s) s
  modUnit u (fun x => { x with waiting := !x.reqs.isEmpty, phase := phase }) s

/-- One write of a unit: at once in this module and in host memory, as requests in another. -/
def unitWrite (u : UnitId) (c : Chunk) (s : State) : State :=
  match c.addr with
  | .remote m x =>
    (pieces 4096 x c.data.length).foldl (fun s p =>
      unitIssue u 1 m p.1 p.2 0 ((c.data.drop (p.1 - x)).take p.2) (badWords p.1 ((c.poison.drop (p.1 - x)).take p.2)) none s) s
  | a => poke a c.data c.poison s

/-- The next operation of a unit has ended. -/
def unitNext (u : UnitId) (s : State) : State :=
  modUnit u (fun r => { r with ops := r.ops.drop 1, waiting := false, phase := 0, reqs := [] }) s

/-- The ring that a ladle operation of a plan publishes once it has ended. -/
def opPublishes (s : State) (op : PlanOp) : Option Nat :=
  match op with
  | .ladle d => (ringOf s 1 d).bind fun r => if r.2 then some r.1 else none
  | _ => none

/-- The queue of the job in force. -/
def jobQueue (s : State) : Nat := (s.plan.job.map (·.queue)).getD 0

/-- Whether the check of a plan's level 1 encode is still to come (R135). -/
def checkDue (s : State) (op : PlanOp) : Bool :=
  match op with
  | .range d => hOpcode d == 4 && (ownCheck s (jobQueue s) d).isSome
  | _ => false

/-- The end of a data operation: a rind row is ready, a slot is published (R252, R347); an encode whose check is still to come goes on with
it. -/
def unitEnd (u : UnitId) (op : PlanOp) (s : State) : State :=
  let s := match op with
    | .rindStore _ _ _ vat buf slot row =>
      let k := ((vat * 8 + buf) * 2 + slot) * 64 + row
      { s with plan := { s.plan with rindReady := mput s.plan.rindReady k ((mgetD s.plan.rindReady k 0 + 1) % 2 ^ 16) } }
    | _ => s
  let s := match opPublishes s op with
    | some r => publishSlot r s
    | none => s
  if checkDue s op then modUnit u (fun r => { r with waiting := false, phase := 0, reqs := [] }) s else unitNext u s

/-- An operation of a unit fails the plan job; a check that it has begun is given up. -/
def unitFails (u : UnitId) (op : PlanOp) (st : Status) (s : State) : State :=
  let s := match op with
    | .range d => dropCheck (jobQueue s) d s
    | _ => s
  unitNext u (failSoon st s)

/-- A space 2 request of a unit's operation fails: what it would have written in the module is undefined (R463). -/
def unitHostFails (u : UnitId) (op : PlanOp) (outs : List (LAddr × Nat)) (s : State) : State :=
  unitFails u op .hostUnreachable ((outs.filter fun x => !isHost x.1).foldl (fun s x => scramble x.1 x.2 s) (hostFailed s))

/-- Apply what a data operation gives; writes to other modules are awaited. -/
def unitCommit (u : UnitId) (op : PlanOp) (r : DataRes) (s : State) : State :=
  if (r.writes.any fun c => isHost c.addr) && !hostUp s then unitHostFails u op (chunkSpans r.writes) s
  else
    let s := { s with sticky := s.sticky ||| r.sticky, free := s.free + r.used }
    let s := r.undef.foldl (fun s x => scramble x.1 x.2 s) s
    let s := r.writes.foldl (fun s c => unitWrite u c s) s
    let s := if failsJob r.status then failSoon r.status s else s
    match s.plan.job.bind fun j => j.units.find? fun x => x.unit == u with
    | some x => if x.reqs.isEmpty then unitEnd u op s else modUnit u (fun x => { x with waiting := true, phase := 2 }) s
    | none => s

/-- The rows that the rind stores of the job in force write (R250, R252). -/
def rindSpans (s : State) : List (LAddr × Nat) :=
  match s.plan.job, planInForce s with
  | some j, some p => (planOps p).filterMap fun op => match Config.bindOp j.args op with
    | .rindStore _ dst len _ _ _ _ => some (addrOf s dst, len)
    | _ => none
  | _, _ => []

/-- The vats whose SRAM a read finds with a fresh error that cannot be corrected, other than in a rind buffer (R228, R319). -/
def lostVats (s : State) (reads : List (LAddr × Nat)) : List Nat :=
  reads.flatMap fun r => match r.1 with
    | .sram v off => (s.memctl.sramLatent.filter fun x =>
        x.1 == 1 && x.2.1 == v && (wordsOf off r.2).contains (x.2.2.1 / 32) && !x.2.2.2.mark && decide (1 < x.2.2.2.symbols) &&
        !((rindSpans s).any fun y => overlaps (.sram v x.2.2.1) 32 y.1 y.2)).map fun x => x.2.1
    | _ => []

/-- The vats fail: they are suspect, the job fails with UNCORRECTABLE, and what the operation would have written is undefined (R228,
R538). -/
def vatsFail (u : UnitId) (op : PlanOp) (vats : List Nat) (outs : List (LAddr × Nat)) (s : State) : State :=
  let s := outs.foldl (fun s x => scramble x.1 x.2 s) s
  unitFails u op .uncorrectable (vats.foldl (fun s v => unitUncorr { cls := 0, num := v } s) s)

/-- The spans that an operation of a plan would write. -/
def planOutputs (s : State) (op : PlanOp) : List (LAddr × Nat) :=
  match op with
  | .range d => if hOpcode d = 4 then [scratchOf s d] else []
  | _ => match planData s op with
    | some (_, f) => chunkSpans (f s).writes
    | none => []

/-- A data operation of a unit: its inputs from other modules first, then its results. -/
def unitData (u : UnitId) (op : PlanOp) (phase : Nat) (cache : Option Nat) (reads : List (LAddr × Nat)) (run : State → State × DataRes)
    (s : State) : State :=
  let spans := if phase = 0 then remoteSpans s cache reads else []
  let shared := if phase = 0 then sharedReqs s cache reads else []
  if phase = 2 then unitEnd u op s
  else if !(spans.isEmpty && shared.isEmpty) then unitAsk u cache spans shared 1 s
  else if (reads.any fun r => isHost r.1 && r.2 != 0) && !hostUp s then unitHostFails u op (planOutputs s op) s
  else
    let vats := (lostVats s reads).eraseDups
    let s := reads.foldl (fun s r => touch Who.none r.1 r.2 s) s
    if vats.isEmpty then
      let (s, r) := run (fillHost cache reads s)
      unitCommit u op r s
    else vatsFail u op vats (planOutputs s op) s

/-- The cache through which a ladle operation of a plan reads its source (R307). -/
def opCache (u : UnitId) (op : PlanOp) : Option Nat :=
  let marked := match op with
    | .ladle d => match hOpcode d with
      | 1 => bit (u8 d 49) 0
      | 2 => bit (u8 d 49) 1
      | _ => false
    | _ => false
  if marked then some (unitDie u) else none

/-- The waits and signals of a unit at a counter (R358, R369, R376). -/
def unitCounter (u : UnitId) (op module counter amount phase : Nat) (s : State) : State :=
  if phase = 2 then unitNext u s
  else if module ≠ 0xFF ∧ module ≠ self s then
    modUnit u (fun x => { x with waiting := true, phase := 2 }) (unitIssue u 3 module (counter + 2 ^ 16 * op) 0 amount [] [] none s)
  else
    let n : U32 := BitVec.ofNat 32 amount
    if op = 1 then
      let (s', st) := signalCounter counter n s
      if st = .ok then unitNext u s' else unitNext u (failSoon st s)
    else
      let r := arriveWait counter { who := .unit u, acquire := op == 4, amount := n } s
      match r.2 with
      | none => modUnit u (fun x => { x with waiting := true }) r.1
      | some .ok => unitNext u r.1
      | some st => modUnit u (fun x => { x with ops := [], waiting := false, phase := 0, reqs := [] }) (failSoon st r.1)

/-- Whether the first operation of a unit may run now: a rind wait is met, an open slot has room, an engine is not offline. -/
def unitReady (s : State) (q : Nat) (op : PlanOp) : Bool :=
  match op with
  | .rindWait vat buf slot row expect => decide (expect ≤ mgetD s.plan.rindReady (((vat * 8 + buf) * 2 + slot) * 64 + row) 0)
  | .rindFreeWait vat buf expect => decide (expect ≤ mgetD s.plan.rindFreed (vat * 8 + buf) 0)
  | .ladle d => (ringOf s 1 d).all fun r => slotReady s r.1 q
  | .range d => !holdsOffline s (hOpcode d) d
  | _ => true

/-- A plan's operation of a range coding engine (R115-R139). -/
def unitRange (u : UnitId) (q : Nat) (op : PlanOp) (phase : Nat) (d : List Byte) (s : State) : State :=
  let gen := s.culture.generation
  match hOpcode d with
  | 1 => unitData u op phase none (dbReads s q d) (fun s =>
      let (s, st) := rcBegin q gen d s
      (s, DataRes.fail st)) s
  | 2 => unitData u op phase none (dpReads s q d) (fun s => rcPass q false d s) s
  | 3 => unitData u op phase none [] (fun s => rcEnd q d s) s
  | 4 =>
    match ownCheck s q d with
    | some k => unitData u op phase none (checkReads s k) (fun s => rcCheck k true d s) s
    | none => unitData u op phase none (ewReads s d) (fun s => rcEncode true q gen false d s) s
  | _ => unitNext u s

/-- A plan's data operation of another unit. -/
def unitTensor (u : UnitId) (q : Nat) (op : PlanOp) (phase : Nat) (s : State) : State :=
  let s := match op with
    | .ladle d => match ringOf s 1 d with
      | some x => openSlot x.1 q s
      | none => s
    | _ => s
  match planData s op with
  | some (reads, f) => unitData u op phase (opCache u op) reads (fun s => (s, f (viewOf (opCache u op) s))) s
  | none => unitNext u s

/-- What the checks of a plan's operation read: its block, and what the block names. -/
def planBlocks (s : State) (op : PlanOp) : List (LAddr × Nat) × List (LAddr × Nat) :=
  match op with
  | .vat d => (blockSpans s true 0 d, [])
  | .ladle d => (blockSpans s true 1 d, headSpans s true 1 d)
  | .range d => (fieldSpan s true (u64 d 24) (if hOpcode d = 4 then 48 else 0), headSpans s true 2 d)
  | _ => ([], [])

/-- A plan's data operation: blocks that lie in other modules are fetched first; one that breaks a rule of its fields writes nothing (R207). -/
def unitChecked (q : Nat) (r : UnitRun) (op : PlanOp) (run : Nat → State → State) (s : State) : State :=
  let first := if r.phase = 0 then remoteSpans s none (planBlocks s op).1 else []
  let second := if r.phase = 0 ∨ r.phase = 3 then remoteSpans s none (planBlocks s op).2 else []
  if !first.isEmpty then unitAsk r.unit none first [] 3 s
  else if !second.isEmpty then unitAsk r.unit none second [] 4 s
  else if r.phase = 1 ∨ r.phase = 2 ∨ checkDue s op = true then run r.phase s
  else
    let s := (planBlocks s op).1.foldl (fun s x => touch Who.none x.1 x.2 s) s
    match planCheck s r.unit q op with
    | some _ => unitNext r.unit s
    | none => run 0 s

/-- Run the first operation of a unit. -/
def unitOp (q : Nat) (r : UnitRun) (op : PlanOp) (s : State) : State :=
  let u := r.unit
  match op with
  | .rindWait _ _ _ _ _ => unitNext u s
  | .rindFreeWait _ _ _ => unitNext u s
  | .rindFree vat buf =>
    unitNext u { s with plan := { s.plan with rindFreed := mput s.plan.rindFreed (vat * 8 + buf) (mgetD s.plan.rindFreed (vat * 8 + buf) 0 + 1) } }
  | .signal m c n => unitCounter u 1 m c n r.phase s
  | .waitGe m c n => unitCounter u 3 m c n r.phase s
  | .acquire m c n => unitCounter u 4 m c n r.phase s
  | .range d => unitChecked q r op (fun phase s => unitRange u q op phase d s) s
  | _ => unitChecked q r op (fun phase s => unitTensor u q op phase s) s

/-- One pass over the units: each that can goes one operation on. -/
def unitPass (s : State) : State :=
  match s.plan.job with
  | none => s
  | some j =>
    j.units.foldl (fun s r0 =>
      match s.plan.job.bind fun j => j.units.find? fun r => r.unit == r0.unit with
      | some r =>
        match r.ops with
        | [] => s
        | op :: _ => if !r.waiting && unitReady s j.queue op then unitOp j.queue r op s else s
      | none => s) s

/-- Passes over the units until none can go on: fuel bounds them. -/
def unitPasses : Nat → State → State
  | 0, s => s
  | n + 1, s => unitPasses n (unitPass s)

/-- The passes that a job's units can still need: three for each operation that is left. -/
def unitFuel (s : State) : Nat := match s.plan.job with
  | none => 0
  | some j => 3 * (j.units.map fun r => r.ops.length).sum + 1

/-- Let the units of the running step go on as far as they can: after the window, and after every change that may release one. -/
def wake (s : State) : State := if s.tick.windowOpen then s else unitPasses (unitFuel s) s

/-- Whether every unit has finished its work of the step. -/
def unitsDone (s : State) : Bool := match s.plan.job with
  | none => true
  | some j => j.units.all fun r => r.ops.isEmpty

/-- The variant in force of the running plan set. -/
def variantInForce (s : State) : Option Variant := (planInForce s).bind fun p => p.variants[s.tick.variant]?

/-- Step 8 of R64: the units start the step of the variant in force, and the decode pool has the passes of the step (R164). -/
def startStep (s : State) : State :=
  match s.plan.job, variantInForce s with
  | some j, some v =>
    let units := (v.work.getD j.step []).map fun w =>
      ({ unit := w.1, ops := w.2.map (Config.bindOp j.args), waiting := false, phase := 0, reqs := [] } : UnitRun)
    let pool := (((planInForce s).bind (·.pool)).map fun p => p.1.getD j.step 0).getD 0
    wake { modJob (fun j => { j with units := units }) s with
      tick := { s.tick with worked := true }, plan := { (modJob (fun j => { j with units := units }) s).plan with poolLeft := pool } }
  | _, _ => s

/-! ### The end of a job (R57, R255, R376) -/

/-- The sticky bits that an operation had set when it stopped: of those that it would have set a part that the spec leaves open (R196). -/
def someSticky (bits_ : U32) (s : State) : State :=
  { s with sticky := s.sticky ||| (bits_ &&& BitVec.ofNat 32 (Config.freeNat s.free)), free := s.free + 1 }

/-- The units of the job stop: what an operation that was under way would have written is undefined, and so are the rind buffers (R139,
R196, R255, R261). -/
def stopUnits (s : State) : State :=
  match s.plan.job with
  | none => s
  | some j =>
    let open_ := j.units.flatMap fun r => if r.phase = 0 then [] else r.ops.take 1
    let s := open_.foldl (fun s op =>
      let sticky := match planData s op with
        | some (_, f) => (f s).sticky
        | none => 0
      someSticky sticky ((planOutputs s op).foldl (fun s x => scramble x.1 x.2 s) s)) s
    (rindSpans s).foldl (fun s x => scramble x.1 x.2 s) s

/-- The job leaves: its units are released and do no more, its counters go back, its RUN_PLAN ends with a status, a replacement lapses, the
entries that its decode pool serves end. -/
def endJob (st : Status) (s : State) : State :=
  match s.plan.job with
  | none => s
  | some j =>
    let s := poolStops j.planSet (stopUnits s)
    let s := { s with plan := { s.plan with job := none, replace := none, poolLeft := 0 }, tick := { s.tick with late := [], worked := false } }
    let s := withdraw (fun w => match w with
      | .unit _ => true
      | _ => false) s
    finishOp j.queue j.index st 0 (returnCounters j.args s)

/-- PLAN_JOB_COMPLETE (R57, R376): the balance check, the ownership back to the queue. -/
def completeJob (s : State) : State :=
  match s.plan.job with
  | none => s
  | some j =>
    let off := (localCounters s j.args).filter fun c => (getC s c).mode == .claimed && (getC s c).inJob && (getC s c).value != (getC s c).jobStart
    let s := off.foldl (fun s c => raise 0x0303 1 (leBytes 2 c ++ leBytes 2 j.queue ++ leBytes 4 (getC s c).value.toNat) s) s
    endJob (if off.isEmpty then .ok else .counterUnbalanced) s

/-- A plan job fails: its counters are poisoned with the cause of a plan job failure (R61, R379, R443, R538). -/
def failJob (st : Status) (s : State) : State :=
  match s.plan.job with
  | none => s
  | some j =>
    let s := modJob (fun j => { j with units := [] }) (stopUnits s)
    let s := withdraw (fun w => match w with
      | .unit _ => true
      | _ => false) s
    retireCulture (endJob st (closeContexts j.queue (poisonCounters 2 .ownerReset (localCounters s j.args) s)))

/-! ### The owner reset and the pre-emption of a queue (R339) -/

/-- What a started operation that computes at once would give. -/
def opResult (s : State) (q : Nat) (o : Op) : Option DataRes :=
  let d := o.desc
  if hHint d then none
  else
    match (getQ s q).cls with
    | 0 => (planData s (.vat d)).map fun p => p.2 s
    | 1 => match hOpcode d with
      | 1 => some (trResult s (trOf d) (o.slot.map (·.2)))
      | 2 => some (gaResult s (gaOf d) (o.slot.map (·.2)))
      | _ => none
    | _ => none

/-- The destination spans of a started operation, which a stop leaves undefined. -/
def opOutputs (s : State) (q : Nat) (o : Op) : List (LAddr × Nat) :=
  let d := o.desc
  if hHint d then []
  else
    match (getQ s q).cls with
    | 2 => if hOpcode d = 4 then [scratchOf s d] else []
    | 3 => [(addrOf s (prOf d).dst, (prOf d).cap)]
    | _ => ((opResult s q o).map fun r => chunkSpans r.writes).getD []

/-- Whether a waiter belongs to a queue. -/
def waiterOf (q : Nat) : Waiter → Bool
  | .header p _ => p == q
  | .signal p _ => p == q
  | _ => false

/-- Stop the admitted operations of a queue with a status: the destinations of those that run are undefined, and of the sticky bits that they
would have set those stay that they had set (R196). -/
def stopOps (q : Nat) (st : Status) (s : State) : State :=
  (getQ s q).ops.foldl (fun s o =>
    if o.phase = .done then s
    else
      let s := if started o then
          someSticky (((opResult s q o).map (·.sticky)).getD 0) ((opOutputs s q o).foldl (fun s x => scramble x.1 x.2 s) s)
        else s
      freePress q o.index (finishOp q o.index st 0 s)) s

/-- Write up to `n` records of a queue in index order. -/
def flushRecords (q : Nat) : Nat → State → State
  | 0, s => s
  | n + 1, s => flushRecords q n (completeOperation q s)

/-- What a queue is after an owner reset, a disable or a pre-emption. -/
inductive After where
  | running
  | disabled
  | stopped
  deriving DecidableEq, Repr, Inhabited

/-- An owner reset of a queue, or with `stopped` its pre-emption (R139, R169, R339, R378, R382). -/
def resetQueueBy (stop : State → State) (q : Nat) (st : Status) (after : After) (s : State) : State :=
  let n := (getQ s q).ops.length
  let s := withdraw (waiterOf q) s
  let s := match s.plan.job with
    | some j => if j.queue = q then stop s else s
    | none => s
  let s := flushRecords q n (closeSlots q (closeContexts q (stopOps q st s)))
  let s := poisonCounters (if after = .stopped then 1 else 0) .ownerReset (countersOf s q) s
  let s := modQ q (fun v =>
    { v with tail := v.done, head := v.done, snap := v.done, fetched := [], ops := [], blk := none, reset := none,
             mode := if after = .disabled then .disabled else .running }) s
  let s := if after = .stopped then stopQueue q st s else s
  retireIndex (retireCulture s)

/-- A reset of a queue that ends its plan job too. -/
def resetQueue (q : Nat) (st : Status) (after : After) (s : State) : State := resetQueueBy (endJob st) q st after s

/-! ### Fitness (R54, R351) -/

/-- The current maximum of a vat (R227). -/
def vatMax (s : State) (v : Nat) : Nat := s.fmw.settings.maxima.getD v 0

/-- Whether a variant plans a vat above its current maximum, or a plan set is short of bandwidth or uses a unit that is not in service. -/
def planUnfit (s : State) (p : PlanSet) : Bool :=
  (p.units.any fun u => (getSvc s u).state != 0) ||
  (p.variants.any fun v => v.planned.any fun x => decide (vatMhz (vatMax s x.1) < x.2)) ||
  decide (s.fmw.bw.1 < p.bwMin.1 ∨ s.fmw.bw.2.1 < p.bwMin.2.1 ∨ s.fmw.bw.2.2 < p.bwMin.2.2)

/-! ### Moving on (R55-R57) -/

/-- Whether the step of a running job has run to its end. -/
def stepEnded (s : State) : Bool := s.tick.worked && unitsDone s && s.tick.late.isEmpty

/-- Whether the step that runs is the last of the last round. -/
def lastStep (s : State) : Bool :=
  match s.plan.job, planInForce s with
  | some j, some p => decide (p.stepCount ≤ j.step + 1) && decide (j.roundsLeft ≤ 1)
  | _, _ => false

/-- The step of the job that has ended: the job completes after its last round, or its next step is due. -/
def advanceJob (s : State) : State :=
  match s.plan.job, planInForce s with
  | some j, some p =>
    if !stepEnded s then s
    else if lastStep s then completeJob s
    else
      let last := decide (p.stepCount ≤ j.step + 1)
      let s := { s with tick := { s.tick with worked := false } }
      modJob (fun j => { j with step := if last then 0 else j.step + 1, roundsLeft := if last then j.roundsLeft - 1 else j.roundsLeft,
                                units := [] }) s
  | _, _ => s

/-- Whether the step before the job's next one is a swap point (R51). -/
def atSwap (s : State) : Bool :=
  match s.plan.job, planInForce s with
  | some j, some p => !s.tick.worked && p.swaps.getD (if j.step = 0 then p.stepCount - 1 else j.step - 1) false
  | _, _ => false

/-- The first plan request whose RUN_PLAN has started, if its tick has come (R56). DESIGN CHOICE: an earlier one whose header wait still
holds is passed over, and an earlier one whose tick has not come keeps its turn under R57 (notes/assumptions/29.md). -/
def dueRequest (count : Nat) (s : State) : Option PlanReq :=
  (s.plan.waiting.find? fun r => (getOp s r.queue r.index).any fun o => o.phase == .blocked).bind fun r =>
    if r.start ≤ count then some r else none

/-- The status with which the running job stops now: a stop that is pending, at any swap point; another RUN_PLAN that is due, at a swap
point or the end of a round as flag bit 0 directs (R45, R57, R541). -/
def preemptDue (count : Nat) (s : State) : Option Status :=
  match s.plan.job with
  | none => none
  | some j =>
    if !atSwap s then none
    else if j.stopping.isSome then j.stopping
    else if (dueRequest count s).isSome && (j.stopAtSwap || j.step == 0) then some .preempted
    else none

/-- PLAN_JOB_PREEMPT (R57, R339, R541): the job's queue is pre-empted; a job that no longer fits stops alone, its counters poisoned. -/
def preemptJob (st : Status) (s : State) : State :=
  match s.plan.job with
  | none => s
  | some j =>
    if st = .preempted then resetQueue j.queue .preempted .stopped s
    else endJob st (closeContexts j.queue (poisonCounters 1 .ownerReset (localCounters s j.args) s))

/-- Whether a replacement takes effect at a boundary that ends a step at a swap point (R540). -/
def replaceDue (count : Nat) (s : State) : Bool := (s.plan.replace.any fun r => decide (r.earliest ≤ count)) && atSwap s

/-- PLAN_REPLACE_EFFECT (R540). -/
def replacePlan (s : State) : State :=
  match s.plan.job, s.plan.replace with
  | some j, some r =>
    raise 0x0709 0 (leBytes 4 j.planSet ++ leBytes 4 r.newSet ++ leBytes 8 (headTick s s.tick.count))
      (modJob (fun j => { j with planSet := r.newSet }) { s with plan := { s.plan with replace := none } })
  | _, _ => s

/-! ### Starting (R45, R54, R56, R255, R376) -/

/-- The status that keeps a due request from starting. -/
def startRefusal (s : State) (r : PlanReq) : Option Status :=
  let cs := localCounters s r.args
  match cs.find? fun c => (getC s c).mode == .poisoned with
  | some c => some (getC s c).poison
  | none =>
    if cs.any fun c => (getC s c).mode != .claimed || (getC s c).owner != r.queue then some .counterState
    else match planSetOf s r.planSet with
      | none => some .invalidArgument
      | some p => if p.period ≠ s.tick.period ∨ planUnfit s p = true then some .planUnfit else none

/-- The modules of a plan set's domain other than this one. -/
def domainPeers (s : State) (planSet : Nat) : List Nat := (((planSetOf s planSet).map (·.domain)).getD []).filter (· != self s)

/-- PLAN_JOB_START: the due request starts when no job runs; one that cannot start ends its RUN_PLAN, and the other members defer. After a
loss of the head no job starts (R56, R255, R376, R443). -/
def startJob (count : Nat) (s : State) : State :=
  match s.plan.job, dueRequest count s with
  | none, some r =>
    if s.fabric.lost.contains (headModule s) then s
    else
      match startRefusal s r with
      | some st =>
        let s := dropRequest r.queue r.index s
        let s := if (domainPeers s r.planSet).isEmpty then s else sendSync (domainPeers s r.planSet) (.startDefer · (headTick s count) r.planSet) s
        finishOp r.queue r.index st 0 s
      | none =>
        let s := (localCounters s r.args).foldl (fun s c => modC c (fun k => { k with jobStart := k.value }) s) s
        let j : Job := { queue := r.queue, index := r.index, planSet := r.planSet, step := r.firstStep, roundsLeft := r.rounds,
                         args := r.args, stopAtSwap := r.stopAtSwap, stopping := none, failing := none, units := [] }
        { s with plan := { s.plan with job := some j, rindReady := [], rindFreed := [],
                                       waiting := s.plan.waiting.filter fun x => !(x.queue == r.queue && x.index == r.index) },
                 tick := { s.tick with worked := false } }
  | _, _ => s

/-- Due requests in order until one starts. -/
def startJobs (count : Nat) : Nat → State → State
  | 0, s => s
  | n + 1, s => startJobs count n (startJob count s)

/-- The RUN_PLANs of a domain of several modules that the module has fetched and not admitted: the plan set and the start_tick in the own
count (R56). -/
def unadmittedStarts (s : State) : List (Nat × Nat) :=
  (s.queues.flatMap fun e => if e.2.cls ≠ 0 ∨ e.2.mode = .disabled then [] else
    (e.2.fetched.filter fun f => !f.2 && hOpcode f.1 == 1 && !hHint f.1 && u32 f.1 20 != 0 && !(domainPeers s (rpOf f.1).plan).isEmpty).map
      fun f => ((rpOf f.1).plan, ownTick s (rpOf f.1).start)).eraseDups

/-- One more deferral of a start whose RUN_PLAN is not admitted here. -/
def deferAbsent (planSet start : Nat) (s : State) : State :=
  let k := deferredBy s planSet start
  { s with plan := { s.plan with absent := (planSet, start, k + 1) :: s.plan.absent.filter fun a => !(a.1 == planSet && a.2.1 == start) } }

/-- START_DEFER is due at the boundary before a start for which this member has not admitted its RUN_PLAN. Records whose tick has gone by
lapse. -/
def deferUnadmitted (count : Nat) (s : State) : State :=
  let s := { s with plan := { s.plan with absent := s.plan.absent.filter fun a => decide (count < a.2.1 + a.2.2) } }
  (unadmittedStarts s).foldl (fun s p =>
    let start := p.2 + deferredBy s p.1 p.2
    if start = count + 1 then
      sendSync (domainPeers s p.1) (.startDefer · (headTick s start) p.1) (deferAbsent p.1 p.2 s) else s) s

/-- START_DEFER is due at the boundary before a start in a domain of several modules that this member cannot make: its RUN_PLAN has not
been admitted, or has not started (R56). -/
def deferStarts (count : Nat) (s : State) : State :=
  s.plan.waiting.foldl (fun s r =>
    if r.start = count + 1 ∧ domainPeers s r.planSet ≠ [] ∧ (getOp s r.queue r.index).all (fun o => o.phase != .blocked) = true then
      sendSync (domainPeers s r.planSet) (.startDefer · (headTick s r.start) r.planSet)
        { s with plan := { s.plan with waiting := s.plan.waiting.map fun x =>
          if x.queue == r.queue && x.index == r.index then { x with start := x.start + 1, deferrals := x.deferrals + 1 } else x } }
    else s) s

/-- Step 4 of R64 for plan jobs: a failure, the end of the step, a stop, a replacement, a start. -/
def changeJob (count : Nat) (s : State) : State :=
  let s := match s.plan.job.bind (·.failing) with
    | some st => failJob st s
    | none => s
  let s := advanceJob s
  let s := match s.plan.job, planInForce s with
    | some j, some p => if p.period ≠ s.tick.period ∧ j.stopping = none then modJob (fun j => { j with stopping := some .preempted }) s else s
    | _, _ => s
  let s := match preemptDue count s with
    | some st => preemptJob st s
    | none => s
  let s := if replaceDue count s then replacePlan s else s
  deferUnadmitted count (deferStarts count (startJobs count s.plan.waiting.length s))

end Sys2Proof.Machine
end

