-- ==== Sys2Proof/Machine/Reset.lean ====
section
/-!
DEFINITION. What a reset keeps and loses, and the restore of the cave (R14, R502, R548, R560, R563, R585).
-/

namespace Sys2Proof.Machine

/-! ### The cave at reset (R548) -/

/-- The code of a record kind with two copies: 0 the newer copy, 1 empty, 2 failed, 3 the older copy because the other fails. -/
def twoCopyCode {α : Type} (a b : CaveRec α) : Nat :=
  match a, b with
  | .ok _ _, .bad => 3
  | .bad, .ok _ _ => 3
  | .ok _ _, _ => 0
  | _, .ok _ _ => 0
  | .erased, .erased => 1
  | _, _ => 2

/-- The present copy with the higher generation (R502). -/
def present {α : Type} (a b : CaveRec α) : Option (Nat × α) :=
  match a, b with
  | .ok g x, .ok h y => if h ≤ g then some (g, x) else some (h, y)
  | .ok g x, _ => some (g, x)
  | _, .ok h y => some (h, y)
  | _, _ => none

/-- The pair of copies after a write: over the older copy, with the next generation (R408, R502). -/
def writeCopy {α : Type} (a b : CaveRec α) (x : α) : CaveRec α × CaveRec α :=
  let g := ((present a b).map (·.1)).getD 0 + 1
  match a, b with
  | .ok g1 _, .ok g2 _ => if g2 ≤ g1 then (a, .ok g x) else (.ok g x, b)
  | .ok _ _, _ => (a, .ok g x)
  | _, _ => (.ok g x, b)

/-- The bandwidth split rule of R351. -/
def splitOk (r w m : Nat) : Bool :=
  [r, w, m].all (fun p => p % 5 == 0 && decide (5 ≤ p ∧ p ≤ 90)) && r + w + m == 100

/-- The port set of R428 for a topology. -/
def portSet (code modules : Nat) : Nat :=
  match code with
  | 0 => 0
  | 1 => 2 ^ (modules - 1) - 1
  | _ => 2 ^ 24 - 1

/-- The field rules of R431. -/
def topologyOk (t : Topology) : Bool :=
  (match t.code with
    | 0 => t.modules == 1
    | 1 => decide (2 ≤ t.modules ∧ t.modules ≤ 16)
    | 2 => t.modules == 64
    | _ => false) &&
  decide (t.module < t.modules ∧ t.head < t.modules) && t.portMask == portSet t.code t.modules && t.configId != 0

/-- Restored settings: each field in its range, or its factory value; and whether a factory value was taken (R548). -/
def restoreSettings (fused : List Nat) (c : Settings) : Settings × Bool :=
  let f := Settings.factory fused
  let capsOk := decide (300 ≤ c.sustained ∧ c.sustained ≤ 1700)
  let sustained := if capsOk then c.sustained else f.sustained
  let r : Settings :=
    { period := if 10 ≤ c.period ∧ c.period ≤ 2000 then c.period else f.period,
      align := if c.align ≤ 2 then c.align else f.align,
      syncDelay := if c.syncDelay ≤ 2000 then c.syncDelay else f.syncDelay,
      bwRead := if splitOk c.bwRead c.bwWrite c.bwRemote then c.bwRead else f.bwRead,
      bwWrite := if splitOk c.bwRead c.bwWrite c.bwRemote then c.bwWrite else f.bwWrite,
      bwRemote := if splitOk c.bwRead c.bwWrite c.bwRemote then c.bwRemote else f.bwRemote,
      interleave := if c.interleave ≤ 2 then c.interleave else f.interleave,
      scrubHours := if 1 ≤ c.scrubHours ∧ c.scrubHours ≤ 168 then c.scrubHours else f.scrubHours,
      maxima := (List.range 160).map fun v =>
        if c.maxima.getD v 0 ≤ fused.getD v 0 then c.maxima.getD v 0 else fused.getD v 0,
      smbus := if 0x08 ≤ c.smbus ∧ c.smbus ≤ 0x77 then c.smbus else f.smbus,
      sustained := sustained,
      peak := if sustained ≤ c.peak ∧ c.peak ≤ 2000 then c.peak else f.peak,
      order := if c.order ≤ 5 then c.order else f.order, pool := c.pool,
      topology := if topologyOk c.topology then c.topology else f.topology }
  (r, decide (r ≠ c))

/-- Calibrated voltages within 30 mV of the typical values, and P15 at 550 mV (R469). -/
def calibrationOk (c : Calibration) : Bool :=
  c.mv.length == 16 && c.mv.getD 15 0 == 550 &&
  (c.mv.zip Calibration.factory.mv).all fun p => decide (p.1 ≤ p.2 + 30 ∧ p.2 ≤ p.1 + 30)

/-- What the restore of the cave gives: settings, calibration, CAVE_STATUS. -/
def restoreCave (v : Cave) (fused : List Nat) : Settings × Calibration × U32 :=
  let (settings, fell) := match present v.settingsA v.settingsB with
    | some (_, c) => restoreSettings fused c
    | none => (Settings.factory fused, false)
  let (cal, fellCal) := match present v.calibrationA v.calibrationB with
    | some (_, c) => if calibrationOk c then (c, false) else (Calibration.factory, true)
    | none => (Calibration.factory, false)
  let gen := ((present v.settingsA v.settingsB).map (·.1)).getD 0
  let cert := match v.certificate with
    | .ok _ _ => 0
    | .erased => 1
    | .bad => 2
  let status := gen % 65536 * 65536 + 256 * b2n (fell || fellCal) + 64 * cert + 16 * twoCopyCode v.credentialA v.credentialB +
    4 * twoCopyCode v.calibrationA v.calibrationB + twoCopyCode v.settingsA v.settingsB
  (settings, cal, BitVec.ofNat 32 status)

/-- The severity of CAVE_RESTORE: 1 when any field of CAVE_STATUS is not 0 (R555). -/
def caveSeverity (status : U32) : Nat := if status = 0 then 0 else 1

/-! ### A module reset (R563) -/

/-- A module reset of a cause: everything is lost but the fuses, the cave, RESET_CAUSE.COUNT and RAIL_FAULT; settings and
calibration come from the cave; a new incarnation is drawn (R430, R548, R558, R560, R563, R585). What lies outside the module
stays: host memory, the waiting commands, the pins, the rails, the record of its wires. -/
def resetModule (cause : Nat) (s : State) : State :=
  let fused := s.fuses.fused
  let (c, cal, status) := restoreCave s.cave fused
  let st := Start.reset cause (satAdd 65535 s.start.count 1) (Config.incarnation s.free)
  let start := { st with railCount := s.start.railCount, railKind := s.start.railKind, rail := s.start.rail,
                         railsOn := s.start.railsOn, boundary := s.start.boundary, bypass := s.start.bypass,
                         resetLow := s.start.resetLow, perstLow := s.start.perstLow }
  { State.reset with
    pending := s.pending, start := start, tick := Tick.reset s.tick.timebase c.period c.align c.syncDelay,
    host := s.host, hostPoison := s.hostPoison, memctl := MemCtl.reset c.interleave c.scrubHours,
    fmw := Mehrore.reset c, cave := { s.cave with status := status }, fuses := s.fuses,
    fw := { stagedSlot := 1, staging := 0, received := [], live := none },
    power := Power.reset c cal, fabric := { Fabric.reset c.topology with posted := s.sent.length }, sent := s.sent, free := s.free + 1 }

/-! ### The start of the sequence (R504, R506, R548, R557, R574) -/

/-- Checks 2-6 of R504 on one image, with a security version of at least `minSv`: the reason code of the first that fails. -/
def imageFails (s : State) (minSv : Nat) (i : FwImage) : Option Nat :=
  let slotOk := match s.fuses.hashes.getD i.signer none with
    | some h => h == i.keyHash && !s.fuses.revoked.getD i.signer false
    | none => false
  if !i.formatOk then some 1
  else if !slotOk || (lifecycle s == 0 && i.signer != 0) then some 2
  else if !i.sigOk then some 3
  else if i.sv < minSv then some 4
  else if !i.digestOk then some 5
  else none

/-- The first failing stage and reason of a firmware slot, none when it is bootable (R504). -/
def slotFails (s : State) (minSv : Nat) (slot : CaveRec (List FwImage)) : Option (Nat × Nat) :=
  match slot with
  | .ok _ imgs => (imgs.zip (upFrom 1 imgs.length)).findSome? fun p => (imageFails s minSv p.1).map fun r => (p.2, r)
  | _ => some (1, 0)

def slotRec (s : State) (slot : Nat) : CaveRec (List FwImage) := if slot = 0 then s.cave.slotA else s.cave.slotB

/-- The images of a slot, [] when it is absent. -/
def slotImages (s : State) (slot : Nat) : List FwImage :=
  match slotRec s slot with
  | .ok _ imgs => imgs
  | _ => []

/-- What the boot records of the stages it runs (R505, R517). -/
def stagesOf (imgs : List FwImage) : List (List Byte × Nat × Nat) :=
  (Config.shippedMeasurement 0, 0, 0xB0000000) :: imgs.map fun i => (i.measurement, i.sv, i.version)

/-- Boot from a slot: the measurements are recorded, and the other slot is the one that staging may write. -/
def bootFrom (slot : Nat) (fallback : Bool) (s : State) : State :=
  { s with sec := { s.sec with bootSlot := slot, fallback := fallback, recovery := false, stages := stagesOf (slotImages s slot) },
           fw := { s.fw with stagedSlot := 1 - slot } }

/-- BOOT_FALLBACK: from a failed slot to the other one. -/
def bootFallback (failed stage reason : Nat) (s : State) : State :=
  raise 0x0603 2 (leBytes 1 failed ++ leBytes 1 stage ++ leBytes 1 reason) (bootFrom (1 - failed) true s)

/-- The failure of stage 1 of a slot, which the boot ROM finds. -/
def stage1Fails (s : State) (slot : Nat) : Option (Nat × Nat) := (slotFails s s.fuses.rollback (slotRec s slot)).filter fun f => f.1 == 1

/-- The boot ROM: the slot that the security log names, then the other one, then recovery. -/
def bootRom (s : State) : State :=
  let a := s.cave.log.active
  match stage1Fails s a with
  | none => bootFrom a false s
  | some f =>
    if (stage1Fails s (1 - a)).isNone then bootFallback a f.1 f.2 s else { s with sec := { s.sec with recovery := true } }

/-- Steps 1 to 4 of R557: rails that the module switched off come on, configuration requests get CRS, the boot ROM runs, the restore of
the cave is reported. -/
def beginStart (s : State) : State :=
  let s := if s.start.railsOn then s else emit .railsOn { s with start := { s.start with railsOn := true } }
  let s := bootRom { s with start := { s.start with inReset := false, seq := 4 }, cxl := { s.cxl with crs := true } }
  raise 0x0707 (caveSeverity s.cave.status) (leBytes 4 s.cave.status.toNat) s

/-- A module reset whose sequence starts at once (R563). -/
def resetAtOnce (cause : Nat) (s : State) : State := beginStart (resetModule cause s)

end Sys2Proof.Machine
end

