-- ==== Sys2Proof/Machine/Security.lean ====
section
/-!
DEFINITION. Keys, sessions, credentials, attestation, lifecycle, debug and the firmware checks (R391-R396, R498-R531, R543-R547).
-/

namespace Sys2Proof.Machine

/-! ### Keys and signatures (R499, R500) -/

/-- The seed of the identity key (R499). -/
def identitySeed (s : State) : List Byte := kmac256 s.fuses.secret [] 32 "IZ2 IDENTITY"

/-- The identity public key, 1,312 bytes (FIPS 204). -/
def identityPublic (s : State) : List Byte := padTo 1312 (Config.dsaPublic (identitySeed s))

/-- The device ID (R499). -/
def deviceId (s : State) : List Byte := sha3_256 (identityPublic s)

/-- A signature of the identity key, 2,420 bytes (R500). -/
def signIdentity (s : State) (context : String) (msg : List Byte) : List Byte :=
  padTo 2420 (Config.dsaSign (identitySeed s) context msg)

/-- Random bytes, and the state that has drawn them. -/
def drawBytes (n : Nat) (s : State) : List Byte × State :=
  ((List.range n).map fun i => Config.randomByte s.free i, { s with free := s.free + 1 })

/-- The registered host credential (R511). -/
def credential (s : State) : List Byte :=
  if s.fuses.retired then Config.rmaCredential
  else ((present s.cave.credentialA s.cave.credentialB).map (·.2)).getD Config.rmaCredential

/-! ### The debug level (R518-R521) -/

/-- The level changes and DEBUG_LEVEL_CHANGED is raised (R520, R531). -/
def levelEvent (old new signer cause : Nat) (s : State) : State :=
  raise 0x0601 1 (leBytes 1 old ++ leBytes 1 new ++ leBytes 1 signer ++ leBytes 1 cause) s

/-- A return to D0: every halted hub core resumes, the HALT bits clear (R521, R529). -/
def dropLevel (cause : Nat) (s : State) : State :=
  if s.sec.level = 0 then s
  else
    let signer := (s.sec.token.map (·.signer)).getD 0
    let old := s.sec.level
    levelEvent old 0 signer cause { s with sec := { s.sec with level := 0, token := none, halt := 0, halted := 0 } }

/-- The end of the token's ground: D1 and D2 fall to D0, D3 resets the module (R521). -/
def endToken (cause : Nat) (s : State) : State :=
  if s.sec.level = 3 then resetAtOnce 6 s else dropLevel cause s

/-! ### Sessions (R391-R396, R510-R513) -/

/-- Close a session: its keys are destroyed, and a token bound to it ends (R510, R521). -/
def closeSession (id : Nat) (s : State) : State :=
  let s' := { s with fmw := { s.fmw with sessions := s.fmw.sessions.filter fun x => x.id != id } }
  match s.sec.token with
  | some t => if t.session = id ∧ s.sec.level ≠ 0 then endToken 3 s' else s'
  | none => s'

/-- The next free session ID from the counter of the module (R391). -/
def freshSession (s : State) : Nat :=
  ((upFrom 0 9).map fun k => (s.fmw.nextSession - 1 + k) % 0xFFFFFFFE + 1).find? (fun i => !s.fmw.sessions.any fun x => x.id == i)
    |>.getD 1

/-- SESSION_INIT (R391, R394). -/
def hSessionInit : Handler := fun _ s =>
  if 8 ≤ s.fmw.sessions.length then deny .noCapacity s
  else
    let id := freshSession s
    let (nonce, s) := drawBytes 32 s
    let seed := s.free
    let s := { s with free := s.free + 1 }
    let offer := leBytes 4 id ++ leBytes 4 0 ++ nonce ++ padTo 1184 (Config.kemPublic seed)
    let x : Session := { id := id, isOpen := false, offer := offer, kemSeed := seed, cmdKey := [], rspKey := [],
                         lastCounter := 0, since := s.tick.timebase }
    .done .ok (offer ++ signIdentity s "IZ2 SESSION" offer)
      { s with fmw := { s.fmw with sessions := s.fmw.sessions ++ [x], nextSession := id % 0xFFFFFFFE + 1 } }

/-- The keys of a session from its shared secret, offer and answer (R510). -/
def sessionKeys (k offer answer : List Byte) : List Byte × List Byte :=
  let out := kmac256 k (sha3_256 (offer ++ answer)) 64 "IZ2 SESSION KEYS"
  (out.take 32, out.drop 32)

/-- SESSION_FINISH (R395, R513). Its response is the tag alone (`writeResponse`). -/
def hSessionFinish : Handler := fun c s =>
  if s.fmw.lockout then deny .authFail s
  else
    let id := u32 c.payload 0
    match s.fmw.sessions.find? fun x => x.id == id && !x.isOpen with
    | none => deny .sessionInvalid s
    | some x =>
      let answer := c.payload.take 1128
      let gone (s : State) : State := { s with fmw := { s.fmw with sessions := s.fmw.sessions.filter fun y => y.id != id } }
      if !Config.dsaVerify (credential s) "IZ2 HOST" (x.offer ++ answer) (slice c.payload 1128 2420) then
        deny .authFail (authFailure (gone s))
      else match Config.kemDecaps x.kemSeed (slice c.payload 8 1088) with
        | none => deny .authFail (gone s)
        | some k =>
          let (ck, rk) := sessionKeys k x.offer answer
          let x' := { x with isOpen := true, cmdKey := ck, rspKey := rk, lastCounter := 0, since := s.tick.timebase }
          .done .ok (leBytes 4 id)
            { s with fmw := { s.fmw with sessions := s.fmw.sessions.map fun y => if y.id == id then x' else y } }

/-- SESSION_CLOSE (R396). -/
def hSessionClose : Handler := fun c s => .done .ok [] (closeSession c.session s)

/-! ### Firmware images (R503-R506) -/

/-- Parse and check one stage image of a bundle body (R503): what the checks of R504 need. -/
def parseImage (stage : Nat) (img : List Byte) : FwImage :=
  let bodyLen := u32 img 16
  let body := slice img 4096 bodyLen
  { stage := u8 img 4, signer := u8 img 5, version := u32 img 8, sv := u32 img 12,
    keyHash := sha3_256 (slice img 64 1312),
    formatOk := u32 img 0 == 0x5746_5A49 && u8 img 4 == stage && decide (u8 img 5 ≤ 3) && zeros img 6 2 && zeros img 20 4 &&
      zeros img 56 8 && zeros img 3796 300 && decide (u32 img 12 ≤ 128 ∧ 4096 + bodyLen ≤ img.length),
    sigOk := Config.dsaVerifyHash (slice img 64 1312) "IZ2 FIRMWARE" (img.take 1376) (slice img 1376 2420),
    digestOk := sha3_256 body == slice img 24 32,
    measurement := sha3_256 (img.take (4096 + bodyLen)) }

/-- The three images of a bundle body, or none where its layout breaks R502. -/
def parseBundle (body : List Byte) : Option (List FwImage) :=
  let entry (k : Nat) := (u32 body (8 * k), u32 body (8 * k + 4))
  if (List.range 3).all fun k => (entry k).1 % 4096 == 0 && decide ((entry k).1 + (entry k).2 ≤ body.length ∧ 4096 ≤ (entry k).2) then
    some ((List.range 3).map fun k => parseImage (k + 1) (slice body (entry k).1 (entry k).2))
  else none

def setSlot (slot : Nat) (r : CaveRec (List FwImage)) (s : State) : State :=
  { s with cave := if slot = 0 then { s.cave with slotA := r } else { s.cave with slotB := r } }

/-- The version of a running stage. -/
def stageVersion (s : State) (n : Nat) : Nat := (s.sec.stages.getD n ([], 0, 0)).2.2

/-! ### Identity, status, attestation -/

/-- IDENTIFY (R403). -/
def identifyBytes (s : State) : List Byte :=
  padTo 16 (ascii "GN-IZ2-768") ++ leBytes 1 0xB0 ++ leBytes 1 (self s) ++ leBytes 1 s.fabric.topology.modules ++
  leBytes 1 (headModule s) ++ leBytes 4 (stageVersion s 2) ++ deviceId s ++ leBytes 1 (lifecycle s) ++
  leBytes 1 s.sec.level ++ leBytes 1 s.power.state ++ leBytes 5 0

def hIdentify : Handler := fun _ s => .done .ok (identifyBytes s) s

/-- One history entry (R404). -/
def histBytes (e : HistEntry) : List Byte :=
  leBytes 4 e.sequence ++ leBytes 2 e.opcode ++ leBytes 2 (statusCode e.status) ++ leBytes 1 e.entry ++ leBytes 1 e.mailbox ++
  leBytes 2 0 ++ leBytes 4 e.counter

/-- The last accepted counter of an open session of this module, or 0. -/
def lastAccepted (s : State) (session : Nat) : Nat :=
  ((s.fmw.sessions.find? fun x => x.id == session && x.isOpen).map (·.lastCounter)).getD 0

/-- GET_STATUS (R404). Of a forwarded one, the entry module fills in the last accepted counter (`withCounter`). -/
def hGetStatus : Handler := fun c s =>
  let last := match c.src with
    | .mailbox _ => lastAccepted s c.session
    | .forwarded _ _ => 0
  .done .ok (leBytes 8 last ++ padTo 256 (s.fmw.history.flatMap histBytes)) s

/-- The packages in ascending ID order. -/
def packagesById (s : State) : List Package :=
  (saddAll [] (s.packages.map (·.id))).filterMap fun i => s.packages.find? fun p => p.id == i

/-- The models of the active bank in ascending ID order. -/
def modelsById (s : State) : List ModelEntry :=
  (saddAll [] (s.culture.active.map (·.id))).filterMap fun i => s.culture.active.find? fun p => p.id == i

/-- A bit mask from a list of Bools. -/
def maskOf (l : List Bool) : Nat := ((l.zip (upFrom 0 l.length)).map fun p => if p.1 then 2 ^ p.2 else 0).sum

/-- Bytes 0-1,215 of the attestation report (R517). -/
def reportBytes (s : State) (nonce : List Byte) : List Byte :=
  leBytes 4 0x5441_5A49 ++ leBytes 2 1 ++ leBytes 1 (lifecycle s) ++ leBytes 1 s.sec.level ++ deviceId s ++ nonce ++
  leBytes 8 s.tick.count ++ leBytes 1 s.fuses.rollback ++ leBytes 1 (maskOf (s.fuses.hashes.map Option.isSome)) ++
  leBytes 1 (maskOf s.fuses.revoked) ++ leBytes 1 (s.sec.bootSlot + 2 * b2n s.sec.fallback) ++ leBytes 1 s.power.state ++
  leBytes 1 s.packages.length ++ leBytes 1 s.culture.active.length ++ leBytes 1 0 ++ leBytes 8 s.start.incarnation ++
  (s.sec.stages.flatMap fun x => padTo 32 x.1 ++ leBytes 4 x.2.1 ++ leBytes 4 x.2.2) ++
  (if s.packages.isEmpty then List.replicate 32 0 else sha3_256 ((packagesById s).flatMap (·.digest))) ++
  padTo 576 ((packagesById s).flatMap fun p => leBytes 4 p.id ++ padTo 32 p.digest) ++
  padTo 320 ((modelsById s).flatMap fun m => leBytes 4 m.id ++ leBytes 1 m.version ++ leBytes 3 0 ++ padTo 32 m.fingerprint) ++
  sha3_256 (credential s)

/-- ATTEST (R516, R517). -/
def hAttest : Handler := fun c s =>
  if u8 c.payload 32 = 0 then
    let r := reportBytes s (slice c.payload 0 32)
    .done .ok (r ++ signIdentity s "IZ2 ATTEST" r) s
  else
    match s.cave.certificate with
    | .ok _ cert => .done .ok cert s
    | _ => deny .uncorrectable s

/-- CREDENTIAL_SET (R512): a new record, and every other session closes. -/
def hCredentialSet : Handler := fun c s =>
  let (a, b) := writeCopy s.cave.credentialA s.cave.credentialB (slice c.payload 0 1312)
  let s := { s with cave := { s.cave with credentialA := a, credentialB := b } }
  let own := match c.src with
    | .mailbox _ => c.session
    | .forwarded _ _ => 0
  .done .ok [] (((s.fmw.sessions.filter fun x => x.id != own).map (·.id)).foldl (fun s i => closeSession i s) s)

/-! ### Debug tokens (R519, R520, R524) -/

/-- Whether a lifecycle state admits a level with a signer (R524). -/
def tokenAdmitted (s : State) (level signer : Nat) : Bool :=
  let live (n : Nat) : Bool := (s.fuses.hashes.getD n none).isSome && !s.fuses.revoked.getD n false
  match lifecycle s with
  | 0 => signer == 0
  | 1 => decide (signer ≤ 3) && live signer
  | 2 => level != 3 && decide (1 ≤ signer ∧ signer ≤ 3) && live signer
  | _ => signer == 4

/-- Whether a token passes the checks that give AUTH_FAIL (R519, R520). -/
def tokenValid (s : State) (t : List Byte) : Bool :=
  let signer := u8 t 7
  let keyOk := if signer = 4 then slice t 64 1312 == Config.rmaCredential
    else (s.fuses.hashes.getD signer none) == some (sha3_256 (slice t 64 1312))
  u32 t 0 == 0x5444_5A49 && u16 t 4 == 1 && decide (1 ≤ u8 t 6 ∧ u8 t 6 ≤ 3 ∧ signer ≤ 4) && slice t 8 32 == deviceId s &&
  decide (1 ≤ u32 t 40 ∧ u32 t 40 ≤ 604800 ∧ u16 t 46 ≤ 4096 ∧ u16 t 44 + u16 t 46 ≤ 4096) &&
  decide (s.cave.log.lastSerial < u64 t 48) && zeros t 56 8 && keyOk &&
  Config.dsaVerify (slice t 64 1312) "IZ2 DEBUG" (t.take 1376) (slice t 1376 2420)

/-- DEBUG_TOKEN (R520, R521). A new token first returns the level to D0, so halted hub cores resume; one event tells of both changes. -/
def hDebugToken : Handler := fun c s =>
  if u8 c.payload 0 = 0 then
    .done .ok [] (dropLevel 1 s)
  else
    let t := slice c.payload 8 3796
    if !tokenValid s t then deny .authFail s
    else if !tokenAdmitted s (u8 t 6) (u8 t 7) then deny .debugDenied s
    else
      let old := s.sec.level
      let k : Token := { level := u8 t 6, signer := u8 t 7, session := c.session, firstQueue := u16 t 44,
                         queueCount := u16 t 46, expires := s.tick.timebase + u32 t 40 * 1000000000 }
      let s := { s with
        cave := { s.cave with log := { s.cave.log with lastSerial := u64 t 48 } },
        sec := { s.sec with level := u8 t 6, token := some k, halt := 0, halted := 0 } }
      .done .ok [] (levelEvent old (u8 t 6) (u8 t 7) 0 s)

/-! ### Lifecycle (R507-R509) -/

/-- The security log notes an action (R501, R509). -/
def logAction (action arg : Nat) (s : State) : State :=
  { s with cave := { s.cave with log := { s.cave.log with actions := ((action, arg) :: s.cave.log.actions).take 64 } } }

/-- A lifecycle fuse is blown and LIFECYCLE_CHANGED is raised (R509, R531). -/
def lifecycleEvent (action : Nat) (s : State) : State := raise 0x0602 1 (leBytes 1 action ++ leBytes 1 (lifecycle s)) s

/-- Whether an owner slot is programmed and not revoked. -/
def slotLive (s : State) (n : Nat) : Bool := (s.fuses.hashes.getD n none).isSome && !s.fuses.revoked.getD n false

/-- The conditions of R508 for an action on its payload. -/
def lifecycleAccepts (s : State) (p : List Byte) : Bool :=
  let lc := lifecycle s
  let mask := u8 p 3
  match u8 p 0 with
  | 1 => decide (lc ≤ 1) && mask != 0 && [1, 2, 3].all fun n => !bit mask n || (s.fuses.hashes.getD n none).isNone
  | 2 => lc == 1 && [1, 2, 3].any (slotLive s)
  | 3 => decide (lc ≤ 2)
  | 4 =>
    let n := u8 p 1
    (lc == 1 || lc == 2) && slotLive s n &&
    ([0, 1, 2, 3].any fun k => k != n && slotLive s k && (lc == 1 || k != 0)) &&
    (slotImages s 0 ++ slotImages s 1).all fun i => i.signer != n
  | 5 =>
    (lc == 1 || lc == 2) && decide (s.fuses.rollback < u8 p 2) &&
    (slotFails s (u8 p 2) s.cave.slotA).isNone && (slotFails s (u8 p 2) s.cave.slotB).isNone
  | _ => false

/-- Program the owner slots of a mask and the provisioned fuse. -/
def provision (p : List Byte) (s : State) : State :=
  let mask := u8 p 3
  let hashes := [1, 2, 3].foldl (fun hs n => if bit mask n then hs.set n (some (slice p (8 + 32 * (n - 1)) 32)) else hs) s.fuses.hashes
  let was := s.fuses.provisioned
  let s := { s with fuses := { s.fuses with hashes := hashes, provisioned := true } }
  if was then s else lifecycleEvent 1 s

/-- Retire: the fuse, then every cave record but the certificate and the security log (R508). -/
def retireFuses (s : State) : State :=
  lifecycleEvent 3
    { s with
      fuses := { s.fuses with retired := true },
      cave := { s.cave with credentialA := .erased, credentialB := .erased, settingsA := .erased, settingsB := .erased,
                            calibrationA := .erased, calibrationB := .erased, slotA := .erased, slotB := .erased } }

/-- Revoke a slot: a token that it signed ends (R508, R530). -/
def revokeSlot (n : Nat) (s : State) : State :=
  let s := { s with fuses := { s.fuses with revoked := s.fuses.revoked.set n true } }
  match s.sec.token with
  | some t => if t.signer = n ∧ s.sec.level ≠ 0 then endToken 4 s else s
  | none => s

/-- The bits set in a hash, and the hash with the first of them alone (R509). -/
def hashBits (h : List Byte) : List Nat := (upFrom 0 256).filter (bit (leNat h))

def blowBits (m : Nat) (h : List Byte) : List Byte := leBytes 32 (((hashBits h).take m).map (2 ^ ·)).sum

/-- The slots and hashes that a provision programs, in their order. -/
def provisioned (p : List Byte) : List (Nat × List Byte) :=
  ([1, 2, 3].filter (bit (u8 p 3))).map fun n => (n, slice p (8 + 32 * (n - 1)) 32)

/-- The fuse bits that an action blows, one at a time, a lifecycle fuse last (R509). -/
def fuseBits (s : State) (p : List Byte) : Nat :=
  match u8 p 0 with
  | 1 => ((provisioned p).map fun x => (hashBits x.2).length).sum + b2n (!s.fuses.provisioned)
  | 5 => u8 p 2 - s.fuses.rollback
  | _ => 1

/-- The fuses after the first bits of an action alone. -/
def partialFuses (p : List Byte) (k : Nat) (s : State) : State :=
  match u8 p 0 with
  | 1 =>
    let r := (provisioned p).foldl (fun a x =>
      (if a.2 = 0 then a.1 else a.1.set x.1 (some (blowBits a.2 x.2)), a.2 - (hashBits x.2).length)) (s.fuses.hashes, k)
    { s with fuses := { s.fuses with hashes := r.1 } }
  | 5 => { s with fuses := { s.fuses with rollback := s.fuses.rollback + k } }
  | _ => s

/-- Where the verification of a bit fails: a free value, the number of bits blown before (notes/assumptions/18.md). -/
def fuseFailure (s : State) (p : List Byte) : Option Nat :=
  if fuseBits s p = 0 then none else (Config.fuseFails s.free).map (· % fuseBits s p)

/-- The effect of an action whose bits all verify. -/
def lifecycleDone (p : List Byte) (s : State) : State :=
  match u8 p 0 with
  | 1 => provision p s
  | 2 => lifecycleEvent 2 { s with fuses := { s.fuses with deployed := true } }
  | 3 => retireFuses s
  | 4 => revokeSlot (u8 p 1) s
  | _ => { s with fuses := { s.fuses with rollback := u8 p 2 } }

/-- LIFECYCLE_SET (R508, R509). The reset of a retirement follows the response (`Retire` of R530), so the caller makes it. -/
def hLifecycleSet : Handler := fun c s =>
  let p := c.payload
  if !lifecycleAccepts s p then deny .lifecycleDenied s
  else
    let s := logAction (u8 p 0) (if u8 p 0 = 4 then u8 p 1 else u8 p 2) s
    match fuseFailure s p with
    | some k => .done .uncorrectable (leBytes 4 k) (partialFuses p k { s with free := s.free + 1 })
    | none => .done .ok [] (lifecycleDone p { s with free := s.free + 1 })

/-! ### Firmware staging and activation (R543-R547) -/

/-- The largest bundle body (R543). -/
def bundleMax : Nat := 7339968

/-- FW_STAGE (R543, R544). -/
def hFwStage : Handler := fun c s =>
  let p := c.payload
  let slot := u8 p 0
  let first := bit (u8 p 1) 0
  let last := bit (u8 p 1) 1
  let count := u16 p 2
  let got := if first then [] else s.fw.received
  let slotOk := s.sec.recovery || slot != s.sec.bootSlot
  let inRun := first || (s.fw.staging == 1 && s.fw.stagedSlot == slot)
  if !slotOk || !inRun || u32 p 4 != got.length || decide (bundleMax < got.length + count) then deny .invalidArgument s
  else
    let body := got ++ slice p 16 count
    let s := setSlot slot .erased s
    let s := { s with fw := { s.fw with stagedSlot := slot, staging := 1, received := body } }
    if !last then .done .ok [] s
    else
      let gen := 1
      match parseBundle body with
      | none => .done .fwRejected (leBytes 1 6) { s with fw := { s.fw with staging := 0, received := [] } }
      | some imgs =>
        match slotFails s s.fuses.rollback (.ok gen imgs) with
        | some (_, reason) => .done .fwRejected (leBytes 1 reason) { s with fw := { s.fw with staging := 0, received := [] } }
        | none =>
          let s := setSlot slot (.ok gen imgs) { s with fw := { s.fw with staging := 2, received := [] } }
          .done .ok [] (raise 0x0705 0 (leBytes 1 slot ++ leBytes 3 0 ++ leBytes 4 ((imgs.getD 1 default).version)) s)

/-- The effective tick that a command completing now gets, in the module's own count (R44). -/
def effTick (s : State) : Nat := s.tick.count + 3

/-- FW_ACTIVATE (R545, R546). -/
def hFwActivate : Handler := fun c s =>
  let flag := u8 c.payload 0
  let slot := s.fw.stagedSlot
  match slotFails s s.fuses.rollback (slotRec s slot) with
  | some (_, reason) => .done .fwRejected (leBytes 1 reason) s
  | none =>
    let imgs := slotImages s slot
    let same := (imgs.getD 0 default).measurement == (s.sec.stages.getD 1 ([], 0, 0)).1
    let major := (imgs.getD 1 default).version / 2 ^ 24
    let split := c.target != 0xFF && decide (1 < s.fabric.topology.modules) && major != stageVersion s 2 / 2 ^ 24
    if flag = 1 ∧ ¬ same then .done .fwRejected (leBytes 1 7) s
    else if flag = 1 ∧ split then .done .fwRejected (leBytes 1 8) s
    else
      let s := { s with cave := { s.cave with log := { s.cave.log with active := slot } } }
      if flag = 1 then .done .ok (leBytes 8 (headTick s (effTick s))) { s with fw := { s.fw with live := some (slot, effTick s) } }
      else .done .ok [] (raise 0x0706 1 (leBytes 1 slot ++ leBytes 1 0 ++ leBytes 2 0 ++ leBytes 4 (imgs.getD 1 default).version) s)

/-- The swap of a live activation (R546). -/
def swapFirmware (s : State) : State :=
  match s.fw.live with
  | none => s
  | some (slot, _) =>
    let imgs := slotImages s slot
    let s := { s with fw := { s.fw with live := none },
                      sec := { s.sec with stages := stagesOf imgs } }
    flushEvents (raise 0x0706 1 (leBytes 1 slot ++ leBytes 1 1 ++ leBytes 2 0 ++ leBytes 4 (imgs.getD 1 default).version) s)

/-- FW_STATUS (R547). -/
def hFwStatus : Handler := fun _ s =>
  let vs (slot : Nat) := (List.range 3).flatMap fun k => leBytes 4 (((slotImages s slot)[k]?.map (·.version)).getD 0)
  .done .ok ((List.range 3).flatMap (fun k => leBytes 4 (stageVersion s (k + 1))) ++ vs 0 ++ vs 1 ++
    leBytes 1 (if s.sec.recovery then 0xFF else s.sec.bootSlot) ++ leBytes 1 s.cave.log.active ++ leBytes 1 s.fw.staging ++ [0]) s

/-! ### Hub core debug (R529) -/

/-- Whether DBG_CORE acts on a core: level D2 or above, and in A3 never (R528, R529). -/
def coreControl (s : State) : Bool := decide (2 ≤ s.sec.level) && s.power.state != 3

/-- A write of DBG_CORE.HALT. -/
def haltCores (v : U32) (s : State) : State :=
  if !coreControl s then { s with sec := { s.sec with denied := true } }
  else { s with sec := { s.sec with halt := bits v.toNat 2 0, halted := bits v.toNat 2 0 } }

/-- A write of DBG_CORE.STEP: each halted core named runs one instruction. -/
def stepCores (v : U32) (s : State) : State :=
  if !coreControl s then { s with sec := { s.sec with denied := true } }
  else
    let instrs := (List.range 3).map fun n => s.sec.instrs.getD n 0 + b2n (bit v.toNat (4 + n) && bit s.sec.halted n)
    { s with sec := { s.sec with instrs := instrs } }

end Sys2Proof.Machine
end

