-- ==== Sys2Proof/Machine/Power.lean ====
section
/-!
DEFINITION. The power controller: limits, prediction, choice of the point, emergencies, throttle reports, power states, the budget lead
(R469-R496, R573-R576).
-/

namespace Sys2Proof.Machine

def modPower (f : Power → Power) (s : State) : State := { s with power := f s.power }

/-! ### Limits (R475-R478, R485) -/

/-- The effective sustained cap in W: the grant of a pooled module, else its configured cap. -/
def effectiveCap (s : State) : Nat := if s.power.pool then s.power.grant.getD s.power.sustained else s.power.sustained

/-- The hinted power of a tick in mW, at most 2,000 W (R485). -/
def hintMw (s : State) (tick : Nat) : Nat :=
  min 2000 ((s.power.hints.filter fun h => decide (h.start ≤ tick ∧ tick < h.start + h.ticks)).map (·.watts)).sum * 1000

/-- The tick allowance in mW for a cap, a peak limit, the energy of the last second less the tick, and a tick length in ns (R477). -/
def allowance (cap peak energyMj len : Nat) : Nat := min (peak * 1000) ((cap * 1000 - energyMj) * 1000000000 / max 1 len)

/-- A choice: the point, and the eighths of the memory and link shares that queue traffic keeps. -/
abbrev Choice := Nat × Nat × Nat

/-- The predicted power of a choice in mW (R477, R478). -/
def predicted (s : State) (p : PowerInput) (tick : Nat) (c : Choice) : Nat :=
  let x := p.points.getD c.1 default
  x.links + x.memory + x.compute + hintMw s tick + s.power.guardMw - p.queueMemory * (8 - c.2.1) / 8 - p.queueLinks * (8 - c.2.2) / 8

/-- The classes of an order, first to be reduced first: 0 compute, 1 memory, 2 links (R478). -/
def reduceOrder : Nat → List Nat
  | 0 => [0, 1, 2]
  | 1 => [1, 0, 2]
  | 2 => [0, 2, 1]
  | 3 => [2, 0, 1]
  | 4 => [1, 2, 0]
  | _ => [2, 1, 0]

/-- One class reduced step by step from a choice. -/
def reduceClass (c : Choice) : Nat → List Choice
  | 0 => (upFrom (c.1 + 1) (15 - c.1)).map fun p => (p, c.2.1, c.2.2)
  | 1 => [7, 6, 5, 4].map fun m => (c.1, m, c.2.2)
  | _ => [7, 6, 5, 4].map fun l => (c.1, c.2.1, l)

/-- The choices from a highest point on, in the order in which classes are reduced. -/
def choices (order p0 : Nat) : List Choice :=
  (reduceOrder order).foldl (fun acc k => acc ++ reduceClass (acc.getLastD (p0, 8, 8)) k) [(p0, 8, 8)]

/-- The first choice within the limits, from a highest point on; none when the limits are not met at P15 with every class reduced. -/
def choose (s : State) (p : PowerInput) (tick p0 len : Nat) : Option Choice :=
  (choices s.power.order p0).find? fun c =>
    decide (predicted s p tick c ≤ allowance (effectiveCap s) s.power.peak p.energyMj len)

/-- Whether a limit on its own would force a point or a lower one. -/
def forces (s : State) (p : PowerInput) (tick len cap peak pt : Nat) : Bool :=
  match (choices s.power.order 0).find? fun c => decide (predicted s p tick c ≤ allowance cap peak p.energyMj len) with
  | some c => decide (pt ≤ c.1)
  | none => true

/-- The limits of a sensor class: throttle and trip (R481). -/
def sensorLimits (cls : Nat) : Nat × Nat := if cls = 2 then (90, 105) else (95, 110)

/-- Whether a sensor is within 3 °C of its throttle limit or above it. -/
def nearHot (s : State) : Bool := s.power.readings.any fun r => decide ((sensorLimits r.cls).1 < r.celsius + 3)

/-- Whether the cause of an emergency lowering is active (R472). -/
def causeActive (s : State) : Bool := s.power.alert || s.power.alertHold || s.power.avsFault || s.power.thermal || s.power.capPeak

/-- The reason that holds a point down (R479): the first of the reasons that on its own would force it. -/
def limitReason (s : State) (p : PowerInput) (tick len pt : Nat) : Nat :=
  if pt = 0 then 0
  else if s.power.alert || s.power.alertHold || s.power.avsFault then 5
  else if nearHot s then 4
  else if forces s p tick len (2 ^ 40) s.power.peak pt then 1
  else if forces s p tick len (effectiveCap s) (2 ^ 40) pt then (if effectiveCap s < s.power.sustained then 7 else 2)
  else s.power.belowReason

/-! ### Throttle times and records (R479, R492) -/

/-- A 64-bit saturating sum. -/
def sat64 (a b : Nat) : Nat := satAdd (2 ^ 64 - 1) a b

/-- Charge below time since it was last charged to the reason in force. -/
def addBelow (now : Nat) (s : State) : State :=
  let p := s.power
  if p.point = 0 ∨ p.belowReason = 0 then modPower (fun p => { p with belowSince := now }) s
  else modPower (fun p => { p with
    below := p.below.modify (p.belowReason - 1) (sat64 · (now - p.belowSince)), belowSince := now,
    tickReasons := if p.belowSince < now then p.tickReasons ||| 2 ^ (p.belowReason - 1) else p.tickReasons }) s

/-- The below time of a reason (0 is reason 1) up to the timebase: what is charged and what has run since (R479, R493). -/
def belowTime (s : State) (r : Nat) : Nat :=
  let p := s.power
  if p.point ≠ 0 ∧ p.belowReason = r + 1 then sat64 (p.below.getD r 0) (s.tick.timebase - p.belowSince) else p.below.getD r 0

/-- Charge lost time to a reason. -/
def addLost (reason ns : Nat) (s : State) : State :=
  if reason = 0 ∨ ns = 0 then s
  else modPower (fun p => { p with lost := p.lost.modify (reason - 1) (sat64 · ns), tickReasons := p.tickReasons ||| 2 ^ (reason - 1) }) s

/-- The 32 bytes of a throttle record. -/
def throttleBytes (head : U32) (r : ThrRun) : List Byte :=
  leBytes 8 r.first ++ leBytes 4 r.ticks ++ leBytes 1 r.reasons ++ leBytes 1 r.lowest ++ leBytes 1 r.variant ++ leBytes 1 r.cause ++
  leBytes 8 r.lost ++ leBytes 4 (min (2 ^ 32 - 1) r.droop) ++ leBytes 4 head.toNat

/-- Write a throttle record; a full ring drops it and raises THR_OVERFLOW once until LOST is cleared. -/
def throttleRecord (r : ThrRun) (s : State) : State :=
  let first := s.thr.full 1024 && !s.thr.lost
  let s := { s with thr := s.thr.push 1024 (throttleBytes s.thr.head r) }
  if first then raise 0x0507 1 (leBytes 4 s.thr.lostCount) s else s

/-- Add a closed tick to the throttle runs: the open run goes on when reasons, point and variant are its own and it is below 1,024 ticks;
else its record is written, and a tick with a reason or lost time opens a new run (R492). -/
def noteTick (t : ThrRun) (s : State) : State :=
  let same (r : ThrRun) : Bool := r.reasons == t.reasons && r.point == t.point && r.variant == t.variant && decide (r.ticks < 1024)
  match s.power.run with
  | some r =>
    if same r then
      modPower (fun p => { p with run := some { r with
        ticks := r.ticks + 1, lowest := max r.lowest t.lowest, lost := sat64 r.lost t.lost, droop := r.droop + t.droop } }) s
    else
      let s := throttleRecord r s
      modPower (fun p => { p with run := if t.reasons = 0 ∧ t.lost = 0 then none else some t }) s
  | none => if t.reasons = 0 ∧ t.lost = 0 then s else modPower (fun p => { p with run := some t }) s

/-! ### Emergencies inside a tick (R471, R480-R482) -/

/-- Whether a point admits a variant on a module (R52). -/
def admits (v : Variant) (m pt : Nat) : Bool := decide (pt ≤ (alookup v.floors m).getD 0)

/-- Lower the point at once for a reason; a point that does not admit the variant in force makes a hold that reason's (R60, R471).
In a hold the prepared point becomes the point in force until its next fix (R472). -/
def lowerPoint (pt reason now : Nat) (s : State) : State :=
  if pt ≤ s.power.point then s
  else
    let s := addBelow now s
    let bad := (variantInForce s).any fun v => !admits v (self s) pt
    let s := modPower (fun p => { p with
      point := pt, belowReason := reason, fixed := p.fixed && s.tick.hold.isNone,
      prepared := if s.tick.hold.isSome then pt else p.prepared,
      requestReason := if s.tick.hold.isSome then reason else p.requestReason }) s
    { s with tick := { s.tick with lowest := max s.tick.lowest pt, allAdmitted := s.tick.allAdmitted && !bad,
                                   lowReason := if bad then reason else s.tick.lowReason } }

/-- A regulator fault record (R576). -/
def regulatorFault (rail severity : Nat) (word : Nat) (s : State) : State :=
  errRecord { type := 0x10, severity := severity, source := 8, unit := rail, status := 0, address := 0, queue := 0xFFFFFFFF, tag := 0,
              symbols := 0xFF, symbol := 0xFF, flags := 0, detail := leBytes 2 word } s

/-- The records of the PMBus devices that fail to answer (R576). -/
def silentDevices (answers : List (Option Nat)) (s : State) : State :=
  ((answers.zip (upFrom 0 answers.length)).filter fun a => a.1.isNone).foldl (fun s a => regulatorFault a.2 1 0xFFFF s) s

/-- POWER_ESTIMATE (R473, R474, R480). `projected` is the 1 ms average at the next boundary at P0-P15. -/
def notePower (estimateMw avg1ms avg1s : Nat) (queueUj : List (Nat × Nat)) (projected : List Nat) (s : State) : State :=
  let e := estimateMw + s.power.guardMw
  let nj := s.power.energyNj + 2 * e
  let s := modPower (fun p => { p with
    estimateMw := e, avg1ms := avg1ms / 1000, avg1s := avg1s / 1000, energyMj := sat64 p.energyMj (nj / 1000000), energyNj := nj % 1000000 }) s
  let s := queueUj.foldl (fun s q =>
    if (getQ s q.1).mode = .disabled then s else modQ q.1 (fun v => { v with energy := sat64 v.energy q.2 }) s) s
  let passes (pt : Nat) : Bool := decide (s.power.peak * 1000 < projected.getD pt 0)
  let s := modPower (fun p => { p with capPeak := passes p.prepared }) s
  if passes s.power.point then
    lowerPoint (((upFrom (s.power.point + 1) 15).find? fun pt => decide (pt < 16) && !passes pt).getD 15) 1 s.tick.timebase
      (modPower (fun p => { p with capPeak := true }) s)
  else s

/-- ESTIMATE_COMPARE (R473, R576): every 10 ms against READ_POUT of every device. -/
def compareEstimate (estimateW : Nat) (poutW : List (Option Nat)) (s : State) : State :=
  let s := silentDevices poutW s
  if poutW.any (·.isNone) then s
  else
    let m := (poutW.map fun x => x.getD 0).sum
    let diff := (estimateW - m) + (m - estimateW)
    if m * 4 < diff * 100 then
      raise 0x0508 1 (leBytes 2 estimateW ++ leBytes 2 m) (modPower (fun p => { p with guardMw := p.guardMw + diff * 1000 }) s)
    else s

/-- The detail of THERMAL_THROTTLE and THERMAL_TRIP. -/
def sensorDetail (r : Reading) : List Byte := leBytes 1 r.cls ++ leBytes 1 r.unit ++ leBytes 1 r.celsius

/-! ### Power states (R489-R491) -/

/-- The state changes, with its event. -/
def setPowerState (n : Nat) (s : State) : State :=
  if s.power.state = n then s
  else
    let old := s.power.state
    let s := modPower (fun p => { p with state := n }) s
    if old ≤ 1 ∧ n ≤ 1 then s else raise 0x0505 0 (leBytes 1 old ++ leBytes 1 n) s

/-- The conditions of A2 (R490). -/
def quietModule (s : State) : Bool :=
  s.plan.job.isNone && s.plan.waiting.isEmpty && s.queues.all (fun e => e.2.ops.isEmpty) && s.rings.all (fun e => e.2.openFor.isNone) &&
  s.svc.all (fun e => e.2.state != 1 && e.2.pend != 3) && !s.power.recalibrating

/-- A2_ENTRY (R490, R491): at a boundary with no operation left. -/
def enterA2 (s : State) : State :=
  if (s.power.wantA2 || s.power.d3) && decide (s.power.state ≤ 1) && quietModule s then
    setPowerState 2 (gateVats (upFrom 0 160) (modPower (fun p => { p with wantA2 := false, point := 15, prepared := 15 }) s))
  else s

/-- The mailbox commands of a module that enters A3: those that wait for a boundary of their queue end, those forwarded to other modules
find them unreachable, and of those that wait for their turn the ones that A3 forbids fail (R399, R526, notes/assumptions/31.md). -/
def a3Commands (s : State) : State :=
  let s := s.fmw.resets.foldl (fun s r => finishCmd r.2 .ok 0 [] s) { s with fmw := { s.fmw with resets := [] } }
  let s := s.fmw.forwards.foldl (fun s f =>
    settleForward { f with awaited := [], results := f.awaited.foldl (fun rs m => aset rs m .moduleUnreachable) f.results } s) s
  let keep := s.fmw.waiting.filter fun c => powerAllows 3 c.opcode
  (s.fmw.waiting.filter fun c => !powerAllows 3 c.opcode).foldl (fun s c => finishCmd c .powerDenied 0 [] s)
    { s with fmw := { s.fmw with waiting := keep, bwNext := none, unfixed := [] } }

/-- Entry to A3: what the table of R489 does not keep is lost; the switched rails go off; peers lose the module with cause 1 (R489, R490,
R574). -/
def enterA3 (s : State) : State :=
  let s := a3Commands s
  let c := s.fmw.settings
  let b : State := { State.reset with
    pending := s.pending, host := s.host, hostPoison := s.hostPoison, sent := s.sent, free := s.free,
    cave := s.cave, fuses := s.fuses, sec := { s.sec with halt := 0, halted := 0 }, fw := s.fw,
    fmw := s.fmw,
    tick := { Tick.reset s.tick.timebase c.period c.align c.syncDelay with
      count := s.tick.count, countHi := s.tick.countHi, base := s.tick.base, baseHi := s.tick.baseHi },
    start := { s.start with fwReady := false, memActive := false, vatsOn := false, links := false, trained := 0, initialised := 0,
                            railsOn := false, exitA3 := false },
    power := { Power.reset c s.power.calibration with state := s.power.state, readings := s.power.readings },
    memctl := { MemCtl.reset s.memctl.active s.memctl.scrubHours with locked := s.memctl.locked },
    fabric := { Fabric.reset s.fabric.topology with posted := s.sent.length } }
  let b := emitAll ([Sent.railsOff] ++
    (if s.fabric.topology.code = 0 then []
     else [Sent.reach { module := self s, incarnation := s.start.incarnation, removed := true, portsUp := [] }])) b
  setPowerState 3 b

/-- Exit from A3: rails on, a new incarnation, steps 4 and 6 to 12 of R557 are due (R490, R563, R574). -/
def exitA3 (s : State) : State :=
  let (c, cal, status) := restoreCave s.cave s.fuses.fused
  let s := { s with
    start := { s.start with incarnation := Config.incarnation s.free, railsOn := true, exitA3 := true, seq := 5 },
    free := s.free + 1, cave := { s.cave with status := status },
    fmw := { s.fmw with settings := c, bw := (c.bwRead, c.bwWrite, c.bwRemote), smbusAddr := c.smbus },
    power := { Power.reset c cal with state := s.power.state, readings := s.power.readings },
    memctl := { MemCtl.reset c.interleave c.scrubHours with locked := s.memctl.locked },
    tick := { s.tick with period := c.period, align := c.align, syncDelay := c.syncDelay } }
  let s := setPowerState 0 (emit .railsOn { s with cxl := { s.cxl with crs := true } })
  raise 0x0707 (caveSeverity status) (leBytes 4 status.toNat) s

/-- POWER_STATE (R490). -/
def hPowerState : Handler := fun c s =>
  match u8 c.payload 0, s.power.state with
  | 0, 3 =>
    if c.src = .mailbox 4 ∧ s.power.readings.all (fun r => decide (r.celsius < (sensorLimits r.cls).1)) = true then .done .ok [] (exitA3 s)
    else deny .powerBusy s
  | 0, 2 => .done .ok [] (setPowerState 0 (modPower (fun p => { p with wantA2 := false }) s))
  | 0, _ => .done .ok [] (modPower (fun p => { p with wantA2 := false }) s)
  | 2, 3 => deny .powerBusy s
  | 2, 2 => .done .ok [] s
  | 2, _ => if quietModule s then .done .ok [] (modPower (fun p => { p with wantA2 := true }) s) else deny .powerBusy s
  | 3, 3 => .done .ok [] s
  | 3, _ =>
    if quietModule s && !(isHead s && s.fabric.topology.code != 0) then .done .ok [] (enterA3 s) else deny .powerBusy s
  | _, _ => deny .invalidArgument s

/-- D3HOT_ENTRY and D0_RETURN (R491). -/
def enterD3 (s : State) : State := if s.power.state = 3 then s else modPower (fun p => { p with d3 := true }) s

def leaveD3 (s : State) : State :=
  let s := modPower (fun p => { p with d3 := false }) s
  if s.power.state = 2 then setPowerState 0 s else s

/-! ### Sensors, alert, droop (R481-R483) -/

/-- THERMAL_TRIP (R481): P15, every queue reset, the command in steps ends, A3. -/
def thermalTrip (r : Reading) (s : State) : State :=
  let s := raise 0x0504 3 (sensorDetail r) (lowerPoint 15 4 s.tick.timebase s)
  let s := (s.queues.map (·.1)).foldl (fun s q =>
    if (getQ s q).mode = .disabled then s else resetQueue q .ownerReset .running s) s
  let s := match s.fmw.running with
    | some r => finishCmd r.cmd .ownerReset r.steps [] (endTurn s)
    | none => s
  enterA3 s

/-- SENSOR_READ (R481). -/
def readSensors (rs : List Reading) (s : State) : State :=
  let s := modPower (fun p => { p with readings := rs }) s
  match rs.find? fun r => decide ((sensorLimits r.cls).2 ≤ r.celsius) with
  | some r => if s.power.state = 3 then s else thermalTrip r s
  | none =>
    match rs.find? fun r => decide ((sensorLimits r.cls).1 < r.celsius) with
    | some r =>
      if s.power.thermal then s else raise 0x0503 1 (sensorDetail r) (modPower (fun p => { p with thermal := true }) s)
    | none => if nearHot s then s else modPower (fun p => { p with thermal := false }) s

/-- THERMAL_STEP (R481): one point lower while a sensor is above its throttle limit. -/
def thermalStep (s : State) : State :=
  if (s.power.readings.any fun r => decide ((sensorLimits r.cls).1 < r.celsius)) && decide (s.power.point < 15) then
    lowerPoint (s.power.point + 1) 4 s.tick.timebase s
  else s

/-- Move the timebase on to a time that an event names. -/
def atTime (now : Nat) (s : State) : State := { s with tick := { s.tick with timebase := max s.tick.timebase now } }

/-- PWR_ALERT_ASSERT (R482, R562, R575): P15 at once; before firmware ready no effect. -/
def assertAlert (now : Nat) (words : List (Option Nat)) (s : State) : State :=
  if !s.start.fwReady || s.power.state == 3 || s.power.alert then s
  else
    let s := silentDevices words (atTime now s)
    raise 0x0501 1 [] (lowerPoint 15 5 now (modPower (fun p => { p with alert := true, alertSince := now, alertHold := false }) s))

/-- PWR_ALERT_DEASSERT (R482). -/
def deassertAlert (now : Nat) (s : State) : State :=
  if s.power.alert then
    raise 0x0502 0 (leBytes 8 (now - s.power.alertSince)) (modPower (fun p => { p with alert := false, alertHold := true }) (atTime now s))
  else s

/-- ALERT_HOLD_END (R482). -/
def endAlertHold (s : State) : State := modPower (fun p => { p with alertHold := false }) s

/-- DROOP_TRIP (R483). -/
def tripDroop (domain now : Nat) (s : State) : State :=
  modPower (fun p => { p with droops := p.droops.modify domain fun d =>
    { d with since := if d.since.isSome then d.since else some now, active := true } }) (atTime now s)

/-- DROOP_STRETCH_END (R483): half the span at the doubled period is added time. -/
def endStretch (domain now : Nat) (s : State) : State :=
  modPower (fun p => { p with droops := p.droops.modify domain fun d =>
    match d.since with
    | some t => { d with since := none, added := d.added + (now - t) / 2 }
    | none => d }) (atTime now s)

/-- At a boundary a stretch that still runs is charged to the closed tick up to there (R483). -/
def splitStretches (now : Nat) (s : State) : State :=
  modPower (fun p => { p with droops := p.droops.map fun d =>
    match d.since with
    | some t => { d with since := some now, added := d.added + (now - t) / 2 }
    | none => d }) s

/-- DROOP_RESPONSE_END (R483). -/
def endDroop (domain : Nat) (s : State) : State :=
  modPower (fun p => { p with droops := p.droops.modify domain fun d => { d with active := d.since.isSome } }) s

/-- Whether a droop response is active. -/
def droopActive (s : State) : Bool := s.power.droops.any (·.active)

/-! ### Power limits (R476) -/

/-- POWER_LIMITS (R476): due at the next boundary, whose count the response holds. -/
def hPowerLimits : Handler := fun c s =>
  let p := c.payload
  let eff := s.tick.count + 1
  let next := (eff, u16 p 0, u16 p 2, u8 p 4, bit (u8 p 5) 0)
  .done .ok (leBytes 8 (headTick s eff))
    { s with power := { s.power with limitsNext := some next },
             fmw := { s.fmw with settings := { s.fmw.settings with
               sustained := u16 p 0, peak := u16 p 2, order := u8 p 4, pool := bit (u8 p 5) 0 } } }

/-- The bounds of a grant for a configured cap (R486). -/
def grantBounds (cap : Nat) : Nat × Nat := (ceilDiv (7 * cap) 10, min 1700 (13 * cap / 10))

/-- A grant within its bounds. -/
def clampGrant (cap g : Nat) : Nat := max (grantBounds cap).1 (min (grantBounds cap).2 g)

/-- POWER_LIMITS_EFFECT (R476, R488): pending limits that are due at a count. -/
def applyLimits (count : Nat) (s : State) : State :=
  match s.power.limitsNext with
  | some (eff, cap, peak, order, pool) =>
    if eff ≤ count then
      modPower (fun p => { p with sustained := cap, peak := peak, order := order, pool := pool, limitsNext := none, limitsSince := count,
                                  grant := if pool then p.grant.map (clampGrant cap) else none }) s
    else s
  | none => s

/-- A grant that is due at a count (R487). -/
def applyGrant (count : Nat) (s : State) : State :=
  match s.power.grantNext with
  | some (eff, w) =>
    if eff ≤ count then modPower (fun p => { p with grant := if p.pool then some (clampGrant p.sustained w) else none, grantNext := none }) s
    else s
  | none => s

/-- GRANT_RESTORE (R488): a grant below the configured cap rises to it. -/
def restoreGrant (s : State) : State :=
  if s.power.restoreDue.isSome then modPower (fun p => { p with grant := none, restoreDue := none }) s else s

/-- BUDGET_LEAD_LOST (R488): no grant for 64 ticks, or the head lost. -/
def loseLead (s : State) : State :=
  if s.power.pool && !isHead s && (s.fabric.lost.contains (headModule s) || decide (s.power.lastGrant + 64 ≤ s.tick.count)) then
    let g := effectiveCap s
    let s := modPower (fun p => { p with
      grantNext := if p.sustained < g then some (s.tick.count + 1, p.sustained) else none,
      restoreDue := if g < p.sustained then some (s.tick.timebase + 10000000) else none, lastGrant := s.tick.count }) s
    raise 0x0506 1 (leBytes 1 (headModule s)) s
  else s

/-! ### The budget lead (R486, R487) -/

/-- A member's grant as the lead keeps it. -/
def leadGrant (s : State) (m : Nat) : Nat := mgetD s.power.grants m (mgetD s.power.caps m 0)

/-- The reachable members of the pool that the lead knows. -/
def poolMembers (s : State) : List Nat := (s.power.caps.map (·.1)).filter fun m => m == self s || reachable s m

/-- The new grants of a round: reductions of the donors and of an over-full budget, then increases of the critical members (R487, R488). -/
def newGrants (s : State) : List (Nat × Nat) :=
  let ms := poolMembers s
  let rep (m : Nat) : BudgetReport := (s.power.reports.find? fun r => r.module == m).getD default
  let cap (m : Nat) := mgetD s.power.caps m 0
  let budget := (ms.map cap).sum
  let down (m : Nat) : Nat :=
    let g := leadGrant s m
    let r := rep m
    if 100 ≤ r.slackMilli ∧ r.averageW * 100 < g * 95 then max (g - 100) (min g (max (ceilDiv (r.averageW * 105) 100) (grantBounds (cap m)).1))
    else g
  let reduced := ms.map fun m => (m, down m)
  let total := (reduced.map (·.2)).sum
  let cut := reduced.foldl (fun (a : List (Nat × Nat) × Nat) x =>
    let room := min a.2 (min (100 - (leadGrant s x.1 - x.2)) (x.2 - (grantBounds (cap x.1)).1))
    (a.1 ++ [(x.1, x.2 - room)], a.2 - room)) ([], total - budget)
  let freed := (ms.map fun m => leadGrant s m - down m).sum
  let critical := ms.filter fun m => decide ((rep m).slackMilli < 20) || (rep m).forced
  let capSum := (critical.map cap).sum
  cut.1.map fun x =>
    if critical.contains x.1 ∧ total ≤ budget then
      let g := leadGrant s x.1
      (x.1, g + min (min 100 (freed * cap x.1 / max 1 capSum)) ((grantBounds (cap x.1)).2 - g))
    else x

/-- Give one member its grant: this module at its effective tick, another by message. -/
def giveGrant (eff : Nat) (g : Nat × Nat) (s : State) : State :=
  let s := modPower (fun p => { p with grants := mput p.grants g.1 g.2 }) s
  if g.1 = self s then modPower (fun p => { p with grantNext := some (eff, g.2) }) s else emit (.grant g.1 g.2 (headTick s eff)) s

/-- The lead's round once every member has reported: reductions first, increases when every donor has acknowledged. -/
def leadRound (s : State) : State :=
  let ms := poolMembers s
  if ms.length < 2 ∨ !(ms.all fun m => s.power.reports.any fun r => r.module == m) = true then s
  else
    let gs := newGrants s
    let downs := gs.filter fun g => decide (g.2 < leadGrant s g.1)
    let ups := gs.filter fun g => decide (leadGrant s g.1 < g.2)
    let s := downs.foldl (fun s g => giveGrant (effTick s) g s) s
    modPower (fun p => { p with reports := [], awaited := (downs.map (·.1)).filter (· != self s), increases := ups }) s

/-- The increases, once no donor's acknowledgement is awaited: their effective tick lies after every reduction's. -/
def sendIncreases (s : State) : State :=
  if s.power.awaited.isEmpty && !s.power.increases.isEmpty then
    let ups := s.power.increases
    ups.foldl (fun s g => giveGrant (effTick s + 1) g s) (modPower (fun p => { p with increases := [] }) s)
  else s

/-- A report reaches the lead. -/
def noteReport (r : BudgetReport) (s : State) : State :=
  if !isHead s then s
  else
    sendIncreases (leadRound (modPower (fun p => { p with
      caps := mput p.caps r.module r.capW, reports := (p.reports.filter fun x => x.module != r.module) ++ [r] }) s))

/-- BUDGET_ROUND (R487): a pooled member reports to the lead. -/
def budgetRound (averageW slackMilli : Nat) (forced : Bool) (s : State) : State :=
  if !s.power.pool then s
  else
    let r : BudgetReport := { module := self s, capW := s.power.sustained, averageW := averageW, slackMilli := slackMilli, forced := forced }
    if isHead s then noteReport r s else emit (.budgetReport (headModule s) r) s

/-- GRANT at a member: due at its effective tick, and acknowledged. -/
def takeGrant (watts effective : Nat) (s : State) : State :=
  if s.power.pool then
    emit (.grantAck (headModule s)) (modPower (fun p => { p with
      grantNext := some (ownTick s effective, watts), lastGrant := s.tick.count, restoreDue := none }) s)
  else s

/-- GRANT_ACKNOWLEDGE at the lead. -/
def takeAck (src : Nat) (s : State) : State :=
  sendIncreases (modPower (fun p => { p with awaited := p.awaited.filter (· != src) }) s)

end Sys2Proof.Machine
end

