-- ==== Sys2Proof/Machine/Fabric.lean ====
section
/-!
DEFINITION. The Nyverlink fabric: topology and routes, flits and replay, transactions and their records, answers, lost and returning
modules, link authentication and management messages (R418-R449, R514, R515).
-/

namespace Sys2Proof.Machine

/-! ### Topology (R428, R429) -/

/-- c0, c1, c2 of R429. -/
def crossing (j : Nat) : Nat := 5 * j

/-- The far end of a port: module and port. -/
def peerOf (t : Topology) (m p : Nat) : Option (Nat × Nat) :=
  match t.code with
  | 1 => if p + 2 ≤ t.modules then some ((m + p + 1) % t.modules, t.modules - 2 - p) else none
  | 2 =>
    if p < 15 then some (m / 16 * 16 + (m % 16 + p + 1) % 16, 14 - p)
    else if p < 24 then
      let k := (p - 15) / 3 + 1
      let j := (p - 15) % 3
      some (16 * ((m / 16 + k) % 4) + (m % 16 ^^^ crossing j), 15 + 3 * (3 - k) + j)
    else none
  | _ => none

/-- The port of a module that leads straight to another. -/
def portTo (t : Topology) (m d : Nat) : Option Nat :=
  (List.range 24).find? fun p => (peerOf t m p).map (·.1) == some d

/-! ### Ports -/

def getPort (s : State) (p : Nat) : Port := s.fabric.ports.getD p Port.reset

def modPort (p : Nat) (f : Port → Port) (s : State) : State :=
  { s with fabric := { s.fabric with ports := s.fabric.ports.modify p f } }

/-- The unit of a port. -/
def portUnit (p : Nat) : UnitId := { cls := 5, num := p }

/-- The ports of this module that carry routes: up, and neither draining nor drained (R446). -/
def portsUp (s : State) : List Nat := (List.range 24).filter fun p => (getPort s p).state == 3 && unitUp s (portUnit p)

/-- The number of a link's end, under which a returning one waits for the boundary (MODEL). -/
def linkKey (m p : Nat) : Nat := m * 24 + p

/-- Whether a module's port carries routes, as this module knows it. -/
def linkUp (s : State) (m p : Nat) : Bool :=
  !s.fabric.returning.contains (linkKey m p) &&
  (if m = self s then (portsUp s).contains p else (mgetD s.fabric.portsUp m []).contains p)

/-! ### Routes (R432) -/

/-- A route: the first port, and the intermediate module if it has two hops. -/
abbrev Route := Nat × Option Nat

/-- The direct route. -/
def directRoute (s : State) (d : Nat) : Option Route :=
  (portTo s.fabric.topology (self s) d).bind fun p => if linkUp s (self s) p then some (p, none) else none

/-- Two hops through a module. -/
def viaRoute (s : State) (d m : Nat) : Option Route :=
  match portTo s.fabric.topology (self s) m, portTo s.fabric.topology m d with
  | some p, some r => if linkUp s (self s) p && linkUp s m r then some (p, some m) else none
  | _, _ => none

/-- The routes to a destination in the order in which they are tried. -/
def routesTo (s : State) (d : Nat) : List (Option Route) :=
  let t := s.fabric.topology
  let m := self s
  if t.code = 1 ∨ m / 16 = d / 16 then
    let group := if t.code = 1 then upFrom 0 t.modules else upFrom (m / 16 * 16) 16
    directRoute s d :: (group.filter fun x => x != m && x != d).map (viaRoute s d)
  else
    let i := m % 16
    let e := d % 16
    let first := ((List.range 3).find? fun j => i ^^^ crossing j == e).getD ((i + e) % 3)
    let form (j : Nat) : Option Route :=
      if e ^^^ crossing j = i then directRoute s d else viaRoute s d (m / 16 * 16 + (e ^^^ crossing j))
    (first :: (List.range 3).filter (· != first)).map form ++
    (List.range 3).map fun j => viaRoute s d (d / 16 * 16 + (i ^^^ crossing j))

/-- The route in force to a destination. -/
def routeOf (s : State) (d : Nat) : Option Route :=
  if d = self s ∨ s.fabric.topology.code = 0 then none else (routesTo s d).findSome? id

/-- The other modules of the configuration. -/
def others (s : State) : List Nat := (upFrom 0 s.fabric.topology.modules).filter (· != self s)

/-! ### Outgoing flits (R420-R426) -/

/-- A message's destinations, virtual channel and bytes; the body layouts that the spec does not give count as 64 bytes. -/
def wireOf (s : State) (x : Sent) : List (Nat × Nat × Nat) :=
  let peers := match s.plan.job with
    | some j => domainPeers s j.planSet
    | none => []
  match x with
  | .hold _ _ => peers.map fun m => (m, 2, 12)
  | .release _ _ => peers.map fun m => (m, 2, 12)
  | .variantRequest _ _ _ => peers.map fun m => (m, 2, 20)
  | .startDefer _ _ ps => (domainPeers s ps).map fun m => (m, 2, 20)
  | .skipPattern _ _ _ => peers.map fun m => (m, 2, 20)
  | .timestamp _ d _ => [(d, 2, 12)]
  | .timestampReply _ d _ _ _ => [(d, 2, 28)]
  | .syncAgain d _ => [(d, 2, 20)]
  | .request kind d _ _ _ _ _ _ data => [(d, if kind = 3 then 2 else if kind = 4 ∨ kind = 5 then 1 else 0, 24 + data.length)]
  | .answer kind d txid _ _ data bad =>
    let light := s.fabric.records.any fun r => r.src == d && r.txid == txid && r.kind == kind && r.light
    (d, if kind = 10 then 2 else b2n light, 8 + data.length) :: (if bad.isEmpty then [] else [(d, 0, 8 + 4 * bad.length)])
  | .forward d c => [(d, 3, 64 + c.payload.length)]
  | .response d _ _ pl => [(d, 3, 64 + pl.length)]
  | .event d _ => [(d, 3, 64)]
  | .reach _ => (others s).map fun m => (m, 3, 64)
  | .tickBase d _ => [(d, 3, 64)]
  | .budgetReport d _ => [(d, 3, 64)]
  | .grant d _ _ => [(d, 3, 64)]
  | .grantAck d => [(d, 3, 64)]
  | .effectiveTick d _ _ => [(d, 3, 64)]
  | .replacePlan d _ _ => [(d, 3, 64)]
  | _ => []

/-- The flits of a message wait on the first port of its route, each message from a flit of its own. -/
def postOne (s : State) (m : Nat × Nat × Nat) : State :=
  match routeOf s m.1 with
  | some r => modPort r.1 (fun p => { p with
      waiting := p.waiting.modify (2 * m.2.1) (· + max 1 (ceilDiv m.2.2 244)), mgmtTx := p.mgmtTx + b2n (m.2.1 == 3) }) s
  | none => s

/-- The flits that no ACK covers. -/
def unacked (p : Port) : Nat := (p.txSeq + 4096 - p.ackSeq) % 4096

/-- Send what credits and the replay buffer allow, channels in their priority, hop class 1 first (R424-R426). -/
def sendWaiting (p : Port) : Port :=
  [5, 4, 7, 6, 3, 2, 1, 0].foldl (fun p c =>
    let n := min (min (p.waiting.getD c 0) (p.credits.getD c 0)) (1024 - unacked p)
    { p with txSeq := (p.txSeq + n) % 4096, waiting := p.waiting.modify c (· - n), credits := p.credits.modify c (· - n) }) p

/-- Pack the messages sent since the last time into flits, and send those that may go. -/
def pump (s : State) : State :=
  let news := (s.sent.take (s.sent.length - s.fabric.posted)).reverse
  let s := (news.flatMap (wireOf s)).foldl postOne s
  { s with fabric := { s.fabric with posted := s.sent.length, ports := s.fabric.ports.map sendWaiting } }

/-! ### Reroute (R442) -/

/-- Send every unanswered request to a destination again, with the reissue flag, and the sync messages of this tick, which have no answer
(notes/assumptions/27.md). -/
def reissue (d : Nat) (s : State) : State :=
  let s := (s.fabric.syncSent.filter fun x => x.2.contains d).foldl (fun s x => emit (.syncAgain d x.1) s) s
  (s.fabric.outstanding.filter fun r => r.dst == d).foldl (fun s r =>
    let s := emit (.request (r.kind % 10) d r.txid true r.cache.isSome r.address r.length r.amount r.data) s
    if r.bad.isEmpty then s else emit (.answer 11 d r.txid false .ok [] r.bad) s) s

/-- Routes after a change of ports: ROUTE_CHANGED where one route takes another's place; unanswered requests go again where the old route
is gone. With `back`, ports returned, and only what had no route goes again (R445). -/
def reroute (back : Bool) (change : State → State) (s0 : State) : State :=
  let s := change (pump s0)
  let s := { s with fabric := { s.fabric with usable := (others s).filter fun d => (routeOf s d).isSome } }
  (others s).foldl (fun s d =>
    match routeOf s0 d, routeOf s d with
    | none, some _ => reissue d s
    | some old, some new =>
      if old = new then s
      else
        let s := raise 0x0805 0 (leBytes 1 d ++ leBytes 1 new.1 ++ leBytes 1 (new.2.getD 0xFF)) s
        if back then s else reissue d s
    | _, none => s) s

/-- Tell every module the state of this module's ports (R440). -/
def sendReach (removed : Bool) (s : State) : State :=
  emit (.reach { module := self s, incarnation := s.start.incarnation, removed := removed, portsUp := portsUp s }) s

/-- Routes that returning ports make available take effect (R442). -/
def restoreRoutes (s : State) : State :=
  if s.fabric.returning.isEmpty then s
  else flushEvents (reroute true (fun s => { s with fabric := { s.fabric with returning := [] } }) s)

/-! ### Ports going down (R427) -/

/-- A service state change with its event (R555). -/
def setSvcState (u : UnitId) (st : Nat) (s : State) : State :=
  if (getSvc s u).state = st then s
  else raise 0x0701 0 (leBytes 1 u.cls ++ leBytes 1 st ++ leBytes 2 u.num) (setSvc u { getSvc s u with state := st } s)

/-- A port starts to train: replay at 0, credits full, keys discarded (R425, R427, R514). -/
def retrainPort (state : Nat) (p : Port) : Port :=
  { p with
    state := state, txSeq := 0, rxSeq := 0, ackSeq := 0, replayed := 0, nakSent := false, credits := Config.creditLimits,
    seen := List.replicate 8 0, freed := List.replicate 8 0, waiting := List.replicate 8 0, keyTx := [], keyRx := [], mgmtTx := 0,
    mgmtRx := 0, authed := false, offer := [], trained := false, fresh := false, retrains := satAdd 15 p.retrains 1 }

/-- A port goes down and retrains: 0 lock loss, 1 replay limit, 2 protocol error. -/
def portDown (p cause : Nat) (s : State) : State :=
  let st := (getPort s p).state
  if st ≠ 3 ∧ st ≠ 4 then s
  else
    let s := reroute false (modPort p (retrainPort 2)) s
    emit (.retrain p) (sendReach false (raise 0x0802 1 (leBytes 1 p ++ leBytes 1 cause) s))

/-- A retrain of a port has failed: three within 10 s fail the port (R427, R537). -/
def retrainFails (p : Nat) (s : State) : State :=
  let now := s.tick.timebase
  let fails := now :: (getPort s p).failTimes.filter fun t => decide (now < t + 10000000000)
  let s := modPort p (fun x => { x with failTimes := fails }) s
  if 3 ≤ fails.length then
    setSvcState (portUnit p) 3 (raise 0x0803 2 (leBytes 1 p) (modPort p (fun x => { x with state := 5 }) s))
  else emit (.retrain p) (modPort p (retrainPort 2) s)

/-! ### FLIT, LINK_NAK, REPLAY_TIMEOUT (R420-R426, R433) -/

/-- The first discard makes one NAK with the expected SEQ. -/
def discardFlit (p : Nat) (s : State) : State :=
  if (getPort s p).nakSent then s else emit (.nak p (getPort s p).rxSeq) (modPort p (fun x => { x with nakSent := true }) s)

/-- What an accepted header gives a port: the ACK, the credits of one class. -/
def takeHeader (h : Nat) (p : Port) : Port :=
  let ack := (bits h 51 40 + 1) % 4096
  let c := bits h 21 20 * 2 + bits h 19 19
  let got := (bits h 18 11 + 256 - p.seen.getD c 0) % 256
  let moved := (ack + 4096 - p.ackSeq) % 4096
  let fresh := decide (1 ≤ moved ∧ moved ≤ unacked p)
  { p with ackSeq := if fresh then ack else p.ackSeq, replayed := if fresh then 0 else p.replayed, nakSent := false,
           seen := p.seen.set c (bits h 18 11), credits := p.credits.modify c (· + got) }

/-- A flit that belongs to another module goes out on its direct port in hop class 1 (R433). -/
def forwardFlit (d vc : Nat) (s : State) : State :=
  match directRoute s d with
  | some r => modPort r.1 (fun p => { p with waiting := p.waiting.modify (2 * vc + 1) (· + 1) }) s
  | none => s

/-- FLIT. -/
def takeFlit (p : Nat) (bytes : List Byte) (fecCorrected fecUncorrectable : Nat) (s : State) : State :=
  if (getPort s p).state ≠ 3 ∧ (getPort s p).state ≠ 4 then s
  else
    let s := modPort p (fun x => { x with
      fec := satAdd (2 ^ 32 - 1) x.fec fecCorrected, uncorr := satAdd 65535 x.uncorr fecUncorrectable }) (pump s)
    if fecUncorrectable ≠ 0 then discardFlit p s
    else if crc32 (slice bytes 0 252) ≠ BitVec.ofNat 32 (u32 bytes 252) then
      discardFlit p (modPort p (fun x => { x with crc := satAdd (2 ^ 32 - 1) x.crc 1 }) s)
    else
      let h := u64 bytes 0
      let type := bits h 25 22
      if 5 ≤ type ∨ bits h 9 8 ≠ 0 then portDown p 2 s
      else if bits h 63 52 ≠ (getPort s p).rxSeq then discardFlit p s
      else
        let s := modPort p (takeHeader h) s
        let s := if type < 2 then s
          else
            let c := bits h 27 26 * 2 + bits h 10 10
            let s := modPort p (fun x => { x with
              rxSeq := (x.rxSeq + 1) % 4096, freed := x.freed.modify c fun n => (n + 1) % 256 }) s
            if bits h 39 34 = self s then s else forwardFlit (bits h 39 34) (bits h 27 26) s
        pump s

/-- Replay from a sequence number; a flit that was replayed 8 times without an ACK takes the port down. -/
def replayFrom (p seq : Nat) (s : State) : State :=
  let x := getPort s p
  if unacked x = 0 then s
  else if 8 ≤ x.replayed then portDown p 1 s
  else
    emit (.resend p seq) (modPort p (fun x => { x with replayed := x.replayed + 1, replays := satAdd 65535 x.replays 1 }) s)

/-- LINK_NAK. -/
def takeNak (p seq : Nat) (s : State) : State :=
  if (getPort s p).state ≠ 3 ∧ (getPort s p).state ≠ 4 then s
  else
    let s := pump s
    let x := getPort s p
    let moved := (seq + 4096 - x.ackSeq) % 4096
    let s := if 1 ≤ moved ∧ moved ≤ unacked x then modPort p (fun x => { x with ackSeq := seq % 4096, replayed := 0 }) s else s
    replayFrom p (getPort s p).ackSeq s

/-- REPLAY_TIMEOUT. -/
def replayTimedOut (p : Nat) (s : State) : State :=
  if (getPort s p).state ≠ 3 ∧ (getPort s p).state ≠ 4 then s
  else let s := pump s; replayFrom p (getPort s p).ackSeq s

/-! ### Answers to this module's requests (R369, R434, R441) -/

/-- Whether a request is a read. -/
def OutReq.isRead (r : OutReq) : Bool := r.kind % 10 == 2 || r.kind % 10 == 5

/-- The status that an answer leaves with what awaits it: a poisoned read goes on, and its poison is found in the data (R436). -/
def answerStatus (r : OutReq) (st : Status) : Status := if r.isRead && st == .poisonedData then .ok else st

/-- An operation has no request left to await: it reads on, goes on to its second part, publishes its slot, writes what follows, or
ends. -/
def opGoesOn (q : Nat) (idx : U32) (r : OutReq) (o : Op) (s : State) : State :=
  let running := modOp q idx (fun o => { o with phase := .running }) s
  match o.publish with
  | some ring => if o.status = .ok then sampleAdvance q idx false (sampleVisible q idx ring s) else sampleFails q idx o.status s
  | none =>
    if r.isRead && o.status == .ok then running
    else if (getQ s q).cls = 2 ∧ hOpcode o.desc = 4 then
      encodeEnds q idx o.desc
        (if o.status = .ok ∧ (ownCheck s q o.desc).isSome = true then running else awaitOrEnd q idx s)
    else
      let s := pressEnd q idx (if o.status = .ok then awaitOrEnd q idx s else finishOp q idx o.status o.detail s)
      if r.kind = 3 ∧ 3 ≤ hOpcode o.desc ∧ [Status.ownerReset, .uncorrectable, .moduleLost].contains o.status = true then
        stopQueue q o.status s
      else s

/-- An operation receives the answer of a request that it awaits, for itself or for the wheel of one of its entries (R164). -/
def opAnswered (r : OutReq) (st : Status) (q : Nat) (idx : U32) (s : State) : State :=
  match getOp s q idx with
  | none => s
  | some o =>
    let key := (r.dst, r.txid)
    let st := answerStatus r st
    let took (f : Flight) : Flight :=
      if f.reqs.contains key then
        { f with reqs := f.reqs.filter (· != key), status := if f.status = .ok then st else f.status }
      else f
    if o.sample.flights.any fun f => f.reqs.contains key then
      sampleAdvance q idx false (modRun q idx (fun x => { x with flights := x.flights.map took }) s)
    else if !o.reqs.contains key then s
    else
      let o : Op := { o with reqs := o.reqs.filter (· != key), status := if o.status = .ok then st else o.status }
      let s := modOp q idx (fun _ => o) s
      if o.reqs.isEmpty then opGoesOn q idx r o s else s

/-- A plan unit receives the answer of a request that it awaits. -/
def unitAnswered (r : OutReq) (st : Status) (u : UnitId) (s : State) : State :=
  let bad := failsJob st
  let s := if bad then failSoon st s else s
  modUnit u (fun x =>
    let left := x.reqs.filter (· != (r.dst, r.txid))
    { x with reqs := left, waiting := !left.isEmpty, ops := if bad && r.kind == 3 then [] else x.ops }) s

/-- The head of a queue receives what its checks asked for. -/
def headAnswered (r : OutReq) (st : Status) (s : State) : State :=
  modQ r.queue (fun v => { v with blk := v.blk.map fun b =>
    if b.index = r.index then
      { b with want := b.want.filter (· != (.remote r.dst r.address, r.length)),
               status := if st = .ok ∨ st = .poisonedData then b.status else st }
    else b }) s

/-- The number under which a settings command's requests are noted; queues end at 4,095 and units at 5,887. -/
def commandQueue : Nat := 8192

/-- A settings command receives the answer of one of its reads (R158). -/
def commandAnswered (r : OutReq) (st : Status) (s : State) : State :=
  { s with fmw := { s.fmw with running := s.fmw.running.map fun (x : Running) =>
    { x with reqs := x.reqs.filter (· != (r.dst, r.txid)),
             status := if x.status = .ok ∧ st ≠ .poisonedData then st else x.status } } }

/-- The operations that await a request: the one that sent it, and those whose misses it serves too (R224). -/
def awaitingOps (s : State) (r : OutReq) : List (Nat × U32) :=
  let key := (r.dst, r.txid)
  s.queues.flatMap fun e =>
    (e.2.ops.filter fun o => o.reqs.contains key || o.sample.flights.any fun f => f.reqs.contains key).map fun o => (e.1, o.index)

/-- The plan units that await a request. -/
def awaitingUnits (s : State) (r : OutReq) : List UnitId :=
  match s.plan.job with
  | none => []
  | some j => (j.units.filter fun x => x.reqs.contains (r.dst, r.txid)).map (·.unit)

/-- The lines that a cacheable read of another module has brought enter its die's cache (R307). -/
def cacheAnswer (r : OutReq) (st : Status) (s : State) : State :=
  match if answerStatus r st = .ok then r.cache else none with
  | some die => fillLines die (.remote r.dst r.address) r.length s
  | none => s

/-- The first answer to a request is accepted; it is unanswered no longer, and whatever awaits it goes on. -/
def answered (r : OutReq) (st : Status) (s : State) : State :=
  let s := { s with fabric := { s.fabric with
    outstanding := s.fabric.outstanding.filter fun x => !(x.dst == r.dst && x.txid == r.txid) } }
  let s := cacheAnswer r st s
  if r.queue = commandQueue then commandAnswered r st s
  else
    let ops := awaitingOps s r
    let units := awaitingUnits s r
    let s := ops.foldl (fun s w => opAnswered r st w.1 w.2 s) s
    let s := units.foldl (fun s u => unitAnswered r st u s) s
    wake (if ops.isEmpty && units.isEmpty then headAnswered r st s else s)

/-- The unanswered request of a txid, if its kind is one of those given. -/
def findReq (s : State) (dst txid : Nat) (kinds : List Nat) : Option OutReq :=
  s.fabric.outstanding.find? fun r => r.dst == dst && r.txid == txid && kinds.contains r.kind

/-- COMPLETION (R434, R441). -/
def takeCompletion (src txid : Nat) (st : Status) (s : State) : State :=
  match findReq s src txid [1, 4] with
  | some r => answered r st s
  | none => s

/-- COUNTER_RESULT (R369). -/
def takeCounterResult (src txid : Nat) (st : Status) (s : State) : State :=
  match findReq s src txid [3] with
  | some r => answered r st s
  | none => s

/-- READ_DATA (R434, R436): the data is here; with a poison map to follow the answer is whole once the map is. -/
def takeReadData (src txid : Nat) (st : Status) (data : List Byte) (mapFollows : Bool) (s : State) : State :=
  match findReq s src txid [2, 5] with
  | none => s
  | some r =>
    let k := viewKey src r.address
    let s := if st = .ok ∨ st = .poisonedData then
        { s with fabric := { s.fabric with
          view := bwrite s.fabric.view k (data.take r.length), viewPoison := poisonAfter s.fabric.viewPoison k r.length [] } }
      else s
    if mapFollows then
      { s with fabric := { s.fabric with outstanding := s.fabric.outstanding.map fun x =>
          if x.dst = src ∧ x.txid = txid then { x with kind := x.kind + 10 } else x } }
    else answered r st s

/-- POISON_MAP (R436). -/
def takePoisonMap (src txid : Nat) (words : List Nat) (s : State) : State :=
  match findReq s src txid [12, 15] with
  | none => s
  | some r =>
    let k := viewKey src r.address / 32
    answered r .poisonedData { s with fabric := { s.fabric with viewPoison := saddAll s.fabric.viewPoison (words.map (k + ·)) } }

/-! ### Requests of other modules (R434-R436, R441) -/

/-- Whether a message can have come from a module: another one of the configuration. -/
def fromModule (s : State) (m : Nat) : Bool := m != self s && inConfig s m

/-- Serve a request once: a reissue of one that is in the record is answered from it, or waits for the original. -/
def serveOnce (kind : Nat) (light : Bool) (m : Txn) (run : State → State × Option (Status × List Byte × List Nat)) (s : State) : State :=
  if !fromModule s m.src then s
  else
    match if m.reissue then s.fabric.records.find? fun r => r.src == m.src && r.txid == m.txid && r.kind != 0 else none with
    | some r => if r.done then emit (.answer r.kind m.src m.txid true r.status r.data r.poison) s else s
    | none =>
      let rec0 : TxnRecord :=
        { src := m.src, txid := m.txid, done := false, kind := kind, status := .ok, data := [], poison := [], light := light }
      let keep := s.fabric.records.filter fun r => !(r.src == m.src && r.txid == m.txid && r.kind != 0)
      let r := run { s with fabric := { s.fabric with records := keep ++ [rec0] } }
      match r.2 with
      | none => r.1
      | some (st, data, bad) =>
        let s := { r.1 with fabric := { r.1.fabric with records := r.1.fabric.records.map fun x =>
          if x.src = m.src ∧ x.txid = m.txid ∧ x.kind ≠ 0 then { x with done := true, status := st, data := data, poison := bad } else x } }
        wake (emit (.answer kind m.src m.txid false st data bad) s)

/-- Whether a request names memory of this module that it may reach (R303, R434). -/
def requestOk (m : Txn) (limit : Nat) : Bool :=
  decide (1 ≤ m.length ∧ m.length ≤ limit ∧ reservedEnd ≤ m.address ∧ m.address + m.length ≤ hbmBytes)

/-- A write of another module, of at most `limit` bytes. -/
def serveWrite (limit : Nat) (m : Txn) (data : List Byte) (bad : List Nat) (s : State) : State :=
  serveOnce 8 (limit == 256) m (fun s =>
    if !requestOk m limit then (s, some (.invalidArgument, [], []))
    else
      let flags := (List.range m.length).map fun i => bad.contains ((m.address + i) / 32 - m.address / 32)
      (writeHbm m.address (padTo m.length data) flags s, some (if bad.isEmpty then .ok else .poisonedData, [], []))) s

/-- A read of another module, of at most `limit` bytes. -/
def serveRead (limit : Nat) (m : Txn) (s : State) : State :=
  serveOnce 9 (limit == 256) m (fun s =>
    if !requestOk m limit then (s, some (.invalidArgument, [], []))
    else
      let s := touchHbm Who.none m.address m.length s
      let bad := ((wordsOf m.address m.length).filter s.poison.contains).map fun w => w - m.address / 32
      (s, some (if bad.isEmpty then .ok else .poisonedData, bread s.hbm m.address m.length, bad))) s

/-- A counter operation of another module. -/
def serveCounter (m : Txn) (operation : Nat) (s : State) : State :=
  serveOnce 10 false m (fun s =>
    let r := remoteCounterOp m.src m.txid operation (m.address % 65536) (BitVec.ofNat 32 m.amount) s
    (r.1, r.2.map fun st => (st, [], []))) s

/-- RECORD_EXPIRY of a request's answer, or of a sync message. -/
def dropRecord (src : Nat) (key : RecKey) (s : State) : State :=
  let named (r : TxnRecord) : Bool := match key with
    | .txn txid => r.txid == txid && r.kind != 0
    | .sync id => r.txid == id && r.kind == 0
  { s with fabric := { s.fabric with records := s.fabric.records.filter fun r => !(r.src == src && named r && r.done) } }

/-! ### Sync messages (R438, R441) -/

/-- A sync message that has been applied enters the record. -/
def noteSync (src id : Nat) (s : State) : State :=
  { s with fabric := { s.fabric with records := s.fabric.records ++
    [{ src := src, txid := id, done := true, kind := 0, status := .ok, data := [], poison := [], light := false }] } }

/-- A sync message that the record holds has been applied. -/
def syncSeen (s : State) (src id : Nat) : Bool := s.fabric.records.any fun r => r.src == src && r.txid == id && r.kind == 0

/-- Receive a sync message of another module: it is applied once. -/
def receiveSync (src id : Nat) (k : State → State) (s : State) : State :=
  if !fromModule s src || syncSeen s src id then s else k (noteSync src id s)

/-! ### Lost and returning modules (R443) -/

/-- The end of an unanswered request to a lost module: the bytes that a read would have brought are undefined; an operation that waits at
a counter there is released with MODULE_LOST. -/
def loseRequest (st : Status) (r : OutReq) (s : State) : State :=
  let s := (awaitingOps s r).foldl (fun s w => match getOp s w.1 w.2 with
    | some o =>
      if r.isRead && o.reqs.contains (r.dst, r.txid) then (opOutputs s w.1 o).foldl (fun s x => scramble x.1 x.2 s) s else s
    | none => s) s
  answered r (if r.kind = 3 ∧ 3 ≤ r.address / 65536 then .moduleLost else st) s

/-- A module is lost: 0 reset, 1 removed, 2 no route. -/
def loseModule (m cause : Nat) (s : State) : State :=
  if !fromModule s m || s.fabric.lost.contains m then s
  else
    let st : Status := if cause = 2 then .moduleUnreachable else .moduleLost
    let s := { s with fabric := { s.fabric with
      lost := sadd s.fabric.lost m, noRoute := if cause = 2 then sadd s.fabric.noRoute m else sdel s.fabric.noRoute m } }
    let s := (s.fabric.outstanding.filter fun r => r.dst == m).foldl (fun s r => loseRequest st r s) s
    let s := withdraw (fun w => match w with
      | .remote x _ => x == m
      | _ => false) s
    let s := { s with fabric := { s.fabric with records := s.fabric.records.filter fun r => r.src != m || (r.done && r.kind != 0) } }
    let s := if (planInForce s).any fun p => p.domain.contains m then failSoon .moduleLost s else s
    let s := { s with tick := { s.tick with
      heldPeers := s.tick.heldPeers.filter (· != m), requests := s.tick.requests.filter fun r => r.module != m,
      hold := s.tick.hold.map fun (h : Hold) => { h with peers := h.peers.filter (· != m) } } }
    let s := s.fmw.forwards.foldl (fun (s : State) (f : Forwarding) =>
      if f.awaited.contains m then
        settleForward { f with awaited := f.awaited.filter (· != m), results := aset f.results m st } s
      else s) s
    raise 0x0806 2 (leBytes 1 m ++ leBytes 1 cause) (wake s)

/-- A lost module is back with a new incarnation. -/
def joinModule (m : Nat) (s : State) : State :=
  if s.fabric.lost.contains m then
    raise 0x0807 0 (leBytes 1 m) { s with fabric := { s.fabric with lost := sdel s.fabric.lost m, noRoute := sdel s.fabric.noRoute m } }
  else s

/-- Note an incarnation: a new one for a known module means that it has reset. The state, and whether it is new. -/
def noteIncarnation (m inc : Nat) (s : State) : State × Bool :=
  let known := mget s.fabric.incarnations m
  let new := known.isSome && known != some inc
  let s := if new then loseModule m 0 s else s
  ({ s with fabric := { s.fabric with incarnations := mput s.fabric.incarnations m inc } }, new)

/-- NO_ROUTE_TIMEOUT. -/
def noRouteFor (m : Nat) (s : State) : State := if (routeOf s m).isNone then loseModule m 2 s else s

/-! ### Training and authentication (R430, R514) -/

/-- The owner slot hashes that are programmed and not revoked. -/
def ownerSet (s : State) : List (List Byte) :=
  [1, 2, 3].filterMap fun n => if s.fuses.revoked.getD n false then none else s.fuses.hashes.getD n none

/-- The bytes of an establishment message that its sender signs. -/
def linkMessage (m : LinkAuth) : List Byte := m.keyMaterial ++ leBytes 1 m.lifecycle ++ m.owners.flatten

/-- An establishment message of this module. -/
def ownLinkMessage (s : State) (key : List Byte) : LinkAuth :=
  let m : LinkAuth := { certificate := match s.cave.certificate with
                          | .ok _ c => c
                          | _ => [],
                        peerKey := identityPublic s, lifecycle := lifecycle s, owners := ownerSet s, keyMaterial := key, signature := [] }
  { m with signature := signIdentity s "IZ2 LINK" (linkMessage m) }

/-- The check that a peer's message fails, if it fails one. -/
def linkFails (s : State) (m : LinkAuth) : Option Nat :=
  let set := ownerSet s
  match Config.certificateKey m.certificate with
  | none => some 0
  | some k =>
    if !Config.dsaVerify k "IZ2 LINK" (linkMessage m) m.signature then some 1
    else if !(set.all m.owners.contains && m.owners.all set.contains) then some 2
    else
      let live (n : Nat) : Bool := n == 1 || n == 2
      if (live (lifecycle s) && live m.lifecycle) || (lifecycle s == 0 && m.lifecycle == 0) then none else some 3

/-- The two link keys from the shared key and the signed messages. -/
def linkKeys (k offer reply : List Byte) : List Byte × List Byte :=
  let out := kmac256 k (sha3_256 (offer ++ reply)) 64 "IZ2 LINK KEYS"
  (out.take 32, out.drop 32)

/-- PORT_TRAINING_COMPLETE. -/
def portTrained (p : Nat) (t : Training) (s : State) : State :=
  if (getPort s p).state ≠ 2 then s
  else if !t.ok then retrainFails p s
  else
    let cfg := s.fabric.topology.configId
    if t.configId ≠ cfg ∨ peerOf s.fabric.topology (self s) p ≠ some (t.peerModule, t.peerPort) then
      raise 0x0804 2 (leBytes 1 p ++ leBytes 1 t.peerModule ++ leBytes 1 t.peerPort ++ leBytes 1 (b2n (t.configId != cfg)))
        (modPort p (fun x => { x with state := 6 }) s)
    else
      let r := noteIncarnation t.peerModule t.incarnation s
      let s := modPort p (fun x => { x with peerModule := t.peerModule, peerPort := t.peerPort, trained := true, fresh := r.2 }) r.1
      if self s < t.peerModule then
        let seed := s.free
        let m := ownLinkMessage s (Config.kemPublic seed)
        emit (.linkAuth p m) (modPort p (fun x => { x with seed := seed, offer := linkMessage m }) { s with free := s.free + 1 })
      else s

/-- A port has authenticated and comes up: its routes take effect at the next boundary; a drained one stays idle. -/
def portComesUp (p : Nat) (tx rx : List Byte) (s : State) : State :=
  let m := (getPort s p).peerModule
  let inService := (getSvc s (portUnit p)).state == 0
  let fresh := (getPort s p).fresh
  let s := modPort p (fun x => { x with
    state := if inService then 3 else 4, keyTx := tx, keyRx := rx, authed := true, fresh := false }) s
  let s := if inService then { s with fabric := { s.fabric with returning := sadd s.fabric.returning (linkKey (self s) p) } } else s
  let s := raise 0x0801 0 (leBytes 1 p ++ leBytes 1 m ++ leBytes 1 (getPort s p).peerPort) s
  sendReach false (if fresh then joinModule m s else s)

/-- A peer fails its authentication (R514). -/
def peerFails (p reason : Nat) (s : State) : State :=
  raise 0x0604 2 (leBytes 1 p ++ leBytes 1 reason) (modPort p (fun x => { x with state := 6 }) s)

/-- Whether a port awaits an establishment message, at the end given: the initiator is the lower-numbered module. -/
def awaitsAuth (s : State) (p : Nat) (initiator : Bool) : Bool :=
  (getPort s p).state == 2 && (getPort s p).trained && decide (self s < (getPort s p).peerModule) == initiator

/-- LINK_AUTH_OFFER at the responder. -/
def linkOffered (p : Nat) (m : LinkAuth) (s : State) : State :=
  if !awaitsAuth s p false then s
  else
    match linkFails s m with
    | some r => peerFails p r s
    | none =>
      let kem := Config.kemEncaps m.keyMaterial s.free
      let reply := ownLinkMessage s kem.1
      let keys := linkKeys kem.2 (linkMessage m) (linkMessage reply)
      portComesUp p keys.2 keys.1 (emit (.linkAuth p reply) { s with free := s.free + 1 })

/-- LINK_AUTH_REPLY at the initiator. -/
def linkReplied (p : Nat) (m : LinkAuth) (s : State) : State :=
  if !awaitsAuth s p true then s
  else
    match linkFails s m, Config.kemDecaps (getPort s p).seed m.keyMaterial with
    | some r, _ => peerFails p r s
    | none, none => peerFails p 1 s
    | none, some k =>
      let keys := linkKeys k (getPort s p).offer (linkMessage m)
      portComesUp p keys.1 keys.2 s

/-! ### Management messages (R440, R515) -/

/-- The tag of a management message. -/
def mgmtTag (key message : List Byte) (counter : Nat) : List Byte := kmac128 key (message ++ leBytes 8 counter) 16 "IZ2 LINK MSG"

/-- Receive a management message: a good one goes on with `k`; a wrong tag or counter discards it and takes the port down. -/
def receiveMgmt (a : MgmtAuth) (k : State → State) (s : State) : State :=
  let p := getPort s a.port
  if !p.authed then s
  else if mgmtTag p.keyRx a.message a.counter = a.tag ∧ p.mgmtRx < a.counter then
    k (modPort a.port (fun x => { x with mgmtRx := a.counter }) s)
  else portDown a.port 2 (raise 0x0605 2 (leBytes 1 a.port) s)

/-- REACHABILITY_UPDATE (R442, R443). -/
def takeReach (r : Reach) (s : State) : State :=
  if !fromModule s r.module then s
  else
    let n := noteIncarnation r.module r.incarnation s
    let s := if r.removed then loseModule r.module 1 n.1 else n.1
    let old := mgetD s.fabric.portsUp r.module []
    let added := r.portsUp.filter fun p => !old.contains p
    let s := reroute false (fun s => { s with fabric := { s.fabric with
      portsUp := mput s.fabric.portsUp r.module r.portsUp,
      returning := saddAll s.fabric.returning (added.map (linkKey r.module)) } }) s
    if n.2 && !r.portsUp.isEmpty && !r.removed then joinModule r.module s else s

end Sys2Proof.Machine
end

