-- ==== Sys2Proof/Machine/Service.lean ====
section
/-!
DEFINITION. Service of units: drain, return, test; plan replacement; vat ageing; recalibration (R54, R446, R533-R542, R549, R554).
-/

namespace Sys2Proof.Machine

/-! ### Units (R533) -/

/-- The numbers of a class. -/
def unitNumbers : Nat → Nat
  | 0 => 160
  | 1 => 16
  | 2 => 8
  | 3 => 72
  | 4 => 4
  | 5 => 24
  | _ => 0

/-- The unit that a service command names (R534). -/
def unitOf (p : List Byte) : UnitId := { cls := u8 p 0, num := u16 p 2 }

/-- Whether a plan set names a unit. -/
def planNames (s : State) (u : UnitId) (planSet : Nat) : Bool := (planSetOf s planSet).any fun p => p.units.contains u

/-- Whether the plan set in force, or one that awaits its start, names a unit. -/
def inPlan (s : State) (u : UnitId) : Bool :=
  (s.plan.job.any fun j => planNames s u j.planSet) || s.plan.waiting.any fun r => planNames s u r.planSet

/-- Whether a draining unit holds no work (R533, R535). -/
def unitIdle (s : State) (u : UnitId) : Bool :=
  match u.cls with
  | 0 => !held s (groupUnit (u.num / 10))
  | 1 => (getEngine s u.num).ctxs.isEmpty && (encodingOn s u.num).isEmpty
  | 3 => !held s u
  | 4 => ((s.press[u.num]?).map (·.job.isNone)).getD true
  | 5 => (getPort s u.num).drainWaits.all fun r => (s.fabric.outstanding.all fun o => !(o.dst == r.1 && o.txid == r.2))
  | _ => true

/-- Finish the settings command that runs, if it has an opcode and names a unit. -/
def finishUnitCmd (opcode : Nat) (u : UnitId) (st : Status) (s : State) : State :=
  match s.fmw.running with
  | some r => if r.cmd.opcode = opcode ∧ unitOf r.cmd.payload = u then finishCmd r.cmd st r.steps [] (endTurn s) else s
  | none => s

/-! ### Drain (R535, R446) -/

/-- UNIT_DRAIN: its mailbox stays BUSY until the unit is drained. -/
def hUnitDrain : Handler := fun c s =>
  let u := unitOf c.payload
  let v := getSvc s u
  if v.state ≠ 0 ∨ v.pend ≠ 0 then deny .unitState s
  else if u.cls ≠ 5 ∧ inPlan s u = true then deny .planUnfit s
  else .later (setSvc u { v with pend := 1 } s)

/-- UNIT_DRAIN_EFFECT: the unit takes no new work; a port leaves every route. -/
def drainUnit (u : UnitId) (s : State) : State :=
  let v := getSvc s u
  if v.pend ≠ 1 then s
  else
    let set (s : State) : State := setSvcState u 1 (setSvc u { v with pend := 0 } s)
    if u.cls = 5 then
      let flight := (s.fabric.outstanding.filter fun r => (routeOf s r.dst).any fun x => x.1 == u.num).map fun r => (r.dst, r.txid)
      sendReach false (reroute true set (modPort u.num (fun p => { p with drainWaits := flight }) s))
    else set s

/-- UNIT_DRAINED: the unit holds no work any more; vats, Whey engines and range coding engines are power-gated. The last port that a
module drains removes the module. -/
def unitDrained (u : UnitId) (s : State) : State :=
  if (getSvc s u).state ≠ 1 ∨ unitIdle s u = false then s
  else
    let s := setSvcState u 2 s
    let s := match u.cls with
      | 0 => gateVats [u.num] s
      | 5 => sendReach (portsUp s).isEmpty (modPort u.num (fun p => { p with state := if p.state = 3 then 4 else p.state, drainWaits := [] }) s)
      | _ => s
    finishUnitCmd 0x0801 u .ok s

/-! ### Return (R536) -/

/-- UNIT_RETURN: the test begins; a port retrains. -/
def hUnitReturn : Handler := fun c s =>
  let u := unitOf c.payload
  let v := getSvc s u
  if (v.state ≠ 2 ∧ v.state ≠ 3) ∨ v.pend ≠ 0 then deny .unitState s
  else
    let s := setSvc u { v with pend := 3 } s
    .later (if u.cls = 5 then emit (.retrain u.num) (modPort u.num (retrainPort 2) s) else s)

/-- The test of a range coding engine rewrites both banks of its table SRAM (R536). -/
def testRewrites (u : UnitId) (s : State) : State := if u.cls = 1 then tableWritten (· == u.num) (fun _ => true) s else s

/-- UNIT_TEST_COMPLETE: a pass makes the return due and ends the command; a failure fails the unit and marks it suspect. A port passes
only if it has trained and authenticated. -/
def unitTested (u : UnitId) (pass : Bool) (stage : Nat) (s : State) : State :=
  let v := getSvc s u
  if v.pend ≠ 3 then s
  else if pass && (u.cls != 5 || (getPort s u.num).state == 4) then
    let s := setSvc u { v with pend := 2 } (testRewrites u s)
    finishUnitCmd 0x0802 u .ok (if u.cls = 1 then modEngine u.num (fun e => { e with offline := false }) s else s)
  else
    let s := setSvcState u 3 (setSvc u { v with pend := 0 } (testRewrites u s))
    let s := if u.cls = 5 then modPort u.num (fun p => { p with state := 5 }) s else s
    finishUnitCmd 0x0802 u .uncorrectable
      (suspect u 2 (raise 0x0702 2 (leBytes 1 u.cls ++ leBytes 1 stage ++ leBytes 2 u.num) s))

/-- UNIT_RETURN_EFFECT: the unit is in service again; a port rejoins the routes. -/
def returnUnit (u : UnitId) (s : State) : State :=
  let v := getSvc s u
  if v.pend ≠ 2 then s
  else
    let set (s : State) : State := setSvcState u 0 (setSvc u { v with pend := 0, suspect := false } s)
    if u.cls = 5 then
      sendReach false (reroute true (fun s => modPort u.num (fun p => { p with state := if p.state = 4 then 3 else p.state }) (set s)) s)
    else set s

/-- The drains and returns that are due at a boundary. -/
def changeUnits (s : State) : State := (s.svc.map (·.1)).foldl (fun s u => returnUnit u (drainUnit u s)) s

/-! ### PLAN_SET_REPLACE (R539, R540) -/

/-- Whether a replacement matches the running plan set. -/
def sameShape (a b : PlanSet) : Bool :=
  (a.variants.head?.map (·.digest)) == (b.variants.head?.map (·.digest)) && a.domain == b.domain && a.period == b.period &&
  a.stepCount == b.stepCount && a.swaps == b.swaps && a.persistent == b.persistent && a.layoutDigest == b.layoutDigest

def hPlanReplace : Handler := fun c s =>
  let p := c.payload
  match s.plan.job with
  | none => deny .queueState s
  | some j =>
    if j.queue ≠ u16 p 0 ∨ j.planSet ≠ u32 p 4 then deny .queueState s
    else
      match planSetOf s j.planSet, planSetOf s (u32 p 8) with
      | some a, some b =>
        if !sameShape a b then deny .planInvalid s
        else if planUnfit s b then deny .planUnfit s
        else if 1 < a.domain.length ∧ isHead s = false then deny .invalidArgument s
        else
          .done .ok (leBytes 8 (headTick s (effTick s)))
            ((a.domain.filter (· != self s)).foldl (fun s m => emit (.replacePlan m (u32 p 8) (headTick s (effTick s))) s)
              { s with plan := { s.plan with replace := some { newSet := u32 p 8, earliest := effTick s } } })
      | _, _ => deny .invalidArgument s

/-! ### Vat ageing (R54, R541) -/

/-- Whether an installed variant plans a vat above a maximum. -/
def plannedAbove (s : State) (vat step : Nat) : Bool :=
  s.packages.any fun k => k.planSets.any fun p => p.2.variants.any fun v =>
    v.planned.any fun x => x.1 == vat && decide (vatMhz step < x.2)

def ageingEvent (vat step severity hours : Nat) (s : State) : State :=
  raise 0x0704 severity (leBytes 2 vat ++ leBytes 1 step ++ [0] ++ leBytes 4 hours) s

/-- The ageing entry of a vat replaced. -/
def setAgeing (a : Ageing) (s : State) : State := { s with ageing := (s.ageing.filter fun x => x.vat != a.vat) ++ [a] }

/-- VAT_AGEING_CHECK: the highest maximum at which a vat keeps its margin is a step. A deadline of 0 marks a lowering that no installed
variant forbids. -/
def checkAgeing (vat step : Nat) (s : State) : State :=
  if vatMax s vat ≤ step ∨ 160 ≤ vat then s
  else if !plannedAbove s vat step then setAgeing { vat := vat, step := step, deadline := 0, due := true } s
  else
    match s.ageing.find? fun a => a.vat == vat with
    | some a => if a.due || a.step ≤ step then s
      else ageingEvent vat step 1 ((a.deadline - s.tick.timebase) / 3600000000000) (setAgeing { a with step := step } s)
    | none =>
      ageingEvent vat step 1 720
        (setAgeing { vat := vat, step := step, deadline := s.tick.timebase + 720 * 3600000000000, due := false } s)

/-- VAT_AGEING_DEADLINE: the 720 hours have passed. -/
def ageingDeadline (vat : Nat) (s : State) : State :=
  { s with ageing := s.ageing.map fun a => if a.vat = vat then { a with due := true } else a }

/-- CURRENT is lowered, and the cave's record with it: only the maxima differ from the record before. -/
def lowerVat (a : Ageing) (s : State) : State :=
  let maxima := s.fmw.settings.maxima.set a.vat (min (vatMax s a.vat) a.step)
  let prev := ((present s.cave.settingsA s.cave.settingsB).map (·.2)).getD (Settings.factory s.fuses.fused)
  let w := writeCopy s.cave.settingsA s.cave.settingsB { prev with maxima := maxima }
  let s := { s with fmw := { s.fmw with settings := { s.fmw.settings with maxima := maxima } },
                    cave := { s.cave with settingsA := w.1, settingsB := w.2 },
                    ageing := s.ageing.filter fun x => x.vat != a.vat }
  let above := (planInForce s).any fun p => p.variants.any fun v =>
    v.planned.any fun x => x.1 == a.vat && decide (vatMhz a.step < x.2)
  let s := if above then modJob (fun j => { j with stopping := some .planUnfit }) s else s
  ageingEvent a.vat a.step (if a.deadline = 0 then 0 else 2) 0 s

/-- The lowerings that are due at a boundary. -/
def lowerVats (s : State) : State := (s.ageing.filter (·.due)).foldl (fun s a => lowerVat a s) s

/-! ### RECALIBRATE (R542) -/

/-- RECALIBRATE starts; it keeps its mailbox BUSY until its measurement ends (notes/assumptions/24.md). -/
def hRecalibrate : Handler := fun c s =>
  let scope := u8 c.payload 0
  let unit := u16 c.payload 2
  let ok := match scope with
    | 0 => true
    | 1 => (getSvc s { cls := 0, num := unit }).state == 2
    | 2 => s.plan.job.isNone && s.plan.waiting.isEmpty
    | _ => (getSvc s (portUnit unit)).state == 2
  if 3 < scope then deny .invalidArgument s
  else if !ok then deny .unitState s
  else .later (modPower (fun p => { p with recalibrating := true }) s)

/-- The calibration that a measurement of a scope gives, none where it fails or falls outside its limits. -/
def measured (s : State) (scope : Nat) : Option Calibration :=
  let m (i : Nat) := Config.measure s.free i
  let c : Calibration :=
    if scope = 2 then { s.power.calibration with mv := (List.range 15).map (fun p => m (2 + p)) ++ [550] }
    else { s.power.calibration with weights := m 1 }
  if m 0 = 0 ∧ calibrationOk c = true then some c else none

/-- The measurement ends: the record is written to the cave before the command completes. -/
def endRecalibrate (r : Running) (s : State) : State :=
  let scope := u8 r.cmd.payload 0
  let unit := u16 r.cmd.payload 2
  let res := measured s scope
  let step := Config.measure s.free 17 % 5
  let s := endTurn { modPower (fun p => { p with recalibrating := false }) s with free := s.free + 1 }
  match res with
  | none => finishCmd r.cmd .uncorrectable r.steps [] s
  | some c =>
    let w := writeCopy s.cave.calibrationA s.cave.calibrationB c
    let s := { s with cave := { s.cave with calibrationA := w.1, calibrationB := w.2 } }
    let s := modPower (fun p => { p with calibration := c, guardMw := if scope = 0 then 0 else p.guardMw }) s
    let s := if scope = 1 then checkAgeing unit step s else s
    finishCmd r.cmd .ok r.steps [] (raise 0x0708 0 (leBytes 1 scope ++ [0] ++ leBytes 2 unit) s)

/-- Whether RECALIBRATE of scope 2 suspends admission. -/
def recalHolds (s : State) : Bool :=
  s.power.recalibrating && s.fmw.running.any fun r => r.cmd.opcode == 0x0803 && u8 r.cmd.payload 0 == 2

end Sys2Proof.Machine
end

