-- ==== Sys2Proof/Machine/Boundary.lean ====
section
/-!
DEFINITION. The tick: the boundary sequence, holds, variants, operating points, skips and alignment (R42-R67, R307, R438, R439,
R470-R479, R489, R492, R561, R579).
-/

namespace Sys2Proof.Machine

def modTick (f : Tick → Tick) (s : State) : State := { s with tick := f s.tick }

/-! ### Units that are late (R58-R60) -/

/-- The modules of the running job's domain other than this one. -/
def jobPeers (s : State) : List Nat := match s.plan.job with
  | some j => domainPeers s j.planSet
  | none => []

/-- The tick work that has not finished: what the boundary finds late, and units that still have work to do. -/
def lateUnits (s : State) : List LateUnit :=
  let stuck : List UnitId := match s.plan.job with
    | some j => (j.units.filter fun (r : UnitRun) => !r.ops.isEmpty).map (fun (r : UnitRun) => r.unit)
    | none => []
  s.tick.late ++ (stuck.filter fun u => !s.tick.late.any fun l => l.unit == u).map fun u => { unit := u, ns := 0 }

/-- TICK_OVERRUN for one unit: the event, the counts, the suspicion (R58, R537, R549). A unit whose lateness no event has named is late
until this module's RELEASE. -/
def overrunUnit (h : Hold) (s : State) (l : LateUnit) : State :=
  let ns := if l.ns = 0 then h.released - h.since else l.ns
  let s := raise 0x0101 2 (leBytes 4 h.planSet ++ leBytes 2 h.step ++ leBytes 2 (l.unit.cls * 4096 + l.unit.num) ++ leBytes 8 ns) s
  let s := modTick (fun t => { t with overruns := satAdd (2 ^ 32 - 1) t.overruns 1 }) s
  suspect l.unit 0 (setSvc l.unit { getSvc s l.unit with overruns := satAdd 65535 (getSvc s l.unit).overruns 1 } s)

/-- The overruns of the closed tick, which its boundary reports with the tick's other events (R58, R64). -/
def reportOverruns (s : State) : State :=
  match s.tick.hold with
  | some h => if s.tick.allAdmitted then h.units.foldl (overrunUnit h) s else s
  | none => s

/-- When the next boundary is scheduled: the last one plus the tick length, moved by the slew of the timebase under alignment mode 1 and to
the sync edge under mode 2 (R43, R47, R579). -/
def nextBoundary (s : State) : Nat := ((s.tick.last + tickLength s : Int) + s.tick.edge.getD 0 - s.tick.slew).toNat

/-- Step 1 of R64 where work is late or a peer holds: the boundary is held. -/
def beginHold (own : Bool) (s : State) : State :=
  let h : Hold := { since := nextBoundary s, own := own, peers := s.tick.heldPeers,
                    cause := if own then self s else s.tick.heldPeers.headD ((s.tick.released.map (·.2)).getD 0),
                    units := if own && s.tick.heldPeers.isEmpty then lateUnits s else [],
                    planSet := (s.plan.job.map (·.planSet)).getD 0, step := (s.plan.job.map (·.step)).getD 0,
                    lastRelease := (s.tick.released.map (·.1)).getD 0, released := 0 }
  let s := if own then sendSync (jobPeers s) (.hold · (headTick s s.tick.count)) s else s
  modTick (fun t => { t with hold := some h, state := 2 }) s

/-- Whether a hold has ended: nothing of this module is late, and 2 µs have passed since the last RELEASE (R59). -/
def holdOver (now : Nat) (h : Hold) : Bool := !h.own && h.peers.isEmpty && decide (h.lastRelease + 2000 ≤ now)

/-- This module's own part of a hold ends: RELEASE is sent (R59). -/
def releaseHold (now : Nat) (s : State) : State :=
  match s.tick.hold with
  | none => s
  | some h =>
    if h.own then
      sendSync (jobPeers s) (.release · (headTick s s.tick.count))
        (modTick (fun t => { t with hold := some { h with own := false, lastRelease := max h.lastRelease now, released := now } }) s)
    else s

/-- LATE_WORK_COMPLETE (R59, R472). -/
def lateWorkDone (now : Nat) (railsReady : Bool) (s : State) : State :=
  let s := wake (modTick (fun t => { t with late := [] }) (atTime now s))
  if unitsDone s && (railsReady || causeActive s) then releaseHold now s else s

/-- HOLD of a member for the boundary that this module has next (R59). -/
def takeHold (src tick : Nat) (s : State) : State :=
  if !fromModule s src || tick != headTick s s.tick.count then s
  else
    match s.tick.hold with
    | some h => modTick (fun t => { t with hold := some { h with peers := sadd h.peers src } }) s
    | none => modTick (fun t => { t with heldPeers := sadd t.heldPeers src }) s

/-- RELEASE of a member (R59). -/
def takeRelease (src tick now : Nat) (s : State) : State :=
  if !fromModule s src || tick != headTick s s.tick.count then s
  else
    let s := atTime now s
    match s.tick.hold with
    | some h =>
      modTick (fun t => { t with hold := some { h with
        peers := h.peers.filter (· != src), lastRelease := if h.peers.contains src then max h.lastRelease now else h.lastRelease } }) s
    | none =>
      if s.tick.heldPeers.contains src then
        modTick (fun t => { t with heldPeers := t.heldPeers.filter (· != src), released := some (now, src) }) s
      else s

/-- HOLD_LIMIT (R61): a hold longer than 4 tick lengths fails the plan job. -/
def holdLimit (now : Nat) (s : State) : State :=
  let s := atTime now s
  match s.tick.hold with
  | some h => if h.since + 4 * tickLength s < now then releaseHold now (failJob .tickOverrun s) else s
  | none => s

/-! ### Steps 2 and 3 of R64 -/

/-- The reason to which the stretch of the closed tick goes: that of the request that forced it (R62, R479). -/
def stretchReason (s : State) : Nat :=
  if s.tick.stretchCause = self s then (if s.tick.stretchReason = 0 then 2 else s.tick.stretchReason) else 8

/-- The module that a throttle record names. -/
def runCause (s : State) (reasons : Nat) : Nat :=
  if bit reasons 7 then s.tick.stretchCause else if bit reasons 6 then headModule s else self s

/-- Step 2: the closed tick is charged and reported, and TICK_COUNT increments (R42, R60, R63, R479, R492). -/
def closeTick (now : Nat) (s : State) : State :=
  let t := s.tick
  let skipped := t.state == 3 || (t.skipping && t.hold.isSome && !t.worked)
  let elapsed := now - t.last
  let heldFor := (t.hold.map fun h => now - h.since).getD 0
  let base := t.period * 10000
  let droop := (s.power.droops.map (·.added)).foldl max 0
  let s := addBelow now s
  let s := if skipped then addLost 3 elapsed s
    else
      let s := addLost (stretchReason s) (tickLength s - base) s
      match t.hold with
      | some h => if h.cause = self s then addLost s.tick.lowReason heldFor s else s
      | none => s
  let s := addLost 6 droop s
  let lost := if skipped then elapsed else elapsed - base
  let reasons := s.power.tickReasons
  let s := noteTick { first := t.count, ticks := 1, reasons := reasons, point := t.lowest, lowest := t.lowest, variant := t.variant,
                      cause := runCause s reasons, lost := lost, droop := droop } s
  let s := modPower (fun p => { p with
    reasons := reasons, tickReasons := 0, tickLost := lost, droops := p.droops.map fun d => { d with added := 0 } }) s
  let s := match t.hold with
    | some h => if h.cause = self s then s else raise 0x0102 1 (leBytes 1 h.cause ++ List.replicate 7 0 ++ leBytes 8 heldFor) s
    | none => s
  let s := if skipped then raise 0x0103 1 (leBytes 4 1 ++ List.replicate 4 0 ++ leBytes 8 elapsed) s else s
  modTick (fun t => { t with
    count := t.count + 1, last := now, hold := none, heldPeers := [], released := none, late := [], edge := none, slew := 0 })
    { s with fabric := { s.fabric with syncSent := [] } }

/-- TICK_PERIOD_EFFECT (R44): a pending configuration that is due at a count. DESIGN CHOICE: a change of ALIGN_MODE clears ALIGNED without
an event, since the offset under the new mode is not measured yet (notes/assumptions/13.md). -/
def applyPeriod (count : Nat) (s : State) : State :=
  match s.tick.next with
  | some (eff, period, align, delay) =>
    if effectDue s 0x0401 eff count then
      modTick (fun t => { t with next := none, period := period, align := align, syncDelay := delay,
                                 aligned := t.aligned && align == t.align }) s
    else s
  | none => s

/-- BW_SPLIT_EFFECT (R351): a pending split that is due at a count. -/
def applySplit (count : Nat) (s : State) : State :=
  match s.fmw.bwNext with
  | some (eff, r, w, m) => if effectDue s 0x0402 eff count then { s with fmw := { s.fmw with bw := (r, w, m), bwNext := none } } else s
  | none => s

/-- Step 3: limits, grants, split and period that are due. -/
def applyInputs (count now : Nat) (s : State) : State :=
  let s := applyPeriod count (applySplit count (applyGrant count (applyLimits count s)))
  if s.power.restoreDue.any fun t => decide (t ≤ now) then restoreGrant s else s

/-! ### Step 4 of R64 -/

/-- QUEUE_OWNER_RESET (R339, R401): a reset that is due, and the QUEUE_CONTROL command that asked for it. -/
def ownerReset (q : Nat) (s : State) : State :=
  match (getQ s q).reset with
  | none => s
  | some (st, disable) =>
    let s := resetQueue q st (if disable then .disabled else .running) s
    if !(getQ s q).ops.isEmpty then s
    else
      let mine := s.fmw.resets.filter fun r => r.1 == q
      mine.foldl (fun s r => finishCmd r.2 .ok 0 [] s) { s with fmw := { s.fmw with resets := s.fmw.resets.filter fun r => r.1 != q } }

/-- CULTURE_COMMIT_EFFECT (R101). -/
def cultureDue (count : Nat) (s : State) : State :=
  if s.culture.commitAt.any fun t => effectDue s 0x0303 t count then commitCulture s else s

/-- INDEX_COMMIT_EFFECT (R158). -/
def indexDue (count : Nat) (s : State) : State :=
  if s.index.commitAt.any fun t => effectDue s 0x0305 t count then commitIndex s else s

/-- FW_LIVE_SWAP (R546). -/
def liveDue (count : Nat) (s : State) : State :=
  if s.fw.live.any fun x => effectDue s 0x0602 x.2 count then swapFirmware s else s

/-- A pending replacement that no longer fits lapses (R54, R554). -/
def checkReplace (s : State) : State :=
  match s.plan.replace.bind fun r => planSetOf s r.newSet with
  | some p => if planUnfit s p then { s with plan := { s.plan with replace := none } } else s
  | none => s

/-- What a member that takes effect among the routes is told by the head (R561). -/
def restoreJoined (s : State) : State :=
  let old := s.fabric.usable
  let s := restoreRoutes s
  if isHead s then
    (s.fabric.usable.filter fun m => !old.contains m).foldl (fun s m => emit (.tickBase m s.tick.count) s) s
  else s

/-- Whether a tick is skipped while no variant or point suffices: the first one, those of the pattern, and all without a pattern
(every pattern skips at least one tick, so 0 is none). -/
def skipsTick (s : State) (count : Nat) : Bool :=
  !s.tick.skipping || s.tick.skipPattern == 0 || !decide (s.tick.skipFirst ≤ count ∧ count < s.tick.skipFirst + 64) ||
  s.tick.skipPattern.getLsbD (count - s.tick.skipFirst)

/-- Step 4: queues, units, plans, commits, routes and the entry to A2. Drains and returns wait for a boundary whose tick the pattern does not
skip (R554, notes/assumptions/42.md). -/
def changeAtBoundary (count : Nat) (s : State) : State :=
  let s := (s.queues.map (·.1)).foldl (fun s q => ownerReset q s) s
  let s := checkReplace (lowerVats (if s.tick.skipping && skipsTick s count then s else changeUnits s))
  let s := changeJob count s
  let s := (List.range 16).foldl (fun s n => rewriteTables n s) s
  let s := liveDue count (indexDue count (cultureDue count s))
  let s := enterA2 (restoreJoined s)
  modPower (fun p => { p with hints := p.hints.filter fun h => decide (count < h.start + h.ticks) }) s

/-! ### Step 5 of R64: variants (R62) -/

/-- A member's last requested point that counts at a boundary; one that has requested none counts as P0. -/
def requestedPoint (s : State) (count m : Nat) : Nat :=
  if m = self s then s.power.prepared
  else (((s.tick.requests.filter fun r => r.module == m && decide (r.tick ≤ count)).getLast?).map (·.point)).getD 0

/-- Whether every member's request admits a variant. -/
def domainAdmits (s : State) (count : Nat) (domain : List Nat) (v : Variant) : Bool :=
  domain.all fun m => admits v m (requestedPoint s count m)

/-- The domain variant: the lowest index that every member's request admits. -/
def domainVariant (s : State) (count : Nat) : Option Nat :=
  match planInForce s with
  | none => some 0
  | some p => (List.range p.variants.length).find? fun i => (p.variants[i]?).any (domainAdmits s count p.domain)

/-- The module whose request forces a stretch: this one if its request does, else the first that does. -/
def stretchForcer (s : State) (count i : Nat) : Nat :=
  match planInForce s with
  | none => self s
  | some p =>
    let prev := p.variants.getD (i - 1) default
    let bad (m : Nat) : Bool := !admits prev m (requestedPoint s count m)
    if bad (self s) then self s else (p.domain.find? bad).getD (self s)

/-- Apply a variant of the plan set in force. -/
def setVariant (count i : Nat) (s : State) : State :=
  let st := match planInForce s with
    | none => 16
    | some p => ((p.variants[i]?).map (·.stretch)).getD 16
  modTick (fun t => { t with variant := i, stretch := st, stretchCause := stretchForcer s count i, stretchReason := s.power.requestReason,
                             requests := t.requests.filter fun r => decide (count ≤ r.tick) ||
                               (t.requests.filter fun x => x.module == r.module && decide (x.tick ≤ count)).getLast? == some r }) s

/-! ### Step 6 of R64: the operating point (R65, R470, R477-R479) -/

/-- The point that the alert and an AVSBus failure force (R482, R576). -/
def alertForced (s : State) : Bool := s.power.alert || s.power.alertHold || s.power.avsFault

/-- The highest point from which step 6 chooses. -/
def startPoint (s : State) : Nat :=
  if alertForced s then 15 else if nearHot s then max s.power.prepared s.power.point else s.power.prepared

/-- Put a choice in force; a change that is no emergency waits while a droop response is active, unless the point that it would leave does
not admit the variant (R65, notes/assumptions/42.md). -/
def setPoint (now : Nat) (p : PowerInput) (c : Choice) (s : State) : State :=
  let waits := droopActive s && !alertForced s && (variantInForce s).all fun v => admits v (self s) s.power.point
  let pt := if waits then s.power.point else c.1
  let reason := limitReason s p s.tick.count (tickLength s) pt
  let bad := (variantInForce s).any fun v => !admits v (self s) pt
  let s := modPower (fun x => { x with point := pt, belowReason := reason, belowSince := now, paceMemory := c.2.1, paceLinks := c.2.2 }) s
  modTick (fun t => { t with lowest := pt, allAdmitted := !bad, lowReason := if bad then reason else 0 }) s

/-! ### Skips (R63) -/

/-- The bits of the skip pattern that spreads k skips over 64 ticks. -/
def skipBits (k : Nat) : U64 :=
  (List.range 64).foldl (fun w n => if n * k / 64 < (n + 1) * k / 64 then w ||| (1 <<< n) else w) 0

/-- The least number of skips for which the prediction over the window lies within the limits; 64 while this member's requested point does
not admit the last variant. -/
def skipCount (s : State) (windows : List Nat) (limit : Nat) : Nat :=
  let last := (planInForce s).bind fun p => p.variants.getLast?
  if last.any fun v => !admits v (self s) s.power.prepared then 64
  else ((upFrom 1 64).find? fun k => decide (windows.getD (k - 1) (limit + 1) ≤ limit)).getD 64

/-- This member's shortfall in mW: its prediction at P15 in the variant in force with every class reduced, beyond its allowance; the greatest
of all while its requested point does not admit the last variant. -/
def shortfallOf (s : State) (p : PowerInput) (count : Nat) : Nat :=
  let last := (planInForce s).bind fun x => x.variants.getLast?
  if last.any fun v => !admits v (self s) s.power.prepared then 2 ^ 64 - 1
  else predicted s p count (15, 4, 4) - allowance (effectiveCap s) s.power.peak p.energyMj (tickLength s)

/-- SKIP_WINDOW: the choosing member computes the window and sends it. -/
def skipWindow (windows : List Nat) (limit : Nat) (s : State) : State :=
  if !s.tick.skipping then s
  else
    let next := s.tick.count + 1
    let covered := decide (s.tick.skipFirst ≤ next ∧ next < s.tick.skipFirst + 64) && s.tick.skipPattern != 0
    let first := if covered then s.tick.skipFirst + 64 else next
    let bits := skipBits (skipCount s windows limit)
    sendSync (jobPeers s) (.skipPattern · (headTick s first) bits) (modTick (fun t => { t with skipFirst := first, skipPattern := bits }) s)

/-- SKIP_PATTERN of the choosing member. -/
def takeSkipPattern (src first : Nat) (pattern : U64) (s : State) : State :=
  if fromModule s src then modTick (fun t => { t with skipFirst := ownTick s first, skipPattern := pattern }) s else s

/-! ### Steps 5 to 7 of R64 -/

/-- Whether dynamic work is admitted (R489-R491, R542). -/
def admitting (s : State) : Bool := decide (s.power.state ≤ 1) && !s.power.d3 && !recalHolds s

/-- The capacity of the tick: that of the step and variant in force, else what an idle module offers (R66, R67). -/
def tickCaps (idle : List Cap) (s : State) : List Cap :=
  match s.plan.job, variantInForce s with
  | some j, some v => v.caps.getD j.step []
  | _, _ => idle

/-- Whether any operation is admitted and not complete. -/
def anyOps (s : State) : Bool := s.queues.any fun e => e.2.ops.any fun o => o.phase != .done

/-- A1 or A0 for the tick that begins (R489). -/
def tickPowerState (s : State) : State :=
  if 2 ≤ s.power.state then s
  else setPowerState (if s.plan.job.isNone && !anyOps s then 1 else 0) s

/-- The tick runs. -/
def runTick (now : Nat) (b : BoundaryInput) (c : Choice) (s : State) : State :=
  let s := setPoint now b.power c (modTick (fun t => { t with skipping := false, skipPattern := 0 }) s)
  let s := modTick (fun t => { t with state := if s.plan.job.isSome then 1 else 0 }) s
  if admitting s then admitAll (tickCaps b.idleCaps s) s else admitNone s

/-- A tick for which no variant or no point suffices (R63): the domain runs the last variant; a tick that is skipped admits nothing and
stands at the highest point within the limits, else at P15; one that is not runs at P15. -/
def shortTick (now count : Nat) (b : BoundaryInput) (s : State) : State :=
  let last := match planInForce s with
    | some p => p.variants.length - 1
    | none => 0
  if skipsTick s count then
    let s := if s.tick.skipping then s else modTick (fun t => { t with skipping := true, skipFirst := count + 1, skipPattern := 0 }) s
    let s := setVariant count last s
    let s := modTick (fun t => { t with shortfall := shortfallOf s b.power count }) s
    let s := setPoint now b.power ((choose s b.power count (startPoint s) (tickLength s)).getD (15, 4, 4)) s
    admitNone (modTick (fun t => { t with state := 3, lowest := s.power.point, allAdmitted := true, lowReason := 0 }) s)
  else
    let s := setPoint now b.power (15, 4, 4) (setVariant count last s)
    let s := modTick (fun t => { t with state := if s.plan.job.isSome then 1 else 0 }) s
    if admitting s then admitAll (tickCaps b.idleCaps s) s else admitNone s

/-- Steps 5, 6 and 7: variant, point, admission. -/
def chooseTick (now count : Nat) (b : BoundaryInput) (s : State) : State :=
  if s.power.state = 2 then
    let s := modPower (fun p => { p with point := 15, prepared := 15, belowSince := now }) s
    admitNone (modTick (fun t => { t with state := 0, variant := 0, stretch := 16, lowest := 15, allAdmitted := true, lowReason := 0 }) s)
  else
    match domainVariant s count with
    | none => shortTick now count b s
    | some i =>
      let s' := setVariant count i s
      match choose s' b.power count (startPoint s') (tickLength s') with
      | none => shortTick now count b s
      | some c => runTick now b c s'

/-! ### Alignment (R47-R49, R439, R561, R579) -/

/-- The alignment parent (R439). -/
def alignParent (s : State) : Option Nat :=
  let t := s.fabric.topology
  let h := t.head
  let me := self s
  let cross (m : Nat) : Option Nat := ((List.range 3).find? fun j =>
    (portTo t m (h / 16 * 16 + (m % 16 ^^^ crossing j))).any fun p => linkUp s m p).map fun j => h / 16 * 16 + (m % 16 ^^^ crossing j)
  if isHead s then none
  else if t.code = 1 ∨ me / 16 = h / 16 then some h
  else match cross me with
    | some m => some m
    | none => (upFrom (me / 16 * 16) 16).find? fun m => m != me && (cross m).isSome

/-- A member's first lock places its first boundary (R561). TICK_COUNT is 0 there after a reset; after A3 it goes on (R42, R489). A lock
that follows, as after a reset of the head, is the one at which a new TICK_BASE counts (R566). -/
def firstLock (s : State) : State :=
  if s.tick.placed then modTick (fun t => { t with lock := t.count }) s
  else modTick (fun t => { t with placed := true, last := t.timebase, lock := t.count }) s

/-- A measured offset in ns (R49). DESIGN CHOICE: TICK_ALIGN_LOST is raised where ALIGNED falls, not again at each further offset above
200 ns (notes/assumptions/13.md). -/
def noteOffset (o : Int) (s : State) : State :=
  let s := modTick (fun t => { t with offset := o }) s
  let detail := leBytes 4 (wrapInt 32 o)
  if 200 < o.natAbs then
    let s' := modTick (fun t => { t with inBand := 0, aligned := false }) s
    if s.tick.aligned then raise 0x0104 1 detail s' else s'
  else if 50 < o.natAbs then modTick (fun t => { t with inBand := 0 }) s
  else
    let s' := modTick (fun t => { t with inBand := t.inBand + 1 }) s
    if !s.tick.aligned && decide (100 ≤ s'.tick.inBand) then
      firstLock (raise 0x0105 0 detail (modTick (fun t => { t with aligned := true }) s'))
    else s'

/-- TICK_SYNC_IN_EDGE (R48, R579): `edge` is the time of the edge less that of the module's own next boundary; SYNC_DELAY_NS is added. -/
def syncEdge (edge : Int) (s : State) : State :=
  let offset := edge + s.tick.syncDelay
  if s.tick.align = 2 ∧ isHead s = false ∧ offset.natAbs ≤ 500 ∧ s.tick.edge = none then
    noteOffset (-offset) (modTick (fun t => { t with edge := some offset }) s)
  else s

/-- TIMESTAMP at a parent (R439). -/
def answerTimestamp (src t1 t2 t3 : Nat) (s : State) : State :=
  if fromModule s src then sendSync [] (.timestampReply · src t1 t2 t3) (atTime t3 s) else s

/-- The slew over one tick for an offset: at most 100 ppm of the tick length, towards the parent (R47). -/
def slewFor (s : State) (offset : Int) : Int := let most : Int := tickLength s / 10000; max (-most) (min most offset)

/-- TIMESTAMP_REPLY (R439): the parent's time minus the module's own; a module whose clock is behind is late, and slews its timebase
forward, which brings its next boundary nearer. -/
def takeTimestamp (src t1 t2 t3 t4 : Nat) (s : State) : State :=
  if s.tick.align = 1 ∧ alignParent s = some src then
    let offset := (((t2 : Int) - t1) - ((t4 : Int) - t3)) / 2
    let s := atTime t4 s
    noteOffset offset (modTick (fun t => { t with slew := slewFor s offset }) s)
  else s

/-- TICK_BASE_MESSAGE (R561): the head's count at the module's lock, less the own count there, which is 0 after a reset. -/
def takeTickBase (count : Nat) (s : State) : State :=
  if isHead s then s else modTick (fun t => { t with base := (count + (2 ^ 64 - t.lock)) % 2 ^ 64 }) s

/-- What a module sends at its boundary: the pulse of the tick master, a timestamp to the parent (R439, R578). -/
def sendAlignment (now : Nat) (s : State) : State :=
  let s := if s.tick.align = 2 ∧ isHead s = true ∧ s.fabric.topology.code ≠ 0 then
      emit .tickSync (modTick (fun t => { t with pulses := t.pulses + 1 }) s) else s
  if s.tick.align = 1 then
    match alignParent s with
    | some p => sendSync [] (.timestamp · p now) s
    | none => s
  else s

/-! ### TICK_BOUNDARY and BOUNDARY_WINDOW_END -/

/-- Whether the module has boundaries: its first has been placed, it is not in reset and not in A3 (R42, R489). -/
def ticking (s : State) : Bool := s.tick.placed && !s.start.inReset && s.power.state != 3

/-- Steps 2 to 7 of R64 at a time. -/
def crossBoundary (b : BoundaryInput) (s : State) : State :=
  let missed := s.tick.align = 2 ∧ isHead s = false ∧ s.tick.edge = none
  let s := if missed then noteOffset 201 s else s
  let s := closeTick b.now (splitStretches b.now (reportOverruns s))
  let count := s.tick.count
  let s := changeAtBoundary count (applyInputs count b.now s)
  let s := chooseTick b.now count b { s with lines := [] }
  let s := tickPowerState s
  let s := modPower (fun p => { p with fixed := false, deadline := false }) s
  lateEventIrq (sendAlignment b.now (modTick (fun t => { t with windowOpen := true }) s))

/-- A boundary that peers held and released before this module's own came lies 2 µs after the last RELEASE (R59). -/
def releasedHold (b : BoundaryInput) (s : State) : State := if s.tick.hold.any (holdOver b.now) then crossBoundary b s else s

/-- TICK_BOUNDARY: step 1 of R64, and where nothing holds the boundary the steps after it. -/
def tickBoundary (b : BoundaryInput) (s : State) : State :=
  if !ticking s then s
  else
    let s := atTime b.now s
    match s.tick.hold with
    | some h => if holdOver b.now h then crossBoundary b s else s
    | none =>
      if b.now < nextBoundary s then s
      else
        let s := modTick (fun t => { t with late := t.late ++ b.late }) s
        if !(lateUnits s).isEmpty then beginHold true s
        else if !s.tick.heldPeers.isEmpty then beginHold false s
        else if s.tick.released.any fun r => decide (nextBoundary s < r.1 + 2000) then releasedHold b (beginHold false s)
        else crossBoundary b s

/-- BOUNDARY_WINDOW_END: step 8 of R64. -/
def windowEnd (late : List LateUnit) (s : State) : State :=
  if !s.tick.windowOpen then s
  else
    let s := modTick (fun t => { t with windowOpen := false, late := late }) s
    if s.tick.state = 3 then wake s else wake (startStep s)

/-! ### PREPARED_POINT_FIX and VARIANT_REQUEST (R62, R470, R472, R573, R576) -/

/-- An AVSBus write that fails acts as an alert (R576). -/
def avsFailed (s : State) : State :=
  if s.power.avsFault then s
  else
    let s := regulatorFault 0 1 0xFFFF (modPower (fun p => { p with avsFault := true }) s)
    raise 0x0501 1 [] (lowerPoint 15 5 s.tick.timebase s)

/-- The prepared point for the next boundary and its reason: the point in force while a cause is active, else the highest within the limits
that will be in force there (R470, R472, R479). -/
def preparedPoint (p : PowerInput) (s : State) : Nat × Nat :=
  if causeActive s then (s.power.point, s.power.belowReason)
  else if s.power.state = 2 then (15, 0)
  else
    let due := applyGrant (s.tick.count + 1) (applyLimits (s.tick.count + 1) s)
    let pt := ((choose due p (s.tick.count + 1) 0 (tickLength s)).map (·.1)).getD 15
    let pt := if nearHot s then max pt s.power.point else pt
    (pt, limitReason due p (s.tick.count + 1) (tickLength s) pt)

/-- PREPARED_POINT_FIX. -/
def fixPoint (p : PowerInput) (avsOk : Bool) (s : State) : State :=
  if !ticking s || s.power.fixed then s
  else
    let s := if avsOk then modPower (fun x => { x with avsFault := false }) s else s
    let (pt, reason) := preparedPoint p s
    let s := modPower (fun x => { x with prepared := pt, requestReason := reason, fixed := !causeActive s, deadline := true }) s
    let s := emit (.avs pt) s
    let s := if (jobPeers s).isEmpty then s else sendSync (jobPeers s) (.variantRequest · (headTick s s.tick.count) pt) s
    if avsOk then s else avsFailed s

/-- VARIANT_REQUEST of a member: it counts at this boundary if it arrives before the deadline, or in a hold before its sender's RELEASE,
else at the next. -/
def takeRequest (src point : Nat) (s : State) : State :=
  if !fromModule s src then s
  else
    let now := match s.tick.hold with
      | some h => h.peers.contains src
      | none => !s.power.deadline
    let t := s.tick.count + (if now then 1 else 2)
    modTick (fun x => { x with
      requests := (x.requests.filter fun r => !(r.module == src && r.tick == t)) ++ [{ module := src, point := point, tick := t }] }) s

/-! ### Plan job messages (R56) -/

/-- START_DEFER of a member: the start moves by one tick, admitted here or not yet. -/
def takeDefer (src tick planSet : Nat) (s : State) : State :=
  if !fromModule s src then s
  else
    let own := ownTick s tick
    if s.plan.waiting.any fun r => r.planSet == planSet then
      { s with plan := { s.plan with waiting := s.plan.waiting.map fun r =>
        if r.planSet = planSet ∧ r.start = own then { r with start := r.start + 1, deferrals := r.deferrals + 1 } else r } }
    else
      match s.plan.absent.find? fun a => a.1 == planSet && a.2.1 + a.2.2 == own with
      | some a => deferAbsent planSet a.2.1 s
      | none => if s.plan.absent.any fun a => a.1 == planSet then s else deferAbsent planSet own s

/-- DOMAIN_ABSENT: a RUN_PLAN that has been deferred 1,000 times fails. -/
def domainAbsent (s : State) : State :=
  (s.plan.waiting.filter fun r => decide (1000 ≤ r.deferrals)).foldl (fun s r =>
    finishOp r.queue r.index .domainAbsent 0 (dropRequest r.queue r.index s)) s

/-! ### The plan rows between boundaries (R55-R57, R379) -/

/-- PLAN_JOB_COMPLETE. -/
def planComplete (s : State) : State := if lastStep s && stepEnded s then completeJob s else s

/-- PLAN_JOB_PREEMPT. -/
def planPreempt (s : State) : State :=
  let s' := advanceJob s
  match preemptDue (s.tick.count + 1) s' with
  | some st => preemptJob st s'
  | none => s

/-- PLAN_REPLACE_EFFECT. -/
def planReplaced (s : State) : State :=
  let s' := advanceJob s
  if (preemptDue (s.tick.count + 1) s').isNone && replaceDue (s.tick.count + 1) s' then replacePlan s' else s

/-- PLAN_JOB_FAILURE: with the failure that is due, or with the given cause. -/
def planFails (cause : Status) (s : State) : State :=
  match s.plan.job with
  | some j => failJob (j.failing.getD cause) s
  | none => s

/-- PLAN_JOB_START. -/
def planStart (s : State) : State := startJobs (s.tick.count + 1) s.plan.waiting.length s

end Sys2Proof.Machine
end

