-- ==== Sys2Proof/Machine/Commands.lean ====
section
/-!
DEFINITION. Mailbox commands: the payload checks, the handlers that no other file holds, stepped commands, and how a command reaches
its handler (R328, R346, R373-R377, R390, R400-R412, R431, R508, R564).
-/

namespace Sys2Proof.Machine

/-! ### Check 10 of R390 -/

/-- The space of a ladle address field is one of those listed. -/
def spaceIn (a : Nat) (spaces : List Nat) : Bool := spaces.contains (bits a 63 62)

/-- The payload of QUEUE_SETUP (R22, R328). -/
def queueSetupOk (s : State) (p : List Byte) : Option Status :=
  let n := u32 p 4
  let ringOk (a len : Nat) : Bool := spaceIn a [0, 2] && a % 64 == 0 && fieldOk s false a len
  firstFail [
    (zeros p 27 37, .reservedNonzero), (decide (u16 p 0 < 4096 ∧ u8 p 2 ≤ 5 ∧ u8 p 3 ≤ 7), .invalidArgument), (n != 0, .invalidExtent),
    (decide (64 ≤ n ∧ n ≤ 65536) && n == 2 ^ Nat.log2 n, .invalidArgument),
    (ringOk (u64 p 8) (64 * n) && ringOk (u64 p 16) (16 * n), .invalidArgument),
    (decide (u16 p 24 ≤ 2047 ∨ u16 p 24 = 0xFFFF), .invalidArgument),
    (decide (u8 p 26 ≤ if u8 p 2 = 1 then 2 else 0), .invalidArgument)]

/-- The payload of SLOT_RING_SETUP (R22, R346). -/
def slotSetupOk (s : State) (p : List Byte) : Option Status :=
  firstFail [
    (zeros p 3 1 && zeros p 20 12, .reservedNonzero), (decide (u16 p 0 < 1024), .invalidArgument),
    (u8 p 2 != 0 && u32 p 4 != 0, .invalidExtent),
    (decide (3 ≤ u8 p 2 ∧ u8 p 2 ≤ 16 ∧ u32 p 4 % 4096 = 0 ∧ u32 p 4 ≤ 1073741824), .invalidArgument),
    (spaceIn (u64 p 8) [0, 1, 2] && fieldOk s false (u64 p 8) (u8 p 2 * u32 p 4), .invalidArgument)]

/-- The payload of LIFECYCLE_SET (R508). -/
def lifecyclePayloadOk (p : List Byte) : Option Status :=
  let a := u8 p 0
  firstFail [
    (zeros p 4 4, .reservedNonzero), (decide (1 ≤ a ∧ a ≤ 5), .invalidArgument),
    (decide (u8 p 1 ≤ if a = 4 then 3 else 0), .invalidArgument),
    (if a = 5 then decide (1 ≤ u8 p 2 ∧ u8 p 2 ≤ 128) else u8 p 2 == 0, .invalidArgument),
    (if a = 1 then u8 p 3 &&& 0xF1 == 0 else u8 p 3 == 0, .invalidArgument),
    ([1, 2, 3].all fun n => bit (u8 p 3) n || zeros p (8 + 32 * (n - 1)) 32, .invalidArgument)]

/-- The payload of TOPOLOGY_SET. -/
def topologyOf (p : List Byte) : Topology :=
  { code := u8 p 0, modules := u8 p 1, module := u8 p 2, head := u8 p 3, portMask := u32 p 4, configId := u64 p 8 }

/-- Reserved bytes and ranges of a payload of the right length. -/
def fieldsOk (s : State) (op : Nat) (p : List Byte) : Option Status :=
  match op with
  | 0x0004 => firstFail [(zeros p 4 4, .reservedNonzero)]
  | 0x0101 => queueSetupOk s p
  | 0x0102 => firstFail [(zeros p 3 5, .reservedNonzero), (decide (u16 p 0 < 4096 ∧ u8 p 2 ≤ 2), .invalidArgument)]
  | 0x0103 => slotSetupOk s p
  | 0x0104 => firstFail [(zeros p 6 2 && zeros p 12 20, .reservedNonzero),
      (decide (u16 p 0 + u16 p 2 ≤ 0xFFFF ∧ u16 p 4 < 4096), .invalidArgument)]
  | 0x0105 => firstFail [(u16 p 4 / 2 == 0 && zeros p 6 26, .reservedNonzero), (decide (u16 p 0 + u16 p 2 ≤ 0xFFFF), .invalidArgument)]
  | 0x0106 => firstFail [(zeros p 2 2 && zeros p 8 24, .reservedNonzero), (u16 p 0 != 0xFFFF, .invalidArgument)]
  | 0x0201 => firstFail [(u32 p 0 != 0 && decide (64 ≤ u32 p 4 ∧ u32 p 4 ≤ 805306368), .invalidArgument),
      (spaceIn (u64 p 8) [0, 2] && fieldOk s false (u64 p 8) (u32 p 4), .invalidArgument),
      (u64 p 16 != 0 || u64 p 24 == 0, .invalidArgument)]
  | 0x0202 => firstFail [(zeros p 4 4, .reservedNonzero)]
  | 0x0302 => firstFail [(zeros p 4 4, .reservedNonzero)]
  | 0x0304 => firstFail [(u8 p 16 / 2 == 0 && zeros p 17 7, .reservedNonzero),
      (decide (u32 p 8 ≤ 262143 ∧ u32 p 8 + u32 p 12 ≤ 262144), .invalidArgument),
      (spaceIn (u64 p 0) [0, 1, 2] && fieldOk s false (u64 p 0) (256 * u32 p 12), .invalidArgument)]
  | 0x0401 => firstFail [(zeros p 3 1 && zeros p 6 2, .reservedNonzero),
      (decide (10 ≤ u16 p 0 ∧ u16 p 0 ≤ 2000 ∧ u16 p 4 ≤ 2000 ∧ u8 p 2 ≤ if s.fabric.topology.modules ≤ 1 then 0 else 2), .invalidArgument)]
  | 0x0402 => firstFail [(zeros p 3 5, .reservedNonzero), (splitOk (u8 p 0) (u8 p 1) (u8 p 2), .invalidArgument)]
  | 0x0403 => firstFail [(zeros p 1 7, .reservedNonzero), (decide (0x08 ≤ u8 p 0 ∧ u8 p 0 ≤ 0x77), .invalidArgument)]
  | 0x0404 => firstFail [(u8 p 0 / 2 == 0 && zeros p 1 7, .reservedNonzero)]
  | 0x0501 => firstFail [(u8 p 5 / 2 == 0 && zeros p 6 2, .reservedNonzero),
      (decide (300 ≤ u16 p 0 ∧ u16 p 0 ≤ 1700 ∧ u16 p 0 ≤ u16 p 2 ∧ u16 p 2 ≤ 2000 ∧ u8 p 4 ≤ 5), .invalidArgument)]
  | 0x0502 => firstFail [(zeros p 1 7, .reservedNonzero), ([0, 2, 3].contains (u8 p 0), .invalidArgument)]
  | 0x0601 => firstFail [(u8 p 1 / 4 == 0 && zeros p 8 8, .reservedNonzero), (decide (u8 p 0 ≤ 1 ∧ u16 p 2 ≤ 4048), .invalidArgument)]
  | 0x0602 => firstFail [(zeros p 1 7, .reservedNonzero), (decide (u8 p 0 ≤ 1), .invalidArgument)]
  | 0x0701 => firstFail [(zeros p 33 7, .reservedNonzero), (decide (u8 p 32 ≤ 1), .invalidArgument)]
  | 0x0702 => firstFail [(zeros p 1312 8, .reservedNonzero)]
  | 0x0703 => firstFail [(zeros p 1 7 && zeros p 64 8, .reservedNonzero), (u8 p 0 == 1 || (u8 p 0 == 0 && zeros p 8 3796), .invalidArgument)]
  | 0x0704 => lifecyclePayloadOk p
  | 0x0801 | 0x0802 => firstFail [(zeros p 1 1 && zeros p 4 4, .reservedNonzero),
      (decide (u8 p 0 ≤ 5 ∧ u16 p 2 < unitNumbers (u8 p 0)), .invalidArgument)]
  | 0x0803 => firstFail [(zeros p 1 1 && zeros p 4 4, .reservedNonzero), (decide (u8 p 0 ≤ 3), .invalidArgument)]
  | 0x0804 => firstFail [(zeros p 2 2 && zeros p 12 4, .reservedNonzero), (decide (u16 p 0 < 4096), .invalidArgument)]
  | 0x0805 => firstFail [(zeros p 2 6, .reservedNonzero), (decide (u16 p 0 ≤ 10000), .invalidArgument)]
  | 0x0806 => firstFail [(zeros p 16 16, .reservedNonzero), (topologyOk (topologyOf p), .invalidArgument)]
  | _ => none

/-- Check 10 of R390: the fixed length, then reserved bytes and ranges. -/
def payloadCheck (s : State) (op : Nat) (p : List Byte) : Option Status :=
  if (catalogue op).any fun r => r.payload == p.length then fieldsOk s op p else some .invalidArgument

/-! ### Queues, slot rings, counters (R328, R346, R373-R377, R405) -/

/-- In reduced mode a queue with a ring in space 2 stops at once (R452). -/
def stopIfReduced (q : Nat) (s : State) : State :=
  if s.cxl.reduced && (inHost (getQ s q).ring || inHost (getQ s q).comp) then stopQueue q .hostUnreachable s else s

/-- QUEUE_SETUP. -/
def hQueueSetup : Handler := fun c s =>
  let p := c.payload
  let q := u16 p 0
  if (getQ s q).mode ≠ .disabled then deny .queueState s
  else .done .ok [] (stopIfReduced q (modQ q (fun v => { v with
    mode := .running, cls := u8 p 2, prio := u8 p 3, entries := u32 p 4, ring := u64 p 8, comp := u64 p 16, msix := u16 p 24,
    ladleSet := u8 p 26, tail := 0, head := 0, done := 0, snap := 0, fetched := [], ops := [], reset := none, blk := none,
    energy := 0 }) s))

/-- QUEUE_CONTROL: Restart at once; Reset and Disable at the boundary that resets the queue. -/
def hQueueControl : Handler := fun c s =>
  let q := u16 c.payload 0
  let v := getQ s q
  if v.mode = .disabled then deny .queueState s
  else if u8 c.payload 2 = 0 then
    .done .ok [] (if v.mode = .stopped then stopIfReduced q (modQ q (fun v => { v with mode := .running }) s) else s)
  else
    let disable := u8 c.payload 2 == 2 || v.reset.any fun r => r.2
    let s := { s with fmw := { s.fmw with resets := s.fmw.resets ++ [(q, c)] } }
    .later (modQ q (fun v => { v with reset := some (.ownerReset, disable) }) s)

/-- SLOT_RING_SETUP. -/
def hSlotSetup : Handler := fun c s =>
  let p := c.payload
  if (mget s.rings (u16 p 0)).any fun r => r.openFor.isSome then deny .queueState s
  else
    let r : SlotRing := { slots := u8 p 2, slotBytes := u32 p 4, base := u64 p 8, readyCtr := u16 p 16, freeCtr := u16 p 18,
                          tail := 0, head := 0, openFor := none }
    .done .ok [] { s with rings := mput s.rings (u16 p 0) r }

/-- COUNTER_CLAIM. -/
def hCounterClaim : Handler := fun c s =>
  let p := c.payload
  if u16 p 2 = 0 then .done .ok [] s
  else
    let r := claimCounters (u16 p 0) (u16 p 2) (u16 p 4) (BitVec.ofNat 32 (u32 p 8)) s
    .done r.2 [] r.1

/-- COUNTER_RELEASE, balanced or forced. -/
def hCounterRelease : Handler := fun c s =>
  let p := c.payload
  if u16 p 2 = 0 then .done .ok [] s
  else if bit (u16 p 4) 0 then .done .ok [] (forceRelease (u16 p 0) (u16 p 2) s)
  else
    let r := releaseCounters (u16 p 0) (u16 p 2) s
    .done r.2 [] r.1

/-- COUNTER_SET. -/
def hCounterSet : Handler := fun c s =>
  let r := setCounter (u16 c.payload 0) (BitVec.ofNat 32 (u32 c.payload 4)) s
  .done r.2 [] r.1

/-! ### Packages (R304, R410, R411) -/

/-- The bytes of the plan library area and of the area of registered models (R303). -/
def libraryBytes : Nat := 805306368
def modelBytes : Nat := 134217728

/-- What installed packages hold of the two areas. -/
def libraryUsed (s : State) : Nat := (s.packages.map (·.bytes)).sum

def modelSize (m : PkgModel) : Nat := m.section_.length + (m.sets.map (·.image.length)).sum

def modelsUsed (s : State) : Nat := (s.packages.map fun p => (p.models.map modelSize).sum).sum

/-- The reserved HBM of set images and exact sections (R303). -/
def modelArea : Nat × Nat := (0x3C000000, 0x44000000)

/-- The lowest place in that area where some bytes fit clear of some spans (notes/assumptions/20.md). -/
def modelPlace (n : Nat) (taken : List (Nat × Nat)) : Option Nat :=
  ((modelArea.1 :: taken.map fun t => t.1 + t.2).filter fun a => decide (a + n ≤ modelArea.2) &&
    taken.all fun t => decide (a + n ≤ t.1 ∨ t.1 + t.2 ≤ a)).foldl (fun b a => match b with
      | none => some a
      | some m => some (min m a)) none

/-- The models of a package each at its place; none where one finds no room. -/
def placeModels : List (Nat × Nat) → List PkgModel → Option (List PkgModel)
  | _, [] => some []
  | taken, m :: r =>
    (modelPlace (modelSize m) taken).bind fun a =>
      (placeModels ((a, modelSize m) :: taken) r).map fun l => { m with exactAt := a } :: l

/-- The spans that installed models take. -/
def modelSpans (s : State) : List (Nat × Nat) := s.packages.flatMap fun p => p.models.map fun m => (m.exactAt, modelSize m)

/-- The models that a plan set of a new package may name beside its own: those of installed packages and of the active bank (R113). -/
def knownModels (s : State) : List (Nat × ExactModel) :=
  (s.packages.flatMap fun p => p.models.map fun m => (m.id, m.exact)) ++ s.culture.active.map fun e => (e.id, e.exact)

/-- A command that moves so many bytes in steps keeps its mailbox BUSY (R401). -/
def moveBytes (n : Nat) (s : State) : HRes :=
  .later { s with fmw := { s.fmw with running := s.fmw.running.map fun (r : Running) => { r with bytesLeft := n } } }

/-- PACKAGE_INSTALL: the whole image must fit the free library before it is copied. -/
def hInstall : Handler := fun c s =>
  if libraryBytes < libraryUsed s + u32 c.payload 4 then deny .noCapacity s else moveBytes (u32 c.payload 4) s

/-- The places of the type 4 sections from an address: each at the first 4 KiB boundary at or after the end of the one before. -/
def placeWeights : Nat → List (List Byte) → List (Nat × List Byte) × Nat
  | pos, [] => ([], pos)
  | pos, b :: r =>
    let start := roundUp pos 4096
    let rest := placeWeights (start + b.length) r
    ((start, b) :: rest.1, rest.2)

/-- The installation once the image is copied: the checks of R410 in order, then the copy of the weights. -/
def installPackage (p : List Byte) (s : State) : State × Status × List Byte :=
  let pid := u32 p 0
  let len := u32 p 4
  let (img, bad, s) := readSpan Who.none (addrOf s (u64 p 8)) len s
  if inHost (u64 p 8) && !hostUp s then (hostFailed s, .hostUnreachable, [])
  else if bad then (s, .poisonedData, [])
  else
    let (st, models, plans) := validateImage (knownModels s) img len
    let ss := sectionsOf img
    let weights := (ss.filter fun x => x.type == 4).map (sectionBytes img)
    let (places, used) := placeWeights 0 weights
    let planBytes := ((ss.filter fun x => x.type == 3).map (·.length)).sum
    let st := if st ≠ .ok then st else (firstFail [
      (!(s.packages.any fun k => k.id == pid || k.planSets.any fun x => plans.any fun y => x.1 == y.1), .packageState),
      (decide (s.packages.length < 16 ∧ modelsUsed s + (models.map modelSize).sum ≤ modelBytes) &&
        (placeModels (modelSpans s) models).isSome, .noCapacity),
      (if u64 p 16 = 0 then weights.isEmpty
       else u64 p 16 % 4096 == 0 && spaceIn (u64 p 16) [0] && fieldOk s false (u64 p 16) (u64 p 24), .invalidArgument),
      (decide (used ≤ u64 p 24), .noCapacity)]).getD .ok
    if st ≠ .ok then (s, st, [])
    else
      let models := (placeModels (modelSpans s) models).getD []
      let s := places.foldl (fun s x => pokeClean (addrOf s (u64 p 16 + x.1)) x.2 s) s
      let s := models.foldl (fun s m => writeHbm m.exactAt (m.section_ ++ m.sets.flatMap (·.image)) [] s) s
      let k : Package := { id := pid, bytes := planBytes, digest := slice img 16 32, planSets := plans, models := models,
                           weightsAddr := u64 p 16, weightsUsed := used }
      ({ s with packages := s.packages ++ [k] }, .ok,
        leBytes 4 plans.length ++ leBytes 4 models.length ++ slice img 16 32 ++ leBytes 8 used)

/-- Whether a package is in use (R411). -/
def packageBusy (s : State) (k : Package) : Bool :=
  let named (i : Nat) : Bool := k.planSets.any fun x => x.1 == i
  (s.plan.job.any fun j => named j.planSet) || (s.plan.waiting.any fun r => named r.planSet) ||
  (s.plan.replace.any fun r => named r.newSet) || (s.culture.active ++ s.culture.shadow).any fun m => m.package == k.id

/-- PACKAGE_REMOVE. -/
def hRemove : Handler := fun c s =>
  match s.packages.find? fun k => k.id == u32 c.payload 0 with
  | none => deny .invalidArgument s
  | some k =>
    if packageBusy s k then deny .packageState s
    else .done .ok [] { s with packages := s.packages.filter fun x => x.id != k.id }

/-! ### Culture and index (R100-R102, R158, R159, R412) -/

/-- The model of a package. -/
def packageModel (s : State) (package model : Nat) : Option PkgModel :=
  (s.packages.find? fun k => k.id == package).bind fun k => k.models.find? fun m => m.id == model

/-- CULTURE_STAGE. -/
def hCultureStage : Handler := fun c s =>
  match packageModel s (u32 c.payload 0) (u32 c.payload 4) with
  | none => deny .invalidArgument s
  | some m => moveBytes (modelSize m) s

/-- The stage once its bytes are moved. -/
def stageNow (p : List Byte) (s : State) : State × Status × List Byte :=
  match packageModel s (u32 p 0) (u32 p 4) with
  | none => (s, .invalidArgument, [])
  | some m => let r := stageModel (u32 p 0) m s; (r.1, r.2, [])

/-- CULTURE_REMOVE: it waits while the shadow bank drains or a commit is pending. -/
def hCultureRemove : Handler := fun c s =>
  if cultureWaits s then .later s
  else if (stagingBank s).any fun m => m.id == u32 c.payload 0 then
    .done .ok [] (setStaging ((stagingBank s).filter fun m => m.id != u32 c.payload 0) [] s)
  else deny .invalidArgument s

/-- The effective tick of a commit: the next boundary, or that of R44 for every module together. -/
def commitTick (c : Cmd) (s : State) : Nat := if c.target = 0xFF then effTick s else s.tick.count + 1

/-- CULTURE_COMMIT: with nothing staged a no-op. -/
def hCultureCommit : Handler := fun c s =>
  if s.culture.shadowState = 2 ∧ s.culture.commitAt = none then
    .done .ok (leBytes 1 ((s.culture.generation + 1) % 256) ++ List.replicate 7 0 ++ leBytes 8 (headTick s (commitTick c s)))
      { s with culture := { s.culture with commitAt := some (commitTick c s) } }
  else .done .ok (leBytes 1 s.culture.generation ++ List.replicate 7 0 ++ leBytes 8 (headTick s s.tick.count)) s

/-- INDEX_LOAD. -/
def hIndexLoad : Handler := fun c s => if u32 c.payload 12 = 0 then .done .ok [] s else moveBytes (256 * u32 c.payload 12) s

/-- The load once its bytes are here: the run is checked whole, then the shadow table takes it. -/
def loadNow (p : List Byte) (failed : Status) (s : State) : State × Status × List Byte :=
  let n := u32 p 12
  let (img, bad, s) := readSpan Who.none (addrOf s (u64 p 0)) (256 * n) s
  let es := (List.range (8 * n)).map fun k => slice img (32 * k) 32
  if failed ≠ .ok then (s, failed, [])
  else if inHost (u64 p 0) && !hostUp s then (hostFailed s, .hostUnreachable, [])
  else if bad then (s, .poisonedData, [])
  else if !es.all entReservedOk then (s, .reservedNonzero, [])
  else if es.any fun e => (loadRefusal e).isSome then (s, .invalidArgument, [])
  else
    let s := if s.index.shadowState = 0 then beginStaging (bit (u8 p 16) 0) s else s
    (loadRun (u32 p 8) img s, .ok, [])

/-- INDEX_COMMIT: with nothing staged a no-op. -/
def hIndexCommit : Handler := fun c s =>
  if s.index.shadowState = 2 ∧ s.index.commitAt = none then
    .done .ok (leBytes 4 ((s.index.epoch + 1) % 2 ^ 32) ++ leBytes 4 0 ++ leBytes 8 (headTick s (commitTick c s)))
      { s with index := { s.index with commitAt := some (commitTick c s) } }
  else .done .ok (leBytes 4 s.index.epoch ++ leBytes 4 0 ++ leBytes 8 (headTick s s.tick.count)) s

/-! ### Settings (R44, R351, R406-R408, R431) -/

def modSettings (f : Settings → Settings) (s : State) : State := { s with fmw := { s.fmw with settings := f s.fmw.settings } }

/-- TICK_CONFIG. -/
def hTickConfig : Handler := fun c s =>
  let p := c.payload
  .done .ok (leBytes 8 (headTick s (effTick s)))
    (modSettings (fun x => { x with period := u16 p 0, align := u8 p 2, syncDelay := u16 p 4 })
      (modTick (fun t => { t with next := some (effTick s, u16 p 0, u8 p 2, u16 p 4) }) s))

/-- BW_SPLIT. -/
def hBwSplit : Handler := fun c s =>
  let p := c.payload
  if (planInForce s).any fun x => decide (u8 p 0 < x.bwMin.1 ∨ u8 p 1 < x.bwMin.2.1 ∨ u8 p 2 < x.bwMin.2.2) then deny .planUnfit s
  else
    let s' := modSettings (fun x => { x with bwRead := u8 p 0, bwWrite := u8 p 1, bwRemote := u8 p 2 }) s
    .done .ok (leBytes 8 (headTick s (effTick s)))
      { s' with fmw := { s'.fmw with bwNext := some (effTick s, u8 p 0, u8 p 1, u8 p 2) } }

/-- MGMT_CONFIG: the address is taken at the next reset. -/
def hMgmtConfig : Handler := fun c s => .done .ok [] (modSettings (fun x => { x with smbus := u8 c.payload 0 }) s)

/-- The retained record that counts. -/
def retained (s : State) : Option (Nat × Settings) := present s.cave.settingsA s.cave.settingsB

/-- SETTINGS_COMMIT: a record written beside the previous one, and the lock of the RWL fields. Whether the cave fails its read-back twice is
a free value (notes/assumptions/18.md): the previous record then remains, and nothing is locked. -/
def commitSettings (s : State) : HRes :=
  let gen := ((retained s).map (·.1)).getD 0
  let lock (s : State) : State := { s with memctl := { s.memctl with locked := true } }
  if (retained s).map (·.2) = some s.fmw.settings then .done .ok (leBytes 4 gen ++ leBytes 4 0) (lock s)
  else if Config.readBackFails s.free then deny .uncorrectable { s with free := s.free + 1 }
  else
    let w := writeCopy s.cave.settingsA s.cave.settingsB s.fmw.settings
    let bytes := Config.freeNat s.free
    let s := { s with cave := { s.cave with settingsA := w.1, settingsB := w.2 }, free := s.free + 1 }
    .done .ok (leBytes 4 (gen + 1) ++ leBytes 4 bytes) (raise 0x0002 0 (leBytes 4 (gen + 1)) (lock s))

/-- SETTINGS_COMMIT with flag bit 0: the record is erased, and nothing is locked. -/
def eraseSettings (s : State) : HRes :=
  .done .ok (leBytes 4 0 ++ leBytes 4 0) { s with cave := { s.cave with settingsA := .erased, settingsB := .erased } }

def hSettingsCommit : Handler := fun c s => if u8 c.payload 0 = 1 then eraseSettings s else commitSettings s

/-- TOPOLOGY_SET: taken at the next reset. -/
def hTopology : Handler := fun c s => .done .ok [] (modSettings (fun x => { x with topology := topologyOf c.payload }) s)

/-- MODULE_RESET: the reset begins 10 ms and the delay after the response (R564). -/
def hModuleReset : Handler := fun c s => .done .ok [] { s with fmw := { s.fmw with resetDelay := some (10 + u16 c.payload 0) } }

/-! ### The handler of every command (R402) -/

def handle : Handler := fun c s =>
  match c.opcode with
  | 0x0001 => hIdentify c s
  | 0x0002 => hGetStatus c s
  | 0x0003 => hSessionInit c s
  | 0x0004 => hSessionFinish c s
  | 0x0005 => hSessionClose c s
  | 0x0101 => hQueueSetup c s
  | 0x0102 => hQueueControl c s
  | 0x0103 => hSlotSetup c s
  | 0x0104 => hCounterClaim c s
  | 0x0105 => hCounterRelease c s
  | 0x0106 => hCounterSet c s
  | 0x0201 => hInstall c s
  | 0x0202 => hRemove c s
  | 0x0301 => hCultureStage c s
  | 0x0302 => hCultureRemove c s
  | 0x0303 => hCultureCommit c s
  | 0x0304 => hIndexLoad c s
  | 0x0305 => hIndexCommit c s
  | 0x0401 => hTickConfig c s
  | 0x0402 => hBwSplit c s
  | 0x0403 => hMgmtConfig c s
  | 0x0404 => hSettingsCommit c s
  | 0x0501 => hPowerLimits c s
  | 0x0502 => hPowerState c s
  | 0x0601 => hFwStage c s
  | 0x0602 => hFwActivate c s
  | 0x0603 => hFwStatus c s
  | 0x0701 => hAttest c s
  | 0x0702 => hCredentialSet c s
  | 0x0703 => hDebugToken c s
  | 0x0704 => hLifecycleSet c s
  | 0x0801 => hUnitDrain c s
  | 0x0802 => hUnitReturn c s
  | 0x0803 => hRecalibrate c s
  | 0x0804 => hPlanReplace c s
  | 0x0805 => hModuleReset c s
  | 0x0806 => hTopology c s
  | _ => deny .invalidArgument s

/-- A retirement resets the module after its response: every queue is reset, every session closes, the level returns to D0 (R508, R530,
R563). -/
def retireReset (before : State) (s : State) : State :=
  if !before.fuses.retired && s.fuses.retired then
    let s := (s.queues.map (·.1)).foldl (fun s q =>
      if (getQ s q).mode = .disabled then s else resetQueue q .ownerReset .running s) s
    let s := (s.fmw.sessions.map (·.id)).foldl (fun s i => closeSession i s) s
    resetAtOnce 7 (dropLevel 4 s)
  else s

/-- A command of an opcode arrives in a mailbox (R386-R402). -/
def mailboxCommand (op : Nat) (call : MbCall) (s : State) : State := retireReset s (submit handle payloadCheck op call s)

/-- The events and the commands that waited while the hub cores were halted or the mailboxes paused (R528, R546). -/
def serveParked (s : State) : State := retireReset s (unpark handle payloadCheck (flushEvents s))

/-! ### SETTINGS_COMMAND_START and MAILBOX_COMMAND_STEP (R400, R401) -/

/-- SETTINGS_COMMAND_START: the next settings command takes its turn, or the state that a running one waits for holds. -/
def settingsStart (s : State) : State :=
  match s.fmw.running with
  | none => retireReset s (nextSettings handle s)
  | some r => if r.cmd.opcode = 0x0302 ∧ cultureWaits s = false then startSettings handle r.cmd s else s

/-- The bytes of one step. -/
def stepBytes : Nat := 16 * 2 ^ 20

/-- Whether a command is stepped, and the state that it waits for does not hold. -/
def stepWaits (s : State) (op : Nat) : Bool :=
  match op with
  | 0x0201 => false
  | 0x0301 => cultureWaits s
  | 0x0304 => indexWaits s
  | _ => true

/-- The end of a stepped command. -/
def endStepped (r : Running) (s : State) : State :=
  let res := match r.cmd.opcode with
    | 0x0201 => installPackage r.cmd.payload s
    | 0x0301 => stageNow r.cmd.payload s
    | _ => loadNow r.cmd.payload r.status s
  finishCmd r.cmd res.2.1 r.steps res.2.2 (endTurn res.1)

def setRunning (r : Running) (s : State) : State := { s with fmw := { s.fmw with running := some r } }

/-- The reads of another module's HBM that bring the image of an INDEX_LOAD (R434). -/
def askImage (dst address len : Nat) (s : State) : State :=
  match lostStatus s dst with
  | some st => { s with fmw := { s.fmw with running := s.fmw.running.map fun (r : Running) => { r with asked := true, status := st } } }
  | none =>
    (pieces 4096 address len).foldl (fun s p =>
      let x := issue 2 dst p.1 p.2 0 [] [] none commandQueue 0 s
      { x.1 with fmw := { x.1.fmw with running := x.1.fmw.running.map fun (r : Running) =>
        { r with asked := true, reqs := r.reqs ++ [(dst, x.2)] } } }) s

/-- The count of steps that the mailbox shows. -/
def showSteps (c : Cmd) (n : Nat) (s : State) : State :=
  match c.src with
  | .mailbox m => modBox m (fun b => { b with steps := min 0xFFFF n }) s
  | .forwarded _ _ => s

/-- MAILBOX_COMMAND_STEP: one step of 16 MiB in a tick; the end of a measurement. -/
def commandStep (s : State) : State :=
  match s.fmw.running with
  | none => s
  | some r =>
    if r.cmd.opcode = 0x0803 then endRecalibrate r s
    else if r.asked then (if r.reqs.isEmpty then endStepped r s else s)
    else if stepWaits s r.cmd.opcode || r.stepTick == s.tick.count + 1 then s
    else
      let r := { r with bytesLeft := r.bytesLeft - stepBytes, steps := r.steps + 1, stepTick := s.tick.count + 1 }
      let s := showSteps r.cmd r.steps (setRunning r s)
      if r.bytesLeft ≠ 0 then s
      else
        match r.cmd.opcode, addrOf s (u64 r.cmd.payload 0) with
        | 0x0304, .remote m x => askImage m x (256 * u32 r.cmd.payload 12) s
        | _, _ => endStepped r s

/-! ### FORWARDED_COMMAND and FORWARDED_RESPONSE (R397, R399) -/

/-- A target receives a forwarded command: checks 9 and 10, then the command. -/
def takeForward (a : MgmtAuth) (f : Forwarded) (s : State) : State :=
  receiveMgmt a (fun s => match f.effective with
    | some tick => takeEffective f.opcode tick f.payload s
    | none =>
      let c : Cmd := { src := .forwarded f.entry f.mailbox, opcode := f.opcode, tagged := false, sequence := f.sequence,
                       target := f.target, session := 0, counter := f.counter, payload := f.payload, rspKey := [] }
      retireReset s (targetRun handle payloadCheck c s)) s

/-- A GET_STATUS response of another module holds the last accepted counter of the command's session on the entry module (R404). -/
def withCounter (s : State) (c : Cmd) (payload : List Byte) : List Byte :=
  if c.opcode = 2 ∧ payload.length = 264 then leBytes 8 (lastAccepted s c.session) ++ payload.drop 8 else payload

/-- The entry module receives a target's response. -/
def takeResponse (a : MgmtAuth) (src sequence : Nat) (st : Status) (payload : List Byte) (s : State) : State :=
  receiveMgmt a (fun s =>
    match s.fmw.forwards.find? fun f => f.cmd.sequence == sequence && f.awaited.contains src with
    | none => s
    | some f =>
      let g := if f.cmd.target = 0xFF ∧ st = .ok then f.answer payload else f
      settleForward { g with awaited := f.awaited.filter (· != src), results := aset f.results src st,
                             ownPayload := if f.cmd.target = 0xFF then f.ownPayload else withCounter s f.cmd payload } s) s

end Sys2Proof.Machine
end

