-- ==== Sys2Proof/Machine/Startup.lean ====
section
/-!
DEFINITION. Resets, rails, start-up, the TAP, and the timeouts of sessions and tokens (R391, R505-R513, R521, R522, R556-R586).
-/

namespace Sys2Proof.Machine

def modStart (f : Start → Start) (s : State) : State := { s with start := f s.start }

/-! ### Resets (R556, R563, R564, R566, R577) -/

/-- POWER_ON: a power-on reset clears the counts that only it clears; the timebase starts again; both pins are low. -/
def powerOn (s : State) : State :=
  let s := resetModule 0 s
  modTick (fun t => { t with timebase := 0 })
    (modStart (fun x => { x with count := 0, railCount := 0, railKind := 0, rail := 0, railsOn := true, boundary := [], bypass := false,
                                 resetLow := true, perstLow := true }) s)

/-- PIN_RESET: RESET_N goes low. With PERST_N low already it is one reset, of cause 1. -/
def pinReset (s : State) : State :=
  if s.start.resetLow then s
  else
    let s := if s.start.inReset then modStart (fun x => { x with cause := 1 }) s else resetModule 1 s
    modStart (fun x => { x with resetLow := true }) s

/-- CONVENTIONAL_RESET: PERST_N goes low. -/
def perstReset (s : State) : State :=
  if s.start.perstLow then s
  else modStart (fun x => { x with perstLow := true }) (if s.start.inReset then s else resetModule 2 s)

/-- START_ORIGIN: both pins are high; the sequence begins unless a brown-out holds the module. -/
def startOrigin (s : State) : State :=
  let s := modStart (fun x => { x with resetLow := false, perstLow := false }) s
  if s.start.inReset && !s.start.brownOut then beginStart s else s

/-- CXL_HOT_RESET and CXL_RESET: over a link that is up. -/
def linkReset (cause : Nat) (s : State) : State := if s.cxl.protocols = 0 then s else resetAtOnce cause s

/-- MODULE_RESET_DELAY. -/
def delayedReset (s : State) : State := if s.fmw.resetDelay.isSome then resetAtOnce 5 s else s

/-- WATCHDOG_TIMEOUT: only while Mehrore runs and no hub core is halted. -/
def watchdog (s : State) : State :=
  if s.sec.halted = 0 && decide (5 ≤ s.start.seq) && !s.sec.recovery then resetAtOnce 8 s else s

/-- BROWN_OUT: the module is held in reset as by RESET_N, and the rail is recorded. A rail that the module has switched off has none. -/
def brownOut (rail kind : Nat) (s : State) : State :=
  let possible := decide (kind ≤ 1) && (decide (rail ≤ 11) && s.start.railsOn || decide (rail ≤ 13) && kind == 1)
  if !possible || s.start.brownOut then s
  else
    let s := if s.start.inReset then modStart (fun x => { x with cause := 1 }) s else resetModule 1 s
    modStart (fun x => { x with brownOut := true, railCount := satAdd 65535 x.railCount 1, railValid := true, railKind := kind, rail := rail }) s

/-- BROWN_OUT_RECOVERY: every rail has been back for 1 ms. -/
def brownOutOver (s : State) : State :=
  if !s.start.brownOut then s
  else
    let s := modStart (fun x => { x with brownOut := false }) s
    if s.start.resetLow || s.start.perstLow then s else beginStart s

/-- ALWAYS_ON_RAIL_LOSS: a power-on reset when the rail returns. -/
def aonLoss (rail : Nat) (s : State) : State := if rail = 12 ∨ rail = 13 then powerOn s else s

/-! ### Start failure (R562, R568) -/

/-- A start failure: a record of severity 3, FAILED, and the event where the module is the head. -/
def startFailure (step unit : Nat) (r : ErrRec) (s : State) : State :=
  let s := errRecord r s
  let s := flushEvents { s with start := { s.start with failed := true }, cxl := { s.cxl with crs := false } }
  if isHead s then raise 0x0711 3 (leBytes 1 step ++ [0] ++ leBytes 2 unit) s else s

/-- Whether the sequence runs: begun, and neither failed, in recovery nor at its end. -/
def starting (s : State) : Bool :=
  decide (4 ≤ s.start.seq) && !s.start.failed && !s.sec.recovery && !s.start.fwReady && s.power.state != 3

/-- RAIL_POWER_GOOD_TIMEOUT: a switched rail does not come up, before step 4 of R557. -/
def railTimeout (rail statusWord : Nat) (s : State) : State :=
  if starting s && decide (rail ≤ 11) && s.start.trained == 0 then
    startFailure 4 rail { type := 0x0010, severity := 3, source := 8, unit := rail, status := 0, address := 0, queue := 0xFFFFFFFF,
                          tag := 0, symbols := 0, symbol := 0xFF, flags := 0, detail := leBytes 2 statusWord } s
  else s

/-! ### The sequence (R557-R560) -/

/-- Steps 6 and 7 are reached once the stacks and the steps before are; step 7 sets Memory_Active. -/
def advanceStart (s : State) : State :=
  let s := if s.start.seq = 5 ∧ s.start.trained = 12 then modStart (fun x => { x with seq := 6 }) s else s
  if s.start.seq = 6 ∧ s.start.initialised = 12 then modStart (fun x => { x with seq := 7, memActive := true }) s else s

/-- The other slot after a failure of the one that boots, where it may still be tried and passes. -/
def otherSlotPasses (s : State) : Bool :=
  !s.sec.fallback && (slotFails s s.fuses.rollback (slotRec s (1 - s.sec.bootSlot))).isNone

/-- HUB_CORES_RUN_MEHRORE: the guard firmware has checked stages 2 and 3 of the slot; in recovery the CXL port is down (R504, R506). -/
def hubCoresRun (s : State) : State :=
  if !starting s || s.start.seq != 4 then s
  else
    let run (s : State) : State := advanceStart (modStart (fun x => { x with seq := 5 }) s)
    match slotFails s s.fuses.rollback (slotRec s s.sec.bootSlot) with
    | none => run s
    | some f =>
      if otherSlotPasses s then run (bootFallback s.sec.bootSlot f.1 f.2 s)
      else { s with sec := { s.sec with recovery := true },
                    cxl := { s.cxl with width := 0, rate := 0, protocols := 0, reduced := false } }

/-- HBM_STACK_TRAINED: in ascending order; a stack that fails twice is a start failure. -/
def stackTrained (stack : Nat) (ok : Bool) (s : State) : State :=
  if !starting s || stack != s.start.trained || decide (12 ≤ stack) then s
  else if ok then advanceStart (modStart (fun x => { x with trained := x.trained + 1, attempts := 0 }) s)
  else if s.start.attempts = 0 then modStart (fun x => { x with attempts := 1 }) s
  else
    startFailure 6 stack { type := Config.freeNat s.free, severity := 3, source := 0, unit := stack, status := 0, address := 0,
                           queue := 0xFFFFFFFF, tag := 0, symbols := 0, symbol := 0xFF, flags := 0, detail := [] }
      { s with free := s.free + 1 }

/-- HBM_STACK_INITIALISED: every word of the stack is zero and unpoisoned. -/
def stackInitialised (stack : Nat) (s : State) : State :=
  if !starting s || stack != s.start.initialised || decide (s.start.trained ≤ stack) then s
  else
    let other (a : Nat) : Bool := stackOf s.memctl.active a != stack
    let s := { s with
      hbm := s.hbm.filter fun c => other c.1, poison := s.poison.filter fun w => other (w * 32),
      memctl := { s.memctl with latent := s.memctl.latent.filter fun p => other (p.1 * 32) } }
    advanceStart (modStart (fun x => { x with initialised := x.initialised + 1 }) s)

/-- A vat that fails its zero initialisation or its SRAM check is failed (R562). The test stage that the event holds is a free value. -/
def vatFailsStart (s : State) (v : Nat) : State :=
  if 160 ≤ v then s
  else
    let u : UnitId := { cls := 0, num := v }
    raise 0x0702 2 (leBytes 1 0 ++ leBytes 1 (Config.freeNat s.free) ++ leBytes 2 v) (setSvcState u 3 { s with free := s.free + 1 })

/-- The ports that the topology in force uses. -/
def topologyPorts (s : State) : List Nat := (upFrom 0 24).filter fun p => bit s.fabric.topology.portMask p

/-- Step 11: every port of the topology is up, down, failed or miswired. -/
def noteLinks (s : State) : State :=
  let ps := topologyPorts s
  let st (p : Nat) : Nat := (getPort s p).state
  let count (n : Nat) : Nat := ps.countP fun p => st p == n
  if s.start.fwReady && !s.start.links && ps.all (fun p => decide (p < 4 * s.fabric.groupNext) && st p != 0 && st p != 2) then
    let up := count 3 + count 4
    raise 0x0712 (if up = ps.length then 0 else 1) (leBytes 1 up ++ leBytes 1 (count 1 + count 5) ++ leBytes 1 (count 6))
      (modStart (fun x => { x with links := true }) s)
  else s

/-- FIRMWARE_READY: steps 8 and 9; STARTUP_COMPLETE comes before the held events; the head places its first boundary. -/
def firmwareReady (ms : Nat) (vatFailures : List Nat) (s : State) : State :=
  if !starting s || s.start.seq != 7 then s
  else
    let s := vatFailures.foldl vatFailsStart (modStart (fun x => { x with seq := 8, vatsOn := true }) s)
    let first : Event := { code := 0x0710, severity := 0, module := self s, tick := s.tick.count,
                           detail := leBytes 1 s.start.cause ++ [0] ++ leBytes 2 (min 65535 ms) ++ leBytes 8 s.start.incarnation }
    let s := { s with
      start := { s.start with seq := 9, fwReady := true, readyMs := min 65535 ms }, cxl := { s.cxl with crs := false },
      fmw := { s.fmw with heldEvents := first :: s.fmw.heldEvents } }
    let s := flushEvents s
    let s := if isHead s then modTick (fun t => { t with placed := true, last := t.timebase }) s else s
    noteLinks s

/-- PORT_GROUP_START: the next group of 4 ports that the topology uses begins training. -/
def portGroupStart (s : State) : State :=
  if !s.start.fwReady || decide (6 ≤ s.fabric.groupNext) then s
  else
    let g := s.fabric.groupNext
    let ps := (topologyPorts s).filter fun p => p / 4 == g && (getPort s p).state == 0
    let s := { s with fabric := { s.fabric with groupNext := g + 1 } }
    ps.foldl (fun s p => emit (.retrain p) (modPort p (fun x => { retrainPort 2 x with retrains := x.retrains }) s)) s

/-! ### Timeouts of sessions and tokens (R391, R513, R521) -/

/-- SESSION_PENDING_TIMEOUT. -/
def pendingTimeout (id : Nat) (s : State) : State :=
  { s with fmw := { s.fmw with sessions := s.fmw.sessions.filter fun x => !(x.id == id && !x.isOpen) } }

/-- SESSION_EXPIRED. -/
def sessionExpired (id : Nat) (s : State) : State :=
  if s.fmw.sessions.any fun x => x.id == id && x.isOpen then closeSession id (raise 0x0001 0 (leBytes 4 id) s) else s

/-- AUTH_LOCKOUT_END. -/
def lockoutEnd (s : State) : State := { s with fmw := { s.fmw with lockout := false, failures := [] } }

/-- DEBUG_TOKEN_EXPIRY. -/
def tokenExpiry (s : State) : State := if s.sec.token.isSome then endToken 2 s else s

/-! ### The TAP (R522, R528) -/

/-- The 32 bits of IDCODE, lowest first: 1, the manufacturer code, the part number, the version. -/
def idcode : Nat := 1 + 2 * (Config.jedecCode % 2048) + 0x0B20 * 2 ^ 12 + 1 * 2 ^ 28

/-- The lowest bits of a number. -/
def lowBits (n v : Nat) : List Bool := (List.range n).map (bit v)

/-- After a scan the module accepts only a reset, and no other instruction of the TAP (R522). -/
def tapAccepts (f : State → State) (s : State) : State := if s.sec.scanned then s else f s

/-- TAP_BYPASS: one bit of delay. -/
def tapBypass (tdi : Bool) (s : State) : State := modStart (fun x => { x with bypass := tdi }) (emit (.tdo [s.start.bypass]) s)

/-- TAP_SAMPLE_PRELOAD: the pins as sampled, which are free values, go out; the boundary register is loaded. -/
def tapSample (preload : List Bool) (s : State) : State :=
  let r := freeBytes preload.length s
  modStart (fun x => { x with boundary := preload }) (emit (.tdo (r.1.map fun b => b.getLsbD 0)) r.2)

/-- TAP_EXTEST: the boundary register drives the pins while RESET_N is low. -/
def tapExtest (s : State) : State := if s.start.resetLow then emit (.pins s.start.boundary) s else s

/-- TAP_SCAN: at D3 and with every domain powered, every clock stops. -/
def tapScan (s : State) : State :=
  if s.sec.level = 3 ∧ s.power.state ≤ 1 then { s with sec := { s.sec with scanned := true } } else s

/-- TAP_MEMORY_ACCESS: a byte of HBM by its device address, at D3 while HBM is powered. -/
def tapMemory (a : Nat) (write : Option Byte) (s : State) : State :=
  match write with
  | some b => writeHbm a [b] [] s
  | none => let r := readSpan Who.none (.hbm a) 1 s; emit (.tapByte (r.1.headD 0)) r.2.2

/-- Whether the private instruction for memory access reaches HBM. -/
def tapReaches (s : State) : Bool := s.sec.level == 3 && s.power.state != 3 && !s.start.inReset && !s.sec.scanned

end Sys2Proof.Machine
end

