-- ==== Sys2Proof/Machine/Host.lean ====
section
/-!
DEFINITION. The CXL port: link, reduced mode, CXL.mem, snoops, configuration requests, timeouts, MSI-X masks, function-level reset
(R450-R468, R559).
-/

namespace Sys2Proof.Machine

def modCxl (f : Cxl → Cxl) (s : State) : State := { s with cxl := f s.cxl }

/-- Whether the link is up. -/
def cxlUp (s : State) : Bool := s.cxl.protocols != 0

/-! ### The link (R451, R452, R463) -/

/-- CXL_STATUS.WIDTH of a number of lanes: the widest width that they allow (R451). -/
def widthCode (lanes : Nat) : Nat := if 16 ≤ lanes then 3 else if 8 ≤ lanes then 2 else if 4 ≤ lanes then 1 else 0

/-- CXL_STATUS.RATE at a width, of a rate in GT/s that both ends support: x4 runs at 32 or at 8 GT/s (R450). -/
def rateCode (width gts : Nat) : Nat := if 32 ≤ gts then 2 else if 16 ≤ gts ∧ 2 ≤ width then 1 else 0

/-- Whether the port of this module trains: the head's or a single module's, from step 2 of R557, outside A3 and recovery (R428,
R489, R506, R557). -/
def portTrains (s : State) : Bool := isHead s && decide (2 ≤ s.start.seq) && s.power.state != 3 && !s.sec.recovery

/-- CXL_LINK_TRAINED: the link trains or retrains; below x4 it stays down. -/
def linkTrained (lanes gts : Nat) (s : State) : State :=
  if !portTrains s || decide (gts < 8) then s
  else if widthCode lanes = 0 then
    let s := if cxlUp s then modCxl (fun c => { c with linkDowns := satAdd 15 c.linkDowns 1 }) s else s
    raise 0x0810 2 (leBytes 1 2) (modCxl (fun c => { c with width := 0, rate := 0, protocols := 0, reduced := false }) s)
  else
    let w := widthCode lanes
    let r := rateCode w gts
    let s := modCxl (fun c => { c with width := w, rate := r, protocols := if c.protocols = 0 then 2 else c.protocols }) s
    if w = 3 ∧ r = 2 then s else raise 0x0811 1 (leBytes 1 w ++ leBytes 1 r) s

/-- REDUCED_MODE_ENTRY: CXL.io alone; queues with a ring in space 2 stop. -/
def enterReduced (s : State) : State :=
  if !cxlUp s then s
  else
    let s := modCxl (fun c => { c with protocols := 1, reduced := true }) s
    (s.queues.map (·.1)).foldl (fun s q => stopIfReduced q s) s

/-- CXL_LINK_DOWN: cause 0 link loss, 1 fatal error. -/
def linkDown (cause : Nat) (s : State) : State :=
  if !cxlUp s then s
  else
    raise 0x0810 2 (leBytes 1 cause)
      (modCxl (fun c => { c with width := 0, rate := 0, protocols := 0, reduced := false, linkDowns := satAdd 15 c.linkDowns 1 }) s)

/-- CXL_TIMEOUT, at most once every 10 µs (R463). -/
def timeoutEvent (hpa : Nat) (s : State) : State :=
  let now := s.tick.timebase
  if s.cxl.lastTimeout.any fun t => decide (now < t + 10000) then s
  else raise 0x0813 1 (leBytes 8 hpa) (modCxl (fun c => { c with lastTimeout := some now }) s)

/-- HOST_REQUEST_TIMEOUT: a space 2 request of a descriptor fetch or of a started operation has had no response for 10 ms. -/
def requestTimeout (q : Nat) (idx : U32) (fetch : Bool) (hpa now : Nat) (s : State) : State :=
  let s := atTime now s
  let count (s : State) : State := timeoutEvent hpa (modCxl (fun c => { c with timeouts := satAdd 65535 c.timeouts 1 }) s)
  if fetch then
    if (getQ s q).mode = .running then stopQueue q .hostUnreachable (modQ q (fun v => { v with fetched := [] }) (count s)) else s
  else
    match getOp s q idx with
    | none => s
    | some o =>
      if o.phase = .running ∨ o.phase = .blocked then
        let s := (opOutputs s q o).foldl (fun s x => scramble x.1 x.2 s) (count s)
        freePress q idx (finishOp q idx .hostUnreachable 0 s)
      else s

/-! ### Host-managed device memory (R456-R458, R462) -/

/-- The first device address of Range 1. -/
def range1 : Nat := 0x0072D05E0000

/-- The device address of a host physical address under the committed decoder, where the whole span lies in its range and the window is
exposed and active. -/
def windowAddr (s : State) (hpa len : Nat) : Option Nat :=
  match s.cxl.hdm with
  | some (base, size) =>
    if base ≤ hpa ∧ hpa + len ≤ base + size ∧ s.cxl.protocols = 2 ∧ s.start.memActive = true then some (range1 + (hpa - base)) else none
  | none => none

/-- CXL_MEM_READ: the current value, with the poison indication. -/
def memRead (a len : Nat) (s : State) : State :=
  let r := readSpan Who.none (.hbm a) len s
  emit (.memData r.1 r.2.1) r.2.2

/-- CXL_MEM_WRITE: the write, poisoned or not, and its completion. -/
def memWrite (a : Nat) (data : List Byte) (poison : Bool) (s : State) : State :=
  let s := if poison then modCxl (fun c => { c with poisonIn := satAdd 255 c.poisonIn 1 }) s else s
  emit .memDone (writeHbm a data (data.map fun _ => poison) s)

/-- The limits of R456 on a decoder. -/
def decoderOk (base size ways skip : Nat) : Bool :=
  base % 0x10000000 == 0 && size % 0x10000000 == 0 && decide (size ≤ 0x4000000000) && ways == 1 && skip == 0

/-- HDM_DECODER_COMMIT. -/
def commitDecoder (base size ways skip : Nat) (s : State) : State :=
  if !cxlUp s then s
  else if decoderOk base size ways skip then modCxl (fun c => { c with hdm := some (base, size) }) s
  else emit .commitError s

/-- CXL_SNOOP (R459). -/
def snoop (address : Nat) (s : State) : State := if s.cxl.protocols = 2 then emit (.snoopRsp address) s else s

/-! ### Configuration requests (R453, R454, R559) -/

/-- The identity words of configuration space: device ID and class with revision (R453). -/
def configWord (s : State) (offset : Nat) : U32 :=
  if offset = 0 then 0x0B200000#32 ||| (Config.configSpace 0 &&& 0xFFFF#32)
  else if offset = 4 then
    (Config.configSpace 4 &&& 0xFFFFFFF9#32) ||| (if s.cxl.memSpace then 2#32 else 0#32) ||| (if s.cxl.busMaster then 4#32 else 0#32)
  else if offset = 8 then 0x120000B0#32
  else if offset = Config.msixCapability then
    (Config.configSpace offset &&& 0xBFFFFFFF#32) ||| (if s.cxl.functionMask then 0x40000000#32 else 0#32)
  else Config.configSpace offset

/-- Send every pending message whose vector is no longer masked (R464). -/
def sendPending (s : State) : State :=
  s.cxl.pendingBits.foldl (fun s v =>
    if s.cxl.functionMask || (msixEntry s v).masked then s
    else sendMsix v (modCxl (fun c => { c with pendingBits := sdel c.pendingBits v }) s)) s

/-- The effect of a configuration write: memory space and bus master enables, and the MSI-X function mask. -/
def configWrite (offset : Nat) (v : U32) (s : State) : State :=
  if offset = 4 then modCxl (fun c => { c with memSpace := v.getLsbD 1, busMaster := v.getLsbD 2 }) s
  else if offset = Config.msixCapability then sendPending (modCxl (fun c => { c with functionMask := v.getLsbD 30 }) s)
  else s

/-- CONFIG_REQUEST: CRS until firmware ready, and then the read or the write. -/
def configRequest (offset : Nat) (write : Option U32) (s : State) : State :=
  if !cxlUp s then s
  else if s.cxl.crs then emit (.configDone true 0) s
  else
    match write with
    | none => emit (.configDone false (configWord s offset)) s
    | some v => emit (.configDone false 0) (configWrite offset v s)

/-! ### MSI-X (R464) -/

/-- MSIX_UNMASK: the vector's mask is cleared; a pending bit sends one message. -/
def unmask (v : Nat) (s : State) : State :=
  if 2048 ≤ v then s
  else sendPending (modCxl (fun c => { c with table := mput c.table v { mgetD c.table v MsixEntry.off with masked := false } }) s)

/-! ### Function-level reset (R465) -/

/-- The box of a host mailbox whose response is discarded. -/
def discardBox (m : Nat) : Nat := if m < 4 then m + 8 else m

def discardCmd (c : Cmd) : Cmd :=
  { c with src := match c.src with
    | .mailbox m => .mailbox (discardBox m)
    | x => x }

/-- Host mailboxes 0-3 read as idle; what they had asked for runs on without a response. -/
def flrMailboxes (f : Mehrore) : Mehrore :=
  { f with
    boxes := (f.boxes.zip (upFrom 0 f.boxes.length)).map fun p =>
      if p.2 < 4 then { p.1 with busy := false, done := false, rejected := false } else p.1,
    waiting := f.waiting.map discardCmd, running := f.running.map fun (r : Running) => { r with cmd := discardCmd r.cmd },
    parked := f.parked.map fun p => (p.1, { p.2 with mb := discardBox p.2.mb }),
    forwards := f.forwards.map fun (x : Forwarding) => { x with cmd := discardCmd x.cmd },
    resets := f.resets.map fun p => (p.1, discardCmd p.2) }

/-- Every queue is disabled at once; its plan job stops at the next boundary. -/
def flrQueue (s : State) (q : Nat) : State :=
  if (getQ s q).mode = .disabled then s
  else resetQueueBy (modJob fun j => { j with failing := j.failing <|> some .ownerReset }) q .ownerReset .disabled s

/-- FLR of the head module. -/
def functionReset (s : State) : State :=
  if !isHead s || !cxlUp s then s
  else
    let s := (s.queues.map (·.1)).foldl flrQueue s
    let n := satAdd 255 s.cxl.flrCount 1
    let s := { s with
      fmw := flrMailboxes s.fmw, rings := [],
      err := { s.err with tail := s.err.head }, evt := { s.evt with tail := s.evt.head },
      cxl := { s.cxl with flrCount := n, table := [], pendingBits := [], functionMask := false, busMaster := false, memSpace := false } }
    raise 0x0812 1 (leBytes 1 n) s

end Sys2Proof.Machine
end

