-- ==== Sys2Proof/Machine/Scrub.lean ====
section
/-!
DEFINITION. Scrubbing of HBM and of the SRAM arrays, and error injection (R308-R317, R325, R326).
-/

namespace Sys2Proof.Machine

def modMem (f : MemCtl → MemCtl) (s : State) : State := { s with memctl := f s.memctl }

/-- The words of the module's HBM. -/
def hbmWords : Nat := hbmBytes / 32

/-- Two errors that meet in one word: an error in the symbol that is wrong already spoils no further symbol (R310). -/
def joinLatent (old : Option Latent) (l : Latent) : Latent :=
  match old with
  | none => l
  | some o =>
    let same := o.symbols ≠ 0 ∧ l.symbols ≠ 0 ∧ o.symbol = l.symbol
    { symbols := o.symbols + l.symbols - (if same then 1 else 0), symbol := if o.symbols = 0 then l.symbol else o.symbol, mark := o.mark || l.mark,
                injected := o.injected || l.injected }

/-- Whether scrubbing runs: in A0 and A1, once the memory is active (R315). -/
def scrubs (s : State) : Bool := decide (s.power.state ≤ 1) && s.start.memActive

/-! ### HBM_SCRUB (R312, R313, R315, R316) -/

/-- An upset comes to lie in its word. -/
def upsetHbm (u : Option Upset) (s : State) : State :=
  match u with
  | some x =>
    if x.word < hbmWords ∧ x.symbols ≠ 0 then
      let l : Latent := { symbols := x.symbols, symbol := x.symbol, mark := false, injected := false }
      modMem (fun m => { m with latent := mput m.latent x.word (joinLatent (mget m.latent x.word) l) }) s
    else s
  | none => s

/-- HBM_SCRUB: the scrubber reads the next word in address order; a pass ends at the last one. -/
def hbmScrub (u : Option Upset) (s : State) : State :=
  let s := upsetHbm u s
  if !scrubs s then s
  else
    let w := s.memctl.scrubNext
    let s := touchWord { Who.none with scrub := true } s w
    if w + 1 < hbmWords then modMem (fun m => { m with scrubNext := w + 1 }) s
    else modMem (fun m => { m with scrubNext := 0, granuleCe := [], noted := [] }) s

/-! ### SRAM_SCRUB (R313, R319, R326) -/

/-- The armed injection that names a word of an array other than HBM. -/
def armedFor (s : State) (source unit off : Nat) : Option Latent :=
  let v := s.memctl.inject.toNat
  let addr := s.memctl.injectLo.toNat + 2 ^ 32 * s.memctl.injectHi.toNat
  if bit v 31 && bits v 27 24 == source && bits v 23 16 == unit && addr / 32 == off / 32 && bits v 1 0 != 0 then
    some { symbols := if bits v 1 0 = 3 then 0 else bits v 1 0, symbol := bits v 15 8, mark := bits v 1 0 == 3, injected := true }
  else none

/-- An uncorrectable word of a shared cache (R319). Which line the word holds is internal to the device, so it is free: a clean line is
fetched again and changes no result, a dirty one writes its word back poisoned (notes/assumptions/14.md). -/
def cacheWordLost (s : State) : State :=
  let w := Config.freeNat s.free % (hbmWords + 1)
  let s := { s with free := s.free + 1 }
  if w < hbmWords then { s with poison := sadd s.poison w } else s

/-- What an uncorrectable word of an array means for what it holds (R139, R299, R319, R537). -/
def sramFails (source unit off : Nat) (s : State) : State :=
  match source with
  | 1 => unitUncorr { cls := 0, num := unit } { s with sramPoison := sadd s.sramPoison (sramKey unit off / 32) }
  | 2 => cacheWordLost s
  | 3 => unitUncorr { cls := 1, num := unit } (modEngine unit (fun e => { e with offline := true, tableUncorr := satAdd 255 e.tableUncorr 1 }) s)
  | 5 => unitUncorr { cls := 4, num := unit } (modPress unit (fun e => { e with sramUncorr := satAdd 255 e.sramUncorr 1 }) s)
  | 6 => poisonCounters 4 .uncorrectable [off / 32] s
  | _ => s

/-- The error of a word that the scrubber reads. -/
def scrubSramWord (source unit off : Nat) (l : Latent) (s : State) : State :=
  let who := { Who.none with scrub := true }
  if l.mark then
    if source = 1 then { s with sramPoison := sadd s.sramPoison (sramKey unit off / 32) }
    else if source = 6 then poisonCounters 4 .uncorrectable [off / 32] s
    else s
  else if l.symbols ≤ 1 then correctSram source unit off who l s
  else if 3 ≤ l.symbols ∧ Config.miscorrects s.free = true then
    let s := { s with free := s.free + 1 }
    if source = 1 then let r := freeBytes 32 s; { r.2 with sram := sramWrite r.2 unit off r.1 } else s
  else sramFails source unit off (uncorrectSram source unit off who l s)

/-- SRAM_SCRUB: one word of an array is read and corrected. `symbols` is the error that an upset left in it; the word of offset 0 begins a
pass of its array. -/
def sramScrub (source unit offset symbols symbol : Nat) (s : State) : State :=
  if decide (s.power.state > 1) || source == 0 || decide (7 < source) || (source == 1 && !s.start.vatsOn) then s
  else
    let off := offset / 32 * 32
    let s := if off = 0 then
      modMem (fun m => { m with notedSram := m.notedSram.filter fun b => !(b.1 == source && b.2.1 == unit) }) s else s
    let here (x : Nat × Nat × Nat × Latent) : Bool := x.1 == source && x.2.1 == unit && x.2.2.1 / 32 == off / 32
    let lain := (s.memctl.sramLatent.find? here).map (·.2.2.2)
    let made := if source = 1 then none else armedFor s source unit off
    let upset := if symbols = 0 then none else some ({ symbols := symbols, symbol := symbol, mark := false, injected := false } : Latent)
    let s := modMem (fun m => { m with sramLatent := m.sramLatent.filter fun x => !here x,
                                       inject := if made.isSome then m.inject &&& 0x7FFFFFFF#32 else m.inject }) s
    let all := [lain, made, upset].filterMap id
    match all with
    | [] => s
    | l :: r => scrubSramWord source unit off (r.foldl (fun a b => joinLatent (some a) b) l) s

/-! ### ERR_INJECT (R325) -/

/-- ERR_INJECT_WRITE: bit 30 clears DENIED; a write with ARM arms at D2 and D3 and sets DENIED elsewhere. A write without ARM sets the
fields and disarms. -/
def injectWrite (v : U32) (s : State) : State :=
  let old := s.memctl.inject
  let denied : U32 := if v.getLsbD 30 then 0 else old &&& 0x40000000#32
  if v.getLsbD 31 && decide (s.sec.level < 2) then modMem (fun m => { m with inject := (old &&& 0xBFFFFFFF#32) ||| 0x40000000#32 }) s
  else modMem (fun m => { m with inject := (v &&& 0x8FFFFF03#32) ||| denied }) s

end Sys2Proof.Machine
end

