-- ==== Sys2Proof/Machine/Registers.lean ====
section
/-!
DEFINITION. The register maps: what a read of each register returns, what a write does by its access code, and the mailbox window over
SMBus (R13, R385-R387, R455 and the register tables of every chapter).
-/

namespace Sys2Proof.Machine

/-! ### Reads -/

/-- The low and high halves of a 64-bit count. -/
def lo32 (n : Nat) : Nat := n % 2 ^ 32
def hi32 (n : Nat) : Nat := n / 2 ^ 32 % 2 ^ 32

/-- Bits [30:0] of a lost count above its LOST bit, as ERR_LOST, EVT_LOST and THR_LOST show them. -/
def lostWord (r : RecRing) : Nat := r.lostCount * 2 + b2n r.lost

/-- A word of a record window. -/
def ringWord (size bytes : Nat) (r : RecRing) (off : Nat) : Nat := u32 (mgetD r.recs (off / bytes % size) []) (off % bytes)

/-- The code of a queue's state. -/
def modeCode : QMode → Nat
  | .disabled => 0
  | .running => 1
  | .stopped => 2

/-- A word of a queue's doorbell page (R329). -/
def doorbellWord (s : State) (q off : Nat) : Nat :=
  let v := getQ s q
  match off with
  | 0x0 => v.tail.toNat
  | 0x4 => v.head.toNat
  | 0x8 => v.done.toNat
  | 0xC => statusCode v.lastStop * 2 ^ 16 + v.cls * 2 ^ 5 + v.prio * 2 ^ 2 + modeCode v.mode
  | _ => 0

/-- CTR_STATE (R370). -/
def ctrState (k : Ctr) : Nat :=
  b2n (k.mode == .poisoned) * 2 ^ 31 + b2n (k.mode == .claimed) * 2 ^ 30 + b2n k.inJob * 2 ^ 29 +
  b2n (k.mode == .poisoned && k.poison == .uncorrectable) * 2 ^ 28 + (if k.mode = .claimed then k.owner % 4096 else 0) * 2 ^ 16 +
  waiterCount k * 2 ^ 8 + b2n k.errState * 4 + b2n k.errOverflow * 2 + b2n k.errUnderflow

/-- A word of a counter's page (R370). -/
def counterWord (s : State) (c off : Nat) : Nat :=
  match off with
  | 0x0 => (getC s c).value.toNat
  | 0xC => ctrState (getC s c)
  | _ => 0

/-- ALIGNED (R46): the tick master is aligned with itself once its boundaries are placed, a module under ALIGN_MODE 0 always, and
any other module from its lock on (R49). -/
def alignedBit (s : State) : Bool := s.tick.align == 0 || s.tick.aligned || (isHead s && s.tick.placed)

/-- The tick registers (R46, R561). -/
def tickWord (s : State) (off : Nat) : Nat :=
  let t := s.tick
  match off with
  | 0x00 => t.syncDelay * 2 ^ 16 + t.align * 2 ^ 14 + t.period
  | 0x08 => lo32 t.count
  | 0x0C => t.countHi.toNat
  | 0x10 => s.power.point * 2 ^ 16 + t.stretch * 2 ^ 8 + t.variant * 2 ^ 5 + b2n (alignedBit s) * 2 ^ 4 + t.state
  | 0x14 => wrapInt 32 t.offset
  | 0x18 => ((s.plan.job.map (·.planSet)).getD 0) % 2 ^ 32
  | 0x1C => t.overruns
  | 0x20 => lo32 t.base
  | 0x24 => t.baseHi.toNat
  | _ => 0

/-- VAT_FREQ (R227). -/
def vatFreq (s : State) (v : Nat) : Nat :=
  let u : UnitId := { cls := 0, num := v }
  s.fuses.fused.getD v 0 * 2 ^ 8 + vatMax s v * 2 ^ 4 + b2n ((getSvc s u).state == 2) * 2 +
  b2n ((planInForce s).any fun p => p.units.contains u)

/-- The memory registers (R324, R325). -/
def memWord (s : State) (off : Nat) : Nat :=
  let m := s.memctl
  if off = 0 then m.scrubHours * 2 ^ 8 + m.interleave
  else if off = 4 then m.active * 2 ^ 16 + m.degraded
  else if 0x10 ≤ off ∧ off < 0x70 then
    let n := (off - 0x10) / 8
    if off % 8 = 0 then mgetD m.ce n 0 else mgetD m.uncorr n 0 * 2 ^ 16 + mgetD m.consumed n 0
  else if off = 0x80 then m.sramCe
  else if off = 0x84 then m.sramUe
  else if off = 0xC0 then m.inject.toNat
  else if off = 0xC4 then m.injectLo.toNat
  else if off = 0xC8 then m.injectHi.toNat
  else 0

/-- LADLE_BW (R351). -/
def bwWord (s : State) : Nat := s.fmw.bw.1 * 2 ^ 16 + s.fmw.bw.2.1 * 2 ^ 8 + s.fmw.bw.2.2

/-- The fabric registers (R447). -/
def fabricWord (s : State) (off : Nat) : Nat :=
  let t := s.fabric.topology
  let reach (k : Nat) : Nat := ((List.range 32).map fun i => if inConfig s (k + i) && reachable s (k + i) then 2 ^ i else 0).sum
  if off = 0 then t.head * 2 ^ 18 + t.module * 2 ^ 12 + t.code * 2 ^ 10 + t.modules
  else if off = 8 then reach 0
  else if off = 0xC then reach 32
  else if 0x100 ≤ off ∧ off < 0x280 then
    let p := getPort s ((off - 0x100) / 16)
    match off % 16 with
    | 0 => p.peerModule * 2 ^ 26 + p.peerPort * 2 ^ 21 + p.retrains * 2 ^ 4 + p.state
    | 4 => p.fec
    | 8 => p.replays * 2 ^ 16 + p.uncorr
    | _ => p.crc
  else 0

/-- CXL_STATUS and CXL_ERRORS (R466). -/
def cxlWord (s : State) (off : Nat) : Nat :=
  let c := s.cxl
  if off = 0 then c.flrCount * 2 ^ 24 + b2n c.hdm.isSome * 2 ^ 11 + b2n c.reduced * 2 ^ 10 + c.protocols * 2 ^ 8 + c.rate * 2 ^ 4 + c.width
  else if off = 4 then c.timeouts * 2 ^ 16 + c.poisonIn * 2 ^ 8 + c.nullVector * 2 ^ 4 + c.linkDowns
  else 0

/-- The security registers (R529). -/
def secWord (s : State) (off : Nat) : Nat :=
  let x := s.sec
  match off with
  | 0x00 => s.fuses.rollback * 2 ^ 24 + maskOf (s.fuses.hashes.map (·.isSome)) * 2 ^ 20 + maskOf s.fuses.revoked * 2 ^ 16 +
      b2n x.recovery * 2 ^ 11 + x.bootSlot * 2 ^ 10 + b2n x.fallback * 2 ^ 9 + x.level * 2 ^ 4 + lifecycle s
  | 0x10 => b2n x.denied * 2 ^ 31 + x.halted * 2 ^ 8 + x.halt
  | 0x14 => (x.token.map fun t => t.queueCount * 2 ^ 16 + t.firstQueue).getD 0
  | 0x18 => if x.level = 0 then 0 else (x.token.map fun t => (t.expires - s.tick.timebase) / 1000000000).getD 0
  | _ => 0

/-- The unit of a linear index of SVC_UNIT (R549). -/
def svcUnitOf (i : Nat) : UnitId :=
  if i < 160 then { cls := 0, num := i } else if i < 176 then { cls := 1, num := i - 160 } else if i < 184 then { cls := 2, num := i - 176 }
  else if i < 256 then { cls := 3, num := i - 184 } else if i < 260 then { cls := 4, num := i - 256 } else { cls := 5, num := i - 260 }

/-- SVC_UNIT (R549). -/
def svcWord (s : State) (i : Nat) : Nat :=
  let v := getSvc s (svcUnitOf i)
  v.overruns * 2 ^ 16 + v.uncorr * 2 ^ 8 + b2n v.suspect * 2 ^ 4 + v.state

/-- START_STATUS and RESET_CAUSE (R567). -/
def startWord (s : State) (off : Nat) : Nat :=
  let x := s.start
  if off = 0 then x.readyMs * 2 ^ 16 + x.initialised * 2 ^ 12 + b2n x.failed * 2 ^ 4 + b2n x.links * 2 ^ 3 + b2n x.memActive * 2 ^ 2 +
    b2n x.fwReady * 2 + b2n x.vatsOn
  else x.count * 2 ^ 16 + x.cause

/-- RAIL_FAULT (R585). -/
def railWord (s : State) : Nat :=
  s.start.railCount * 2 ^ 16 + b2n s.start.railValid * 2 ^ 15 + s.start.railKind * 2 ^ 13 + s.start.rail

/-- The identity and status registers (R46 and the chapters that own them). -/
def statusWord (s : State) (off : Nat) : Nat :=
  if off < 0x1000 then 0
  else if off < 0x1100 then tickWord s (off - 0x1000)
  else if off = 0x1100 then cultureStatus s
  else if 0x1200 ≤ off ∧ off < 0x1280 then
    if off % 8 = 0 then rcState s ((off - 0x1200) / 8) else rcFaults s ((off - 0x1200) / 8)
  else if off = 0x1300 then s.index.epoch
  else if off = 0x1304 then indexStatus s
  else if off = 0x1308 then s.index.fill
  else if off = 0x130C then s.index.inserts
  else if off = 0x1400 then s.sticky.toNat
  else if 0x1500 ≤ off ∧ off < 0x1780 then vatFreq s ((off - 0x1500) / 4)
  else if 0x1800 ≤ off ∧ off < 0x1820 then
    if off % 8 = 0 then pressState s ((off - 0x1800) / 8) else pressFaults s ((off - 0x1800) / 8)
  else if 0x1900 ≤ off ∧ off < 0x19CC then memWord s (off - 0x1900)
  else if off = 0x1A00 then bwWord s
  else if off = 0x1A40 then ctrSummary s
  else if 0x1B00 ≤ off ∧ off < 0x1D80 then fabricWord s (off - 0x1B00)
  else if 0x1E00 ≤ off ∧ off < 0x1E08 then cxlWord s (off - 0x1E00)
  else if 0x1F00 ≤ off ∧ off < 0x1F1C then secWord s (off - 0x1F00)
  else if off = 0x2000 then s.cave.status.toNat
  else if 0x2100 ≤ off ∧ off < 0x2570 then svcWord s ((off - 0x2100) / 4)
  else if 0x2600 ≤ off ∧ off < 0x2608 then startWord s (off - 0x2600)
  else if off = 0x2700 then railWord s
  else 0

/-- MB_STATUS and MB_CONFIG (R385). -/
def boxStatus (b : Mailbox) : Nat := b.steps * 2 ^ 16 + b2n b.rejected * 4 + b2n b.done * 2 + b2n b.busy
def boxConfig (b : Mailbox) : Nat := b2n b.irqEn * 2 ^ 15 + b.vector

/-- A word of a mailbox (R385). -/
def boxWord (s : State) (m off : Nat) : Nat :=
  let b := getBox s m
  if off = 4 then boxStatus b
  else if off = 8 then boxConfig b
  else if 0x100 ≤ off ∧ off < 0x120 then u32 b.cmdHeader (off - 0x100)
  else if 0x120 ≤ off ∧ off < 0x1120 then u32 b.cmdPayload (off - 0x120)
  else if 0x2000 ≤ off ∧ off < 0x2020 then u32 b.rspHeader (off - 0x2000)
  else if 0x2020 ≤ off ∧ off < 0x3020 then u32 b.rspPayload (off - 0x2020)
  else 0

/-- The event ring (R413). -/
def eventWord (s : State) (off : Nat) : Nat :=
  if off = 0 then s.evt.head.toNat
  else if off = 4 then s.evt.tail.toNat
  else if off = 8 then lostWord s.evt
  else if off = 0xC then b2n s.fmw.evtIrqEn * 2 ^ 15 + s.fmw.evtVector
  else if 0x1000 ≤ off then ringWord 512 32 s.evt (off - 0x1000)
  else 0

/-- The greatest temperature of a class (R493). -/
def hottest (s : State) (cls : Nat) : Nat := (((s.power.readings.filter fun r => r.cls == cls).map (·.celsius)).foldl max 0) % 256

/-- PWR_STATUS (R493). -/
def pwrStatus (s : State) : Nat :=
  let p := s.power
  let pooled := p.pool && s.fabric.topology.code != 0
  p.reasons * 2 ^ 24 + b2n (p.alert || p.alertHold) * 2 ^ 23 + b2n (isHead s && s.fabric.topology.code != 0 && decide (2 ≤ (poolMembers s).length)) * 2 ^ 22 +
  b2n pooled * 2 ^ 21 + b2n (droopActive s) * 2 ^ 20 + p.prepared * 2 ^ 12 + p.point * 2 ^ 8 + b2n p.d3 * 2 ^ 3 + p.state

/-- The power telemetry (R493). -/
def powerWord (s : State) (off : Nat) : Nat :=
  let p := s.power
  if off = 0 then pwrStatus s
  else if off = 4 then p.peak * 2 ^ 16 + p.sustained
  else if off = 8 then p.order * 2 ^ 26 + b2n p.pool * 2 ^ 25 + effectiveCap s
  else if off = 0xC then min 65535 p.avg1ms * 2 ^ 16 + min 65535 p.avg1s
  else if off = 0x10 then lo32 p.energyMj
  else if off = 0x14 then p.energyHi.toNat
  else if off = 0x18 then hottest s 0 * 2 ^ 24 + hottest s 1 * 2 ^ 16 + hottest s 2 * 2 ^ 8
  else if 0x40 ≤ off ∧ off < 0x80 then pointMhz ((off - 0x40) / 4) * 2 ^ 16 + p.calibration.mv.getD ((off - 0x40) / 4) 0
  else if 0x110 ≤ off ∧ off < 0x190 then
    let r := (off - 0x110) / 16
    match off % 16 with
    | 0 => lo32 (p.lost.getD r 0)
    | 4 => (p.lostHi.getD r 0).toNat
    | 8 => lo32 (belowTime s r)
    | _ => (p.belowHi.getD r 0).toNat
  else if off = 0x200 then s.thr.head.toNat
  else if off = 0x204 then s.thr.tail.toNat
  else if off = 0x208 then lostWord s.thr
  else if 0x1000 ≤ off ∧ off < 0x9000 then ringWord 1024 32 s.thr (off - 0x1000)
  else 0

/-- The error ring (R321). -/
def errorWord (s : State) (off : Nat) : Nat :=
  if off = 0 then s.err.head.toNat
  else if off = 4 then s.err.tail.toNat
  else if off = 8 then lostWord s.err
  else if 0x1000 ≤ off then ringWord 1024 64 s.err (off - 0x1000)
  else 0

/-- A word of a slot ring's registers (R349). -/
def slotWord (s : State) (r off : Nat) : Nat :=
  match mget s.rings r with
  | none => 0
  | some v => if off = 0 then v.tail.toNat else if off = 4 then v.head.toNat else 0

/-- A word of the MSI-X table, or of the pending bits from offset 0x8000 (R455). -/
def msixWord (s : State) (off : Nat) : Nat :=
  if off < 0x8000 then
    let e := msixEntry s (off / 16)
    match off % 16 with
    | 0 => lo32 e.address
    | 4 => hi32 e.address
    | 8 => e.data.toNat
    | _ => b2n e.masked
  else if off < 0x8100 then
    ((List.range 32).map fun i => if s.cxl.pendingBits.contains (8 * (off - 0x8000) + i) then 2 ^ i else 0).sum
  else 0

/-- Where BAR2 and BAR4 lie in the model's one register space, after the 64 MiB of BAR0 (notes/assumptions/9.md). -/
def bar2 : Nat := 0x04000000
def bar4 : Nat := 0x04010000

/-- What a read of a register word returns; reserved offsets read zero (R455). -/
def readReg (s : State) (off : Nat) : U32 :=
  BitVec.ofNat 32 (
    if off % 4 ≠ 0 then 0
    else if off < 0x10000 then statusWord s off
    else if off < 0x20000 then boxWord s ((off - 0x10000) / 0x4000) (off % 0x4000)
    else if off < 0x25000 then eventWord s (off - 0x20000)
    else if off < 0x100000 then 0
    else if off < 0x140000 then doorbellWord s ((off - 0x100000) / 64) (off % 64)
    else if off < 0x180000 then 0
    else if off < 0x184000 then slotWord s ((off - 0x180000) / 16) (off % 16)
    else if off < 0x200000 then 0
    else if off < 0x300000 then counterWord s ((off - 0x200000) / 16) (off % 16)
    else if off < 0x310000 then powerWord s (off - 0x300000)
    else if off < 0x318000 then
      let v := getQ s ((off - 0x310000) / 8)
      if off % 8 = 0 then lo32 v.energy else v.energyHi.toNat
    else if off < 0x400000 then 0
    else if off < 0x411000 then errorWord s (off - 0x400000)
    else if bar4 ≤ off ∧ off < bar4 + 0x10000 then msixWord s (off - bar4)
    else 0)

/-! ### Reads that latch (R46, R493, R561) -/

/-- A read of a register puts its value on the bus. -/
def readOut (off : Nat) (s : State) : State := emit (.regRead (readReg s off)) s

/-- The high half of a count, as a register. -/
def hiWord (n : Nat) : U32 := BitVec.ofNat 32 (hi32 n)

def readTickCount (s : State) : State := readOut 0x1008 { s with tick := { s.tick with countHi := hiWord s.tick.count } }

def readTickBase (s : State) : State := readOut 0x1020 { s with tick := { s.tick with baseHi := hiWord s.tick.base } }

def readEnergy (s : State) : State := readOut 0x300010 (modPower (fun p => { p with energyHi := hiWord p.energyMj }) s)

/-- A read of THR_LOST_LO or THR_BELOW_LO of a reason 1-8. -/
def readThrottle (reason : Nat) (below : Bool) (s : State) : State :=
  if reason = 0 ∨ 8 < reason then s
  else
    let r := reason - 1
    if below then
      readOut (0x300100 + 16 * reason + 8) (modPower (fun p => { p with belowHi := p.belowHi.set r (hiWord (belowTime s r)) }) s)
    else readOut (0x300100 + 16 * reason) (modPower (fun p => { p with lostHi := p.lostHi.set r (hiWord (p.lost.getD r 0)) }) s)

/-- A read of QE_LO of a queue. -/
def readQueueEnergy (q : Nat) (s : State) : State :=
  if 4096 ≤ q then s else readOut (0x310000 + 8 * q) (modQ q (fun v => { v with energyHi := hiWord v.energy }) s)

/-! ### Writes -/

/-- The list with the four bytes of a word put at an offset. -/
def putWord (l : List Byte) (off : Nat) (v : U32) : List Byte := l.take off ++ leBytes 4 v.toNat ++ l.drop (off + 4)

/-- A write of a word of a mailbox (R385, R386). -/
def boxWrite (m off : Nat) (v : U32) (s : State) : State :=
  if off = 0 then
    if v.getLsbD 0 then
      let b := getBox s m
      let c := callOf m b.cmdHeader b.cmdPayload
      mailboxCommand c.1 c.2 s
    else s
  else if off = 4 then modBox m (fun b => { b with done := b.done && !v.getLsbD 1, rejected := b.rejected && !v.getLsbD 2 }) s
  else if off = 8 then modBox m (fun b => { b with irqEn := v.getLsbD 15, vector := v.toNat % 2048 }) s
  else if 0x100 ≤ off ∧ off < 0x120 then modBox m (fun b => { b with cmdHeader := putWord b.cmdHeader (off - 0x100) v }) s
  else if 0x120 ≤ off ∧ off < 0x1120 then modBox m (fun b => { b with cmdPayload := putWord b.cmdPayload (off - 0x120) v }) s
  else s

/-- A write of MEM_CONFIG: RWL fields (R13, R324). -/
def memConfigWrite (v : U32) (s : State) : State :=
  if s.memctl.locked then s
  else
    modSettings (fun x => { x with interleave := v.toNat % 4, scrubHours := bits v.toNat 15 8 })
      (modMem (fun m => { m with interleave := v.toNat % 4, scrubHours := bits v.toNat 15 8 }) s)

/-- A write of DBG_CORE: bit 31 clears DENIED; HALT acts when it changes, STEP where a bit is 1 (R528, R529). -/
def dbgCoreWrite (v : U32) (s : State) : State :=
  let s := if v.getLsbD 31 then { s with sec := { s.sec with denied := false } } else s
  let s := if v.toNat % 8 = s.sec.halt then s else serveParked (haltCores v s)
  if bits v.toNat 6 4 = 0 then s else stepCores v s

/-- A write of an identity or status register. -/
def statusWrite (off : Nat) (v : U32) (s : State) : State :=
  if off = 0x1400 then { s with sticky := s.sticky &&& ~~~v }
  else if off = 0x1900 then memConfigWrite v s
  else if off = 0x19C0 then injectWrite v s
  else if off = 0x19C4 then modMem (fun m => { m with injectLo := v }) s
  else if off = 0x19C8 then modMem (fun m => { m with injectHi := v }) s
  else if off = 0x1F10 then dbgCoreWrite v s
  else s

/-- A write of an event ring register (R413). -/
def eventWrite (off : Nat) (v : U32) (s : State) : State :=
  if off = 4 then { s with evt := s.evt.setTail v }
  else if off = 8 then { s with evt := s.evt.clearLost v }
  else if off = 0xC then { s with fmw := { s.fmw with evtIrqEn := v.getLsbD 15, evtVector := v.toNat % 2048 } }
  else s

/-- A write of a counter's page (R370, R371). -/
def counterWrite (c off : Nat) (v : U32) (s : State) : State :=
  if !doorbellsOpen s then s
  else if off = 4 then windowWrite c false v s
  else if off = 8 then windowWrite c true v s
  else if off = 0xC then
    modC c (fun k => { k with errState := k.errState && !v.getLsbD 2, errOverflow := k.errOverflow && !v.getLsbD 1,
                              errUnderflow := k.errUnderflow && !v.getLsbD 0 }) s
  else s

/-- A write of the MSI-X table (R455, R464). -/
def msixWrite (off : Nat) (v : U32) (s : State) : State :=
  if 0x8000 ≤ off then s
  else
    let put (f : MsixEntry → MsixEntry) (s : State) : State :=
      modCxl (fun c => { c with table := mput c.table (off / 16) (f (mgetD c.table (off / 16) MsixEntry.off)) }) s
    match off % 16 with
    | 0 => put (fun e => { e with address := e.address / 2 ^ 32 * 2 ^ 32 + v.toNat / 4 * 4 }) s
    | 4 => put (fun e => { e with address := v.toNat * 2 ^ 32 + e.address % 2 ^ 32 }) s
    | 8 => put (fun e => { e with data := v }) s
    | _ => sendPending (put (fun e => { e with masked := v.getLsbD 0 }) s)

/-- A write of a register word by its access code; reserved offsets ignore it (R13, R455). -/
def writeReg (off : Nat) (v : U32) (s : State) : State :=
  if off % 4 ≠ 0 then s
  else if off < 0x10000 then statusWrite off v s
  else if off < 0x20000 then boxWrite ((off - 0x10000) / 0x4000) (off % 0x4000) v s
  else if off < 0x25000 then eventWrite (off - 0x20000) v s
  else if off < 0x100000 then s
  else if off < 0x140000 then if off % 64 = 0 then tailWrite ((off - 0x100000) / 64) v s else s
  else if off < 0x180000 then s
  else if off < 0x184000 then
    if off % 16 = 4 ∧ doorbellsOpen s = true then slotHeadWrite ((off - 0x180000) / 16) v s else s
  else if off < 0x200000 then s
  else if off < 0x300000 then counterWrite ((off - 0x200000) / 16) (off % 16) v s
  else if off = 0x300204 then { s with thr := s.thr.setTail v }
  else if off = 0x300208 then { s with thr := s.thr.clearLost v }
  else if off = 0x400004 then { s with err := s.err.setTail v }
  else if off = 0x400008 then { s with err := s.err.clearLost v }
  else if bar4 ≤ off ∧ off < bar4 + 0x10000 then msixWrite (off - bar4) v s
  else s

/-! ### The management mailbox over SMBus (R387) -/

def setSmbus (off : Nat) (s : State) : State := { s with fmw := { s.fmw with smbusOffset := off } }

/-- SMBUS_WRITE_WORD: the window offset. -/
def smbusOffset (off : Nat) (pecOk : Bool) (s : State) : State :=
  if boxServes s 4 && pecOk && off % 4 == 0 && decide (off ≤ 0x3FFC) then emit .smbusAck (setSmbus off s) else emit .smbusNak s

/-- Whether a span of the window may be written: within it and clear of the response buffer. -/
def smbusWritable (off len : Nat) : Bool := decide (off + len ≤ 0x4000) && (decide (off + len ≤ 0x2000) || decide (0x3020 ≤ off))

/-- SMBUS_BLOCK_WRITE: words at the window offset, which advances; the words act in order once it has advanced. -/
def smbusWrite (data : List Byte) (pecOk : Bool) (s : State) : State :=
  let off := s.fmw.smbusOffset
  let n := data.length
  if boxServes s 4 && pecOk && decide (4 ≤ n ∧ n ≤ 32) && n % 4 == 0 && smbusWritable off n then
    (List.range (n / 4)).foldl (fun s k => boxWrite 4 (off + 4 * k) (BitVec.ofNat 32 (u32 data (4 * k))) s)
      (emit .smbusAck (setSmbus (off + n) s))
  else emit .smbusNak s

/-- SMBUS_BLOCK_READ: the 32 bytes at the window offset, which advances. -/
def smbusRead (pecOk : Bool) (s : State) : State :=
  let off := s.fmw.smbusOffset
  if boxServes s 4 && pecOk && decide (off ≤ 0x3FFC) then
    emit (.smbusData ((List.range 8).flatMap fun k => leBytes 4 (boxWord s 4 (off + 4 * k)))) (setSmbus (off + 32) s)
  else emit .smbusNak s

end Sys2Proof.Machine
end

