-- ==== Sys2Proof/Machine/FabricRows.lean ====
section
/-!
DEFINITION. Meanings: the rows of the Nyverlink fabric.
-/

namespace Sys2Proof.Machine

/-- FLIT (R426). A receiver accepts the next in-order flit, or discards it and sends a NAK, and takes its credits. -/
def execFlit (port : Nat) (bytes : List Byte) (fecCorrected fecUncorrectable : Nat) (s : State) : Host.Outcome State Fault Refusal :=
  .next (live (fun s => noteLinks (takeFlit port bytes fecCorrected fecUncorrectable s)) s)

/-- LINK_NAK (R426). A transmitter receives a NAK and resends every unacknowledged flit from its SEQ. -/
def execLinkNak (port seq : Nat) (s : State) : Host.Outcome State Fault Refusal :=
  .next (live (fun s => noteLinks (takeNak port seq s)) s)

/-- REPLAY_TIMEOUT (R426). With no ACK advance for 4 µs the transmitter replays from the oldest flit. -/
def execReplayTimeout (port : Nat) (s : State) : Host.Outcome State Fault Refusal :=
  .next (live (fun s => noteLinks (replayTimedOut port s)) s)

/-- BLOCK_LOCK_LOSS (R427). Loss of block lock for 1 µs takes the port down. -/
def execBlockLockLoss (port : Nat) (s : State) : Host.Outcome State Fault Refusal :=
  .next (live (fun s => noteLinks (portDown port 0 s)) s)

/-- PORT_TRAINING_COMPLETE (R430). Port training finishes and the peer's configuration, numbers and incarnation are checked. -/
def execPortTrainingComplete (port : Nat) (t : Training) (s : State) : Host.Outcome State Fault Refusal :=
  .next (live (fun s => noteLinks (portTrained port t s)) s)

/-- LINK_AUTH_OFFER (R514). The responder receives the initiator's signed encapsulation key message. -/
def execLinkAuthOffer (port : Nat) (m : LinkAuth) (s : State) : Host.Outcome State Fault Refusal :=
  .next (live (fun s => noteLinks (linkOffered port m s)) s)

/-- LINK_AUTH_REPLY (R514). The initiator receives the responder's ciphertext, checks it and derives the link keys. -/
def execLinkAuthReply (port : Nat) (m : LinkAuth) (s : State) : Host.Outcome State Fault Refusal :=
  .next (live (fun s => noteLinks (linkReplied port m s)) s)

/-- WRITE_REQUEST (R434). A target serves a remote write and completes it once visible. -/
def execWriteRequest (m : Txn) (data : List Byte) (bad : List Nat) (s : State) : Host.Outcome State Fault Refusal :=
  .next (live (serveWrite 4096 m data bad) s)

/-- READ_REQUEST (R434). A target serves a remote read and returns read data. -/
def execReadRequest (m : Txn) (s : State) : Host.Outcome State Fault Refusal :=
  .next (live (serveRead 4096 m) s)

/-- COUNTER_REQUEST (R369). A target applies a remote counter operation in its arrival order. -/
def execCounterRequest (m : Txn) (operation : Nat) (s : State) : Host.Outcome State Fault Refusal :=
  .next (live (serveCounter m operation) s)

/-- LIGHT_WRITE (R435). A target serves a light-path write of up to 256 bytes. -/
def execLightWrite (m : Txn) (data : List Byte) (bad : List Nat) (s : State) : Host.Outcome State Fault Refusal :=
  .next (live (serveWrite 256 m data bad) s)

/-- LIGHT_READ (R435). A target serves a light-path read of up to 256 bytes. -/
def execLightRead (m : Txn) (s : State) : Host.Outcome State Fault Refusal :=
  .next (live (serveRead 256 m) s)

/-- COMPLETION (R441). A source receives the first answer to a txid and discards later ones. -/
def execCompletion (src txid : Nat) (status : Status) (s : State) : Host.Outcome State Fault Refusal :=
  .next (live (takeCompletion src txid status) s)

/-- READ_DATA (R434). A reader receives the requested bytes of a remote read. -/
def execReadData (src txid : Nat) (status : Status) (data : List Byte) (mapFollows : Bool) (s : State) : Host.Outcome State Fault Refusal :=
  .next (live (takeReadData src txid status data mapFollows) s)

/-- COUNTER_RESULT (R369). The issuing queue receives the result of a remote counter operation. -/
def execCounterResult (src txid : Nat) (status : Status) (s : State) : Host.Outcome State Fault Refusal :=
  .next (live (takeCounterResult src txid status) s)

/-- POISON_MAP (R436). The receiver writes the listed words poisoned. -/
def execPoisonMap (src txid : Nat) (words : List Nat) (s : State) : Host.Outcome State Fault Refusal :=
  .next (live (takePoisonMap src txid words) s)

/-- REACHABILITY_UPDATE (R442). A module receives a port change, reroutes and reissues unanswered requests. -/
def execReachabilityUpdate (auth : MgmtAuth) (r : Reach) (s : State) : Host.Outcome State Fault Refusal :=
  .next (live (receiveMgmt auth (takeReach r)) s)

/-- ROUTE_RESTORE (R442). A route made available by a returning port takes effect at the next boundary. -/
def execRouteRestore (s : State) : Host.Outcome State Fault Refusal :=
  .next (live restoreRoutes s)

/-- NO_ROUTE_TIMEOUT (R443). A module with no route for 2 ms is lost. -/
def execNoRouteTimeout (m : Nat) (s : State) : Host.Outcome State Fault Refusal :=
  .next (live (noRouteFor m) s)

/-- RECORD_EXPIRY (R441). A target drops a record entry 10 ms after sending the answer. -/
def execRecordExpiry (src : Nat) (key : RecKey) (s : State) : Host.Outcome State Fault Refusal :=
  .next (live (dropRecord src key) s)

/-- BUDGET_ROUND (R487). Every 16 ticks each member reports to the budget lead. -/
def execBudgetRound (averageW slackMilli : Nat) (forced : Bool) (s : State) : Host.Outcome State Fault Refusal :=
  .next (live (budgetRound averageW slackMilli forced) s)

/-- BUDGET_REPORT (R487). The lead receives member reports and computes new grants. -/
def execBudgetReport (auth : MgmtAuth) (r : BudgetReport) (s : State) : Host.Outcome State Fault Refusal :=
  .next (live (receiveMgmt auth (noteReport r)) s)

/-- GRANT (R487). A member receives a grant that takes effect at its effective tick. -/
def execGrantMsg (auth : MgmtAuth) (watts effective : Nat) (s : State) : Host.Outcome State Fault Refusal :=
  .next (live (receiveMgmt auth (takeGrant watts effective)) s)

/-- GRANT_ACKNOWLEDGE (R487). The lead receives a donor's acknowledgement and may send increases. -/
def execGrantAcknowledge (auth : MgmtAuth) (src : Nat) (s : State) : Host.Outcome State Fault Refusal :=
  .next (live (receiveMgmt auth (takeAck src)) s)

/-- BUDGET_LEAD_LOST (R488). With no grant for 64 ticks or the head lost, a grant above the cap falls to it. -/
def execBudgetLeadLost (s : State) : Host.Outcome State Fault Refusal :=
  .next (live loseLead s)

/-- GRANT_RESTORE (R488). At least 10 ms later a grant below the configured cap rises to it. -/
def execGrantRestore (s : State) : Host.Outcome State Fault Refusal :=
  .next (live restoreGrant s)

end Sys2Proof.Machine
end

