-- ==== Sys2Proof/Machine/FirmwareRows.lean ====
section
/-!
DEFINITION. Meanings: the rows of sessions, settings and commits that follow mailbox commands.
-/

namespace Sys2Proof.Machine

/-- SESSION_PENDING_TIMEOUT (R391). A pending session not finished within 10 s is discarded. -/
def execSessionPendingTimeout (session : Nat) (s : State) : Host.Outcome State Fault Refusal :=
  .next (live (pendingTimeout session) s)

/-- SESSION_EXPIRED (R391). An open session with no accepted tagged command for 3,600 s closes. -/
def execSessionExpired (session : Nat) (s : State) : Host.Outcome State Fault Refusal :=
  .next (live (fun s => serveParked (sessionExpired session s)) s)

/-- AUTH_LOCKOUT_END (R513). After 1 s with no failure, SESSION_FINISH signatures are verified again. -/
def execAuthLockoutEnd (s : State) : Host.Outcome State Fault Refusal :=
  .next (live lockoutEnd s)

/-- CULTURE_COMMIT_EFFECT (R101). At the boundary after the commit the staged bank becomes active and the former bank drains. -/
def execCultureCommitEffect (s : State) : Host.Outcome State Fault Refusal :=
  .next (live (fun s => cultureDue (s.tick.count + 1) s) s)

/-- INDEX_COMMIT_EFFECT (R158). At the boundary after the commit the staged table becomes active under the next epoch. -/
def execIndexCommitEffect (s : State) : Host.Outcome State Fault Refusal :=
  .next (live (fun s => indexDue (s.tick.count + 1) s) s)

/-- TICK_PERIOD_EFFECT (R44). At the effective tick the new period applies, stopping a running plan job of another period. Each module
applies it at the boundary that begins that tick of the head's count. -/
def execTickPeriodEffect (s : State) : Host.Outcome State Fault Refusal :=
  .next (live (fun s => applyPeriod (s.tick.count + 1) s) s)

/-- BW_SPLIT_EFFECT (R351). At the effective tick the new bandwidth split takes effect. -/
def execBwSplitEffect (s : State) : Host.Outcome State Fault Refusal :=
  .next (live (fun s => applySplit (s.tick.count + 1) s) s)

/-- SETTINGS_COMMAND_START (R400). A waiting settings command starts when its turn comes or its waited state holds. -/
def execSettingsCommandStart (s : State) : Host.Outcome State Fault Refusal :=
  .next (live settingsStart s)

/-- MAILBOX_COMMAND_STEP (R401). A stepped command moves one tick's step of image. -/
def execMailboxCommandStep (s : State) : Host.Outcome State Fault Refusal :=
  .next (live commandStep s)

/-- FORWARDED_COMMAND (R397). A target receives a forwarded command on virtual channel 3, checks and runs it. A second message of a
broadcast brings the effective tick (R412). -/
def execForwardedCommand (auth : MgmtAuth) (cmd : Forwarded) (s : State) : Host.Outcome State Fault Refusal :=
  .next (live (fun s => wake (takeForward auth cmd s)) s)

/-- FORWARDED_RESPONSE (R397). The entry module receives a target's response, tags it and assembles any broadcast block. -/
def execForwardedResponse (auth : MgmtAuth) (src sequence : Nat) (status : Status) (payload : List Byte) (s : State) : Host.Outcome State Fault Refusal :=
  .next (live (takeResponse auth src sequence status payload) s)

/-- EVENT_MESSAGE (R414). The head receives a member's event on virtual channel 3 and writes it to the event ring. -/
def execEventMessage (auth : MgmtAuth) (ev : Event) (s : State) : Host.Outcome State Fault Refusal :=
  .next (live (receiveMgmt auth fun s => if isHead s then routeEvent ev s else s) s)

/-- POWER_LIMITS_EFFECT (R476). New limits take effect at step 3 of the first boundary after the command. -/
def execPowerLimitsEffect (s : State) : Host.Outcome State Fault Refusal :=
  .next (live (fun s => applyLimits (s.tick.count + 1) s) s)

/-- A2_ENTRY (R491). Once no operation remains the module enters A2 at a boundary. -/
def execA2Entry (s : State) : Host.Outcome State Fault Refusal :=
  .next (live enterA2 s)

/-- FW_LIVE_SWAP (R546). At the effective tick the control stores swap and the hub cores restart in the staged stage 2. -/
def execFwLiveSwap (s : State) : Host.Outcome State Fault Refusal :=
  .next (live (fun s => serveParked (liveDue (s.tick.count + 1) s)) s)

/-- DEBUG_TOKEN_EXPIRY (R521). The token lifetime passes, returning D1 or D2 to D0 or resetting the module at D3. -/
def execDebugTokenExpiry (s : State) : Host.Outcome State Fault Refusal :=
  .next (live (fun s => serveParked (tokenExpiry s)) s)

/-- MODULE_RESET_DELAY (R564). 10 ms plus delay_ms after the response the target begins its module reset. -/
def execModuleResetDelay (s : State) : Host.Outcome State Fault Refusal :=
  .next (live delayedReset s)

end Sys2Proof.Machine
end

