-- ==== Sys2Proof/Machine/HostRows.lean ====
section
/-!
DEFINITION. Meanings: the rows of the CXL port.
-/

namespace Sys2Proof.Machine

/-- CXL_MEM_READ (R458). A host CXL.mem read of Range 1 returns the current value. -/
def execCxlMemRead (hpa len : Nat) (s : State) : Host.Outcome State Fault Refusal :=
  if cxlUp s && !s.start.inReset && !s.sec.scanned then
    match windowAddr s hpa len with
    | some a => .next (memRead a len s)
    | none => .fault .noMemory
  else .next s

/-- CXL_MEM_WRITE (R458). A host CXL.mem write completes once visible. -/
def execCxlMemWrite (hpa : Nat) (data : List Byte) (poison : Bool) (s : State) : Host.Outcome State Fault Refusal :=
  if cxlUp s && !s.start.inReset && !s.sec.scanned then
    match windowAddr s hpa data.length with
    | some a => .next (memWrite a data poison s)
    | none => .fault .noMemory
  else .next s

/-- CXL_SNOOP (R459). The device answers every snoop with RspIHitI. -/
def execCxlSnoop (address : Nat) (s : State) : Host.Outcome State Fault Refusal :=
  .next (live (snoop address) s)

/-- CONFIG_REQUEST (R559). A configuration request is completed with CRS until firmware ready. -/
def execConfigRequest (offset : Nat) (write : Option U32) (s : State) : Host.Outcome State Fault Refusal :=
  .next (live (configRequest offset write) s)

/-- HDM_DECODER_COMMIT (R456). Host commits the HDM decoder, which fails if it breaks its limits. -/
def execHdmDecoderCommit (base size ways skip : Nat) (s : State) : Host.Outcome State Fault Refusal :=
  .next (live (commitDecoder base size ways skip) s)

/-- CXL_LINK_TRAINED (R451). The CXL link trains to the widest width and rate both ends support. -/
def execCxlLinkTrained (lanes gts : Nat) (s : State) : Host.Outcome State Fault Refusal :=
  .next (live (linkTrained lanes gts) s)

/-- REDUCED_MODE_ENTRY (R452). Negotiation without CXL.cache and CXL.mem puts the port in reduced mode. -/
def execReducedModeEntry (s : State) : Host.Outcome State Fault Refusal :=
  .next (live enterReduced s)

/-- CXL_LINK_DOWN (R463). The CXL link goes down and outstanding space 2 requests fail. -/
def execCxlLinkDown (cause : Nat) (s : State) : Host.Outcome State Fault Refusal :=
  .next (live (linkDown cause) s)

/-- HOST_REQUEST_TIMEOUT (R463). A space 2 request with no response in 10 ms fails with HOST_UNREACHABLE. -/
def execHostRequestTimeout (q : Nat) (idx : U32) (fetch : Bool) (hpa now : Nat) (s : State) : Host.Outcome State Fault Refusal :=
  .next (live (requestTimeout q idx fetch hpa now) s)

/-- MSIX_UNMASK (R464). Unmasking a vector with its pending bit set sends one message. -/
def execMsixUnmask (vector : Nat) (s : State) : Host.Outcome State Fault Refusal :=
  .next (live (unmask vector) s)

/-- FLR (R465). A function-level reset of the head module acts under its table. -/
def execFlr (s : State) : Host.Outcome State Fault Refusal :=
  .next (live (fun s => wake (functionReset s)) s)

/-- D3HOT_ENTRY (R491). A move to D3hot stops admission and leads to A2. -/
def execD3hotEntry (s : State) : Host.Outcome State Fault Refusal :=
  .next (live enterD3 s)

/-- D0_RETURN (R491). A return to D0 returns the module to A0. -/
def execD0Return (s : State) : Host.Outcome State Fault Refusal :=
  .next (live leaveD3 s)

/-- CXL_HOT_RESET (R563). A hot reset on the link starts a module reset at once. -/
def execCxlHotReset (s : State) : Host.Outcome State Fault Refusal :=
  .next (if s.start.inReset then s else linkReset 3 s)

/-- CXL_RESET (R563). A CXL Reset through the DVSEC starts a module reset at once. -/
def execCxlReset (s : State) : Host.Outcome State Fault Refusal :=
  .next (if s.start.inReset then s else linkReset 4 s)

end Sys2Proof.Machine
end

