-- ==== Sys2Proof/Machine/MailboxRows.lean ====
section
/-!
DEFINITION. Meanings: the rows of mailbox commands.
-/

namespace Sys2Proof.Machine

/-- COUNTER_CLAIM (R373). Claims a range of counters for a queue with a starting value. -/
def execCounterClaim (call : MbCall) (s : State) : Host.Outcome State Fault Refusal :=
  .next (live (mailboxCommand 0x0104 call) s)

/-- COUNTER_RELEASE (R375). Returns a balanced range of claimed counters to free. -/
def execCounterRelease (call : MbCall) (s : State) : Host.Outcome State Fault Refusal :=
  .next (live (fun s => if !bit (u16 call.payload 4) 0 then mailboxCommand 0x0105 call s else s) s)

/-- COUNTER_RELEASE_FORCE (R375). Forced release poisons every claimed counter of the range and releases its waiters. -/
def execCounterReleaseForce (call : MbCall) (s : State) : Host.Outcome State Fault Refusal :=
  .next (live (fun s => wake (if bit (u16 call.payload 4) 0 then mailboxCommand 0x0105 call s else s)) s)

/-- COUNTER_SET (R377). Replaces the value of a claimed counter and settles its waiters. -/
def execCounterSet (call : MbCall) (s : State) : Host.Outcome State Fault Refusal :=
  .next (live (fun s => wake (mailboxCommand 0x0106 call s)) s)

/-- IDENTIFY (R403). Returns the identity of the target module. -/
def execIdentify (call : MbCall) (s : State) : Host.Outcome State Fault Refusal :=
  .next (live (mailboxCommand 0x0001 call) s)

/-- GET_STATUS (R404). Returns the last accepted counter and the command history of the target. -/
def execGetStatus (call : MbCall) (s : State) : Host.Outcome State Fault Refusal :=
  .next (live (mailboxCommand 0x0002 call) s)

/-- SESSION_INIT (R394). Opens a pending session with a fresh ML-KEM key and a signed offer. -/
def execSessionInit (call : MbCall) (s : State) : Host.Outcome State Fault Refusal :=
  .next (live (mailboxCommand 0x0003 call) s)

/-- SESSION_FINISH (R395). Verifies the host signature, decapsulates, derives the keys and opens the session. -/
def execSessionFinish (call : MbCall) (s : State) : Host.Outcome State Fault Refusal :=
  .next (live (mailboxCommand 0x0004 call) s)

/-- SESSION_CLOSE (R396). Closes the command's own session after its response. -/
def execSessionClose (call : MbCall) (s : State) : Host.Outcome State Fault Refusal :=
  .next (live (mailboxCommand 0x0005 call) s)

/-- QUEUE_SETUP (R328). Binds a disabled queue to a class and makes it running. -/
def execQueueSetup (call : MbCall) (s : State) : Host.Outcome State Fault Refusal :=
  .next (live (mailboxCommand 0x0101 call) s)

/-- QUEUE_RESTART (R405). QUEUE_CONTROL action 0 makes a stopped queue running; an action that no row has is refused here. -/
def execQueueRestart (call : MbCall) (s : State) : Host.Outcome State Fault Refusal :=
  .next (live (fun s => if u8 call.payload 2 != 1 && u8 call.payload 2 != 2 then mailboxCommand 0x0102 call s else s) s)

/-- QUEUE_RESET (R405). QUEUE_CONTROL action 1 requests an owner reset of the queue. -/
def execQueueReset (call : MbCall) (s : State) : Host.Outcome State Fault Refusal :=
  .next (live (fun s => if u8 call.payload 2 == 1 then mailboxCommand 0x0102 call s else s) s)

/-- QUEUE_DISABLE (R405). QUEUE_CONTROL action 2 requests an owner reset that leaves the queue disabled. -/
def execQueueDisable (call : MbCall) (s : State) : Host.Outcome State Fault Refusal :=
  .next (live (fun s => if u8 call.payload 2 == 2 then mailboxCommand 0x0102 call s else s) s)

/-- SLOT_RING_SETUP (R346). Sets up a slot ring with its slots, base and counters. -/
def execSlotRingSetup (call : MbCall) (s : State) : Host.Outcome State Fault Refusal :=
  .next (live (mailboxCommand 0x0103 call) s)

/-- PACKAGE_INSTALL (R410). Copies, validates and installs a model package. -/
def execPackageInstall (call : MbCall) (s : State) : Host.Outcome State Fault Refusal :=
  .next (live (mailboxCommand 0x0201 call) s)

/-- PACKAGE_REMOVE (R411). Removes an installed package that is not in use. -/
def execPackageRemove (call : MbCall) (s : State) : Host.Outcome State Fault Refusal :=
  .next (live (mailboxCommand 0x0202 call) s)

/-- CULTURE_STAGE (R100). Validates a model's sets and registers it in the shadow bank. -/
def execCultureStage (call : MbCall) (s : State) : Host.Outcome State Fault Refusal :=
  .next (live (mailboxCommand 0x0301 call) s)

/-- CULTURE_REMOVE (R100). Deletes a model entry and frees its slots in the shadow bank. -/
def execCultureRemove (call : MbCall) (s : State) : Host.Outcome State Fault Refusal :=
  .next (live (mailboxCommand 0x0302 call) s)

/-- CULTURE_COMMIT (R101). Commits the staged bank, effective at the next boundary. -/
def execCultureCommit (call : MbCall) (s : State) : Host.Outcome State Fault Refusal :=
  .next (live (mailboxCommand 0x0303 call) s)

/-- INDEX_LOAD (R158). Writes a run of whole buckets into the shadow index table. -/
def execIndexLoad (call : MbCall) (s : State) : Host.Outcome State Fault Refusal :=
  .next (live (mailboxCommand 0x0304 call) s)

/-- INDEX_COMMIT (R158). Commits the staged index table, effective at the next boundary. -/
def execIndexCommit (call : MbCall) (s : State) : Host.Outcome State Fault Refusal :=
  .next (live (mailboxCommand 0x0305 call) s)

/-- TICK_CONFIG (R44). Sets the tick period, alignment mode and sync delay with an effective tick. -/
def execTickConfig (call : MbCall) (s : State) : Host.Outcome State Fault Refusal :=
  .next (live (mailboxCommand 0x0401 call) s)

/-- BW_SPLIT (R351). Sets the HBM bandwidth split with an effective tick. -/
def execBwSplit (call : MbCall) (s : State) : Host.Outcome State Fault Refusal :=
  .next (live (mailboxCommand 0x0402 call) s)

/-- MGMT_CONFIG (R406). Sets the management SMBus address for the next reset. -/
def execMgmtConfig (call : MbCall) (s : State) : Host.Outcome State Fault Refusal :=
  .next (live (mailboxCommand 0x0403 call) s)

/-- SETTINGS_COMMIT (R408). Writes the retained settings to the cave and locks the RWL fields. -/
def execSettingsCommit (call : MbCall) (s : State) : Host.Outcome State Fault Refusal :=
  .next (live (fun s => if u8 call.payload 0 != 1 then mailboxCommand 0x0404 call s else s) s)

/-- SETTINGS_ERASE (R408). SETTINGS_COMMIT with flag bit 0 erases the retained settings record. -/
def execSettingsErase (call : MbCall) (s : State) : Host.Outcome State Fault Refusal :=
  .next (live (fun s => if u8 call.payload 0 == 1 then mailboxCommand 0x0404 call s else s) s)

/-- POWER_LIMITS (R476). Sets the sustained cap, peak limit, class order and pool flag. -/
def execPowerLimits (call : MbCall) (s : State) : Host.Outcome State Fault Refusal :=
  .next (live (mailboxCommand 0x0501 call) s)

/-- POWER_STATE_A0 (R490). POWER_STATE 0 returns the module from A2 or A3 to A0; a state that no row has is refused here. -/
def execPowerStateA0 (call : MbCall) (s : State) : Host.Outcome State Fault Refusal :=
  .next (live (fun s => if u8 call.payload 0 != 2 && u8 call.payload 0 != 3 then mailboxCommand 0x0502 call s else s) s)

/-- POWER_STATE_A2 (R490). POWER_STATE 2 requests entry to A2 when its conditions hold. -/
def execPowerStateA2 (call : MbCall) (s : State) : Host.Outcome State Fault Refusal :=
  .next (live (fun s => if u8 call.payload 0 == 2 then mailboxCommand 0x0502 call s else s) s)

/-- POWER_STATE_A3 (R490). POWER_STATE 3 requests entry to A3 when its conditions hold. -/
def execPowerStateA3 (call : MbCall) (s : State) : Host.Outcome State Fault Refusal :=
  .next (live (fun s => if u8 call.payload 0 == 3 then mailboxCommand 0x0502 call s else s) s)

/-- FW_STAGE (R543). Writes a firmware bundle chunk into the slot that did not boot. -/
def execFwStage (call : MbCall) (s : State) : Host.Outcome State Fault Refusal :=
  .next (live (mailboxCommand 0x0601 call) s)

/-- FW_ACTIVATE_AT_RESET (R545). FW_ACTIVATE with flag 0 names the staged slot active from the next reset; a flag that no row has
is refused here. -/
def execFwActivateAtReset (call : MbCall) (s : State) : Host.Outcome State Fault Refusal :=
  .next (live (fun s => if u8 call.payload 0 != 1 then mailboxCommand 0x0602 call s else s) s)

/-- FW_ACTIVATE_LIVE (R546). FW_ACTIVATE with flag 1 fixes an effective tick for a live activation. -/
def execFwActivateLive (call : MbCall) (s : State) : Host.Outcome State Fault Refusal :=
  .next (live (fun s => if u8 call.payload 0 == 1 then mailboxCommand 0x0602 call s else s) s)

/-- FW_STATUS (R547). Returns the running and staged firmware versions. -/
def execFwStatus (call : MbCall) (s : State) : Host.Outcome State Fault Refusal :=
  .next (live (mailboxCommand 0x0603 call) s)

/-- ATTEST_REPORT (R517). ATTEST mode 0 returns the signed attestation report; a mode that no row has is refused here. -/
def execAttestReport (call : MbCall) (s : State) : Host.Outcome State Fault Refusal :=
  .next (live (fun s => if u8 call.payload 32 != 1 then mailboxCommand 0x0701 call s else s) s)

/-- ATTEST_CERTIFICATE (R516). ATTEST mode 1 returns the device certificate. -/
def execAttestCertificate (call : MbCall) (s : State) : Host.Outcome State Fault Refusal :=
  .next (live (fun s => if u8 call.payload 32 == 1 then mailboxCommand 0x0701 call s else s) s)

/-- CREDENTIAL_SET (R512). Writes a new host credential record and closes other sessions. -/
def execCredentialSet (call : MbCall) (s : State) : Host.Outcome State Fault Refusal :=
  .next (live (mailboxCommand 0x0702 call) s)

/-- DEBUG_TOKEN_DROP (R520). DEBUG_TOKEN action 0 drops the debug level to D0; an action that no row has is refused here. -/
def execDebugTokenDrop (call : MbCall) (s : State) : Host.Outcome State Fault Refusal :=
  .next (live (fun s => if u8 call.payload 0 != 1 then mailboxCommand 0x0703 call s else s) s)

/-- DEBUG_TOKEN_APPLY (R520). DEBUG_TOKEN action 1 verifies a token and raises the debug level. -/
def execDebugTokenApply (call : MbCall) (s : State) : Host.Outcome State Fault Refusal :=
  .next (live (fun s => if u8 call.payload 0 == 1 then mailboxCommand 0x0703 call s else s) s)

/-- LIFECYCLE_PROVISION (R508). Programs owner key slots and blows the provisioned fuse; an action that no row has is refused here. -/
def execLifecycleProvision (call : MbCall) (s : State) : Host.Outcome State Fault Refusal :=
  .next (live (fun s => if !([2, 3, 4, 5].contains (u8 call.payload 0)) then mailboxCommand 0x0704 call s else s) s)

/-- LIFECYCLE_DEPLOY (R508). Blows the deployed fuse. -/
def execLifecycleDeploy (call : MbCall) (s : State) : Host.Outcome State Fault Refusal :=
  .next (live (fun s => if u8 call.payload 0 == 2 then mailboxCommand 0x0704 call s else s) s)

/-- LIFECYCLE_RETIRE (R508). Blows the retired fuse, erases owner cave records and resets the module. -/
def execLifecycleRetire (call : MbCall) (s : State) : Host.Outcome State Fault Refusal :=
  .next (live (fun s => if u8 call.payload 0 == 3 then mailboxCommand 0x0704 call s else s) s)

/-- LIFECYCLE_REVOKE (R508). Blows the revoked fuse of an owner key slot. -/
def execLifecycleRevoke (call : MbCall) (s : State) : Host.Outcome State Fault Refusal :=
  .next (live (fun s => if u8 call.payload 0 == 4 then mailboxCommand 0x0704 call s else s) s)

/-- LIFECYCLE_ADVANCE_ROLLBACK (R508). Blows rollback counter bits up to the target count. -/
def execLifecycleAdvanceRollback (call : MbCall) (s : State) : Host.Outcome State Fault Refusal :=
  .next (live (fun s => if u8 call.payload 0 == 5 then mailboxCommand 0x0704 call s else s) s)

/-- UNIT_DRAIN (R535). Requests the drain of a serviceable unit. -/
def execUnitDrain (call : MbCall) (s : State) : Host.Outcome State Fault Refusal :=
  .next (live (mailboxCommand 0x0801 call) s)

/-- UNIT_RETURN (R536). Starts the test of a drained or failed unit. -/
def execUnitReturn (call : MbCall) (s : State) : Host.Outcome State Fault Refusal :=
  .next (live (mailboxCommand 0x0802 call) s)

/-- RECALIBRATE_ESTIMATOR (R542). RECALIBRATE scope 0 measures the power estimator weights; a scope that no row has is refused here. -/
def execRecalibrateEstimator (call : MbCall) (s : State) : Host.Outcome State Fault Refusal :=
  .next (live (fun s => if !([1, 2, 3].contains (u8 call.payload 0)) then mailboxCommand 0x0803 call s else s) s)

/-- RECALIBRATE_VAT (R542). RECALIBRATE scope 1 measures a drained vat's voltages and ageing monitor. -/
def execRecalibrateVat (call : MbCall) (s : State) : Host.Outcome State Fault Refusal :=
  .next (live (fun s => if u8 call.payload 0 == 1 then mailboxCommand 0x0803 call s else s) s)

/-- RECALIBRATE_POINTS (R542). RECALIBRATE scope 2 measures the calibrated voltages of P0–P15. -/
def execRecalibratePoints (call : MbCall) (s : State) : Host.Outcome State Fault Refusal :=
  .next (live (fun s => if u8 call.payload 0 == 2 then mailboxCommand 0x0803 call s else s) s)

/-- RECALIBRATE_PORT (R542). RECALIBRATE scope 3 measures the equalisation of a drained port. -/
def execRecalibratePort (call : MbCall) (s : State) : Host.Outcome State Fault Refusal :=
  .next (live (fun s => if u8 call.payload 0 == 3 then mailboxCommand 0x0803 call s else s) s)

/-- PLAN_SET_REPLACE (R539). Requests moving a running plan job onto a plan set of the same reduction order. -/
def execPlanSetReplace (call : MbCall) (s : State) : Host.Outcome State Fault Refusal :=
  .next (live (mailboxCommand 0x0804 call) s)

/-- MODULE_RESET (R564). Requests a module reset after a delay. -/
def execModuleReset (call : MbCall) (s : State) : Host.Outcome State Fault Refusal :=
  .next (live (mailboxCommand 0x0805 call) s)

/-- TOPOLOGY_SET (R431). Sets the topology of the entry module for the next reset. -/
def execTopologySet (call : MbCall) (s : State) : Host.Outcome State Fault Refusal :=
  .next (live (mailboxCommand 0x0806 call) s)

end Sys2Proof.Machine
end

