-- ==== Sys2Proof/Machine/PowerRows.lean ====
section
/-!
DEFINITION. Meanings: the rows of the power controller.
-/

namespace Sys2Proof.Machine

/-- POWER_ESTIMATE (R473). Every 2 µs the controller estimates power and projects the 1 ms average. -/
def execPowerEstimate (estimateMw avg1msMw avg1sMw : Nat) (queueUj : List (Nat × Nat)) (projected : List Nat) (s : State) : Host.Outcome State Fault Refusal :=
  .next (live (notePower estimateMw avg1msMw avg1sMw queueUj projected) s)

/-- ESTIMATE_COMPARE (R473). Every 10 ms the estimate is compared with PMBus readings. -/
def execEstimateCompare (estimateW : Nat) (poutW : List (Option Nat)) (s : State) : Host.Outcome State Fault Refusal :=
  .next (live (compareEstimate estimateW poutW) s)

/-- SENSOR_READ (R481). Every 20 µs temperature sensors are read against throttle and trip limits. -/
def execSensorRead (readings : List Reading) (s : State) : Host.Outcome State Fault Refusal :=
  .next (live (readSensors readings) s)

/-- THERMAL_STEP (R481). Every 100 µs above the throttle limit the point is lowered by one step. -/
def execThermalStep (s : State) : Host.Outcome State Fault Refusal :=
  .next (live thermalStep s)

/-- PWR_ALERT_ASSERT (R482). PWR_ALERT_N held low for 50 ns moves the module to P15 within 1 µs. -/
def execPwrAlertAssert (now : Nat) (statusWords : List (Option Nat)) (s : State) : Host.Outcome State Fault Refusal :=
  .next (live (assertAlert now statusWords) s)

/-- PWR_ALERT_DEASSERT (R482). PWR_ALERT_N returns high and the 100 µs hold begins. -/
def execPwrAlertDeassert (now : Nat) (s : State) : Host.Outcome State Fault Refusal :=
  .next (live (deassertAlert now) s)

/-- ALERT_HOLD_END (R482). 100 µs after the pin returns high the alert's cause clears. -/
def execAlertHoldEnd (s : State) : Host.Outcome State Fault Refusal :=
  .next (live endAlertHold s)

/-- DROOP_TRIP (R483). A droop detector trips and doubles its domain's clock period. -/
def execDroopTrip (domain now : Nat) (s : State) : Host.Outcome State Fault Refusal :=
  .next (live (tripDroop domain now) s)

/-- DROOP_STRETCH_END (R483). After 64 undivided cycles above threshold the stretch ends. -/
def execDroopStretchEnd (domain now : Nat) (s : State) : Host.Outcome State Fault Refusal :=
  .next (live (endStretch domain now) s)

/-- DROOP_RESPONSE_END (R483). 2 µs after the stretch ends the droop response is no longer active. -/
def execDroopResponseEnd (domain : Nat) (s : State) : Host.Outcome State Fault Refusal :=
  .next (live (endDroop domain) s)

end Sys2Proof.Machine
end

