-- ==== Sys2Proof/Machine/QueueRows.lean ====
section
/-!
DEFINITION. Meanings: the rows of doorbells, descriptors and operations.
-/

namespace Sys2Proof.Machine

/-- QDB_TAIL_WRITE (R330). A write to a queue's TAIL doorbell is accepted or refused, a refusal stopping the queue. -/
def execQdbTailWrite (q : Nat) (t : U32) (s : State) : Host.Outcome State Fault Refusal :=
  .next (live (tailWrite q t) s)

/-- DESCRIPTOR_START (R334). An admitted descriptor starts once its wait counter and fence conditions hold. -/
def execDescriptorStart (q : Nat) (idx : U32) (s : State) : Host.Outcome State Fault Refusal :=
  .next (live (startDescriptor q idx) s)

/-- OPERATION_STEP (R68). A later step of an operation cut into steps is admitted into the capacity of a later tick. -/
def execOperationStep (q : Nat) (idx : U32) (s : State) : Host.Outcome State Fault Refusal :=
  .next (live (stepOperation q idx) s)

/-- OPERATION_COMPLETE (R335). An operation finishes and its completion record is written in index order. -/
def execOperationComplete (q : Nat) (s : State) : Host.Outcome State Fault Refusal :=
  .next (live (fun s => wake (completeOperation q s)) s)

/-- QUEUE_OWNER_RESET (R339). At the next boundary an owner reset ends admission, stops operations, poisons owned counters and resets the
queue indices. -/
def execQueueOwnerReset (q : Nat) (s : State) : Host.Outcome State Fault Refusal :=
  .next (live (fun s => wake (ownerReset q s)) s)

/-- MATMUL (R209). A descriptor matrix product runs on a free group with the accumulation and epilogue defined for it. -/
def execMatmul (q : Nat) (idx : U32) (hw : Option Nat) (s : State) : Host.Outcome State Fault Refusal :=
  .next (live (execMatmulOp q idx hw) s)

/-- ATTENTION (R220). A descriptor attention runs tile by tile with the tiled soft maximum. -/
def execAttention (q : Nat) (idx : U32) (hw : Option Nat) (s : State) : Host.Outcome State Fault Refusal :=
  .next (live (execAttentionOp q idx hw) s)

/-- CONV (R232). A descriptor convolution runs through the Harp addressing. -/
def execConv (q : Nat) (idx : U32) (hw : Option Nat) (s : State) : Host.Outcome State Fault Refusal :=
  .next (live (execConvOp q idx hw) s)

/-- RESAMPLE (R248). A descriptor nearest or bilinear upsampling runs. -/
def execResample (q : Nat) (idx : U32) (hw : Option Nat) (s : State) : Host.Outcome State Fault Refusal :=
  .next (live (execResampleOp q idx hw) s)

/-- FUNC (R269). A descriptor applies a special function to each element. -/
def execFunc (q : Nat) (idx : U32) (hw : Option Nat) (s : State) : Host.Outcome State Fault Refusal :=
  .next (live (execFuncOp q idx hw) s)

/-- NORM (R273). A descriptor normalises each row as layer or root-mean-square normalisation. -/
def execNorm (q : Nat) (idx : U32) (hw : Option Nat) (s : State) : Host.Outcome State Fault Refusal :=
  .next (live (execNormOp q idx hw) s)

/-- SOFTMAX (R276). A descriptor computes the soft maximum of each row. -/
def execSoftmax (q : Nat) (idx : U32) (hw : Option Nat) (s : State) : Host.Outcome State Fault Refusal :=
  .next (live (execSoftmaxOp q idx hw) s)

/-- HINT (R485). A hint descriptor adds phase power to the controller's prediction. -/
def execHint (q : Nat) (idx : U32) (s : State) : Host.Outcome State Fault Refusal :=
  .next (live (execHintOp q idx) s)

/-- TRANSFER (R343). A ladle copies, converts, expands, applies Cloth or fills data. -/
def execTransfer (q : Nat) (idx : U32) (s : State) : Host.Outcome State Fault Refusal :=
  .next (live (execTransferOp q idx) s)

/-- GATHER (R345). A ladle moves rows selected by an index stream, as a gather or a scatter. -/
def execGather (q : Nat) (idx : U32) (s : State) : Host.Outcome State Fault Refusal :=
  .next (live (execGatherOp q idx) s)

/-- SLOT_FREE (R348). A descriptor frees the oldest published slots of a slot ring. -/
def execSlotFree (q : Nat) (idx : U32) (s : State) : Host.Outcome State Fault Refusal :=
  .next (live (fun s => wake (execSlotFreeOp q idx s)) s)

/-- SR_HEAD_WRITE (R348). A host write to SR_HEAD frees slots, or is ignored if it would pass TAIL. -/
def execSrHeadWrite (ring : Nat) (head : U32) (s : State) : Host.Outcome State Fault Refusal :=
  .next (live (fun s => wake (if doorbellsOpen s then slotHeadWrite ring head s else s)) s)

/-- DECODE_BEGIN (R128). Opens a decoding context: checks the wheel, binds it and loads the lane states. -/
def execDecodeBegin (q : Nat) (idx : U32) (s : State) : Host.Outcome State Fault Refusal :=
  .next (live (execDecodeBeginOp q idx) s)

/-- DECODE_PASS (R130). Decodes one pass of one frame of the context's wheel. -/
def execDecodePass (q : Nat) (idx : U32) (tableFault : Bool) (s : State) : Host.Outcome State Fault Refusal :=
  .next (live (execDecodePassOp q idx tableFault) s)

/-- DECODE_END (R132). Makes the final checks, writes the latent digest, ends the binding and closes the context. -/
def execDecodeEnd (q : Nat) (idx : U32) (s : State) : Host.Outcome State Fault Refusal :=
  .next (live (execDecodeEndOp q idx) s)

/-- ENCODE_WHEEL (R133). Encodes one whole wheel in pass steps, assembles it in scratch and releases it. -/
def execEncodeWheel (q : Nat) (turn : EncodeTurn) (s : State) : Host.Outcome State Fault Refusal :=
  .next (live (execEncodeWheelOp q turn.idx turn.tableFault) s)

/-- TABLE_SRAM_REWRITE (R139). At the next boundary firmware rewrites both banks of an engine offline after a table SRAM error. -/
def execTableSramRewrite (engine : Nat) (s : State) : Host.Outcome State Fault Refusal :=
  .next (live (fun s => wake (rewriteTables engine s)) s)

/-- COMPRESS (R289). A Press job compresses input into a DEFLATE, zlib or gzip stream. -/
def execCompress (q : Nat) (idx : U32) (hw : Option Nat) (s : State) : Host.Outcome State Fault Refusal :=
  .next (live (execCompressOp q idx hw) s)

/-- INFLATE (R293). A Press job decompresses a DEFLATE, zlib or gzip stream. -/
def execInflate (q : Nat) (idx : U32) (hw : Option Nat) (s : State) : Host.Outcome State Fault Refusal :=
  .next (live (execInflateOp q idx hw) s)

/-- SAMPLE (R162). A sampling descriptor resolves clip keys and delivers decoded tokens into a slot ring. -/
def execSample (q : Nat) (idx : U32) (s : State) : Host.Outcome State Fault Refusal :=
  .next (live (fun s => wake (execSampleOp q idx s)) s)

/-- SAMPLE_ENTRY (R164). A sampling entry starts once a device context, staging buffer and pool capacity are free, and is resolved, fetched,
decoded and written to a slot. -/
def execSampleEntry (q : Nat) (idx : U32) (tableFault : Bool) (s : State) : Host.Outcome State Fault Refusal :=
  .next (live (fun s => wake (execSampleEntryOp q idx tableFault s)) s)

/-- LOOKUP (R152). Looks up a clip key in the bound epoch and writes the entry. -/
def execLookup (q : Nat) (idx : U32) (s : State) : Host.Outcome State Fault Refusal :=
  .next (live (execLookupOp q idx) s)

/-- PUT (R153). Writes or replaces an index entry in the key's probe sequence. -/
def execPutEntry (q : Nat) (idx : U32) (s : State) : Host.Outcome State Fault Refusal :=
  .next (live (execPutOp q idx) s)

/-- DELETE (R153). Turns the live entry with the key into a tombstone. -/
def execDeleteKey (q : Nat) (idx : U32) (s : State) : Host.Outcome State Fault Refusal :=
  .next (live (execDeleteOp q idx) s)

/-- SIGNAL (R368). A host signal descriptor adds to a local or remote counter. -/
def execSignalCtr (q : Nat) (idx : U32) (s : State) : Host.Outcome State Fault Refusal :=
  .next (live (fun s => wake (execSignalOp q idx s)) s)

/-- SUB (R368). A host signal descriptor subtracts from a counter. -/
def execSubCtr (q : Nat) (idx : U32) (s : State) : Host.Outcome State Fault Refusal :=
  .next (live (execSubOp q idx) s)

/-- WAIT_GE (R358). A host signal descriptor waits until a counter reaches a value. -/
def execWaitGe (q : Nat) (idx : U32) (s : State) : Host.Outcome State Fault Refusal :=
  .next (live (execWaitGeOp q idx) s)

/-- ACQUIRE (R358). A host signal descriptor waits in arrival order and subtracts its amount. -/
def execAcquire (q : Nat) (idx : U32) (s : State) : Host.Outcome State Fault Refusal :=
  .next (live (execAcquireOp q idx) s)

/-- CTR_ADD_WRITE (R371). A write to CTR_ADD in the host counter window is a SIGNAL. -/
def execCtrAddWrite (c : Nat) (amount : U32) (s : State) : Host.Outcome State Fault Refusal :=
  .next (live (fun s => wake (if doorbellsOpen s then windowWrite c false amount s else s)) s)

/-- CTR_SUB_WRITE (R371). A write to CTR_SUB in the host counter window is a SUB. -/
def execCtrSubWrite (c : Nat) (amount : U32) (s : State) : Host.Outcome State Fault Refusal :=
  .next (live (fun s => if doorbellsOpen s then windowWrite c true amount s else s) s)

end Sys2Proof.Machine
end

