-- ==== Sys2Proof/Machine/RegisterRows.lean ====
section
/-!
DEFINITION. Meanings: the rows of registers, record rings and SMBus.
-/

namespace Sys2Proof.Machine

/-- SMBUS_WRITE_WORD (R387). Sets the management mailbox window offset. -/
def execSmbusWriteWord (offset : Nat) (pecOk : Bool) (s : State) : Host.Outcome State Fault Refusal :=
  .next (live (smbusOffset offset pecOk) s)

/-- SMBUS_BLOCK_WRITE (R387). Writes 4–32 bytes at the window offset and advances it. -/
def execSmbusBlockWrite (data : List Byte) (pecOk : Bool) (s : State) : Host.Outcome State Fault Refusal :=
  .next (live (fun s => wake (smbusWrite data pecOk s)) s)

/-- SMBUS_BLOCK_READ (R387). Returns 32 bytes at the window offset and advances it. -/
def execSmbusBlockRead (pecOk : Bool) (s : State) : Host.Outcome State Fault Refusal :=
  .next (live (smbusRead pecOk) s)

/-- EVT_TAIL_WRITE (R413). A write of EVT_TAIL is accepted within HEAD or ignored. -/
def execEvtTailWrite (t : U32) (s : State) : Host.Outcome State Fault Refusal :=
  .next (live (fun s => { s with evt := s.evt.setTail t }) s)

/-- ERR_TAIL_WRITE (R321). A write of ERR_TAIL is accepted within HEAD or ignored. -/
def execErrTailWrite (t : U32) (s : State) : Host.Outcome State Fault Refusal :=
  .next (live (fun s => { s with err := s.err.setTail t }) s)

/-- THR_TAIL_WRITE (R492). A write of THR_TAIL is accepted within HEAD or ignored. -/
def execThrTailWrite (t : U32) (s : State) : Host.Outcome State Fault Refusal :=
  .next (live (fun s => { s with thr := s.thr.setTail t }) s)

/-- ERR_INJECT_WRITE (R325). A write of ERR_INJECT arms an injection at D2 or D3, or sets DENIED. -/
def execErrInjectWrite (v : U32) (s : State) : Host.Outcome State Fault Refusal :=
  .next (live (injectWrite v) s)

/-- TICK_COUNT_LO_READ (R46). A read of TICK_COUNT_LO latches the high half. -/
def execTickCountLoRead (s : State) : Host.Outcome State Fault Refusal :=
  .next (live readTickCount s)

/-- TICK_BASE_LO_READ (R561). A read of TICK_BASE_LO latches the high half. -/
def execTickBaseLoRead (s : State) : Host.Outcome State Fault Refusal :=
  .next (live readTickBase s)

/-- PWR_ENERGY_LO_READ (R493). A read of PWR_ENERGY_LO latches the high half. -/
def execPwrEnergyLoRead (s : State) : Host.Outcome State Fault Refusal :=
  .next (live readEnergy s)

/-- THR_COUNT_LO_READ (R493). A read of a throttle counter low half latches its high half. -/
def execThrCountLoRead (reason : Nat) (below : Bool) (s : State) : Host.Outcome State Fault Refusal :=
  .next (live (readThrottle reason below) s)

/-- QE_LO_READ (R493). A read of QE_LO latches QE_HI. -/
def execQeLoRead (q : Nat) (s : State) : Host.Outcome State Fault Refusal :=
  .next (live (readQueueEnergy q) s)

/-- REGISTER_WRITE (R13). A write to a register with no row of its own acts by its access code. -/
def execRegisterWrite (offset : Nat) (v : U32) (s : State) : Host.Outcome State Fault Refusal :=
  .next (live (fun s => wake (writeReg offset v s)) s)

end Sys2Proof.Machine
end

