-- ==== Sys2Proof/Machine/ServiceRows.lean ====
section
/-!
DEFINITION. Meanings: the rows of units, memory scrubbing and ageing.
-/

namespace Sys2Proof.Machine

/-- UNIT_DRAIN_EFFECT (R535). At step 4 of the next boundary the unit becomes draining and takes no new work. -/
def execUnitDrainEffect (u : UnitId) (s : State) : Host.Outcome State Fault Refusal :=
  .next (live (drainUnit u) s)

/-- UNIT_DRAINED (R535). When its remaining work ends the unit becomes drained and is power-gated. -/
def execUnitDrained (u : UnitId) (s : State) : Host.Outcome State Fault Refusal :=
  .next (live (unitDrained u) s)

/-- UNIT_TEST_COMPLETE (R536). The unit's test finishes; a pass schedules its return, a failure makes it failed. -/
def execUnitTestComplete (u : UnitId) (pass : Bool) (stage : Nat) (s : State) : Host.Outcome State Fault Refusal :=
  .next (live (unitTested u pass stage) s)

/-- UNIT_RETURN_EFFECT (R536). At step 4 of the next boundary the tested unit returns to service. -/
def execUnitReturnEffect (u : UnitId) (s : State) : Host.Outcome State Fault Refusal :=
  .next (live (returnUnit u) s)

/-- HBM_SCRUB (R313). The scrubber reads and corrects the next HBM word within the scrub period. -/
def execHbmScrub (upset : Option Upset) (s : State) : Host.Outcome State Fault Refusal :=
  .next (live (hbmScrub upset) s)

/-- SRAM_SCRUB (R313). Every SRAM array is scrubbed once every 60 s in unused cycles. -/
def execSramScrub (source unit offset symbols symbol : Nat) (s : State) : Host.Outcome State Fault Refusal :=
  .next (live (fun s => wake (sramScrub source unit offset symbols symbol s)) s)

/-- VAT_AGEING_CHECK (R541). Every 24 hours firmware reads the ageing monitors and lowers or flags current maxima. -/
def execVatAgeingCheck (vat maxStep : Nat) (s : State) : Host.Outcome State Fault Refusal :=
  .next (live (checkAgeing vat maxStep) s)

/-- VAT_AGEING_DEADLINE (R541). After 720 hours firmware lowers CURRENT whatever runs. -/
def execVatAgeingDeadline (vat : Nat) (s : State) : Host.Outcome State Fault Refusal :=
  .next (live (ageingDeadline vat) s)

end Sys2Proof.Machine
end

