-- ==== Sys2Proof/Machine/StartRows.lean ====
section
/-!
DEFINITION. Meanings: the rows of resets, start-up, rails, the watchdog, hub core debug and the TAP.
-/

namespace Sys2Proof.Machine

/-- WATCHDOG_TIMEOUT (R563). Mehrore missing its heartbeat for 1 s resets the module. -/
def execWatchdogTimeout (s : State) : Host.Outcome State Fault Refusal :=
  .next (live watchdog s)

/-- DBG_CORE_HALT (R529). A write of DBG_CORE.HALT halts or resumes hub cores at D2, or sets DENIED. -/
def execDbgCoreHalt (v : U32) (s : State) : Host.Outcome State Fault Refusal :=
  .next (live (fun s => serveParked (haltCores v s)) s)

/-- DBG_CORE_STEP (R529). A write of DBG_CORE.STEP steps a halted hub core by one instruction. -/
def execDbgCoreStep (v : U32) (s : State) : Host.Outcome State Fault Refusal :=
  .next (live (stepCores v) s)

/-- TAP_BYPASS (R522). The TAP BYPASS instruction. -/
def execTapBypass (tdi : Bool) (s : State) : Host.Outcome State Fault Refusal :=
  .next (tapAccepts (tapBypass tdi) s)

/-- TAP_IDCODE (R522). The TAP IDCODE instruction returns the part identification. -/
def execTapIdcode (s : State) : Host.Outcome State Fault Refusal :=
  .next (tapAccepts (emit (.tdo (lowBits 32 idcode))) s)

/-- TAP_SAMPLE_PRELOAD (R522). The TAP SAMPLE/PRELOAD instruction. -/
def execTapSamplePreload (preload : List Bool) (s : State) : Host.Outcome State Fault Refusal :=
  .next (tapAccepts (tapSample preload) s)

/-- TAP_EXTEST (R522). The TAP EXTEST instruction, effective only while RESET_N is low. -/
def execTapExtest (s : State) : Host.Outcome State Fault Refusal :=
  .next (tapAccepts tapExtest s)

/-- TAP_SCAN (R522). A private scan instruction at D3 stops every clock of the module. -/
def execTapScan (s : State) : Host.Outcome State Fault Refusal :=
  .next (live tapScan s)

/-- TAP_MEMORY_ACCESS (R522). A private memory access instruction at D3. -/
def execTapMemoryAccess (address : Nat) (write : Option Byte) (s : State) : Host.Outcome State Fault Refusal :=
  if tapReaches s then (if address < hbmBytes then .next (tapMemory address write s) else .fault .noMemory) else .next s

/-- POWER_ON (R563). Power is applied, starting a power-on reset. -/
def execPowerOn (s : State) : Host.Outcome State Fault Refusal :=
  .next (powerOn s)

/-- PIN_RESET (R563). RESET_N low holds the module in reset. -/
def execPinReset (s : State) : Host.Outcome State Fault Refusal :=
  .next (pinReset s)

/-- CONVENTIONAL_RESET (R563). PERST_N low holds the module in reset. -/
def execConventionalReset (s : State) : Host.Outcome State Fault Refusal :=
  .next (perstReset s)

/-- START_ORIGIN (R557). The later reset pin goes high and the start-up sequence begins. -/
def execStartOrigin (s : State) : Host.Outcome State Fault Refusal :=
  .next (startOrigin s)

/-- HBM_STACK_TRAINED (R557). An HBM stack finishes training and the next stack starts. -/
def execHbmStackTrained (stack : Nat) (ok : Bool) (s : State) : Host.Outcome State Fault Refusal :=
  .next (live (stackTrained stack ok) s)

/-- HBM_STACK_INITIALISED (R558). A trained stack finishes being written to zero. -/
def execHbmStackInitialised (stack : Nat) (s : State) : Host.Outcome State Fault Refusal :=
  .next (live (stackInitialised stack) s)

/-- FIRMWARE_READY (R560). The device sets FW_READY, stops CRS and places the head's first boundary. -/
def execFirmwareReady (readyMs : Nat) (vatFailures : List Nat) (s : State) : Host.Outcome State Fault Refusal :=
  .next (live (firmwareReady readyMs vatFailures) s)

/-- PORT_GROUP_START (R557). Every 2 ms the next group of 4 ports begins training. -/
def execPortGroupStart (s : State) : Host.Outcome State Fault Refusal :=
  .next (live portGroupStart s)

/-- RAIL_POWER_GOOD_TIMEOUT (R574). A switched rail without power good within 3 ms is a start failure. -/
def execRailPowerGoodTimeout (rail statusWord : Nat) (s : State) : Host.Outcome State Fault Refusal :=
  .next (railTimeout rail statusWord s)

/-- BROWN_OUT (R577). A rail out of regulation for 5 µs holds the module in reset and records RAIL_FAULT. -/
def execBrownOut (rail kind _statusWord : Nat) (s : State) : Host.Outcome State Fault Refusal :=
  .next (brownOut rail kind s)

/-- BROWN_OUT_RECOVERY (R577). When every rail has been in regulation for 1 ms a module reset begins. -/
def execBrownOutRecovery (s : State) : Host.Outcome State Fault Refusal :=
  .next (brownOutOver s)

/-- ALWAYS_ON_RAIL_LOSS (R576). An always-on rail below 90% causes a power-on reset on its return. -/
def execAlwaysOnRailLoss (rail : Nat) (s : State) : Host.Outcome State Fault Refusal :=
  .next (aonLoss rail s)

/-- HUB_CORES_RUN_MEHRORE (R557). The guard firmware finishes verifying stages 2 and 3, loads the control stores and starts Mehrore on the
hub cores, from which point the management mailbox serves, or it falls back or enters recovery. -/
def execHubCoresRunMehrore (s : State) : Host.Outcome State Fault Refusal :=
  .next (live hubCoresRun s)

end Sys2Proof.Machine
end

