-- ==== Sys2Proof/Machine/TickRows.lean ====
section
/-!
DEFINITION. Meanings: the tick, alignment and plan rows.
-/

namespace Sys2Proof.Machine

/-- TICK_BOUNDARY (R64). The timebase reaches the previous boundary plus the tick length, and the device runs the boundary sequence. -/
def execTickBoundary (b : BoundaryInput) (s : State) : Host.Outcome State Fault Refusal :=
  .next (live (fun s => serveParked (tickBoundary b s)) s)

/-- TAIL_SNAPSHOT (R67). Two microseconds before each boundary the device snapshots every queue's tail to fix eligibility. -/
def execTailSnapshot (s : State) : Host.Outcome State Fault Refusal :=
  .next (live (fun s => if ticking s then snapshotTails s else s) s)

/-- BOUNDARY_WINDOW_END (R64). The 2 µs boundary window ends and the units start the plan step. -/
def execBoundaryWindowEnd (late : List LateUnit) (s : State) : Host.Outcome State Fault Refusal :=
  .next (live (windowEnd late) s)

/-- LATE_WORK_COMPLETE (R59). Late tick work finishes during a hold, and the module broadcasts RELEASE once its rails reach the prepared
point. -/
def execLateWorkComplete (now : Nat) (railsReady : Bool) (s : State) : Host.Outcome State Fault Refusal :=
  .next (live (lateWorkDone now railsReady) s)

/-- HOLD_LIMIT (R61). A hold that lasts longer than 4 tick lengths fails the plan job on every member with TICK_OVERRUN. -/
def execHoldLimit (now : Nat) (s : State) : Host.Outcome State Fault Refusal :=
  .next (live (holdLimit now) s)

/-- SKIP_WINDOW (R63). At each 64-tick window the choosing member computes the skip count and sends SKIP_PATTERN. -/
def execSkipWindow (windows : List Nat) (limit : Nat) (s : State) : Host.Outcome State Fault Refusal :=
  .next (live (skipWindow windows limit) s)

/-- PREPARED_POINT_FIX (R470). At the request deadline 20 µs before a boundary the controller fixes the prepared point, requests it and
brings the rails to its voltage. -/
def execPreparedPointFix (p : PowerInput) (avsOk : Bool) (s : State) : Host.Outcome State Fault Refusal :=
  .next (live (fixPoint p avsOk) s)

/-- TICK_SYNC_IN_EDGE (R579). A rising edge on TICK_SYNC_IN within the window places the boundary under ALIGN_MODE 2. -/
def execTickSyncInEdge (edge : Int) (s : State) : Host.Outcome State Fault Refusal :=
  .next (live (syncEdge edge) s)

/-- TIMESTAMP (R439). A parent receives TIMESTAMP and answers with TIMESTAMP_REPLY. -/
def execTimestamp (msg : SyncId) (t1 t2 t3 : Nat) (s : State) : Host.Outcome State Fault Refusal :=
  .next (live (receiveSync msg.src msg.id (answerTimestamp msg.src t1 t2 t3)) s)

/-- TIMESTAMP_REPLY (R439). A module receives the reply, computes its offset and slews its timebase. -/
def execTimestampReply (msg : SyncId) (t1 t2 t3 t4 : Nat) (s : State) : Host.Outcome State Fault Refusal :=
  .next (live (receiveSync msg.src msg.id (takeTimestamp msg.src t1 t2 t3 t4)) s)

/-- TICK_BASE_MESSAGE (R561). A joining module receives the head's TICK_COUNT and holds it in TICK_BASE. -/
def execTickBaseMessage (count : Nat) (s : State) : Host.Outcome State Fault Refusal :=
  .next (live (takeTickBase count) s)

/-- HOLD (R59). A member receives HOLD and holds its own boundary until every holding member has released. -/
def execHoldMsg (msg : SyncId) (tick : Nat) (s : State) : Host.Outcome State Fault Refusal :=
  .next (live (receiveSync msg.src msg.id (takeHold msg.src tick)) s)

/-- RELEASE (R59). A member receives RELEASE and places the boundary 2 µs after the last RELEASE. -/
def execReleaseMsg (msg : SyncId) (tick now : Nat) (s : State) : Host.Outcome State Fault Refusal :=
  .next (live (receiveSync msg.src msg.id (takeRelease msg.src tick now)) s)

/-- VARIANT_REQUEST (R62). A member receives a peer's needed operating point, which counts at this or the next boundary. -/
def execVariantRequest (msg : SyncId) (_tick point : Nat) (s : State) : Host.Outcome State Fault Refusal :=
  .next (live (receiveSync msg.src msg.id (takeRequest msg.src point)) s)

/-- START_DEFER (R56). A member receives START_DEFER and defers the plan job start by one tick. -/
def execStartDefer (msg : SyncId) (tick planSet : Nat) (s : State) : Host.Outcome State Fault Refusal :=
  .next (live (receiveSync msg.src msg.id (takeDefer msg.src tick planSet)) s)

/-- DOMAIN_ABSENT (R56). After 1,000 deferrals every member's RUN_PLAN fails with DOMAIN_ABSENT. -/
def execDomainAbsent (s : State) : Host.Outcome State Fault Refusal :=
  .next (live domainAbsent s)

/-- SKIP_PATTERN (R63). A member receives the skip pattern for the next 64-tick window. -/
def execSkipPattern (msg : SyncId) (first : Nat) (pattern : U64) (s : State) : Host.Outcome State Fault Refusal :=
  .next (live (receiveSync msg.src msg.id (takeSkipPattern msg.src first pattern)) s)

/-- PLAN_JOB_START (R56). A plan job starts at the first boundary at or after start_tick at which the outgoing job is at a swap point. -/
def execPlanJobStart (s : State) : Host.Outcome State Fault Refusal :=
  .next (live planStart s)

/-- PLAN_JOB_COMPLETE (R57). A plan job completes after its last round, checks counter balance and returns counter ownership. -/
def execPlanJobComplete (s : State) : Host.Outcome State Fault Refusal :=
  .next (live planComplete s)

/-- PLAN_JOB_PREEMPT (R57). A pre-empted plan job stops at its swap point or round end, completes with PREEMPTED and poisons its counters.
-/
def execPlanJobPreempt (s : State) : Host.Outcome State Fault Refusal :=
  .next (live planPreempt s)

/-- PLAN_JOB_FAILURE (R379). At the next boundary after a poisoning, uncorrectable error or lost member, the plan job fails on every member.
-/
def execPlanJobFailure (cause : Status) (s : State) : Host.Outcome State Fault Refusal :=
  .next (live (planFails cause) s)

/-- PLAN_REPLACE_EFFECT (R540). At a swap-point boundary at least 2 ticks later the job continues in the new plan set. -/
def execPlanReplaceEffect (s : State) : Host.Outcome State Fault Refusal :=
  .next (live planReplaced s)

/-- RUN_PLAN (R55). A plan queue descriptor requests a plan set to run for a number of rounds. -/
def execRunPlan (q : Nat) (idx : U32) (s : State) : Host.Outcome State Fault Refusal :=
  .next (live (execRunPlanOp q idx) s)

end Sys2Proof.Machine
end

