-- ==== Sys2Proof/Machine/Dispatch.lean ====
section
/-!
DEFINITION. What each command does to everything but the queue: one arm per row of spec/opcode_table.json.
-/

namespace Sys2Proof.Machine

def exec (i : Instr) (s : State) : Host.Outcome State Fault Refusal :=
  match i with
  | .tickBoundary b => Sys2Proof.Machine.execTickBoundary b s
  | .tailSnapshot => Sys2Proof.Machine.execTailSnapshot s
  | .boundaryWindowEnd late => Sys2Proof.Machine.execBoundaryWindowEnd late s
  | .lateWorkComplete now railsReady => Sys2Proof.Machine.execLateWorkComplete now railsReady s
  | .holdLimit now => Sys2Proof.Machine.execHoldLimit now s
  | .skipWindow windows limit => Sys2Proof.Machine.execSkipWindow windows limit s
  | .preparedPointFix p avsOk => Sys2Proof.Machine.execPreparedPointFix p avsOk s
  | .tickSyncInEdge offset => Sys2Proof.Machine.execTickSyncInEdge offset s
  | .timestamp msg t1 t2 t3 => Sys2Proof.Machine.execTimestamp msg t1 t2 t3 s
  | .timestampReply msg t1 t2 t3 t4 => Sys2Proof.Machine.execTimestampReply msg t1 t2 t3 t4 s
  | .tickBaseMessage count => Sys2Proof.Machine.execTickBaseMessage count s
  | .holdMsg msg tick => Sys2Proof.Machine.execHoldMsg msg tick s
  | .releaseMsg msg tick now => Sys2Proof.Machine.execReleaseMsg msg tick now s
  | .variantRequest msg tick point => Sys2Proof.Machine.execVariantRequest msg tick point s
  | .startDefer msg tick planSet => Sys2Proof.Machine.execStartDefer msg tick planSet s
  | .domainAbsent => Sys2Proof.Machine.execDomainAbsent s
  | .skipPattern msg first pattern => Sys2Proof.Machine.execSkipPattern msg first pattern s
  | .planJobStart => Sys2Proof.Machine.execPlanJobStart s
  | .planJobComplete => Sys2Proof.Machine.execPlanJobComplete s
  | .planJobPreempt => Sys2Proof.Machine.execPlanJobPreempt s
  | .planJobFailure cause => Sys2Proof.Machine.execPlanJobFailure cause s
  | .qdbTailWrite q t => Sys2Proof.Machine.execQdbTailWrite q t s
  | .descriptorStart q idx => Sys2Proof.Machine.execDescriptorStart q idx s
  | .operationStep q idx => Sys2Proof.Machine.execOperationStep q idx s
  | .operationComplete q => Sys2Proof.Machine.execOperationComplete q s
  | .queueOwnerReset q => Sys2Proof.Machine.execQueueOwnerReset q s
  | .runPlan q idx => Sys2Proof.Machine.execRunPlan q idx s
  | .matmul q idx hw => Sys2Proof.Machine.execMatmul q idx hw s
  | .attention q idx hw => Sys2Proof.Machine.execAttention q idx hw s
  | .conv q idx hw => Sys2Proof.Machine.execConv q idx hw s
  | .resample q idx hw => Sys2Proof.Machine.execResample q idx hw s
  | .func q idx hw => Sys2Proof.Machine.execFunc q idx hw s
  | .norm q idx hw => Sys2Proof.Machine.execNorm q idx hw s
  | .softmax q idx hw => Sys2Proof.Machine.execSoftmax q idx hw s
  | .hint q idx => Sys2Proof.Machine.execHint q idx s
  | .transfer q idx => Sys2Proof.Machine.execTransfer q idx s
  | .gather q idx => Sys2Proof.Machine.execGather q idx s
  | .slotFree q idx => Sys2Proof.Machine.execSlotFree q idx s
  | .srHeadWrite ring head => Sys2Proof.Machine.execSrHeadWrite ring head s
  | .decodeBegin q idx => Sys2Proof.Machine.execDecodeBegin q idx s
  | .decodePass q idx tableFault => Sys2Proof.Machine.execDecodePass q idx tableFault s
  | .decodeEnd q idx => Sys2Proof.Machine.execDecodeEnd q idx s
  | .encodeWheel q turn => Sys2Proof.Machine.execEncodeWheel q turn s
  | .tableSramRewrite engine => Sys2Proof.Machine.execTableSramRewrite engine s
  | .compress q idx hw => Sys2Proof.Machine.execCompress q idx hw s
  | .inflate q idx hw => Sys2Proof.Machine.execInflate q idx hw s
  | .sample q idx => Sys2Proof.Machine.execSample q idx s
  | .sampleEntry q idx tableFault => Sys2Proof.Machine.execSampleEntry q idx tableFault s
  | .lookup q idx => Sys2Proof.Machine.execLookup q idx s
  | .putEntry q idx => Sys2Proof.Machine.execPutEntry q idx s
  | .deleteKey q idx => Sys2Proof.Machine.execDeleteKey q idx s
  | .signalCtr q idx => Sys2Proof.Machine.execSignalCtr q idx s
  | .subCtr q idx => Sys2Proof.Machine.execSubCtr q idx s
  | .waitGe q idx => Sys2Proof.Machine.execWaitGe q idx s
  | .acquire q idx => Sys2Proof.Machine.execAcquire q idx s
  | .ctrAddWrite c amount => Sys2Proof.Machine.execCtrAddWrite c amount s
  | .ctrSubWrite c amount => Sys2Proof.Machine.execCtrSubWrite c amount s
  | .counterClaim call => Sys2Proof.Machine.execCounterClaim call s
  | .counterRelease call => Sys2Proof.Machine.execCounterRelease call s
  | .counterReleaseForce call => Sys2Proof.Machine.execCounterReleaseForce call s
  | .counterSet call => Sys2Proof.Machine.execCounterSet call s
  | .smbusWriteWord offset pecOk => Sys2Proof.Machine.execSmbusWriteWord offset pecOk s
  | .smbusBlockWrite data pecOk => Sys2Proof.Machine.execSmbusBlockWrite data pecOk s
  | .smbusBlockRead pecOk => Sys2Proof.Machine.execSmbusBlockRead pecOk s
  | .identify call => Sys2Proof.Machine.execIdentify call s
  | .getStatus call => Sys2Proof.Machine.execGetStatus call s
  | .sessionInit call => Sys2Proof.Machine.execSessionInit call s
  | .sessionFinish call => Sys2Proof.Machine.execSessionFinish call s
  | .sessionClose call => Sys2Proof.Machine.execSessionClose call s
  | .sessionPendingTimeout session => Sys2Proof.Machine.execSessionPendingTimeout session s
  | .sessionExpired session => Sys2Proof.Machine.execSessionExpired session s
  | .authLockoutEnd => Sys2Proof.Machine.execAuthLockoutEnd s
  | .queueSetup call => Sys2Proof.Machine.execQueueSetup call s
  | .queueRestart call => Sys2Proof.Machine.execQueueRestart call s
  | .queueReset call => Sys2Proof.Machine.execQueueReset call s
  | .queueDisable call => Sys2Proof.Machine.execQueueDisable call s
  | .slotRingSetup call => Sys2Proof.Machine.execSlotRingSetup call s
  | .packageInstall call => Sys2Proof.Machine.execPackageInstall call s
  | .packageRemove call => Sys2Proof.Machine.execPackageRemove call s
  | .cultureStage call => Sys2Proof.Machine.execCultureStage call s
  | .cultureRemove call => Sys2Proof.Machine.execCultureRemove call s
  | .cultureCommit call => Sys2Proof.Machine.execCultureCommit call s
  | .cultureCommitEffect => Sys2Proof.Machine.execCultureCommitEffect s
  | .indexLoad call => Sys2Proof.Machine.execIndexLoad call s
  | .indexCommit call => Sys2Proof.Machine.execIndexCommit call s
  | .indexCommitEffect => Sys2Proof.Machine.execIndexCommitEffect s
  | .tickConfig call => Sys2Proof.Machine.execTickConfig call s
  | .tickPeriodEffect => Sys2Proof.Machine.execTickPeriodEffect s
  | .bwSplit call => Sys2Proof.Machine.execBwSplit call s
  | .bwSplitEffect => Sys2Proof.Machine.execBwSplitEffect s
  | .mgmtConfig call => Sys2Proof.Machine.execMgmtConfig call s
  | .settingsCommit call => Sys2Proof.Machine.execSettingsCommit call s
  | .settingsErase call => Sys2Proof.Machine.execSettingsErase call s
  | .settingsCommandStart => Sys2Proof.Machine.execSettingsCommandStart s
  | .mailboxCommandStep => Sys2Proof.Machine.execMailboxCommandStep s
  | .forwardedCommand auth cmd => Sys2Proof.Machine.execForwardedCommand auth cmd s
  | .forwardedResponse auth src sequence status payload => Sys2Proof.Machine.execForwardedResponse auth src sequence status payload s
  | .eventMessage auth ev => Sys2Proof.Machine.execEventMessage auth ev s
  | .evtTailWrite t => Sys2Proof.Machine.execEvtTailWrite t s
  | .errTailWrite t => Sys2Proof.Machine.execErrTailWrite t s
  | .thrTailWrite t => Sys2Proof.Machine.execThrTailWrite t s
  | .powerLimits call => Sys2Proof.Machine.execPowerLimits call s
  | .powerLimitsEffect => Sys2Proof.Machine.execPowerLimitsEffect s
  | .powerStateA0 call => Sys2Proof.Machine.execPowerStateA0 call s
  | .powerStateA2 call => Sys2Proof.Machine.execPowerStateA2 call s
  | .powerStateA3 call => Sys2Proof.Machine.execPowerStateA3 call s
  | .a2Entry => Sys2Proof.Machine.execA2Entry s
  | .fwStage call => Sys2Proof.Machine.execFwStage call s
  | .fwActivateAtReset call => Sys2Proof.Machine.execFwActivateAtReset call s
  | .fwActivateLive call => Sys2Proof.Machine.execFwActivateLive call s
  | .fwLiveSwap => Sys2Proof.Machine.execFwLiveSwap s
  | .fwStatus call => Sys2Proof.Machine.execFwStatus call s
  | .attestReport call => Sys2Proof.Machine.execAttestReport call s
  | .attestCertificate call => Sys2Proof.Machine.execAttestCertificate call s
  | .credentialSet call => Sys2Proof.Machine.execCredentialSet call s
  | .debugTokenDrop call => Sys2Proof.Machine.execDebugTokenDrop call s
  | .debugTokenApply call => Sys2Proof.Machine.execDebugTokenApply call s
  | .debugTokenExpiry => Sys2Proof.Machine.execDebugTokenExpiry s
  | .lifecycleProvision call => Sys2Proof.Machine.execLifecycleProvision call s
  | .lifecycleDeploy call => Sys2Proof.Machine.execLifecycleDeploy call s
  | .lifecycleRetire call => Sys2Proof.Machine.execLifecycleRetire call s
  | .lifecycleRevoke call => Sys2Proof.Machine.execLifecycleRevoke call s
  | .lifecycleAdvanceRollback call => Sys2Proof.Machine.execLifecycleAdvanceRollback call s
  | .unitDrain call => Sys2Proof.Machine.execUnitDrain call s
  | .unitDrainEffect u => Sys2Proof.Machine.execUnitDrainEffect u s
  | .unitDrained u => Sys2Proof.Machine.execUnitDrained u s
  | .unitReturn call => Sys2Proof.Machine.execUnitReturn call s
  | .unitTestComplete u pass stage => Sys2Proof.Machine.execUnitTestComplete u pass stage s
  | .unitReturnEffect u => Sys2Proof.Machine.execUnitReturnEffect u s
  | .recalibrateEstimator call => Sys2Proof.Machine.execRecalibrateEstimator call s
  | .recalibrateVat call => Sys2Proof.Machine.execRecalibrateVat call s
  | .recalibratePoints call => Sys2Proof.Machine.execRecalibratePoints call s
  | .recalibratePort call => Sys2Proof.Machine.execRecalibratePort call s
  | .planSetReplace call => Sys2Proof.Machine.execPlanSetReplace call s
  | .planReplaceEffect => Sys2Proof.Machine.execPlanReplaceEffect s
  | .moduleReset call => Sys2Proof.Machine.execModuleReset call s
  | .moduleResetDelay => Sys2Proof.Machine.execModuleResetDelay s
  | .topologySet call => Sys2Proof.Machine.execTopologySet call s
  | .hbmScrub upset => Sys2Proof.Machine.execHbmScrub upset s
  | .sramScrub source unit offset symbols symbol => Sys2Proof.Machine.execSramScrub source unit offset symbols symbol s
  | .errInjectWrite v => Sys2Proof.Machine.execErrInjectWrite v s
  | .flit port bytes fecCorrected fecUncorrectable => Sys2Proof.Machine.execFlit port bytes fecCorrected fecUncorrectable s
  | .linkNak port seq => Sys2Proof.Machine.execLinkNak port seq s
  | .replayTimeout port => Sys2Proof.Machine.execReplayTimeout port s
  | .blockLockLoss port => Sys2Proof.Machine.execBlockLockLoss port s
  | .portTrainingComplete port t => Sys2Proof.Machine.execPortTrainingComplete port t s
  | .linkAuthOffer port m => Sys2Proof.Machine.execLinkAuthOffer port m s
  | .linkAuthReply port m => Sys2Proof.Machine.execLinkAuthReply port m s
  | .writeRequest m data bad => Sys2Proof.Machine.execWriteRequest m data bad s
  | .readRequest m => Sys2Proof.Machine.execReadRequest m s
  | .counterRequest m operation => Sys2Proof.Machine.execCounterRequest m operation s
  | .lightWrite m data bad => Sys2Proof.Machine.execLightWrite m data bad s
  | .lightRead m => Sys2Proof.Machine.execLightRead m s
  | .completion src txid status => Sys2Proof.Machine.execCompletion src txid status s
  | .readData src txid status data mapFollows => Sys2Proof.Machine.execReadData src txid status data mapFollows s
  | .counterResult src txid status => Sys2Proof.Machine.execCounterResult src txid status s
  | .poisonMap src txid words => Sys2Proof.Machine.execPoisonMap src txid words s
  | .reachabilityUpdate auth r => Sys2Proof.Machine.execReachabilityUpdate auth r s
  | .routeRestore => Sys2Proof.Machine.execRouteRestore s
  | .noRouteTimeout m => Sys2Proof.Machine.execNoRouteTimeout m s
  | .recordExpiry src key => Sys2Proof.Machine.execRecordExpiry src key s
  | .budgetRound averageW slackMilli forced => Sys2Proof.Machine.execBudgetRound averageW slackMilli forced s
  | .budgetReport auth r => Sys2Proof.Machine.execBudgetReport auth r s
  | .grantMsg auth watts effective => Sys2Proof.Machine.execGrantMsg auth watts effective s
  | .grantAcknowledge auth src => Sys2Proof.Machine.execGrantAcknowledge auth src s
  | .budgetLeadLost => Sys2Proof.Machine.execBudgetLeadLost s
  | .grantRestore => Sys2Proof.Machine.execGrantRestore s
  | .cxlMemRead hpa len => Sys2Proof.Machine.execCxlMemRead hpa len s
  | .cxlMemWrite hpa data poison => Sys2Proof.Machine.execCxlMemWrite hpa data poison s
  | .cxlSnoop address => Sys2Proof.Machine.execCxlSnoop address s
  | .configRequest offset write => Sys2Proof.Machine.execConfigRequest offset write s
  | .hdmDecoderCommit base size ways skip => Sys2Proof.Machine.execHdmDecoderCommit base size ways skip s
  | .cxlLinkTrained lanes gts => Sys2Proof.Machine.execCxlLinkTrained lanes gts s
  | .reducedModeEntry => Sys2Proof.Machine.execReducedModeEntry s
  | .cxlLinkDown cause => Sys2Proof.Machine.execCxlLinkDown cause s
  | .hostRequestTimeout q idx fetch hpa now => Sys2Proof.Machine.execHostRequestTimeout q idx fetch hpa now s
  | .msixUnmask vector => Sys2Proof.Machine.execMsixUnmask vector s
  | .flr => Sys2Proof.Machine.execFlr s
  | .d3hotEntry => Sys2Proof.Machine.execD3hotEntry s
  | .d0Return => Sys2Proof.Machine.execD0Return s
  | .cxlHotReset => Sys2Proof.Machine.execCxlHotReset s
  | .cxlReset => Sys2Proof.Machine.execCxlReset s
  | .powerEstimate estimateMw avg1msMw avg1sMw queueUj projected => Sys2Proof.Machine.execPowerEstimate estimateMw avg1msMw avg1sMw queueUj projected s
  | .estimateCompare estimateW poutW => Sys2Proof.Machine.execEstimateCompare estimateW poutW s
  | .sensorRead readings => Sys2Proof.Machine.execSensorRead readings s
  | .thermalStep => Sys2Proof.Machine.execThermalStep s
  | .pwrAlertAssert now statusWords => Sys2Proof.Machine.execPwrAlertAssert now statusWords s
  | .pwrAlertDeassert now => Sys2Proof.Machine.execPwrAlertDeassert now s
  | .alertHoldEnd => Sys2Proof.Machine.execAlertHoldEnd s
  | .droopTrip domain now => Sys2Proof.Machine.execDroopTrip domain now s
  | .droopStretchEnd domain now => Sys2Proof.Machine.execDroopStretchEnd domain now s
  | .droopResponseEnd domain => Sys2Proof.Machine.execDroopResponseEnd domain s
  | .watchdogTimeout => Sys2Proof.Machine.execWatchdogTimeout s
  | .dbgCoreHalt v => Sys2Proof.Machine.execDbgCoreHalt v s
  | .dbgCoreStep v => Sys2Proof.Machine.execDbgCoreStep v s
  | .tapBypass tdi => Sys2Proof.Machine.execTapBypass tdi s
  | .tapIdcode => Sys2Proof.Machine.execTapIdcode s
  | .tapSamplePreload preload => Sys2Proof.Machine.execTapSamplePreload preload s
  | .tapExtest => Sys2Proof.Machine.execTapExtest s
  | .tapScan => Sys2Proof.Machine.execTapScan s
  | .tapMemoryAccess address write => Sys2Proof.Machine.execTapMemoryAccess address write s
  | .vatAgeingCheck vat maxStep => Sys2Proof.Machine.execVatAgeingCheck vat maxStep s
  | .vatAgeingDeadline vat => Sys2Proof.Machine.execVatAgeingDeadline vat s
  | .powerOn => Sys2Proof.Machine.execPowerOn s
  | .pinReset => Sys2Proof.Machine.execPinReset s
  | .conventionalReset => Sys2Proof.Machine.execConventionalReset s
  | .startOrigin => Sys2Proof.Machine.execStartOrigin s
  | .hbmStackTrained stack ok => Sys2Proof.Machine.execHbmStackTrained stack ok s
  | .hbmStackInitialised stack => Sys2Proof.Machine.execHbmStackInitialised stack s
  | .firmwareReady readyMs vatFailures => Sys2Proof.Machine.execFirmwareReady readyMs vatFailures s
  | .portGroupStart => Sys2Proof.Machine.execPortGroupStart s
  | .railPowerGoodTimeout rail statusWord => Sys2Proof.Machine.execRailPowerGoodTimeout rail statusWord s
  | .brownOut rail kind statusWord => Sys2Proof.Machine.execBrownOut rail kind statusWord s
  | .brownOutRecovery => Sys2Proof.Machine.execBrownOutRecovery s
  | .alwaysOnRailLoss rail => Sys2Proof.Machine.execAlwaysOnRailLoss rail s
  | .tickCountLoRead => Sys2Proof.Machine.execTickCountLoRead s
  | .tickBaseLoRead => Sys2Proof.Machine.execTickBaseLoRead s
  | .pwrEnergyLoRead => Sys2Proof.Machine.execPwrEnergyLoRead s
  | .thrCountLoRead reason below => Sys2Proof.Machine.execThrCountLoRead reason below s
  | .qeLoRead q => Sys2Proof.Machine.execQeLoRead q s
  | .registerWrite offset v => Sys2Proof.Machine.execRegisterWrite offset v s
  | .hubCoresRunMehrore => Sys2Proof.Machine.execHubCoresRunMehrore s

end Sys2Proof.Machine
end

