-- ==== Sys2Proof/WellFormed.lean ====
section
/-!
DEFINITION. Well-formed commands: operands inside the ranges that the spec gives what they name. A meaning takes any operand; a
command outside these ranges names something that the module does not have.
-/

namespace Sys2Proof

/-! ### Ranges -/

/-- A queue number (R327). -/
def okQueue (q : Nat) : Bool := decide (q < 4096)

/-- A slot ring number (R346). -/
def okRing (r : Nat) : Bool := decide (r < 1024)

/-- A counter that a window shows (R356, R370): the last ID names no counter. -/
def okCounter (c : Nat) : Bool := decide (c < 65535)

/-- A range coding engine (R115). -/
def okEngine (e : Nat) : Bool := decide (e < 16)

/-- A Nyverlink port (R418). -/
def okPort (p : Nat) : Bool := decide (p < 24)

/-- A module number (R428). -/
def okModule (m : Nat) : Bool := decide (m < 64)

/-- A vat (R533). -/
def okVat (v : Nat) : Bool := decide (v < 160)

/-- An HBM stack (R301). -/
def okStack (k : Nat) : Bool := decide (k < 12)

/-- A supply rail (R571). -/
def okRail (r : Nat) : Bool := decide (r < 14)

/-- An operating point (R469). -/
def okPoint (p : Nat) : Bool := decide (p < 16)

/-- A droop domain (R483). -/
def okDomain (d : Nat) : Bool := decide (d < 19)

/-- The numbers of each class of serviceable units (R533). -/
def unitCount : Nat → Nat
  | 0 => 160
  | 1 => 16
  | 2 => 8
  | 3 => 72
  | 4 => 4
  | 5 => 24
  | _ => 0

/-- A serviceable unit (R533). -/
def okUnit (u : UnitId) : Bool := decide (u.num < unitCount u.cls)

/-- Late work names serviceable units, each with a lateness (R58). -/
def okLate (l : List LateUnit) : Bool := l.all fun x => okUnit x.unit && decide (0 < x.ns)

/-- A prediction for every point P0-P15 (R477). -/
def okPower (p : PowerInput) : Bool := decide (p.points.length = 16)

/-- Capacities of the six engine classes of queues 0-5 (R66). -/
def okCaps (c : List Cap) : Bool := decide (c.length = 6)

/-- A command as the header of R388 can spell it: a mailbox of R385, field widths, and the payload that `length` counts. -/
def okCall (c : MbCall) : Bool :=
  decide (c.mb < 5 ∧ c.flags < 2 ^ 16 ∧ c.sequence < 2 ^ 32 ∧ c.length < 2 ^ 32 ∧ c.target < 2 ^ 8 ∧ c.rsvd < 2 ^ 56 ∧
    c.session < 2 ^ 32 ∧ c.counter < 2 ^ 64 ∧ c.payload.length ≤ 4096)

/-- The vat whose failure ends an operation, where one fails (R537). -/
def okHw (h : Option Nat) : Bool := h.all okVat

/-- A transaction header within the widths of R423. -/
def okTxn (m : Txn) : Bool :=
  okModule m.src && decide (m.txid < 2 ^ 32 ∧ m.queue < 2 ^ 16 ∧ m.address < 2 ^ 40 ∧ m.length < 2 ^ 32 ∧ m.amount < 2 ^ 32)

/-- Request data of the length in the header, at most `n` bytes, with poisoned words counted within it (R423). -/
def okData (n : Nat) (m : Txn) (data : List Byte) (bad : List Nat) : Bool :=
  okTxn m && decide (1 ≤ data.length ∧ data.length ≤ n ∧ m.length = data.length) && bad.all fun w => decide (w ≤ data.length / 32)

/-- A management message's authentication (R515): a port, a 64-bit counter and a 16-byte tag. -/
def okAuth (a : MgmtAuth) : Bool := okPort a.port && decide (a.counter < 2 ^ 64 ∧ a.tag.length = 16)

/-- An event record's fields (R414). -/
def okEvent (e : Event) : Bool :=
  okModule e.module && decide (e.code < 2 ^ 16 ∧ e.severity < 2 ^ 8 ∧ e.tick < 2 ^ 64 ∧ e.detail.length ≤ 16 ∧ e.lost < 2 ^ 32)

/-- The source and the ID of a sync message (R438). -/
def okSync (m : SyncId) : Bool := okModule m.src && decide (m.id < 2 ^ 16)

/-- A TICK_COUNT that another module names. -/
def okTick (t : Option Nat) : Bool := t.all fun x => decide (x < 2 ^ 64)

/-- A status word of PMBus (R481). -/
def okWord (w : Nat) : Bool := decide (w < 2 ^ 16)

/-- A host physical address of CXL (R342). -/
def okHpa (a : Nat) : Bool := decide (a < 2 ^ 52)

/-! ### Commands -/

/-- Whether a command's operands lie in the ranges of the spec. -/
def Instr.wf : Instr → Bool
  | .tickBoundary b => okLate b.late && okCaps b.idleCaps && okPower b.power
  | .tailSnapshot => true
  | .boundaryWindowEnd late => okLate late
  | .lateWorkComplete _ _ => true
  | .holdLimit _ => true
  | .skipWindow _ limit => decide (limit ≤ 64)
  | .preparedPointFix p _ => okPower p
  | .tickSyncInEdge _ => true
  | .timestamp m _ _ _ => okSync m
  | .timestampReply m _ _ _ _ => okSync m
  | .tickBaseMessage count => decide (count < 2 ^ 64)
  | .holdMsg m _ => okSync m
  | .releaseMsg m _ _ => okSync m
  | .variantRequest m _ point => okSync m && okPoint point
  | .startDefer m _ planSet => okSync m && decide (planSet < 2 ^ 32)
  | .domainAbsent => true
  | .skipPattern m _ _ => okSync m
  | .planJobStart => true
  | .planJobComplete => true
  | .planJobPreempt => true
  | .planJobFailure cause => cause != .ok
  | .qdbTailWrite q _ => okQueue q
  | .descriptorStart q _ => okQueue q
  | .operationStep q _ => okQueue q
  | .operationComplete q => okQueue q
  | .queueOwnerReset q => okQueue q
  | .runPlan q _ => okQueue q
  | .matmul q _ hw => okQueue q && okHw hw
  | .attention q _ hw => okQueue q && okHw hw
  | .conv q _ hw => okQueue q && okHw hw
  | .resample q _ hw => okQueue q && okHw hw
  | .func q _ hw => okQueue q && okHw hw
  | .norm q _ hw => okQueue q && okHw hw
  | .softmax q _ hw => okQueue q && okHw hw
  | .hint q _ => okQueue q
  | .transfer q _ => okQueue q
  | .gather q _ => okQueue q
  | .slotFree q _ => okQueue q
  | .srHeadWrite ring _ => okRing ring
  | .decodeBegin q _ => okQueue q
  | .decodePass q _ _ => okQueue q
  | .decodeEnd q _ => okQueue q
  | .encodeWheel q _ => okQueue q
  | .tableSramRewrite e => okEngine e
  | .compress q _ hw => okQueue q && hw.all fun n => decide (n < 4)
  | .inflate q _ hw => okQueue q && hw.all fun n => decide (n < 4)
  | .sample q _ => okQueue q
  | .sampleEntry q _ _ => okQueue q
  | .lookup q _ => okQueue q
  | .putEntry q _ => okQueue q
  | .deleteKey q _ => okQueue q
  | .signalCtr q _ => okQueue q
  | .subCtr q _ => okQueue q
  | .waitGe q _ => okQueue q
  | .acquire q _ => okQueue q
  | .ctrAddWrite c _ => okCounter c
  | .ctrSubWrite c _ => okCounter c
  | .counterClaim call => okCall call
  | .counterRelease call => okCall call
  | .counterReleaseForce call => okCall call
  | .counterSet call => okCall call
  | .smbusWriteWord offset _ => decide (offset < 2 ^ 16)
  | .smbusBlockWrite data _ => decide (data.length ≤ 255)
  | .smbusBlockRead _ => true
  | .identify call => okCall call
  | .getStatus call => okCall call
  | .sessionInit call => okCall call
  | .sessionFinish call => okCall call
  | .sessionClose call => okCall call
  | .sessionPendingTimeout session => decide (session < 2 ^ 32)
  | .sessionExpired session => decide (session < 2 ^ 32)
  | .authLockoutEnd => true
  | .queueSetup call => okCall call
  | .queueRestart call => okCall call
  | .queueReset call => okCall call
  | .queueDisable call => okCall call
  | .slotRingSetup call => okCall call
  | .packageInstall call => okCall call
  | .packageRemove call => okCall call
  | .cultureStage call => okCall call
  | .cultureRemove call => okCall call
  | .cultureCommit call => okCall call
  | .cultureCommitEffect => true
  | .indexLoad call => okCall call
  | .indexCommit call => okCall call
  | .indexCommitEffect => true
  | .tickConfig call => okCall call
  | .tickPeriodEffect => true
  | .bwSplit call => okCall call
  | .bwSplitEffect => true
  | .mgmtConfig call => okCall call
  | .settingsCommit call => okCall call
  | .settingsErase call => okCall call
  | .settingsCommandStart => true
  | .mailboxCommandStep => true
  | .forwardedCommand auth cmd =>
    okAuth auth && okModule cmd.entry && decide (cmd.mailbox < 5 ∧ cmd.opcode < 2 ^ 16 ∧ cmd.payload.length ≤ 4096) && okTick cmd.effective
  | .forwardedResponse auth src _ _ payload => okAuth auth && okModule src && decide (payload.length ≤ 4096)
  | .eventMessage auth ev => okAuth auth && okEvent ev
  | .evtTailWrite _ => true
  | .errTailWrite _ => true
  | .thrTailWrite _ => true
  | .powerLimits call => okCall call
  | .powerLimitsEffect => true
  | .powerStateA0 call => okCall call
  | .powerStateA2 call => okCall call
  | .powerStateA3 call => okCall call
  | .a2Entry => true
  | .fwStage call => okCall call
  | .fwActivateAtReset call => okCall call
  | .fwActivateLive call => okCall call
  | .fwLiveSwap => true
  | .fwStatus call => okCall call
  | .attestReport call => okCall call
  | .attestCertificate call => okCall call
  | .credentialSet call => okCall call
  | .debugTokenDrop call => okCall call
  | .debugTokenApply call => okCall call
  | .debugTokenExpiry => true
  | .lifecycleProvision call => okCall call
  | .lifecycleDeploy call => okCall call
  | .lifecycleRetire call => okCall call
  | .lifecycleRevoke call => okCall call
  | .lifecycleAdvanceRollback call => okCall call
  | .unitDrain call => okCall call
  | .unitDrainEffect u => okUnit u
  | .unitDrained u => okUnit u
  | .unitReturn call => okCall call
  | .unitTestComplete u _ stage => okUnit u && decide (stage < 2 ^ 8)
  | .unitReturnEffect u => okUnit u
  | .recalibrateEstimator call => okCall call
  | .recalibrateVat call => okCall call
  | .recalibratePoints call => okCall call
  | .recalibratePort call => okCall call
  | .planSetReplace call => okCall call
  | .planReplaceEffect => true
  | .moduleReset call => okCall call
  | .moduleResetDelay => true
  | .topologySet call => okCall call
  | .hbmScrub upset => upset.all fun u => decide (u.word < 24000000000 ∧ 1 ≤ u.symbols)
  | .sramScrub source unit offset symbols symbol =>
    decide (1 ≤ source ∧ source < 2 ^ 8 ∧ unit < 2 ^ 16 ∧ offset % 32 = 0 ∧ symbols < 2 ^ 8 ∧ symbol < 2 ^ 8)
  | .errInjectWrite _ => true
  | .flit port bytes _ _ => okPort port && decide (bytes.length = 256)
  | .linkNak port seq => okPort port && decide (seq < 4096)
  | .replayTimeout port => okPort port
  | .blockLockLoss port => okPort port
  | .portTrainingComplete port t => okPort port && okModule t.peerModule && okPort t.peerPort
  | .linkAuthOffer port _ => okPort port
  | .linkAuthReply port _ => okPort port
  | .writeRequest m data bad => okData 4096 m data bad
  | .readRequest m => okTxn m && decide (1 ≤ m.length ∧ m.length ≤ 4096)
  | .counterRequest m operation => okTxn m && decide (1 ≤ operation ∧ operation ≤ 4 ∧ m.length = 0)
  | .lightWrite m data bad => okData 256 m data bad
  | .lightRead m => okTxn m && decide (1 ≤ m.length ∧ m.length ≤ 256)
  | .completion src txid _ => okModule src && decide (txid < 2 ^ 32)
  | .readData src txid _ data _ => okModule src && decide (txid < 2 ^ 32 ∧ data.length ≤ 4096)
  | .counterResult src txid _ => okModule src && decide (txid < 2 ^ 32)
  | .poisonMap src txid words => okModule src && decide (txid < 2 ^ 32 ∧ words.length ≤ 129)
  | .reachabilityUpdate auth r => okAuth auth && okModule r.module && r.portsUp.all okModule
  | .routeRestore => true
  | .noRouteTimeout m => okModule m
  | .recordExpiry src (.txn txid) => okModule src && decide (txid < 2 ^ 32)
  | .recordExpiry src (.sync id) => okSync { src := src, id := id }
  | .budgetRound _ _ _ => true
  | .budgetReport auth r => okAuth auth && okModule r.module
  | .grantMsg auth _ _ => okAuth auth
  | .grantAcknowledge auth src => okAuth auth && okModule src
  | .budgetLeadLost => true
  | .grantRestore => true
  | .cxlMemRead hpa len => okHpa hpa && decide (1 ≤ len ∧ len ≤ 64)
  | .cxlMemWrite hpa data _ => okHpa hpa && decide (1 ≤ data.length ∧ data.length ≤ 64)
  | .cxlSnoop address => okHpa address
  | .configRequest offset _ => decide (offset < 4096 ∧ offset % 4 = 0)
  | .hdmDecoderCommit base size _ _ => okHpa base && okHpa size
  | .cxlLinkTrained lanes gts => [4, 8, 16].contains lanes && decide (gts ≤ 32)
  | .reducedModeEntry => true
  | .cxlLinkDown _ => true
  | .hostRequestTimeout q _ _ hpa _ => okQueue q && okHpa hpa
  | .msixUnmask vector => decide (vector < 2048)
  | .flr => true
  | .d3hotEntry => true
  | .d0Return => true
  | .cxlHotReset => true
  | .cxlReset => true
  | .powerEstimate _ _ _ queueUj projected => queueUj.all (fun p => okQueue p.1) && decide (projected.length = 16)
  | .estimateCompare _ poutW => decide (poutW.length = 14)
  | .sensorRead readings => readings.all fun r => decide (r.cls ≤ 2)
  | .thermalStep => true
  | .pwrAlertAssert _ words => words.all fun w => w.all okWord
  | .pwrAlertDeassert _ => true
  | .alertHoldEnd => true
  | .droopTrip domain _ => okDomain domain
  | .droopStretchEnd domain _ => okDomain domain
  | .droopResponseEnd domain => okDomain domain
  | .watchdogTimeout => true
  | .dbgCoreHalt _ => true
  | .dbgCoreStep _ => true
  | .tapBypass _ => true
  | .tapIdcode => true
  | .tapSamplePreload _ => true
  | .tapExtest => true
  | .tapScan => true
  | .tapMemoryAccess address _ => decide (address < 2 ^ 40)
  | .vatAgeingCheck vat _ => okVat vat
  | .vatAgeingDeadline vat => okVat vat
  | .powerOn => true
  | .pinReset => true
  | .conventionalReset => true
  | .startOrigin => true
  | .hbmStackTrained stack _ => okStack stack
  | .hbmStackInitialised stack => okStack stack
  | .firmwareReady readyMs failed => decide (readyMs < 2 ^ 32) && failed.all okVat
  | .portGroupStart => true
  | .railPowerGoodTimeout rail word => okRail rail && okWord word
  | .brownOut rail kind word => okRail rail && decide (kind < 2) && okWord word
  | .brownOutRecovery => true
  | .alwaysOnRailLoss rail => okRail rail
  | .tickCountLoRead => true
  | .tickBaseLoRead => true
  | .pwrEnergyLoRead => true
  | .thrCountLoRead reason _ => decide (1 ≤ reason ∧ reason ≤ 8)
  | .qeLoRead q => okQueue q
  | .registerWrite offset _ => decide (offset < 2 ^ 27 ∧ offset % 4 = 0)
  | .hubCoresRunMehrore => true

end Sys2Proof
end

