-- ==== Sys2Proof/Safety.lean ====
section
/-!
DEFINITION. The terms in which claims about the block are stated: which parts of State an operation leaves alone, when the module acts,
and what an answered mailbox command looks like.
-/

namespace Sys2Proof.Safety

open Sys2Proof.Machine

/-! ### Frames -/

/-- The parts of State, one for each field. -/
inductive Part where
  | pending | start | tick | plan | queues | rings | ctrs | hbm | poison | host | hostPoison | sram | sramPoison | memctl | lines
  | culture | rc | index | press | sticky | err | evt | thr | fmw | cave | fuses | sec | fw | power | fabric | cxl | svc | ageing
  | packages | sent | free
  deriving DecidableEq, Repr

/-- Two states have the same part. -/
def Same (p : Part) (s t : State) : Prop :=
  match p with
  | .pending => t.pending = s.pending
  | .start => t.start = s.start
  | .tick => t.tick = s.tick
  | .plan => t.plan = s.plan
  | .queues => t.queues = s.queues
  | .rings => t.rings = s.rings
  | .ctrs => t.ctrs = s.ctrs
  | .hbm => t.hbm = s.hbm
  | .poison => t.poison = s.poison
  | .host => t.host = s.host
  | .hostPoison => t.hostPoison = s.hostPoison
  | .sram => t.sram = s.sram
  | .sramPoison => t.sramPoison = s.sramPoison
  | .memctl => t.memctl = s.memctl
  | .lines => t.lines = s.lines
  | .culture => t.culture = s.culture
  | .rc => t.rc = s.rc
  | .index => t.index = s.index
  | .press => t.press = s.press
  | .sticky => t.sticky = s.sticky
  | .err => t.err = s.err
  | .evt => t.evt = s.evt
  | .thr => t.thr = s.thr
  | .fmw => t.fmw = s.fmw
  | .cave => t.cave = s.cave
  | .fuses => t.fuses = s.fuses
  | .sec => t.sec = s.sec
  | .fw => t.fw = s.fw
  | .power => t.power = s.power
  | .fabric => t.fabric = s.fabric
  | .cxl => t.cxl = s.cxl
  | .svc => t.svc = s.svc
  | .ageing => t.ageing = s.ageing
  | .packages => t.packages = s.packages
  | .sent => t.sent = s.sent
  | .free => t.free = s.free

/-- Every part but the listed ones is unchanged. -/
def Keeps (but : List Part) (s t : State) : Prop := ∀ p, p ∉ but → Same p s t

/-! ### When the module acts -/

/-- The module is out of reset and its clocks run (R522, R556): what an event finds when it acts at all. -/
abbrev Awake (s : State) : Prop := s.start.inReset = false ∧ s.sec.scanned = false

/-! ### Commands that reach a module in reset -/

/-- The commands that act, or at least look, outside the running module: resets, rails, the pins and the test access port. Every other
command finds a module in reset, or one whose clocks a scan has stopped, deaf (R522, R556). -/
def reachesReset : Instr → Bool
  | .powerOn | .pinReset | .conventionalReset | .startOrigin | .cxlHotReset | .cxlReset => true
  | .railPowerGoodTimeout _ _ | .brownOut _ _ _ | .brownOutRecovery | .alwaysOnRailLoss _ => true
  | .tapBypass _ | .tapIdcode | .tapSamplePreload _ | .tapExtest | .tapMemoryAccess _ _ => true
  | _ => false

/-! ### Mailbox commands -/

/-- A mailbox as an accepted GO leaves it (R386): BUSY, with a copy of the command. -/
def opened (op : Nat) (call : MbCall) (s : State) : State :=
  modBox call.mb (fun b => { b with
    busy := true, steps := 0, cmdHeader := cmdHeaderBytes op call, cmdPayload := padTo 4096 call.payload }) s

/-- A command arrives in an idle mailbox that serves, for this module itself, and passes every check of R390: checks 1 to 8 give the
command `c` and the state `t`. -/
structure Arrives (op : Nat) (call : MbCall) (s : State) (c : Cmd) (t : State) : Prop where
  awake : Awake s
  serves : boxServes s call.mb = true
  notBusy : (getBox s call.mb).busy = false
  notDone : (getBox s call.mb).done = false
  unpaused : boxesPaused s = false
  checks : entryChecks op call (opened op call s) = .pass c t
  own : c.target = self t
  single : c.target ≠ 0xFF
  allows : allowed t op = none
  payload : payloadCheck t op c.payload = none

/-- It is a settings command's turn (R400): none runs and none waits. -/
abbrev Turn (t : State) : Prop := t.fmw.running = none ∧ t.fmw.waiting = []

/-- A settings command as it keeps its mailbox BUSY with so many bytes still to move. -/
def keepsBusy (c : Cmd) (bytes : Nat) : Running :=
  { cmd := c, bytesLeft := bytes, steps := 0, stepTick := 0, asked := false, reqs := [], status := .ok }

/-! ### Management messages -/

/-- A management message is genuine (R515): its port is authenticated, its tag is right under the port's receive key and its counter is
above the last one. -/
structure Authentic (s : State) (a : MgmtAuth) : Prop where
  port : (getPort s a.port).authed = true
  tag : mgmtTag (getPort s a.port).keyRx a.message a.counter = a.tag
  fresh : (getPort s a.port).mgmtRx < a.counter

/-- The state once a genuine message has consumed its counter. -/
def received (a : MgmtAuth) (s : State) : State := modPort a.port (fun p => { p with mgmtRx := a.counter }) s

/-! ### Module resets -/

/-- What every module reset loses and keeps (R563): memories, queues, counters, rings, plans and units are as a power-on reset leaves
them; fuses, host memory, the waiting commands and the pins' record stay. -/
structure Cleared (s t : State) : Prop where
  memory : t.hbm = [] ∧ t.poison = [] ∧ t.sram = [] ∧ t.sramPoison = [] ∧ t.lines = []
  work : t.queues = [] ∧ t.rings = [] ∧ t.ctrs = [] ∧ t.plan = State.reset.plan
  engines : t.rc = State.reset.rc ∧ t.press = State.reset.press ∧ t.culture = State.reset.culture ∧ t.index = State.reset.index
  units : t.svc = [] ∧ t.packages = []
  kept : t.fuses = s.fuses ∧ t.host = s.host ∧ t.hostPoison = s.hostPoison ∧ t.pending = s.pending
  ticks : t.tick.count = 0 ∧ t.tick.placed = false

/-- A module reset of a cause that holds the module in reset. -/
def HeldReset (cause : Nat) (s t : State) : Prop :=
  Cleared s t ∧ t.start.inReset = true ∧ t.start.cause = cause ∧ t.start.count = min 65535 (s.start.count + 1)

/-- A module reset of a cause whose sequence starts at once. -/
def Restarts (cause : Nat) (s t : State) : Prop :=
  Cleared s t ∧ t.start.inReset = false ∧ t.start.fwReady = false ∧ t.start.cause = cause ∧
  t.start.count = min 65535 (s.start.count + 1)

/-! ### Operations of queues -/

/-- An operation of a queue has ended with a status and a detail: its record waits its turn. -/
def Ended (q : Nat) (idx : U32) (st : Status) (detail : Nat) (t : State) : Prop :=
  ∃ o, getOp t q idx = some o ∧ o.phase = .done ∧ o.status = st ∧ o.detail = detail

/-- An operation awaits no answer of another module. -/
def Unasked (q : Nat) (idx : U32) (s : State) : Prop := ∀ o, getOp s q idx = some o → o.reqs = []

/-- Every span lies in this module, or in host memory while the host answers. -/
abbrev Local (spans : List (LAddr × Nat)) (s : State) : Prop :=
  ∀ r ∈ spans, isRemote r.1 = false ∧ (isHost r.1 = true → hostUp s = true)

/-- The state in which a local operation computes: the words it reads are corrected and recorded, and lines of host memory that it reads
through a cache are held there. -/
def afterReads (q : Nat) (idx : U32) (cache : Option Nat) (reads : List (LAddr × Nat)) (s : State) : State :=
  fillHost cache reads (reads.foldl (fun u r => touch (whoOf q (descOf s q idx)) r.1 r.2 u) s)

/-- The spans that a result writes or leaves undefined. -/
def outSpans (r : DataRes) : List (LAddr × Nat) := chunkSpans (r.writes ++ r.after) ++ r.undef

/-- A data operation has applied its result: it has ended with the result's status, NUM_STICKY gains the result's bits, every byte of HBM
outside the spans of the result is as it was, unless an error that the code may miscorrect lies there (R310), and nothing but memories,
records and outputs has changed. -/
structure Applied (q : Nat) (idx : U32) (r : DataRes) (u t : State) : Prop where
  ended : Ended q idx r.status r.detail t
  sticky : t.sticky = u.sticky ||| r.sticky
  outside : (∀ w l, mget u.memctl.latent w = some l → l.mark = true ∨ l.symbols ≤ 2) →
    ∀ a, (∀ p ∈ outSpans r, ∀ x, p.1 = .hbm x → a < x ∨ x + p.2 ≤ a) → bget t.hbm a = bget u.hbm a
  frame : Keeps [.queues, .hbm, .poison, .host, .hostPoison, .sram, .sramPoison, .memctl, .err, .evt, .fmw, .cxl, .sent, .sticky, .free] u t

/-- A command that runs a data operation of a class and opcode: on every awake module where the operation may apply, awaits no answer and its spans are
local, the command answers a next state that has applied the result computed from the words read. -/
def RunsData (i : Instr) (q : Nat) (idx : U32) (cls code : Nat) (cacheable : State → Bool) (reads : State → List (LAddr × Nat))
    (result : State → DataRes) : Prop :=
  ∀ s, Awake s → opReady s q idx cls code = true → Unasked q idx s → Local (reads s) s →
    let cache := cacheOf s q idx (cacheable s)
    let u := afterReads q idx cache (reads s) s
    let r := result (viewOf cache u)
    Local (outSpans r) u → ∃ t, exec i s = .next t ∧ Applied q idx r u t

/-- No error that the code may miscorrect lies in HBM (R310): such an error spoils the bytes of its word that a write of part of the word
leaves alone. -/
abbrev Correctable (s : State) : Prop := ∀ w l, mget s.memctl.latent w = some l → l.mark = true ∨ l.symbols ≤ 2

/-- A request that one operation alone awaits, of all operations and units, with nothing else to await and no writes to follow. -/
structure AwaitsAlone (s : State) (r : OutReq) (o : Op) : Prop where
  op : getOp s r.queue r.index = some o
  queue : r.queue < 4096
  only : o.reqs = [(r.dst, r.txid)]
  alone : awaitingOps s r = [(r.queue, r.index)]
  noUnit : awaitingUnits s r = []
  good : o.status = .ok
  plain : o.publish = none ∧ o.after = [] ∧ o.sample.flights = []

/-! ### What no command undoes -/

/-- Fuses go one way (R498): a blown fuse stays blown, a programmed slot keeps its hash, the secret and the fused maxima stay. -/
structure OneWay (a b : Fuses) : Prop where
  provisioned : a.provisioned = true → b.provisioned = true
  deployed : a.deployed = true → b.deployed = true
  retired : a.retired = true → b.retired = true
  revoked : ∀ n, a.revoked.getD n false = true → b.revoked.getD n false = true
  rollback : a.rollback ≤ b.rollback
  hashes : ∀ n h, a.hashes.getD n none = some h → b.hashes.getD n none = some h
  secret : b.secret = a.secret
  fused : b.fused = a.fused

/-- The keys of a sparse map rise strictly. -/
abbrev Sorted {α : Type} (m : Sparse α) : Prop := m.Pairwise fun x y => x.1 < y.1

/-- HBM and host memory are in canonical form: equal memories are equal data. -/
abbrev Canonical (s : State) : Prop := bwf s.hbm = true ∧ bwf s.host = true

end Sys2Proof.Safety
end

