-- ==== Sys2Proof/Certificates/Slice0/Obligations.lean ====
section
/-!
DEFINITION. The statements for the provers: what the commands of the block do, what they leave alone, and what every step keeps.
-/

open Sys2Proof Sys2Proof.Machine Sys2Proof.Safety

/-! ### The block -/

/-- A step takes the front command and runs it on the state with the queue's rest. On an empty queue the block idles, which is the model's
choice (notes/assumptions/2.md). -/
def Obligations.StepTakesFront : Prop :=
  ∀ (c : Instr) (r : List Instr) (s : State),
    step { s with pending := c :: r } = exec c { s with pending := r } ∧
    step { s with pending := [] } = .next { s with pending := [] }

/-- No command's effect touches the queue of waiting commands. -/
def Obligations.ExecKeepsQueue : Prop :=
  ∀ (c : Instr) (s t : State), exec c s = .next t → t.pending = s.pending

/-- While a module is held in reset, or after a scan at D3, every event but those of `reachesReset` changes nothing (R522, R556). -/
def Obligations.ResetHoldsTheModule : Prop :=
  ∀ (c : Instr) (s : State), reachesReset c = false → ¬ Awake s → exec c s = .next s

/-! ### Invariants -/

/-- Equal memories stay equal data: every step keeps the canonical form, from every state that has it. -/
def Obligations.StepKeepsMemoryCanonical : Prop :=
  ∀ s t : State, Canonical s → step s = .next t → Canonical t

/-- HBM reads as zero without poison after a module reset (R558), so the invariant holds there. -/
def Obligations.ResetMemoryCanonical : Prop :=
  Canonical State.reset ∧
  ∀ (cause : Nat) (s : State), (resetModule cause s).hbm = [] ∧ (resetModule cause s).poison = [] ∧
    (∀ a, bget (resetModule cause s).hbm a = 0) ∧ (resetModule cause s).host = s.host

/-- R498: "A fuse bit, once blown, stays blown." No command, no reset and no power cycle undoes one. -/
def Obligations.FusesOneWay : Prop :=
  ∀ s t : State, step s = .next t → OneWay s.fuses t.fuses

/-! ### The mailbox protocol -/

/-- Checks 1-8 of R390, the passing side: check 7 consumes the counter and nothing else changes. -/
def Obligations.ChecksPass : Prop :=
  ∀ (op : Nat) (call : MbCall) (s : State) (row : CatRow), catalogue op = some row → call.length ≤ 4096 → call.rsvd = 0 →
    (call.target = 0xFF ∨ inConfig s call.target = true) →
    (call.flags = 0 → row.critical = false →
      entryChecks op call s = .pass
        { src := .mailbox call.mb, opcode := op, tagged := false, sequence := call.sequence, target := call.target,
          session := call.session, counter := call.counter, payload := call.payload.take call.length, rspKey := [] } s) ∧
    (∀ x, call.flags = 1 → 16 ≤ call.length →
      (s.fmw.sessions.find? fun y => y.id == call.session && y.isOpen) = some x →
      (call.payload.drop (call.length - 16)).take 16 =
        cmdTag x.cmdKey (cmdHeaderBytes op call) (call.payload.take (call.length - 16)) →
      x.lastCounter < call.counter →
      entryChecks op call s = .pass
        { src := .mailbox call.mb, opcode := op, tagged := true, sequence := call.sequence, target := call.target,
          session := call.session, counter := call.counter, payload := call.payload.take (call.length - 16), rspKey := x.rspKey }
        { s with fmw := { s.fmw with sessions := s.fmw.sessions.map fun y =>
          if y.id = x.id then { x with lastCounter := call.counter, since := s.tick.timebase } else y } })

/-- Checks 1-8 of R390 in order, the failing side. A failure at checks 1-6 consumes no counter. -/
def Obligations.ChecksFailInOrder : Prop :=
  ∀ (op : Nat) (call : MbCall) (s : State),
    let fails (st : Status) := ∃ c, entryChecks op call s = .fail c st s
    let lengthOk := call.length ≤ 4096 ∧ (bit call.flags 0 = true → 16 ≤ call.length)
    let reservedOk := call.flags / 2 = 0 ∧ call.rsvd = 0
    (¬ lengthOk → fails .invalidArgument) ∧
    (lengthOk → ¬ reservedOk → fails .reservedNonzero) ∧
    (lengthOk → reservedOk → catalogue op = none → fails .invalidArgument) ∧
    (∀ row, lengthOk → reservedOk → catalogue op = some row →
      (row.critical = true → bit call.flags 0 = false → fails .authFail) ∧
      (row.critical = false → bit call.flags 0 = false → call.target ≠ 0xFF → inConfig s call.target = false → fails .invalidArgument) ∧
      (bit call.flags 0 = true → (s.fmw.sessions.find? fun y => y.id == call.session && y.isOpen) = none → fails .sessionInvalid) ∧
      (∀ x, bit call.flags 0 = true → (s.fmw.sessions.find? fun y => y.id == call.session && y.isOpen) = some x →
        let tagOk := cmdTag x.cmdKey (cmdHeaderBytes op call) (call.payload.take (call.length - 16)) =
          (call.payload.drop (call.length - 16)).take 16
        (¬ tagOk → ∃ c, entryChecks op call s = .fail c .authFail (authFailure s)) ∧
        (tagOk → call.counter ≤ x.lastCounter → fails .counterStale) ∧
        (tagOk → x.lastCounter < call.counter → call.target ≠ 0xFF → inConfig s call.target = false →
          ∃ c t, entryChecks op call s = .fail c .invalidArgument t)))

/-- R386: the device accepts GO only while BUSY and DONE are both 0. -/
def Obligations.GoRejected : Prop :=
  ∀ (op : Nat) (call : MbCall) (s : State),
    (boxServes s call.mb = true → (getBox s call.mb).busy = true ∨ (getBox s call.mb).done = true →
      mailboxCommand op call s = modBox call.mb (fun b => { b with rejected := true }) s) ∧
    (boxServes s call.mb = false → mailboxCommand op call s = s)

/-- Past its checks a command reaches the dispatcher of R400; a settings command waits there for its turn. -/
def Obligations.CommandReachesItsHandler : Prop :=
  ∀ (op : Nat) (call : MbCall) (s : State) (c : Cmd) (t : State), Arrives op call s c t → (op = 5 → c.tagged = true) →
    submit handle payloadCheck op call s = runCmd handle (((catalogue op).map (·.settings)).getD false) c t ∧
    c.opcode = op ∧
    (¬ Turn t → runCmd handle true c t = { t with fmw := { t.fmw with waiting := t.fmw.waiting ++ [c] } })

/-- The end of a command on its own module (R386, R389, R404). -/
def Obligations.AnsweredCommand : Prop :=
  ∀ (c : Cmd) (m : Nat) (st : Status) (payload : List Byte) (t : State),
    c.src = .mailbox m → m < t.fmw.boxes.length → m < 5 → c.target ≠ 0xFF → c.opcode ≠ 4 →
    let u := finishCmd c st 0 payload t
    let tag := if c.tagged then rspTag c.rspKey (rspHeaderBytes c st (payload.length + 16) 1 c.session 0) payload else []
    let header := if c.tagged then rspHeaderBytes c st (payload.length + 16) 1 c.session 0
      else rspHeaderBytes c st payload.length 0 c.session 0
    getBox u m = { getBox t m with busy := false, done := true, steps := 0, rspHeader := header,
                                   rspPayload := padTo 4096 (payload ++ tag) } ∧
    (∀ n, n ≠ m → getBox u n = getBox t n) ∧
    u.fmw.history = ({ sequence := c.sequence, opcode := c.opcode, status := st, entry := self t, mailbox := m,
                       counter := c.counter % 2 ^ 32 } :: t.fmw.history).take 16 ∧
    Keeps [.fmw, .cxl, .sent] t u

/-! ### Mailbox commands: identity, sessions -/

/-- Commands that only read: the response is the whole effect (R403, R404, R516, R517, R547). -/
def Obligations.ReadCommandsComplete : Prop :=
  (∀ call s c t, Arrives 0x0001 call s c t → exec (.identify call) s = .next (finishCmd c .ok 0 (identifyBytes t) t)) ∧
  (∀ call s c t, Arrives 0x0002 call s c t →
    exec (.getStatus call) s = .next (finishCmd c .ok 0
      (leBytes 8 (((t.fmw.sessions.find? fun x => x.id == c.session && x.isOpen).map (·.lastCounter)).getD 0) ++
       padTo 256 (t.fmw.history.flatMap histBytes)) t)) ∧
  (∀ call s c t, Arrives 0x0603 call s c t →
    let version (slot k : Nat) := ((slotImages t slot)[k]?.map (·.version)).getD 0
    exec (.fwStatus call) s = .next (finishCmd c .ok 0
      ((List.range 3).flatMap (fun k => leBytes 4 (stageVersion t (k + 1))) ++
       (List.range 3).flatMap (fun k => leBytes 4 (version 0 k)) ++ (List.range 3).flatMap (fun k => leBytes 4 (version 1 k)) ++
       leBytes 1 (if t.sec.recovery then 0xFF else t.sec.bootSlot) ++ leBytes 1 t.cave.log.active ++ leBytes 1 t.fw.staging ++ [0]) t)) ∧
  (∀ call s c t, Arrives 0x0701 call s c t → u8 call.payload 32 = 0 →
    let report := reportBytes t (slice c.payload 0 32)
    exec (.attestReport call) s = .next (finishCmd c .ok 0 (report ++ signIdentity t "IZ2 ATTEST" report) t)) ∧
  (∀ call s c t g cert, Arrives 0x0701 call s c t → u8 call.payload 32 = 1 → t.cave.certificate = .ok g cert →
    exec (.attestCertificate call) s = .next (finishCmd c .ok 0 cert t))

/-- The session commands (R394-R396). Signature and decapsulation are opaque functions of Config, so both outcomes of each stand in the
conclusion. -/
def Obligations.SessionCommandsComplete : Prop :=
  (∀ call s c t, Arrives 0x0003 call s c t → t.fmw.sessions.length < 8 →
    let id := freshSession t
    let nonce := (List.range 32).map fun i => Config.randomByte t.free i
    let offer := leBytes 4 id ++ leBytes 4 0 ++ nonce ++ padTo 1184 (Config.kemPublic (t.free + 1))
    exec (.sessionInit call) s = .next (finishCmd c .ok 0 (offer ++ signIdentity t "IZ2 SESSION" offer)
      { t with
        free := t.free + 2
        fmw := { t.fmw with
          nextSession := id % 0xFFFFFFFE + 1
          sessions := t.fmw.sessions ++
            [{ id := id, isOpen := false, offer := offer, kemSeed := t.free + 1, cmdKey := [], rspKey := [], lastCounter := 0,
               since := t.tick.timebase }] } })) ∧
  (∀ call s c t x, Arrives 0x0004 call s c t → t.fmw.lockout = false →
    (t.fmw.sessions.find? fun y => y.id == u32 c.payload 0 && !y.isOpen) = some x →
    let answer := c.payload.take 1128
    let discarded : State := { t with fmw := { t.fmw with sessions := t.fmw.sessions.filter fun y => y.id != u32 c.payload 0 } }
    exec (.sessionFinish call) s = .next (
      if Config.dsaVerify (credential t) "IZ2 HOST" (x.offer ++ answer) (slice c.payload 1128 2420) then
        match Config.kemDecaps x.kemSeed (slice c.payload 8 1088) with
        | some k => finishCmd c .ok 0 (leBytes 4 (u32 c.payload 0))
            { t with
              fmw := { t.fmw with
                sessions := t.fmw.sessions.map fun y =>
                  if y.id == u32 c.payload 0 then
                    { x with isOpen := true, cmdKey := (sessionKeys k x.offer answer).1, rspKey := (sessionKeys k x.offer answer).2,
                             lastCounter := 0, since := t.tick.timebase }
                  else y } }
        | none => finishCmd c .authFail 0 [] discarded
      else finishCmd c .authFail 0 [] (authFailure discarded))) ∧
  (∀ call s c t, Arrives 0x0005 call s c t → c.tagged = true → t.sec.token = none →
    exec (.sessionClose call) s = .next (finishCmd c .ok 0 []
      { t with fmw := { t.fmw with sessions := t.fmw.sessions.filter fun x => x.id != c.session } }))

/-- R391: IDs from 1 to 0xFFFF_FFFE that the device assigns; two sessions never share one. -/
def Obligations.SessionIdFresh : Prop :=
  ∀ s : State, s.fmw.sessions.length < 8 →
    1 ≤ freshSession s ∧ freshSession s ≤ 0xFFFFFFFE ∧ ∀ x ∈ s.fmw.sessions, x.id ≠ freshSession s

/-! ### Mailbox commands: queues, slot rings, counters -/

/-- Queue and ring commands (R328, R346, R405). Reset and Disable are answered at the boundary that resets the queue. -/
def Obligations.QueueCommandsComplete : Prop :=
  (∀ call s c t, Arrives 0x0101 call s c t → (getQ t (u16 c.payload 0)).mode = .disabled → t.cxl.reduced = false →
    exec (.queueSetup call) s = .next (finishCmd c .ok 0 [] (setQ (u16 c.payload 0)
      { getQ t (u16 c.payload 0) with
        mode := .running, cls := u8 c.payload 2, prio := u8 c.payload 3, entries := u32 c.payload 4, ring := u64 c.payload 8,
        comp := u64 c.payload 16, msix := u16 c.payload 24, ladleSet := u8 c.payload 26,
        tail := 0, head := 0, done := 0, snap := 0, fetched := [], ops := [], reset := none, blk := none, energy := 0 } t))) ∧
  (∀ call s c t, Arrives 0x0102 call s c t → u8 call.payload 2 = 0 → (getQ t (u16 c.payload 0)).mode = .stopped →
    t.cxl.reduced = false →
    exec (.queueRestart call) s = .next (finishCmd c .ok 0 []
      (setQ (u16 c.payload 0) { getQ t (u16 c.payload 0) with mode := .running } t))) ∧
  (∀ call s c t, Arrives 0x0102 call s c t → u8 call.payload 2 = 1 → (getQ t (u16 c.payload 0)).mode ≠ .disabled →
    exec (.queueReset call) s = .next (setQ (u16 c.payload 0)
      { getQ t (u16 c.payload 0) with
        reset := some (.ownerReset, (getQ t (u16 c.payload 0)).reset.any fun r => r.2) }
      { t with fmw := { t.fmw with resets := t.fmw.resets ++ [(u16 c.payload 0, c)] } })) ∧
  (∀ call s c t, Arrives 0x0102 call s c t → u8 call.payload 2 = 2 → (getQ t (u16 c.payload 0)).mode ≠ .disabled →
    exec (.queueDisable call) s = .next (setQ (u16 c.payload 0)
      { getQ t (u16 c.payload 0) with reset := some (.ownerReset, true) }
      { t with fmw := { t.fmw with resets := t.fmw.resets ++ [(u16 c.payload 0, c)] } })) ∧
  (∀ call s c t, Arrives 0x0103 call s c t → (mget t.rings (u16 c.payload 0)).all (fun r => r.openFor.isNone) = true →
    exec (.slotRingSetup call) s = .next (finishCmd c .ok 0 []
      { t with
        rings := mput t.rings (u16 c.payload 0)
          { slots := u8 c.payload 2, slotBytes := u32 c.payload 4, base := u64 c.payload 8, readyCtr := u16 c.payload 16,
            freeCtr := u16 c.payload 18, tail := 0, head := 0, openFor := none } }))

/-- The counter commands of R373-R377. `wake` lets the plan units whose waits ended go on. -/
def Obligations.CounterCommandsComplete : Prop :=
  (∀ call s c t, Arrives 0x0104 call s c t → u16 c.payload 2 ≠ 0 →
    let cs := upFrom (u16 c.payload 0) (u16 c.payload 2)
    let start := BitVec.ofNat 32 (u32 c.payload 8)
    let claim (s : State) (k : Nat) : State := setC k { getC s k with
      mode := .claimed, value := start, start := start, owner := u16 c.payload 4, inJob := false, waits := [] } s
    exec (.counterClaim call) s = .next (
      if ∃ k ∈ cs, (getC t k).mode = .claimed then finishCmd c .counterState 0 [] t
      else if (getQ t (u16 c.payload 4)).mode = .disabled then finishCmd c .queueState 0 [] t
      else finishCmd c .ok 0 [] (cs.foldl claim t))) ∧
  (∀ call s c t, Arrives 0x0105 call s c t → bit (u16 call.payload 4) 0 = false → u16 c.payload 2 ≠ 0 →
    let cs := upFrom (u16 c.payload 0) (u16 c.payload 2)
    exec (.counterRelease call) s = .next (
      if ∃ k ∈ cs, (getC t k).mode ≠ .claimed ∨ (getC t k).waits ≠ [] ∨ (getC t k).inJob = true then finishCmd c .counterState 0 [] t
      else if ∃ k ∈ cs, (getC t k).value ≠ (getC t k).start then finishCmd c .counterUnbalanced 0 [] t
      else finishCmd c .ok 0 [] (cs.foldl freeCounter t))) ∧
  (∀ call s c t, Arrives 0x0105 call s c t → bit (u16 call.payload 4) 0 = true → u16 c.payload 2 ≠ 0 →
    exec (.counterReleaseForce call) s = .next (wake (finishCmd c .ok 0 []
      (poisonCounters 3 .ownerReset (upFrom (u16 c.payload 0) (u16 c.payload 2)) t)))) ∧
  (∀ call s c t, Arrives 0x0106 call s c t →
    let k := getC t (u16 c.payload 0)
    exec (.counterSet call) s = .next (wake (
      if k.mode = .claimed ∧ k.inJob = false then
        finishCmd c .ok 0 [] (settle (u16 c.payload 0)
          (setC (u16 c.payload 0) { k with value := BitVec.ofNat 32 (u32 c.payload 4) } t))
      else finishCmd c .counterState 0 [] t)))

/-! ### Mailbox commands: packages, the culture bank, the index -/

/-- The settings commands of the data that models use (R100, R101, R158, R410, R411). -/
def Obligations.ModelCommandsComplete : Prop :=
  (∀ call s c t, Arrives 0x0201 call s c t → Turn t → libraryUsed t + u32 c.payload 4 ≤ libraryBytes →
    exec (.packageInstall call) s = .next { t with fmw := { t.fmw with running := some (keepsBusy c (u32 c.payload 4)) } }) ∧
  (∀ call s c t k, Arrives 0x0202 call s c t → Turn t → (t.packages.find? fun x => x.id == u32 c.payload 0) = some k →
    packageBusy t k = false →
    exec (.packageRemove call) s = .next (finishCmd c .ok 0 [] { t with packages := t.packages.filter fun x => x.id != k.id })) ∧
  (∀ call s c t m, Arrives 0x0301 call s c t → Turn t → packageModel t (u32 c.payload 0) (u32 c.payload 4) = some m →
    exec (.cultureStage call) s = .next { t with fmw := { t.fmw with running := some (keepsBusy c (modelSize m)) } }) ∧
  (∀ call s c t, Arrives 0x0302 call s c t → Turn t → cultureWaits t = false →
    (∃ m ∈ stagingBank t, m.id = u32 c.payload 0) →
    exec (.cultureRemove call) s = .next (finishCmd c .ok 0 []
      (setStaging ((stagingBank t).filter fun m => m.id != u32 c.payload 0) [] t))) ∧
  (∀ call s c t, Arrives 0x0303 call s c t → Turn t → t.culture.shadowState = 2 → t.culture.commitAt = none →
    exec (.cultureCommit call) s = .next (finishCmd c .ok 0
      (leBytes 1 ((t.culture.generation + 1) % 256) ++ List.replicate 7 0 ++ leBytes 8 (headTick t (t.tick.count + 1)))
      { t with culture := { t.culture with commitAt := some (t.tick.count + 1) } })) ∧
  (∀ call s c t, Arrives 0x0304 call s c t → Turn t → u32 c.payload 12 ≠ 0 →
    exec (.indexLoad call) s = .next { t with fmw := { t.fmw with running := some (keepsBusy c (256 * u32 c.payload 12)) } }) ∧
  (∀ call s c t, Arrives 0x0305 call s c t → Turn t → t.index.shadowState = 2 → t.index.commitAt = none →
    exec (.indexCommit call) s = .next (finishCmd c .ok 0
      (leBytes 4 ((t.index.epoch + 1) % 2 ^ 32) ++ leBytes 4 0 ++ leBytes 8 (headTick t (t.tick.count + 1)))
      { t with index := { t.index with commitAt := some (t.tick.count + 1) } }))

/-- PACKAGE_INSTALL after its copy (R410): the checks decide whether the package registers; R304 allows 16 packages. -/
def Obligations.InstallAddsOnePackage : Prop :=
  ∀ (p : List Byte) (s : State),
    let r := installPackage p s
    (r.2.1 = .ok → s.packages.length < 16 ∧ (∀ k ∈ s.packages, k.id ≠ u32 p 0) ∧
      ∃ k : Package, k.id = u32 p 0 ∧ r.1.packages = s.packages ++ [k]) ∧
    (r.2.1 ≠ .ok → r.1.packages = s.packages)

/-- R400, R401. `retireReset` acts only where the started command retires the module. -/
def Obligations.SettingsQueueProceeds : Prop :=
  (∀ s r, Awake s → s.fmw.running = some r → r.cmd.opcode ≠ 0x0803 → r.asked = false → stepWaits s r.cmd.opcode = false →
    r.stepTick ≠ s.tick.count + 1 →
    let r' : Running := { r with bytesLeft := r.bytesLeft - 16 * 2 ^ 20, steps := r.steps + 1, stepTick := s.tick.count + 1 }
    let s' := showSteps r.cmd (r.steps + 1) { s with fmw := { s.fmw with running := some r' } }
    (16 * 2 ^ 20 < r.bytesLeft → exec .mailboxCommandStep s = .next s') ∧
    (r.bytesLeft ≤ 16 * 2 ^ 20 → r.cmd.opcode = 0x0201 →
      let u := installPackage r.cmd.payload s'
      exec .mailboxCommandStep s = .next (finishCmd r.cmd u.2.1 (r.steps + 1) u.2.2 (endTurn u.1))) ∧
    (r.bytesLeft ≤ 16 * 2 ^ 20 → r.cmd.opcode = 0x0301 →
      let u := stageNow r.cmd.payload s'
      exec .mailboxCommandStep s = .next (finishCmd r.cmd u.2.1 (r.steps + 1) u.2.2 (endTurn u.1)))) ∧
  (∀ s c r, Awake s → s.fmw.running = none → s.fmw.waiting = c :: r →
    exec .settingsCommandStart s = .next (retireReset s (startSettings handle c { s with fmw := { s.fmw with waiting := r } })))

/-! ### Mailbox commands: settings, power, firmware, security, units -/

/-- The settings commands (R44, R351, R406, R408, R431, R476, R564). -/
def Obligations.SettingsCommandsComplete : Prop :=
  (∀ call s c t, Arrives 0x0401 call s c t → Turn t →
    let next := (effTick t, u16 c.payload 0, u8 c.payload 2, u16 c.payload 4)
    exec (.tickConfig call) s = .next (finishCmd c .ok 0 (leBytes 8 (headTick t (effTick t)))
      { t with
        tick := { t.tick with next := some next }
        fmw := { t.fmw with settings := { t.fmw.settings with
          period := u16 c.payload 0, align := u8 c.payload 2, syncDelay := u16 c.payload 4 } } })) ∧
  (∀ call s c t, Arrives 0x0402 call s c t → Turn t →
    (∀ x, planInForce t = some x → x.bwMin.1 ≤ u8 c.payload 0 ∧ x.bwMin.2.1 ≤ u8 c.payload 1 ∧ x.bwMin.2.2 ≤ u8 c.payload 2) →
    exec (.bwSplit call) s = .next (finishCmd c .ok 0 (leBytes 8 (headTick t (effTick t)))
      { t with fmw := { t.fmw with
          bwNext := some (effTick t, u8 c.payload 0, u8 c.payload 1, u8 c.payload 2)
          settings := { t.fmw.settings with bwRead := u8 c.payload 0, bwWrite := u8 c.payload 1, bwRemote := u8 c.payload 2 } } })) ∧
  (∀ call s c t, Arrives 0x0403 call s c t → Turn t →
    exec (.mgmtConfig call) s = .next (finishCmd c .ok 0 []
      { t with fmw := { t.fmw with settings := { t.fmw.settings with smbus := u8 c.payload 0 } } })) ∧
  (∀ call s c t, Arrives 0x0404 call s c t → Turn t → u8 call.payload 0 ≠ 1 →
    let generation := ((retained t).map (·.1)).getD 0
    let copies := writeCopy t.cave.settingsA t.cave.settingsB t.fmw.settings
    exec (.settingsCommit call) s = .next (
      if (retained t).map (·.2) = some t.fmw.settings then
        finishCmd c .ok 0 (leBytes 4 generation ++ leBytes 4 0) { t with memctl := { t.memctl with locked := true } }
      else if Config.readBackFails t.free then finishCmd c .uncorrectable 0 [] { t with free := t.free + 1 }
      else
        finishCmd c .ok 0 (leBytes 4 (generation + 1) ++ leBytes 4 (Config.freeNat t.free))
          (raise 0x0002 0 (leBytes 4 (generation + 1))
            { t with
              cave := { t.cave with settingsA := copies.1, settingsB := copies.2 }
              memctl := { t.memctl with locked := true }
              free := t.free + 1 }))) ∧
  (∀ call s c t, Arrives 0x0404 call s c t → Turn t → u8 call.payload 0 = 1 →
    exec (.settingsErase call) s = .next (finishCmd c .ok 0 (leBytes 4 0 ++ leBytes 4 0)
      { t with cave := { t.cave with settingsA := .erased, settingsB := .erased } })) ∧
  (∀ call s c t, Arrives 0x0806 call s c t → Turn t →
    exec (.topologySet call) s = .next (finishCmd c .ok 0 []
      { t with fmw := { t.fmw with settings := { t.fmw.settings with topology := topologyOf c.payload } } })) ∧
  (∀ call s c t, Arrives 0x0805 call s c t → Turn t →
    exec (.moduleReset call) s = .next (finishCmd c .ok 0 []
      { t with fmw := { t.fmw with resetDelay := some (10 + u16 c.payload 0) } })) ∧
  (∀ call s c t, Arrives 0x0501 call s c t → Turn t →
    let limits := (t.tick.count + 1, u16 c.payload 0, u16 c.payload 2, u8 c.payload 4, bit (u8 c.payload 5) 0)
    exec (.powerLimits call) s = .next (finishCmd c .ok 0 (leBytes 8 (headTick t (t.tick.count + 1)))
      { t with
        power := { t.power with limitsNext := some limits }
        fmw := { t.fmw with settings := { t.fmw.settings with
          sustained := u16 c.payload 0, peak := u16 c.payload 2, order := u8 c.payload 4, pool := bit (u8 c.payload 5) 0 } } }))

/-- POWER_STATE (R490). The entry to A2 itself happens at a boundary. -/
def Obligations.PowerStateCommandsComplete : Prop :=
  (∀ call s c t, Arrives 0x0502 call s c t → Turn t → u8 call.payload 0 = 0 →
    let awake := { t with power := { t.power with wantA2 := false } }
    (t.power.state ≤ 1 → exec (.powerStateA0 call) s = .next (finishCmd c .ok 0 [] awake)) ∧
    (t.power.state = 2 → exec (.powerStateA0 call) s = .next (finishCmd c .ok 0 [] (setPowerState 0 awake))) ∧
    (t.power.state = 3 → exec (.powerStateA0 call) s = .next (
      if call.mb = 4 ∧ ∀ r ∈ t.power.readings, r.celsius < (sensorLimits r.cls).1 then finishCmd c .ok 0 [] (exitA3 t)
      else finishCmd c .powerBusy 0 [] t))) ∧
  (∀ call s c t, Arrives 0x0502 call s c t → Turn t → u8 call.payload 0 = 2 → t.power.state ≤ 1 →
    exec (.powerStateA2 call) s = .next (
      if quietModule t then finishCmd c .ok 0 [] { t with power := { t.power with wantA2 := true } }
      else finishCmd c .powerBusy 0 [] t)) ∧
  (∀ call s c t, Arrives 0x0502 call s c t → Turn t → u8 call.payload 0 = 3 → t.power.state ≤ 2 →
    exec (.powerStateA3 call) s = .next (
      if quietModule t ∧ ¬ (isHead t = true ∧ t.fabric.topology.code ≠ 0) then finishCmd c .ok 0 [] (enterA3 t)
      else finishCmd c .powerBusy 0 [] t))

/-- CREDENTIAL_SET, FW_STAGE and both forms of FW_ACTIVATE (R512, R543-R546) each complete. Whether the bundle and the slot's images pass
`slotFails` turns on signatures that are opaque functions of Config, so both outcomes stand in the conclusion. -/
def Obligations.FirmwareCommandsComplete : Prop :=
  (∀ call s c t, Arrives 0x0702 call s c t → Turn t →
    let copies := writeCopy t.cave.credentialA t.cave.credentialB (slice c.payload 0 1312)
    exec (.credentialSet call) s = .next (finishCmd c .ok 0 []
      (((t.fmw.sessions.filter fun x => x.id != c.session).map (·.id)).foldl (fun s i => closeSession i s)
        { t with cave := { t.cave with credentialA := copies.1, credentialB := copies.2 } }))) ∧
  (∀ call s c t, Arrives 0x0601 call s c t → Turn t →
    let slot := u8 c.payload 0
    let first := bit (u8 c.payload 1) 0
    let last := bit (u8 c.payload 1) 1
    let got := if first then [] else t.fw.received
    let body := got ++ slice c.payload 16 (u16 c.payload 2)
    (t.sec.recovery = true ∨ slot ≠ t.sec.bootSlot) → (first = true ∨ (t.fw.staging = 1 ∧ t.fw.stagedSlot = slot)) →
    u32 c.payload 4 = got.length → got.length + u16 c.payload 2 ≤ bundleMax →
    let staging (state : Nat) (kept : List Byte) : State :=
      { setSlot slot .erased t with fw := { t.fw with stagedSlot := slot, staging := state, received := kept } }
    (last = false → exec (.fwStage call) s = .next (finishCmd c .ok 0 [] (staging 1 body))) ∧
    (last = true → exec (.fwStage call) s = .next (match parseBundle body with
      | none => finishCmd c .fwRejected 0 (leBytes 1 6) (staging 0 [])
      | some images => match slotFails t t.fuses.rollback (.ok 1 images) with
        | some (_, reason) => finishCmd c .fwRejected 0 (leBytes 1 reason) (staging 0 [])
        | none => finishCmd c .ok 0 []
            (raise 0x0705 0 (leBytes 1 slot ++ leBytes 3 0 ++ leBytes 4 ((images.getD 1 default).version))
              (setSlot slot (.ok 1 images) (staging 2 [])))))) ∧
  (∀ call s c t, Arrives 0x0602 call s c t → Turn t →
    let slot := t.fw.stagedSlot
    let images := slotImages t slot
    let named : State := { t with cave := { t.cave with log := { t.cave.log with active := slot } } }
    (u8 call.payload 0 = 0 → exec (.fwActivateAtReset call) s = .next (match slotFails t t.fuses.rollback (slotRec t slot) with
      | some (_, reason) => finishCmd c .fwRejected 0 (leBytes 1 reason) t
      | none => finishCmd c .ok 0 []
          (raise 0x0706 1 (leBytes 1 slot ++ leBytes 1 0 ++ leBytes 2 0 ++ leBytes 4 (images.getD 1 default).version) named))) ∧
    (u8 call.payload 0 = 1 → exec (.fwActivateLive call) s = .next (match slotFails t t.fuses.rollback (slotRec t slot) with
      | some (_, reason) => finishCmd c .fwRejected 0 (leBytes 1 reason) t
      | none =>
        if (images.getD 0 default).measurement ≠ (t.sec.stages.getD 1 ([], 0, 0)).1 then finishCmd c .fwRejected 0 (leBytes 1 7) t
        else if 1 < t.fabric.topology.modules ∧ (images.getD 1 default).version / 2 ^ 24 ≠ stageVersion t 2 / 2 ^ 24 then
          finishCmd c .fwRejected 0 (leBytes 1 8) t
        else finishCmd c .ok 0 (leBytes 8 (headTick t (effTick t))) { named with fw := { t.fw with live := some (slot, effTick t) } })))

/-- DEBUG_TOKEN and LIFECYCLE_SET (R508, R509, R519-R521). A token's signature is an opaque function of Config. -/
def Obligations.SecurityCommandsComplete : Prop :=
  (∀ call s c t, Arrives 0x0703 call s c t → Turn t → u8 call.payload 0 = 0 →
    exec (.debugTokenDrop call) s = .next (finishCmd c .ok 0 [] (dropLevel 1 t))) ∧
  (∀ call s c t, Arrives 0x0703 call s c t → Turn t → u8 call.payload 0 = 1 →
    let token := slice c.payload 8 3796
    let level := u8 token 6
    let held : Token := { level := level, signer := u8 token 7, session := c.session, firstQueue := u16 token 44,
                          queueCount := u16 token 46, expires := t.tick.timebase + u32 token 40 * 1000000000 }
    exec (.debugTokenApply call) s = .next (
      if tokenValid t token = false then finishCmd c .authFail 0 [] t
      else if tokenAdmitted t level (u8 token 7) = false then finishCmd c .debugDenied 0 [] t
      else finishCmd c .ok 0 [] (levelEvent t.sec.level level (u8 token 7) 0
        { t with
          cave := { t.cave with log := { t.cave.log with lastSerial := u64 token 48 } }
          sec := { t.sec with
            level := level
            token := some held
            halt := 0
            halted := 0 } }))) ∧
  (∀ call s c t, Arrives 0x0704 call s c t → Turn t → lifecycleAccepts t c.payload = true →
    let noted (action arg : Nat) : State := { logAction action arg t with free := t.free + 1 }
    let ends (logged : State) (done : State) : State := match fuseFailure t c.payload with
      | some blown => finishCmd c .uncorrectable 0 (leBytes 4 blown) (partialFuses c.payload blown logged)
      | none => finishCmd c .ok 0 [] done
    (u8 call.payload 0 = 1 →
      let s1 := noted 1 (u8 c.payload 2)
      exec (.lifecycleProvision call) s = .next (ends s1 (provision c.payload s1))) ∧
    (u8 call.payload 0 = 2 →
      let s1 := noted 2 (u8 c.payload 2)
      exec (.lifecycleDeploy call) s = .next (ends s1 (lifecycleEvent 2 { s1 with fuses := { s1.fuses with deployed := true } }))) ∧
    (u8 call.payload 0 = 4 →
      let s1 := noted 4 (u8 c.payload 1)
      exec (.lifecycleRevoke call) s = .next (ends s1 (revokeSlot (u8 c.payload 1) s1))) ∧
    (u8 call.payload 0 = 5 →
      let s1 := noted 5 (u8 c.payload 2)
      exec (.lifecycleAdvanceRollback call) s =
        .next (ends s1 { s1 with fuses := { s1.fuses with rollback := u8 c.payload 2 } }))) ∧
  (∀ call s c t, Arrives 0x0704 call s c t → Turn t → lifecycleAccepts t c.payload = false →
    mailboxCommand 0x0704 call s = finishCmd c .lifecycleDenied 0 [] t)

/-- LIFECYCLE_RETIRE (R508, R509): after the response the module resets with cause 7; where the fuse fails its verification, which is a free
value, the command ends with UNCORRECTABLE and retires nothing. -/
def Obligations.RetirementErasesAndResets : Prop :=
  ∀ call s c t, Arrives 0x0704 call s c t → Turn t → u8 call.payload 0 = 3 → t.fuses.retired = false →
    ∃ u, exec (.lifecycleRetire call) s = .next u ∧
      if Config.fuseFails t.free = none then
        u.fuses = { t.fuses with retired := true } ∧
        u.cave.credentialA = .erased ∧ u.cave.credentialB = .erased ∧ u.cave.settingsA = .erased ∧ u.cave.settingsB = .erased ∧
        u.cave.calibrationA = .erased ∧ u.cave.calibrationB = .erased ∧ u.cave.slotA = .erased ∧ u.cave.slotB = .erased ∧
        u.cave.certificate = t.cave.certificate ∧ u.fmw.sessions = [] ∧ u.sec.level = 0 ∧ u.start.cause = 7 ∧
        u.start.count = satAdd 65535 t.start.count 1
      else
        u = finishCmd c .uncorrectable 0 (leBytes 4 0) { logAction 3 (u8 c.payload 2) t with free := t.free + 1 }

/-- The service commands (R535, R536, R539, R542). -/
def Obligations.ServiceCommandsComplete : Prop :=
  (∀ call s c t, Arrives 0x0801 call s c t → Turn t →
    let u := unitOf c.payload
    (getSvc t u).state = 0 → (getSvc t u).pend = 0 → (u.cls = 5 ∨ inPlan t u = false) →
    exec (.unitDrain call) s = .next (setSvc u { getSvc t u with pend := 1 }
      { t with fmw := { t.fmw with running := some (keepsBusy c 0) } })) ∧
  (∀ call s c t, Arrives 0x0802 call s c t → Turn t →
    let u := unitOf c.payload
    let busy : State := { t with fmw := { t.fmw with running := some (keepsBusy c 0) } }
    ((getSvc t u).state = 2 ∨ (getSvc t u).state = 3) → (getSvc t u).pend = 0 →
    exec (.unitReturn call) s = .next (
      if u.cls = 5 then emit (.retrain u.num) (modPort u.num (retrainPort 2) (setSvc u { getSvc t u with pend := 3 } busy))
      else setSvc u { getSvc t u with pend := 3 } busy)) ∧
  (∀ call s c t, Arrives 0x0803 call s c t → Turn t →
    let measuring : State := { t with
      power := { t.power with recalibrating := true }
      fmw := { t.fmw with running := some (keepsBusy c 0) } }
    (u8 call.payload 0 = 0 → exec (.recalibrateEstimator call) s = .next measuring) ∧
    (u8 call.payload 0 = 1 → (getSvc t { cls := 0, num := u16 c.payload 2 }).state = 2 →
      exec (.recalibrateVat call) s = .next measuring) ∧
    (u8 call.payload 0 = 2 → t.plan.job = none → t.plan.waiting = [] → exec (.recalibratePoints call) s = .next measuring) ∧
    (u8 call.payload 0 = 3 → (getSvc t { cls := 5, num := u16 c.payload 2 }).state = 2 →
      exec (.recalibratePort call) s = .next measuring)) ∧
  (∀ call s c t j a b, Arrives 0x0804 call s c t → Turn t → t.plan.job = some j → j.queue = u16 c.payload 0 →
    j.planSet = u32 c.payload 4 → planSetOf t j.planSet = some a → planSetOf t (u32 c.payload 8) = some b →
    sameShape a b = true → planUnfit t b = false → (a.domain.length ≤ 1 ∨ isHead t = true) →
    exec (.planSetReplace call) s = .next (finishCmd c .ok 0 (leBytes 8 (headTick t (effTick t)))
      ((a.domain.filter (· != self t)).foldl (fun u m => emit (.replacePlan m (u32 c.payload 8) (headTick t (effTick t))) u)
        { t with plan := { t.plan with replace := some { newSet := u32 c.payload 8, earliest := effTick t } } })))

/-! ### Ticks -/

/-- The boundary sequence of R64 runs whole: whatever the steps in between do, the count rises by one and the window opens. A boundary
that peers held and released before comes 2 µs after the last RELEASE (R59). -/
def Obligations.TickBoundaryCounts : Prop :=
  ∀ (b : BoundaryInput) (s : State), Awake s → ticking s = true → s.tick.hold = none → s.tick.heldPeers = [] → lateUnits s = [] →
    s.fmw.parked = [] → b.late = [] → nextBoundary s ≤ b.now → (∀ r, s.tick.released = some r → r.1 + 2000 ≤ b.now) →
    ∃ t, exec (.tickBoundary b) s = .next t ∧ t.tick.count = s.tick.count + 1 ∧ t.tick.last = b.now ∧ t.tick.windowOpen = true ∧
      t.tick.hold = none ∧ t.tick.late = [] ∧ t.tick.heldPeers = [] ∧ t.tick.released = none

/-- Step 1 of R64 under R59: late work holds the boundary, and HOLD is broadcast. -/
def Obligations.LateWorkHoldsTheBoundary : Prop :=
  ∀ (b : BoundaryInput) (s : State), Awake s → ticking s = true → s.tick.hold = none → s.fmw.parked = [] →
    nextBoundary s ≤ b.now → (s.tick.late ++ b.late ≠ []) →
    let found : State := { s with tick := { s.tick with timebase := max s.tick.timebase b.now, late := s.tick.late ++ b.late } }
    let told : State := sendSync (jobPeers s) (.hold · (headTick s s.tick.count)) found
    exec (.tickBoundary b) s = .next (flushEvents { told with
      tick := { found.tick with
        state := 2
        hold := some { since := nextBoundary s, own := true, peers := s.tick.heldPeers, cause := self s,
                       units := if s.tick.heldPeers = [] then lateUnits found else []
                       planSet := (s.plan.job.map (·.planSet)).getD 0, step := (s.plan.job.map (·.step)).getD 0
                       lastRelease := (s.tick.released.map (·.1)).getD 0, released := 0 } } })

/-- Sync messages (R438, R439) at their receiver, where each is applied once: `noteSync` records a message, and a second one with its ID
changes nothing. Ticks in messages are the head's count, which `headTick` and `ownTick` convert. -/
def Obligations.TickMessagesComplete : Prop :=
  (∀ src id s, Awake s → fromModule s src = true → syncSeen s src id = false →
    let m : SyncId := { src := src, id := id }
    let u := noteSync src id s
    (∀ t1 t2 t3, exec (.timestamp m t1 t2 t3) s = .next (sendSync [] (.timestampReply · src t1 t2 t3)
      { u with tick := { u.tick with timebase := max s.tick.timebase t3 } })) ∧
    (s.tick.hold = none → exec (.holdMsg m (headTick s s.tick.count)) s =
      .next { u with tick := { u.tick with heldPeers := sadd s.tick.heldPeers src } }) ∧
    (∀ h, s.tick.hold = some h → exec (.holdMsg m (headTick s s.tick.count)) s =
      .next { u with tick := { u.tick with hold := some { h with peers := sadd h.peers src } } }) ∧
    (∀ now, s.tick.hold = none → s.tick.heldPeers.contains src = true →
      exec (.releaseMsg m (headTick s s.tick.count) now) s = .next { u with tick := { u.tick with
        timebase := max s.tick.timebase now, heldPeers := s.tick.heldPeers.filter (· != src), released := some (now, src) } }) ∧
    (∀ now h, s.tick.hold = some h → h.peers.contains src = true →
      exec (.releaseMsg m (headTick s s.tick.count) now) s = .next { u with tick := { u.tick with
        timebase := max s.tick.timebase now
        hold := some { h with peers := h.peers.filter (· != src), lastRelease := max h.lastRelease now } } }) ∧
    (∀ tick point, s.tick.hold = none →
      let counts := s.tick.count + (if s.power.deadline then 2 else 1)
      exec (.variantRequest m tick point) s = .next { u with tick := { u.tick with
        requests := (s.tick.requests.filter fun r => !(r.module == src && r.tick == counts)) ++
          [{ module := src, point := point, tick := counts }] } }) ∧
    (∀ tick planSet, (∃ r ∈ s.plan.waiting, r.planSet = planSet) →
      exec (.startDefer m tick planSet) s = .next { u with plan := { u.plan with
        waiting := s.plan.waiting.map fun r =>
          if r.planSet = planSet ∧ r.start = ownTick s tick then { r with start := r.start + 1, deferrals := r.deferrals + 1 } else r } }) ∧
    (∀ tick planSet, (∀ r ∈ s.plan.waiting, r.planSet ≠ planSet) → (∀ a ∈ s.plan.absent, a.1 ≠ planSet) →
      exec (.startDefer m tick planSet) s = .next { u with plan := { u.plan with
        absent := (planSet, ownTick s tick, 1) :: s.plan.absent } }) ∧
    (∀ first pattern, exec (.skipPattern m first pattern) s =
      .next { u with tick := { u.tick with skipFirst := ownTick s first, skipPattern := pattern } })) ∧
  (∀ count s, Awake s → isHead s = false → exec (.tickBaseMessage count) s =
    .next { s with tick := { s.tick with base := (count + (2 ^ 64 - s.tick.lock)) % 2 ^ 64 } }) ∧
  (∀ m s, fromModule s m.src = false ∨ syncSeen s m.src m.id = true →
    ∀ t1 t2 t3 t4 tick now point planSet first pattern, ∀ c ∈ [Instr.timestamp m t1 t2 t3, .timestampReply m t1 t2 t3 t4,
      .holdMsg m tick, .releaseMsg m tick now, .variantRequest m tick point, .startDefer m tick planSet,
      .skipPattern m first pattern], exec c s = .next s)

/-- The tick's own events (R59, R61, R63, R64, R470). -/
def Obligations.TickEventsComplete : Prop :=
  (∀ now s h, Awake s → s.tick.hold = some h → h.own = true → unitsDone s = true →
    exec (.lateWorkComplete now true) s = .next (sendSync (jobPeers s) (.release · (headTick s s.tick.count))
      { s with tick := { s.tick with
        timebase := max s.tick.timebase now
        late := []
        hold := some { h with own := false, lastRelease := max h.lastRelease now, released := now } } })) ∧
  (∀ now s h, Awake s → s.tick.hold = some h → h.since + 4 * tickLength s < now →
    exec (.holdLimit now) s = .next (releaseHold now (failJob .tickOverrun
      { s with tick := { s.tick with timebase := max s.tick.timebase now } }))) ∧
  (∀ late s, Awake s → s.tick.windowOpen = true →
    let closed := { s with tick := { s.tick with windowOpen := false, late := late } }
    exec (.boundaryWindowEnd late) s = .next (if s.tick.state = 3 then wake closed else wake (startStep closed))) ∧
  (∀ windows limit s, Awake s → s.tick.skipping = true →
    let next := s.tick.count + 1
    let first := if s.tick.skipFirst ≤ next ∧ next < s.tick.skipFirst + 64 ∧ s.tick.skipPattern ≠ 0 then s.tick.skipFirst + 64 else next
    let pattern := skipBits (skipCount s windows limit)
    exec (.skipWindow windows limit) s = .next (sendSync (jobPeers s) (.skipPattern · (headTick s first) pattern)
      { s with tick := { s.tick with skipFirst := first, skipPattern := pattern } })) ∧
  (∀ p s, Awake s → ticking s = true → s.power.fixed = false →
    let clear := { s with power := { s.power with avsFault := false } }
    let request := preparedPoint p clear
    let fixed : State := { s with
      sent := .avs request.1 :: s.sent
      power := { s.power with avsFault := false, prepared := request.1, requestReason := request.2, fixed := !causeActive clear,
                              deadline := true } }
    exec (.preparedPointFix p true) s = .next (
      if (jobPeers s).isEmpty then fixed
      else sendSync (jobPeers s) (.variantRequest · (headTick s s.tick.count) request.1) fixed)) ∧
  (∀ s, Awake s →
    exec .domainAbsent s = .next ((s.plan.waiting.filter fun r => decide (1000 ≤ r.deferrals)).foldl
      (fun s r => finishOp r.queue r.index .domainAbsent 0 (dropRequest r.queue r.index s)) s))

/-- R67: descriptors written after the snapshot wait for the next boundary. -/
def Obligations.TailSnapshotComplete : Prop :=
  ∀ s, Awake s → ticking s = true → Sorted s.queues →
    ∃ t, exec .tailSnapshot s = .next t ∧
      ∀ q, (getQ t q).snap = (getQ s q).tail ∧ (getQ t q).tail = (getQ s q).tail ∧ (getQ t q).head = (getQ s q).head ∧
        (getQ t q).done = (getQ s q).done

/-- R47, R48, R49, R439, R579; the 100th offset in the band also raises ALIGNED and places a member's first boundary. The edge of a
sync pulse counts with SYNC_DELAY_NS added. -/
def Obligations.OffsetsAlign : Prop :=
  (∀ src id (t1 t2 t3 t4 : Nat) s, Awake s → fromModule s src = true → syncSeen s src id = false → s.tick.align = 1 → alignParent s = some src →
    let offset := (((t2 : Int) - t1) - ((t4 : Int) - t3)) / 2
    let most : Int := (tickLength s : Int) / 10000
    let u := noteSync src id s
    exec (.timestampReply { src := src, id := id } t1 t2 t3 t4) s = .next (noteOffset offset
      { u with tick := { u.tick with timebase := max s.tick.timebase t4, slew := max (-most) (min most offset) } })) ∧
  (∀ (o : Int) s, Awake s → s.tick.align = 2 → isHead s = false → (o + s.tick.syncDelay).natAbs ≤ 500 → s.tick.edge = none →
    exec (.tickSyncInEdge o) s =
      .next (noteOffset (-(o + s.tick.syncDelay)) { s with tick := { s.tick with edge := some (o + s.tick.syncDelay) } })) ∧
  (∀ (o : Int) s,
    (200 < o.natAbs → (noteOffset o s).tick = { s.tick with offset := o, inBand := 0, aligned := false }) ∧
    (50 < o.natAbs → o.natAbs ≤ 200 → noteOffset o s = { s with tick := { s.tick with offset := o, inBand := 0 } }) ∧
    (o.natAbs ≤ 50 → s.tick.aligned = true ∨ s.tick.inBand + 1 < 100 →
      noteOffset o s = { s with tick := { s.tick with offset := o, inBand := s.tick.inBand + 1 } }) ∧
    (o.natAbs ≤ 50 → s.tick.aligned = false → 100 ≤ s.tick.inBand + 1 →
      (noteOffset o s).tick.aligned = true ∧ (noteOffset o s).tick.placed = true ∧ (noteOffset o s).tick.count = s.tick.count))

/-- R63: the pattern of k skips over the 64 ticks of a window. -/
def Obligations.SkipPatternSpreads : Prop :=
  ∀ k ≤ 64, ∀ n < 64, (skipBits k).getLsbD n = decide (n * k / 64 < (n + 1) * k / 64)

/-! ### Plan jobs -/

/-- The plan job events (R56, R57, R379, R540). -/
def Obligations.PlanJobEventsComplete : Prop :=
  (∀ s r, Awake s → s.plan.job = none → dueRequest (s.tick.count + 1) s = some r → s.fabric.lost.contains (headModule s) = false →
    startRefusal s r = none →
    ∃ t, exec .planJobStart s = .next t ∧
      t.plan.job = some { queue := r.queue, index := r.index, planSet := r.planSet, step := r.firstStep, roundsLeft := r.rounds,
                          args := r.args, stopAtSwap := r.stopAtSwap, stopping := none, failing := none, units := [] } ∧
      t.plan.waiting = (s.plan.waiting.filter fun x => !(x.queue == r.queue && x.index == r.index)) ∧
      Keeps [.plan, .tick, .ctrs] s t) ∧
  (∀ s j, Awake s → s.plan.job = some j → lastStep s = true → stepEnded s = true →
    ∃ t, exec .planJobComplete s = .next t ∧ t.plan.job = none ∧ t.plan.replace = none) ∧
  (∀ s st, Awake s → preemptDue (s.tick.count + 1) (advanceJob s) = some st →
    ∃ t, exec .planJobPreempt s = .next t ∧ t.plan.job = none) ∧
  (∀ cause s j, Awake s → s.plan.job = some j →
    ∃ t, exec (.planJobFailure cause) s = .next t ∧ t.plan.job = none ∧ t.plan.replace = none) ∧
  (∀ s j r, Awake s → (advanceJob s).plan.job = some j → (advanceJob s).plan.replace = some r →
    preemptDue (s.tick.count + 1) (advanceJob s) = none → replaceDue (s.tick.count + 1) (advanceJob s) = true →
    ∃ t, exec .planReplaceEffect s = .next t ∧ t.plan.job = some { j with planSet := r.newSet } ∧ t.plan.replace = none)

/-! ### Effects that come due, sessions that end -/

/-- The effect rows apply exactly what is pending, in the form that the boundary sequence also uses. A change of a broadcast that still
awaits the effective tick of its entry module is not due (R412). -/
def Obligations.DueEffectsComplete : Prop :=
  (∀ s n, Awake s → s.culture.commitAt = some n → s.fmw.unfixed.contains 0x0303 = false → n ≤ s.tick.count + 1 →
    exec .cultureCommitEffect s = .next (retireCulture { s with culture := { s.culture with
      activeBank := 1 - s.culture.activeBank, generation := (s.culture.generation + 1) % 256, active := s.culture.shadow,
      shadow := s.culture.active, shadowState := 1, commitAt := none } })) ∧
  (∀ s n, Awake s → s.index.commitAt = some n → s.fmw.unfixed.contains 0x0305 = false → n ≤ s.tick.count + 1 →
    exec .indexCommitEffect s = .next (retireIndex { s with index := { s.index with
      epoch := (s.index.epoch + 1) % 2 ^ 32, active := 1 - s.index.active, shadowState := 1, fill := s.index.shadowFill,
      shadowFill := s.index.fill, inserts := 0, commitAt := none } })) ∧
  (∀ s n period align delay, Awake s → s.tick.next = some (n, period, align, delay) → s.fmw.unfixed.contains 0x0401 = false →
    n ≤ s.tick.count + 1 →
    exec .tickPeriodEffect s = .next { s with tick := { s.tick with
      next := none, period := period, align := align, syncDelay := delay, aligned := s.tick.aligned && align == s.tick.align } }) ∧
  (∀ s n r w m, Awake s → s.fmw.bwNext = some (n, r, w, m) → s.fmw.unfixed.contains 0x0402 = false → n ≤ s.tick.count + 1 →
    exec .bwSplitEffect s = .next { s with fmw := { s.fmw with bw := (r, w, m), bwNext := none } }) ∧
  (∀ s, Awake s →
    (∀ n, s.culture.commitAt = some n → s.fmw.unfixed.contains 0x0303 = true ∨ s.tick.count + 1 < n → exec .cultureCommitEffect s = .next s) ∧
    (∀ n, s.index.commitAt = some n → s.fmw.unfixed.contains 0x0305 = true ∨ s.tick.count + 1 < n → exec .indexCommitEffect s = .next s) ∧
    (∀ n p, s.tick.next = some (n, p) → s.fmw.unfixed.contains 0x0401 = true ∨ s.tick.count + 1 < n → exec .tickPeriodEffect s = .next s) ∧
    (∀ n p, s.fmw.bwNext = some (n, p) → s.fmw.unfixed.contains 0x0402 = true ∨ s.tick.count + 1 < n → exec .bwSplitEffect s = .next s)) ∧
  (∀ s n cap peak order pool, Awake s → s.power.limitsNext = some (n, cap, peak, order, pool) → n ≤ s.tick.count + 1 →
    exec .powerLimitsEffect s = .next { s with power := { s.power with
      sustained := cap, peak := peak, order := order, pool := pool, limitsNext := none, limitsSince := s.tick.count + 1,
      grant := if pool then s.power.grant.map (clampGrant cap) else none } }) ∧
  (∀ s, Awake s → (s.power.wantA2 = true ∨ s.power.d3 = true) → s.power.state ≤ 1 → quietModule s = true →
    exec .a2Entry s = .next (setPowerState 2 (gateVats (upFrom 0 160)
      { s with power := { s.power with wantA2 := false, point := 15, prepared := 15 } }))) ∧
  (∀ s slot n, Awake s → s.fw.live = some (slot, n) → s.fmw.unfixed.contains 0x0602 = false → n ≤ s.tick.count + 1 → s.fmw.parked = [] →
    ∃ t, exec .fwLiveSwap s = .next t ∧ t.fw = { s.fw with live := none } ∧
      t.sec = { s.sec with stages := stagesOf (slotImages s slot) })

/-- The timers of sessions and security (R391, R513, R521, R564). -/
def Obligations.TimersComplete : Prop :=
  (∀ id s, Awake s → exec (.sessionPendingTimeout id) s = .next { s with fmw := { s.fmw with
    sessions := s.fmw.sessions.filter fun x => !(x.id == id && !x.isOpen) } }) ∧
  (∀ id s, Awake s → (∃ x ∈ s.fmw.sessions, x.id = id ∧ x.isOpen = true) → s.sec.token = none →
    let r := raise 0x0001 0 (leBytes 4 id) s
    exec (.sessionExpired id) s =
      .next (serveParked { r with fmw := { r.fmw with sessions := s.fmw.sessions.filter fun x => x.id != id } })) ∧
  (∀ s, Awake s → exec .authLockoutEnd s = .next { s with fmw := { s.fmw with lockout := false, failures := [] } }) ∧
  (∀ s k, Awake s → s.sec.token = some k →
    exec .debugTokenExpiry s = .next (serveParked (if s.sec.level = 3 then resetAtOnce 6 s else dropLevel 2 s))) ∧
  (∀ s d, Awake s → s.fmw.resetDelay = some d → exec .moduleResetDelay s = .next (resetAtOnce 5 s))

/-- R339: operations stop, their records are written, the indices meet. -/
def Obligations.OwnerResetComplete : Prop :=
  ∀ q s st disable, Awake s → s.plan.job = none → (getQ s q).entries ≠ 0 → (getQ s q).reset = some (st, disable) →
    ∃ t, exec (.queueOwnerReset q) s = .next t ∧ (getQ t q).ops = [] ∧ (getQ t q).reset = none ∧
      (getQ t q).head = (getQ t q).done ∧ (getQ t q).tail = (getQ t q).done ∧ (getQ t q).snap = (getQ t q).done ∧
      (getQ t q).mode = if disable then .disabled else .running

/-! ### Management messages -/

/-- Virtual channel 3 (R397, R414, R440, R487) under the authentication of R515. -/
def Obligations.ManagementMessagesComplete : Prop :=
  (∀ a f s, Awake s → Authentic s a → f.effective = none →
    let c : Cmd := { src := .forwarded f.entry f.mailbox, opcode := f.opcode, tagged := false, sequence := f.sequence,
                     target := f.target, session := 0, counter := f.counter, payload := f.payload, rspKey := [] }
    exec (.forwardedCommand a f) s = .next (wake (retireReset (received a s) (targetRun handle payloadCheck c (received a s))))) ∧
  (∀ a f tick s, Awake s → Authentic s a → f.effective = some tick →
    let u := received a s
    let fixed : State := { u with fmw := { u.fmw with unfixed := s.fmw.unfixed.filter (· != f.opcode) } }
    (f.opcode = 0x0303 → s.fmw.unfixed.contains 0x0303 = true → exec (.forwardedCommand a f) s = .next (wake { fixed with
      culture := { s.culture with commitAt := s.culture.commitAt.map fun _ => ownTick s tick } })) ∧
    (f.opcode = 0x0305 → s.fmw.unfixed.contains 0x0305 = true → exec (.forwardedCommand a f) s = .next (wake { fixed with
      index := { s.index with commitAt := s.index.commitAt.map fun _ => ownTick s tick } })) ∧
    (f.opcode = 0x0401 → s.fmw.unfixed.contains 0x0401 = true → exec (.forwardedCommand a f) s = .next (wake { fixed with
      tick := { s.tick with next := s.tick.next.map fun n => (ownTick s tick, n.2) } })) ∧
    (f.opcode = 0x0402 → s.fmw.unfixed.contains 0x0402 = true → exec (.forwardedCommand a f) s = .next (wake { fixed with
      fmw := { fixed.fmw with bwNext := s.fmw.bwNext.map fun n => (ownTick s tick, n.2) } })) ∧
    (f.opcode = 0x0602 → s.fmw.unfixed.contains 0x0602 = true → exec (.forwardedCommand a f) s = .next (wake { fixed with
      fw := { s.fw with live := s.fw.live.map fun n => (n.1, ownTick s tick) } })) ∧
    (f.opcode = 0x0804 → s.plan.job ≠ none → exec (.forwardedCommand a f) s = .next (wake { u with
      plan := { s.plan with replace := some { newSet := u32 f.payload 8, earliest := ownTick s tick } } })) ∧
    (f.opcode ≠ 0x0804 → s.fmw.unfixed.contains f.opcode = false → exec (.forwardedCommand a f) s = .next (wake u))) ∧
  (∀ a src sequence st payload s f, Awake s → Authentic s a →
    (s.fmw.forwards.find? fun f => f.cmd.sequence == sequence && f.awaited.contains src) = some f →
    exec (.forwardedResponse a src sequence st payload) s = .next (settleForward { f with
      awaited := f.awaited.filter (· != src), results := aset f.results src st,
      effective := if f.cmd.target = 0xFF ∧ st = .ok then max f.effective ((payloadTick f.cmd.opcode payload).getD 0) else f.effective
      ownPayload := if f.cmd.target = 0xFF then f.ownPayload else withCounter s f.cmd payload } (received a s))) ∧
  (∀ a ev s, Awake s → Authentic s a → isHead s = true → exec (.eventMessage a ev) s = .next (routeEvent ev (received a s))) ∧
  (∀ a r s, Awake s → Authentic s a → exec (.reachabilityUpdate a r) s = .next (takeReach r (received a s))) ∧
  (∀ a r s, Awake s → Authentic s a → isHead s = true →
    exec (.budgetReport a r) s = .next (sendIncreases (leadRound (modPower (fun p => { p with
      caps := mput p.caps r.module r.capW, reports := (p.reports.filter fun x => x.module != r.module) ++ [r] }) (received a s))))) ∧
  (∀ a watts effective s, Awake s → Authentic s a → s.power.pool = true →
    exec (.grantMsg a watts effective) s = .next (emit (.grantAck (headModule s)) (modPower (fun p => { p with
      grantNext := some (ownTick s effective, watts), lastGrant := s.tick.count, restoreDue := none }) (received a s)))) ∧
  (∀ a src s, Awake s → Authentic s a →
    exec (.grantAcknowledge a src) s = .next (sendIncreases (modPower (fun p => { p with
      awaited := p.awaited.filter (· != src) }) (received a s))))

/-- R515 at the receiver: no content of a message that fails is used. -/
def Obligations.ForgedMessagesRefused : Prop :=
  ∀ (a : MgmtAuth) (s : State), Awake s →
    let refused (c : Instr) := exec c s = .next (portDown a.port 2 (raise 0x0605 2 (leBytes 1 a.port) s))
    let ignored (c : Instr) := exec c s = .next s
    ((getPort s a.port).authed = true →
      (mgmtTag (getPort s a.port).keyRx a.message a.counter ≠ a.tag ∨ a.counter ≤ (getPort s a.port).mgmtRx) →
      (∀ src n st payload, refused (.forwardedResponse a src n st payload)) ∧ (∀ ev, refused (.eventMessage a ev)) ∧
      (∀ r, refused (.reachabilityUpdate a r)) ∧ (∀ r, refused (.budgetReport a r)) ∧ (∀ w e, refused (.grantMsg a w e)) ∧
      (∀ src, refused (.grantAcknowledge a src)) ∧
      (s.tick.windowOpen = true ∨ s.plan.job = none → ∀ f, refused (.forwardedCommand a f))) ∧
    ((getPort s a.port).authed = false →
      (∀ src n st payload, ignored (.forwardedResponse a src n st payload)) ∧ (∀ ev, ignored (.eventMessage a ev)) ∧
      (∀ r, ignored (.reachabilityUpdate a r)) ∧ (∀ r, ignored (.budgetReport a r)) ∧ (∀ w e, ignored (.grantMsg a w e)) ∧
      (∀ src, ignored (.grantAcknowledge a src)) ∧
      (s.tick.windowOpen = true ∨ s.plan.job = none → ∀ f, ignored (.forwardedCommand a f)))

/-! ### Registers -/

/-- The latching reads (R46, R493, R561; a below time counts up to the timebase), and the tails of the event, error and throttle rings (R321, R413, R492). -/
def Obligations.LatchingReadsAndTails : Prop :=
  let lo (n : Nat) : Sent := .regRead (BitVec.ofNat 32 (n % 2 ^ 32))
  let hi (n : Nat) : U32 := BitVec.ofNat 32 (n / 2 ^ 32 % 2 ^ 32)
  (∀ s, Awake s → exec .tickCountLoRead s =
    .next { s with sent := lo s.tick.count :: s.sent, tick := { s.tick with countHi := hi s.tick.count } }) ∧
  (∀ s, Awake s → exec .tickBaseLoRead s =
    .next { s with sent := lo s.tick.base :: s.sent, tick := { s.tick with baseHi := hi s.tick.base } }) ∧
  (∀ s, Awake s → exec .pwrEnergyLoRead s =
    .next { s with sent := lo s.power.energyMj :: s.sent, power := { s.power with energyHi := hi s.power.energyMj } }) ∧
  (∀ reason s, Awake s → 1 ≤ reason → reason ≤ 8 →
    let lost := s.power.lost.getD (reason - 1) 0
    let charged := s.power.below.getD (reason - 1) 0
    let below := if s.power.point ≠ 0 ∧ s.power.belowReason = reason then
        min (2 ^ 64 - 1) (charged + (s.tick.timebase - s.power.belowSince)) else charged
    exec (.thrCountLoRead reason false) s = .next { s with
      sent := lo lost :: s.sent, power := { s.power with lostHi := s.power.lostHi.set (reason - 1) (hi lost) } } ∧
    exec (.thrCountLoRead reason true) s = .next { s with
      sent := lo below :: s.sent, power := { s.power with belowHi := s.power.belowHi.set (reason - 1) (hi below) } }) ∧
  (∀ q s, Awake s → q < 4096 → Sorted s.queues →
    exec (.qeLoRead q) s =
      .next (emit (lo (getQ s q).energy) (setQ q { getQ s q with energyHi := hi (getQ s q).energy } s))) ∧
  (∀ (v : U32) (s : State), Awake s →
    let moved (r : RecRing) : RecRing := { r with tail := if v - r.tail ≤ r.head - r.tail then v else r.tail }
    exec (.evtTailWrite v) s = .next { s with evt := moved s.evt } ∧
    exec (.errTailWrite v) s = .next { s with err := moved s.err } ∧
    exec (.thrTailWrite v) s = .next { s with thr := moved s.thr })

/-- RW, RWL, W1C and RO (R13) on one register of each kind. -/
def Obligations.RegisterWritesComplete : Prop :=
  (∀ v s, Awake s → exec (.registerWrite 0x1400 v) s = .next (wake { s with sticky := s.sticky &&& ~~~v })) ∧
  (∀ (v : U32) s, Awake s →
    exec (.registerWrite 0x1900 v) s = .next (wake (
      if s.memctl.locked then s
      else { s with
        memctl := { s.memctl with interleave := v.toNat % 4, scrubHours := bits v.toNat 15 8 }
        fmw := { s.fmw with settings := { s.fmw.settings with interleave := v.toNat % 4, scrubHours := bits v.toNat 15 8 } } }))) ∧
  (∀ v s, Awake s → exec (.registerWrite 0x19C4 v) s = .next (wake { s with memctl := { s.memctl with injectLo := v } })) ∧
  (∀ (v : U32) s, Awake s → exec (.registerWrite 0x400008 v) s =
    .next (wake { s with err := { s.err with lost := s.err.lost && !v.getLsbD 0 } })) ∧
  (∀ (v : U32) s, Awake s → exec (.registerWrite 0x2000C v) s =
    .next (wake { s with fmw := { s.fmw with evtIrqEn := v.getLsbD 15, evtVector := v.toNat % 2048 } })) ∧
  (∀ m (v : U32) s, Awake s → m ≤ 3 →
    exec (.registerWrite (0x10000 + 0x4000 * m + 4) v) s = .next (wake (modBox m (fun b => { b with
      done := b.done && !v.getLsbD 1, rejected := b.rejected && !v.getLsbD 2 }) s)) ∧
    exec (.registerWrite (0x10000 + 0x4000 * m + 8) v) s = .next (wake (modBox m (fun b => { b with
      irqEn := v.getLsbD 15, vector := v.toNat % 2048 }) s))) ∧
  (∀ c (v : U32) s, Awake s → doorbellsOpen s = true → c ≤ 0xFFFF →
    exec (.registerWrite (0x200000 + 16 * c + 12) v) s = .next (wake (setC c { getC s c with
      errState := (getC s c).errState && !v.getLsbD 2, errOverflow := (getC s c).errOverflow && !v.getLsbD 1,
      errUnderflow := (getC s c).errUnderflow && !v.getLsbD 0 } s))) ∧
  (∀ off v s, Awake s → (off % 4 ≠ 0 ∨ off < 0x1400 ∨ (0x2000 ≤ off ∧ off < 0x10000)) →
    exec (.registerWrite off v) s = .next (wake s)) ∧
  (∀ (v : U32) s, Awake s → exec (.errInjectWrite v) s = .next { s with memctl := { s.memctl with
    inject :=
      if v.getLsbD 31 = true ∧ s.sec.level < 2 then s.memctl.inject ||| 0x40000000#32
      else (v &&& 0x8FFFFF03#32) ||| (if v.getLsbD 30 then 0 else s.memctl.inject &&& 0x40000000#32) } })

/-- R383: the register's two fields, their saturation, its access and its reset value. -/
def Obligations.CounterSummary : Prop :=
  (∀ s : State,
    bits (readReg s 0x1A40).toNat 30 16 = min 32767 (s.ctrs.filter fun e => e.2.mode == .poisoned).length ∧
    bits (readReg s 0x1A40).toNat 15 0 = min 65535 (s.ctrs.filter fun e => e.2.mode == .claimed).length ∧
    bits (readReg s 0x1A40).toNat 31 31 = 0) ∧
  (∀ (v : U32) (s : State), writeReg 0x1A40 v s = s) ∧
  readReg State.reset 0x1A40 = 0

/-- R387. `boxWrite` is the register write of the mailbox window. -/
def Obligations.SmbusComplete : Prop :=
  (∀ off s, Awake s → boxServes s 4 = true → off % 4 = 0 → off ≤ 0x3FFC →
    exec (.smbusWriteWord off true) s = .next { s with sent := .smbusAck :: s.sent, fmw := { s.fmw with smbusOffset := off } }) ∧
  (∀ data s, Awake s → boxServes s 4 = true → 4 ≤ data.length → data.length ≤ 32 → data.length % 4 = 0 →
    smbusWritable s.fmw.smbusOffset data.length = true →
    exec (.smbusBlockWrite data true) s = .next (wake ((List.range (data.length / 4)).foldl
      (fun u k => boxWrite 4 (s.fmw.smbusOffset + 4 * k) (BitVec.ofNat 32 (u32 data (4 * k))) u)
      { s with sent := .smbusAck :: s.sent, fmw := { s.fmw with smbusOffset := s.fmw.smbusOffset + data.length } }))) ∧
  (∀ s, Awake s → boxServes s 4 = true → s.fmw.smbusOffset ≤ 0x3FFC →
    exec (.smbusBlockRead true) s = .next { s with
      sent := .smbusData ((List.range 8).flatMap fun k => leBytes 4 (boxWord s 4 (s.fmw.smbusOffset + 4 * k))) :: s.sent
      fmw := { s.fmw with smbusOffset := s.fmw.smbusOffset + 32 } }) ∧
  (∀ off data pec s, Awake s → (pec = false ∨ boxServes s 4 = false) →
    exec (.smbusWriteWord off pec) s = .next { s with sent := .smbusNak :: s.sent } ∧
    exec (.smbusBlockWrite data pec) s = .next (wake { s with sent := .smbusNak :: s.sent }) ∧
    exec (.smbusBlockRead pec) s = .next { s with sent := .smbusNak :: s.sent })

/-! ### The power controller -/

/-- Estimation and the emergency causes inside a tick (R473, R481-R483). -/
def Obligations.PowerEventsComplete : Prop :=
  (∀ e a b uj projected s, Awake s →
    ∃ t, exec (.powerEstimate e a b uj projected) s = .next t ∧ t.power.estimateMw = e + s.power.guardMw ∧
      t.power.avg1ms = a / 1000 ∧ t.power.avg1s = b / 1000 ∧
      t.power.energyNj = (s.power.energyNj + 2 * (e + s.power.guardMw)) % 1000000 ∧
      t.power.energyMj = sat64 s.power.energyMj ((s.power.energyNj + 2 * (e + s.power.guardMw)) / 1000000)) ∧
  (∀ estimate (pout : List Nat) s, Awake s →
    let total := pout.sum
    let diff := (estimate - total) + (total - estimate)
    exec (.estimateCompare estimate (pout.map some)) s = .next (
      if total * 4 < diff * 100 then
        raise 0x0508 1 (leBytes 2 estimate ++ leBytes 2 total)
          { s with power := { s.power with guardMw := s.power.guardMw + diff * 1000 } }
      else s)) ∧
  (∀ rs s, Awake s → (∀ r ∈ rs, r.celsius + 3 ≤ (sensorLimits r.cls).1) →
    exec (.sensorRead rs) s = .next { s with power := { s.power with readings := rs, thermal := false } }) ∧
  (∀ rs r s, Awake s → (∀ x ∈ rs, x.celsius < (sensorLimits x.cls).2) →
    (rs.find? fun x => decide ((sensorLimits x.cls).1 < x.celsius)) = some r → s.power.thermal = false →
    exec (.sensorRead rs) s = .next (raise 0x0503 1 (sensorDetail r)
      { s with power := { s.power with readings := rs, thermal := true } })) ∧
  (∀ s, Awake s → (∃ r ∈ s.power.readings, (sensorLimits r.cls).1 < r.celsius) → s.power.point < 15 →
    exec .thermalStep s = .next (lowerPoint (s.power.point + 1) 4 s.tick.timebase s)) ∧
  (∀ now s, Awake s → s.start.fwReady = true → s.power.state ≠ 3 → s.power.alert = false →
    exec (.pwrAlertAssert now []) s = .next (raise 0x0501 1 [] (lowerPoint 15 5 now { s with
      power := { s.power with alert := true, alertSince := now, alertHold := false }
      tick := { s.tick with timebase := max s.tick.timebase now } }))) ∧
  (∀ now s, Awake s → s.power.alert = true →
    exec (.pwrAlertDeassert now) s = .next (raise 0x0502 0 (leBytes 8 (now - s.power.alertSince)) { s with
      power := { s.power with alert := false, alertHold := true }
      tick := { s.tick with timebase := max s.tick.timebase now } })) ∧
  (∀ s, Awake s → exec .alertHoldEnd s = .next { s with power := { s.power with alertHold := false } }) ∧
  (∀ domain now s, Awake s →
    exec (.droopTrip domain now) s = .next { s with
      power := { s.power with droops := s.power.droops.modify domain fun d =>
        { d with since := if d.since.isSome then d.since else some now, active := true } }
      tick := { s.tick with timebase := max s.tick.timebase now } }) ∧
  (∀ domain now d since s, Awake s → s.power.droops[domain]? = some d → d.since = some since →
    exec (.droopStretchEnd domain now) s = .next { s with
      power := { s.power with droops := s.power.droops.set domain { d with since := none, added := d.added + (now - since) / 2 } }
      tick := { s.tick with timebase := max s.tick.timebase now } }) ∧
  (∀ domain s, Awake s →
    exec (.droopResponseEnd domain) s = .next { s with power := { s.power with
      droops := s.power.droops.modify domain fun d => { d with active := d.since.isSome } } })

/-- R471: an emergency lowering inside a tick. -/
def Obligations.EmergencyLowersPoint : Prop :=
  ∀ (pt reason now : Nat) (s : State),
    (pt ≤ s.power.point → lowerPoint pt reason now s = s) ∧
    (s.power.point < pt →
      let t := lowerPoint pt reason now s
      t.power.point = pt ∧ t.power.belowReason = reason ∧ t.tick.lowest = max s.tick.lowest pt ∧
      t.tick.allAdmitted = (s.tick.allAdmitted && (variantInForce s).all fun v => admits v (self s) pt) ∧
      t.power.prepared = s.power.prepared ∧ Keeps [.power, .tick] s t)

/-- The power budget and the PCI power states (R487, R488, R491). -/
def Obligations.BudgetEventsComplete : Prop :=
  (∀ average slack forced s, Awake s → s.power.pool = true →
    let r : BudgetReport := { module := self s, capW := s.power.sustained, averageW := average, slackMilli := slack, forced := forced }
    exec (.budgetRound average slack forced) s = .next (
      if isHead s then noteReport r s else { s with sent := .budgetReport (headModule s) r :: s.sent })) ∧
  (∀ s, Awake s → s.power.pool = true → isHead s = false →
    (s.fabric.lost.contains (headModule s) = true ∨ s.power.lastGrant + 64 ≤ s.tick.count) →
    exec .budgetLeadLost s = .next (raise 0x0506 1 (leBytes 1 (headModule s)) { s with power := { s.power with
      grantNext := if s.power.sustained < effectiveCap s then some (s.tick.count + 1, s.power.sustained) else none
      restoreDue := if effectiveCap s < s.power.sustained then some (s.tick.timebase + 10000000) else none
      lastGrant := s.tick.count } })) ∧
  (∀ s n, Awake s → s.power.restoreDue = some n →
    exec .grantRestore s = .next { s with power := { s.power with grant := none, restoreDue := none } }) ∧
  (∀ s, Awake s → s.power.state ≠ 3 → exec .d3hotEntry s = .next { s with power := { s.power with d3 := true } }) ∧
  (∀ s, Awake s →
    let back := { s with power := { s.power with d3 := false } }
    exec .d0Return s = .next (if s.power.state = 2 then setPowerState 0 back else back))

/-! ### Units and memory protection -/

/-- Drain, return, test and ageing (R535, R536, R541); the port forms differ by their routes and have their own rows of R446. -/
def Obligations.UnitEventsComplete : Prop :=
  (∀ u s, Awake s → u.cls ≠ 5 → (getSvc s u).pend = 1 →
    exec (.unitDrainEffect u) s = .next (setSvcState u 1 (setSvc u { getSvc s u with pend := 0 } s))) ∧
  (∀ u s, Awake s → u.cls ≠ 5 → (getSvc s u).state = 1 → unitIdle s u = true →
    let drained := setSvcState u 2 s
    exec (.unitDrained u) s = .next (finishUnitCmd 0x0801 u .ok (if u.cls = 0 then gateVats [u.num] drained else drained))) ∧
  (∀ u stage s, Awake s → u.cls ≠ 5 → (getSvc s u).pend = 3 →
    let due := setSvc u { getSvc s u with pend := 2 } (testRewrites u s)
    exec (.unitTestComplete u true stage) s = .next (finishUnitCmd 0x0802 u .ok
      (if u.cls = 1 then modEngine u.num (fun e => { e with offline := false }) due else due)) ∧
    exec (.unitTestComplete u false stage) s = .next (finishUnitCmd 0x0802 u .uncorrectable
      (suspect u 2 (raise 0x0702 2 (leBytes 1 u.cls ++ leBytes 1 stage ++ leBytes 2 u.num)
        (setSvcState u 3 (setSvc u { getSvc s u with pend := 0 } (testRewrites u s))))))) ∧
  (∀ u s, Awake s → u.cls ≠ 5 → (getSvc s u).pend = 2 →
    exec (.unitReturnEffect u) s = .next (setSvcState u 0 (setSvc u { getSvc s u with pend := 0, suspect := false } s))) ∧
  (∀ n s, Awake s → (getEngine s n).offline = true →
    exec (.tableSramRewrite n) s = .next (wake (modEngine n (fun e => { e with offline := false }) s))) ∧
  (∀ vat step s, Awake s → vat < 160 → step < vatMax s vat →
    (plannedAbove s vat step = false → exec (.vatAgeingCheck vat step) s = .next { s with
      ageing := (s.ageing.filter fun x => x.vat != vat) ++ [{ vat := vat, step := step, deadline := 0, due := true }] }) ∧
    (plannedAbove s vat step = true → (s.ageing.find? fun a => a.vat == vat) = none →
      exec (.vatAgeingCheck vat step) s = .next (ageingEvent vat step 1 720 { s with
        ageing := (s.ageing.filter fun x => x.vat != vat) ++
          [{ vat := vat, step := step, deadline := s.tick.timebase + 720 * 3600000000000, due := false }] }))) ∧
  (∀ vat s, Awake s → exec (.vatAgeingDeadline vat) s = .next { s with
    ageing := s.ageing.map fun a => if a.vat = vat then { a with due := true } else a })

/-- R312, R313, R317 at the scrubber. -/
def Obligations.ScrubsComplete : Prop :=
  (∀ s, Awake s → scrubs s = true → s.memctl.scrubNext + 1 < hbmWords → s.poison.contains s.memctl.scrubNext = false →
    mget s.memctl.latent s.memctl.scrubNext = none → Sorted s.memctl.latent →
    let w := s.memctl.scrubNext
    let stack := stackOf s.memctl.active (w * 32)
    exec (.hbmScrub none) s = .next { s with memctl := { s.memctl with scrubNext := w + 1 } } ∧
    (∀ symbol, ∃ t, exec (.hbmScrub (some { word := w, symbols := 1, symbol := symbol })) s = .next t ∧
      t.memctl.scrubNext = w + 1 ∧ mgetD t.memctl.ce stack 0 = satAdd (2 ^ 32 - 1) (mgetD s.memctl.ce stack 0) 1 ∧
      mget t.memctl.latent w = none ∧ t.poison = s.poison ∧ t.hbm = s.hbm) ∧
    (∀ symbol, ∃ t, exec (.hbmScrub (some { word := w, symbols := 2, symbol := symbol })) s = .next t ∧
      t.memctl.scrubNext = w + 1 ∧ mgetD t.memctl.uncorr stack 0 = satAdd 0xFFFF (mgetD s.memctl.uncorr stack 0) 1 ∧
      mget t.memctl.latent w = none ∧ t.poison = sadd s.poison w ∧ t.hbm = s.hbm)) ∧
  (∀ source unit offset s, Awake s → s.power.state ≤ 1 → 1 ≤ source → source ≤ 7 → (source = 1 → s.start.vatsOn = true) → 32 ≤ offset →
    s.memctl.sramLatent = [] → armedFor s source unit (offset / 32 * 32) = none →
    exec (.sramScrub source unit offset 0 0) s = .next (wake s))

/-! ### Resets, start-up and the test access port -/

/-- Cleared says what is lost and kept (R563). Fuses, host memory, the waiting commands and the reset count stay. -/
def Obligations.ResetsClearTheModule : Prop :=
  (∀ s rail, rail = 12 ∨ rail = 13 → ∃ t, exec .powerOn s = .next t ∧ exec (.alwaysOnRailLoss rail) s = .next t ∧
    Cleared s t ∧ t.start.inReset = true ∧ t.start.cause = 0 ∧ t.start.count = 0 ∧ t.start.resetLow = true ∧ t.start.perstLow = true ∧
    t.tick.timebase = 0) ∧
  (∀ s, s.start.inReset = false → s.start.resetLow = false → s.start.perstLow = false →
    (∃ t, exec .pinReset s = .next t ∧ HeldReset 1 s t ∧ t.start.resetLow = true ∧ t.start.perstLow = false) ∧
    (∃ t, exec .conventionalReset s = .next t ∧ HeldReset 2 s t ∧ t.start.resetLow = false ∧ t.start.perstLow = true)) ∧
  (∀ s, s.start.inReset = true →
    (s.start.resetLow = false →
      exec .pinReset s = .next { s with start := { s.start with cause := 1, resetLow := true } }) ∧
    (s.start.perstLow = false → exec .conventionalReset s = .next { s with start := { s.start with perstLow := true } })) ∧
  (∀ s, (s.start.resetLow = true → exec .pinReset s = .next s) ∧ (s.start.perstLow = true → exec .conventionalReset s = .next s)) ∧
  (∀ rail kind word s, s.start.inReset = false → s.start.brownOut = false → s.start.railsOn = true → rail ≤ 11 → kind ≤ 1 →
    ∃ t, exec (.brownOut rail kind word) s = .next t ∧ HeldReset 1 s t ∧ t.start.brownOut = true ∧
      t.start.railValid = true ∧ t.start.rail = rail ∧ t.start.railKind = kind ∧
      t.start.railCount = min 65535 (s.start.railCount + 1)) ∧
  (∀ s, s.start.inReset = false → s.cxl.protocols ≠ 0 →
    (∃ t, exec .cxlHotReset s = .next t ∧ Restarts 3 s t) ∧ (∃ t, exec .cxlReset s = .next t ∧ Restarts 4 s t)) ∧
  (∀ s, Awake s → s.sec.halted = 0 → 5 ≤ s.start.seq → s.sec.recovery = false →
    ∃ t, exec .watchdogTimeout s = .next t ∧ Restarts 8 s t)

/-- R557, step by step. `starting` says that the sequence runs. -/
def Obligations.StartUpSteps : Prop :=
  (∀ s, s.start.inReset = true → s.start.brownOut = false →
    ∃ t, exec .startOrigin s = .next t ∧ t.start.inReset = false ∧ t.start.seq = 4 ∧ t.start.resetLow = false ∧
      t.start.perstLow = false ∧ t.cxl.crs = true ∧ Keeps [.start, .sent, .sec, .fw, .evt, .fmw, .cxl] s t) ∧
  (∀ s, s.start.inReset = true → s.start.brownOut = true → s.start.resetLow = false → s.start.perstLow = false →
    ∃ t, exec .brownOutRecovery s = .next t ∧ t.start.inReset = false ∧ t.start.seq = 4 ∧ t.start.brownOut = false ∧
      t.cxl.crs = true ∧ Keeps [.start, .sent, .sec, .fw, .evt, .fmw, .cxl] s t) ∧
  (∀ s, Awake s → starting s = true → s.start.seq = 4 →
    (slotFails s s.fuses.rollback (slotRec s s.sec.bootSlot) = none →
      exec .hubCoresRunMehrore s = .next (advanceStart { s with start := { s.start with seq := 5 } })) ∧
    (∀ f, slotFails s s.fuses.rollback (slotRec s s.sec.bootSlot) = some f →
      (s.sec.fallback = true ∨ slotFails s s.fuses.rollback (slotRec s (1 - s.sec.bootSlot)) ≠ none) →
      exec .hubCoresRunMehrore s = .next { s with
        sec := { s.sec with recovery := true }
        cxl := { s.cxl with width := 0, rate := 0, protocols := 0, reduced := false } })) ∧
  (∀ s, Awake s → starting s = true → s.start.trained < 12 →
    exec (.hbmStackTrained s.start.trained true) s =
      .next (advanceStart { s with start := { s.start with trained := s.start.trained + 1, attempts := 0 } }) ∧
    (s.start.attempts = 0 →
      exec (.hbmStackTrained s.start.trained false) s = .next { s with start := { s.start with attempts := 1 } }) ∧
    (s.start.attempts ≠ 0 → ∃ t, exec (.hbmStackTrained s.start.trained false) s = .next t ∧ t.start.failed = true ∧
      t.cxl.crs = false ∧ Keeps [.start, .cxl, .err, .evt, .fmw, .sent, .free] s t)) ∧
  (∀ s, Awake s → starting s = true → s.start.initialised < s.start.trained →
    ∃ t, exec (.hbmStackInitialised s.start.initialised) s = .next t ∧ t.start.initialised = s.start.initialised + 1 ∧
      (∀ a, bget t.hbm a = if stackOf s.memctl.active a = s.start.initialised then 0 else bget s.hbm a) ∧
      (∀ w, t.poison.contains w = (s.poison.contains w && stackOf s.memctl.active (w * 32) != s.start.initialised)) ∧
      Keeps [.hbm, .poison, .memctl, .start] s t) ∧
  (∀ ms s, Awake s → starting s = true → s.start.seq = 7 →
    (∃ t, exec (.firmwareReady ms []) s = .next t ∧ t.start.fwReady = true ∧ t.start.seq = 9 ∧ t.start.readyMs = min 65535 ms ∧
      t.start.vatsOn = true ∧ t.cxl.crs = false ∧ Keeps [.start, .cxl, .fmw, .evt, .sent, .tick] s t) ∧
    (isHead s = true → s.sec.halted ≠ 7 → s.fw.live = none → s.fmw.heldLost = 0 →
      let ready : State := { s with
        start := { s.start with seq := 9, vatsOn := true, fwReady := true, readyMs := min 65535 ms }
        cxl := { s.cxl with crs := false }
        fmw := { s.fmw with heldEvents := [] } }
      let first : Event := { code := 0x0710, severity := 0, module := self s, tick := s.tick.count,
                             detail := leBytes 1 s.start.cause ++ [0] ++ leBytes 2 (min 65535 ms) ++ leBytes 8 s.start.incarnation }
      let told := s.fmw.heldEvents.foldl (fun u e => writeEvent e u) (writeEvent first ready)
      exec (.firmwareReady ms []) s =
        .next (noteLinks { told with tick := { s.tick with placed := true, last := s.tick.timebase } }))) ∧
  (∀ s, Awake s → s.start.fwReady = true → s.fabric.groupNext < 6 → s.fabric.ports.length = 24 →
    ∃ t, exec .portGroupStart s = .next t ∧ t.fabric.groupNext = s.fabric.groupNext + 1 ∧
      (∀ p, p < 24 → bit s.fabric.topology.portMask p = true → p / 4 = s.fabric.groupNext → (getPort s p).state = 0 →
        (getPort t p).state = 2) ∧
      (∀ p, (bit s.fabric.topology.portMask p = false ∨ p / 4 ≠ s.fabric.groupNext ∨ (getPort s p).state ≠ 0) →
        getPort t p = getPort s p) ∧
      Keeps [.fabric, .sent, .start, .evt, .fmw, .cxl] s t) ∧
  (∀ rail word s, Awake s → starting s = true → rail ≤ 11 → s.start.trained = 0 →
    ∃ t, exec (.railPowerGoodTimeout rail word) s = .next t ∧ t.start.failed = true ∧ t.cxl.crs = false ∧
      t.err = s.err.push 1024 (errBytes s.tick.count s.err.head
        { type := 0x0010, severity := 3, source := 8, unit := rail, status := 0, address := 0, queue := 0xFFFFFFFF, tag := 0,
          symbols := 0, symbol := 0xFF, flags := 0, detail := leBytes 2 word }) ∧
      Keeps [.start, .cxl, .err, .evt, .fmw, .sent] s t)

/-- R522, R528 and R529. The sampled pins are free values. -/
def Obligations.TapAndCoreControl : Prop :=
  (∀ tdi s, s.sec.scanned = false → exec (.tapBypass tdi) s = .next { s with sent := .tdo [s.start.bypass] :: s.sent, start := { s.start with bypass := tdi } }) ∧
  (∀ s, s.sec.scanned = false → ∃ n, n / 2 ^ 28 = 1 ∧ n / 2 ^ 12 % 2 ^ 16 = 0x0B20 ∧ n % 2 = 1 ∧
    exec .tapIdcode s = .next { s with sent := .tdo (lowBits 32 n) :: s.sent }) ∧
  (∀ preload s, s.sec.scanned = false → ∃ out : List Bool, out.length = preload.length ∧ exec (.tapSamplePreload preload) s = .next { s with
    sent := .tdo out :: s.sent, start := { s.start with boundary := preload }, free := s.free + preload.length }) ∧
  (∀ s, s.sec.scanned = false → exec .tapExtest s =
    .next (if s.start.resetLow then { s with sent := .pins s.start.boundary :: s.sent } else s)) ∧
  (∀ tdi preload s, s.sec.scanned = true →
    ∀ c ∈ [Instr.tapBypass tdi, .tapIdcode, .tapSamplePreload preload, .tapExtest, .tapScan], exec c s = .next s) ∧
  (∀ s, Awake s → exec .tapScan s =
    .next (if s.sec.level = 3 ∧ s.power.state ≤ 1 then { s with sec := { s.sec with scanned := true } } else s)) ∧
  (∀ a s, Awake s → s.sec.level = 3 → s.power.state ≠ 3 →
    (a < 768000000000 → s.poison.contains (a / 32) = false → mget s.memctl.latent (a / 32) = none →
      exec (.tapMemoryAccess a none) s = .next { s with sent := .tapByte (bget s.hbm a) :: s.sent }) ∧
    (∀ b, a < 768000000000 → Canonical s → Correctable s → ∃ t, exec (.tapMemoryAccess a (some b)) s = .next t ∧
      (∀ a', bget t.hbm a' = if a' = a then b else bget s.hbm a') ∧
      Keeps [.hbm, .poison, .memctl, .err, .evt, .fmw, .cxl, .sent, .free, .svc] s t) ∧
    (∀ w, 768000000000 ≤ a → exec (.tapMemoryAccess a w) s = .fault .noMemory)) ∧
  (∀ a w s, s.sec.level ≠ 3 → exec (.tapMemoryAccess a w) s = .next s) ∧
  (∀ (v : U32) s, Awake s →
    (2 ≤ s.sec.level → s.power.state ≠ 3 → exec (.dbgCoreStep v) s = .next { s with sec := { s.sec with
      instrs := (List.range 3).map fun n => s.sec.instrs.getD n 0 + (if v.getLsbD (4 + n) && bit s.sec.halted n then 1 else 0) } }) ∧
    (2 ≤ s.sec.level → s.power.state ≠ 3 →
      exec (.dbgCoreHalt v) s = .next (serveParked { s with sec := { s.sec with halt := v.toNat % 8, halted := v.toNat % 8 } })) ∧
    (s.sec.level < 2 ∨ s.power.state = 3 →
      exec (.dbgCoreStep v) s = .next { s with sec := { s.sec with denied := true } } ∧
      exec (.dbgCoreHalt v) s = .next (serveParked { s with sec := { s.sec with denied := true } })))

/-! ### The CXL port -/

/-- R456 to R458. The fault outside the window is the model's (notes/assumptions/19.md). -/
def Obligations.CxlMemoryAccess : Prop :=
  (∀ base size hpa len s, Awake s → s.cxl.hdm = some (base, size) → s.cxl.protocols = 2 → s.start.memActive = true →
    base ≤ hpa → hpa + len ≤ base + size →
    let a := 0x0072D05E0000 + (hpa - base)
    ((∀ w, w ∈ wordsOf a len → s.poison.contains w = false ∧ mget s.memctl.latent w = none) →
      exec (.cxlMemRead hpa len) s = .next { s with sent := .memData (bread s.hbm a len) false :: s.sent }) ∧
    (∃ t bad before, exec (.cxlMemRead hpa len) s = .next t ∧ t.sent = .memData (bread t.hbm a len) bad :: before ∧
      Keeps [.hbm, .poison, .memctl, .err, .evt, .fmw, .cxl, .sent, .free] s t)) ∧
  (∀ base size hpa data poison s, Awake s → Canonical s → s.cxl.hdm = some (base, size) → s.cxl.protocols = 2 →
    s.start.memActive = true → base ≤ hpa → hpa + data.length ≤ base + size →
    let a := 0x0072D05E0000 + (hpa - base)
    ∃ t before, exec (.cxlMemWrite hpa data poison) s = .next t ∧ t.sent = .memDone :: before ∧
      (∀ i, i < data.length → bget t.hbm (a + i) = data.getD i 0) ∧
      (Correctable s → ∀ j, (j < a ∨ a + data.length ≤ j) → bget t.hbm j = bget s.hbm j) ∧
      (∀ w, a ≤ w * 32 → w * 32 + 32 ≤ a + data.length → t.poison.contains w = poison) ∧
      t.cxl.poisonIn = (if poison then min 255 (s.cxl.poisonIn + 1) else s.cxl.poisonIn) ∧
      Keeps [.hbm, .poison, .memctl, .err, .evt, .fmw, .cxl, .sent, .free] s t) ∧
  (∀ hpa len data poison s, Awake s → s.cxl.protocols ≠ 0 → data.length = len →
    (s.cxl.hdm = none ∨ s.cxl.protocols ≠ 2 ∨ s.start.memActive = false ∨
      (∃ base size, s.cxl.hdm = some (base, size) ∧ (hpa < base ∨ base + size < hpa + len))) →
    exec (.cxlMemRead hpa len) s = .fault .noMemory ∧ exec (.cxlMemWrite hpa data poison) s = .fault .noMemory) ∧
  (∀ hpa len data poison s, s.cxl.protocols = 0 →
    exec (.cxlMemRead hpa len) s = .next s ∧ exec (.cxlMemWrite hpa data poison) s = .next s)

/-- The port's own rows. Each premise is on the link's state and the operands alone. -/
def Obligations.CxlPortEvents : Prop :=
  (∀ lanes gts s, Awake s → isHead s = true → 2 ≤ s.start.seq → s.power.state ≠ 3 → s.sec.recovery = false → 8 ≤ gts →
    (4 ≤ lanes → ∃ t, exec (.cxlLinkTrained lanes gts) s = .next t ∧
      t.cxl.width = (if 16 ≤ lanes then 3 else if 8 ≤ lanes then 2 else 1) ∧
      t.cxl.rate = (if 32 ≤ gts then 2 else if 16 ≤ gts ∧ 8 ≤ lanes then 1 else 0) ∧
      t.cxl.protocols = (if s.cxl.protocols = 0 then 2 else s.cxl.protocols) ∧ t.cxl.linkDowns = s.cxl.linkDowns ∧
      Keeps [.cxl, .evt, .fmw, .sent] s t) ∧
    (lanes < 4 → ∃ t, exec (.cxlLinkTrained lanes gts) s = .next t ∧ t.cxl.width = 0 ∧ t.cxl.protocols = 0 ∧
      t.cxl.linkDowns = (if s.cxl.protocols = 0 then s.cxl.linkDowns else min 15 (s.cxl.linkDowns + 1)) ∧
      Keeps [.cxl, .evt, .fmw, .sent] s t)) ∧
  (∀ s, Awake s → s.cxl.protocols ≠ 0 →
    ∃ t, exec .reducedModeEntry s = .next t ∧ t.cxl.protocols = 1 ∧ t.cxl.reduced = true ∧
      (∀ q, (getQ s q).mode = .running → (inHost (getQ s q).ring || inHost (getQ s q).comp) = true →
        (getQ t q).mode = .stopped ∧ (getQ t q).lastStop = .hostUnreachable) ∧
      (∀ q, (getQ s q).mode ≠ .running ∨ (inHost (getQ s q).ring || inHost (getQ s q).comp) = false → getQ t q = getQ s q) ∧
      Keeps [.cxl, .queues, .evt, .fmw, .sent] s t) ∧
  (∀ cause s, Awake s → s.cxl.protocols ≠ 0 →
    ∃ t, exec (.cxlLinkDown cause) s = .next t ∧ t.cxl.protocols = 0 ∧ t.cxl.width = 0 ∧ t.cxl.reduced = false ∧
      t.cxl.hdm = s.cxl.hdm ∧ t.cxl.linkDowns = min 15 (s.cxl.linkDowns + 1) ∧ Keeps [.cxl, .evt, .fmw, .sent] s t) ∧
  (∀ a s, Awake s → s.cxl.protocols = 2 → exec (.cxlSnoop a) s = .next { s with sent := .snoopRsp a :: s.sent }) ∧
  (∀ offset w s, Awake s → s.cxl.protocols ≠ 0 → s.cxl.crs = true →
    exec (.configRequest offset w) s = .next { s with sent := .configDone true 0 :: s.sent }) ∧
  (∀ offset (v : U32) s, Awake s → s.cxl.protocols ≠ 0 → s.cxl.crs = false →
    (∃ x, exec (.configRequest offset none) s = .next { s with sent := .configDone false x :: s.sent } ∧
      (offset = 0 → x.toNat / 65536 = 0x0B20) ∧ (offset = 8 → x = 0x120000B0#32)) ∧
    (∃ t before, exec (.configRequest offset (some v)) s = .next t ∧ t.sent = .configDone false 0 :: before ∧
      (offset = 4 → t.cxl = { s.cxl with memSpace := v.getLsbD 1, busMaster := v.getLsbD 2 }) ∧ Keeps [.cxl, .sent] s t)) ∧
  (∀ base size ways skip s, Awake s → s.cxl.protocols ≠ 0 →
    exec (.hdmDecoderCommit base size ways skip) s = .next (
      if base % 2 ^ 28 = 0 ∧ size % 2 ^ 28 = 0 ∧ size ≤ 2 ^ 38 ∧ ways = 1 ∧ skip = 0
      then { s with cxl := { s.cxl with hdm := some (base, size) } }
      else { s with sent := .commitError :: s.sent })) ∧
  (∀ q idx hpa now o s, Awake s → getOp s q idx = some o → (o.phase = .running ∨ o.phase = .blocked) →
    ∃ t o', exec (.hostRequestTimeout q idx false hpa now) s = .next t ∧ getOp t q idx = some o' ∧ o'.phase = .done ∧
      o'.status = .hostUnreachable ∧ t.cxl.timeouts = min 65535 (s.cxl.timeouts + 1)) ∧
  (∀ q idx hpa now s, Awake s → (getQ s q).mode = .running →
    ∃ t, exec (.hostRequestTimeout q idx true hpa now) s = .next t ∧ (getQ t q).mode = .stopped ∧
      (getQ t q).lastStop = .hostUnreachable ∧ (getQ t q).fetched = [] ∧ t.cxl.timeouts = min 65535 (s.cxl.timeouts + 1) ∧
      Keeps [.tick, .queues, .cxl, .evt, .fmw, .sent] s t) ∧
  (∀ v s, Awake s → v < 2048 →
    let e := { mgetD s.cxl.table v MsixEntry.off with masked := false }
    (s.cxl.pendingBits = [] ∨ s.cxl.functionMask = true →
      exec (.msixUnmask v) s = .next { s with cxl := { s.cxl with table := mput s.cxl.table v e } }) ∧
    (s.cxl.pendingBits = [v] → s.cxl.functionMask = false → e.address ≠ 0 →
      exec (.msixUnmask v) s = .next { s with
        sent := .msix v e.address e.data :: s.sent
        cxl := { s.cxl with table := mput s.cxl.table v e, pendingBits := [] } }))

/-- R465. A queue that is enabled takes its owner reset first, as OwnerResetComplete states for QUEUE_OWNER_RESET. -/
def Obligations.FunctionLevelReset : Prop :=
  (∀ s, Awake s → isHead s = true → s.cxl.protocols ≠ 0 →
    ∃ t, exec .flr s = .next t ∧ t.cxl.flrCount = min 255 (s.cxl.flrCount + 1) ∧ t.cxl.table = [] ∧ t.cxl.pendingBits = [] ∧
      t.cxl.functionMask = false ∧ t.cxl.busMaster = false ∧ t.cxl.memSpace = false ∧ t.cxl.protocols = s.cxl.protocols ∧
      t.cxl.hdm = s.cxl.hdm ∧ t.packages = s.packages ∧ t.fuses = s.fuses ∧ t.tick.count = s.tick.count) ∧
  (∀ s, Awake s → isHead s = true → s.cxl.protocols ≠ 0 → s.plan.job = none →
    (∀ q, (getQ s q).mode = .disabled) →
    ∃ t, exec .flr s = .next t ∧ t.rings = [] ∧ t.err = { s.err with tail := s.err.head } ∧ t.evt.tail = s.evt.head ∧
      (∀ m, m < 4 → (getBox t m).busy = false ∧ (getBox t m).done = false ∧ (getBox t m).rejected = false) ∧
      getBox t 4 = getBox s 4 ∧ t.fmw.sessions = s.fmw.sessions ∧
      Keeps [.rings, .err, .evt, .fmw, .cxl, .sent] s t)

/-! ### The fabric -/

/-- R434, R435, R369 and R441 at the target. The answer of kind 8 completes a write, 9 carries read data, 10 a counter's result. -/
def Obligations.FabricRequestsServed : Prop :=
  (∀ (light : Bool) m data bad s, Awake s → Canonical s → fromModule s m.src = true → m.reissue = false →
    let row : Instr := if light then .lightWrite m data bad else .writeRequest m data bad
    (requestOk m (if light then 256 else 4096) = true →
      ∃ u before, exec row s = .next (wake u) ∧
        u.sent = .answer 8 m.src m.txid false (if bad = [] then .ok else .poisonedData) [] [] :: before ∧
        (∀ i, i < m.length → data.length ≤ m.length → bget u.hbm (m.address + i) = data.getD i 0) ∧
        (Correctable s → ∀ j, (j < m.address ∨ m.address + m.length ≤ j) → data.length ≤ m.length → bget u.hbm j = bget s.hbm j) ∧
        (u.fabric.records.any fun r => r.src == m.src && r.txid == m.txid && r.done) = true ∧
        Keeps [.hbm, .poison, .memctl, .err, .evt, .fmw, .cxl, .sent, .fabric, .free] s u) ∧
    (requestOk m (if light then 256 else 4096) = false →
      ∃ u, exec row s = .next (wake u) ∧ u.sent = .answer 8 m.src m.txid false .invalidArgument [] [] :: s.sent ∧
        Keeps [.sent, .fabric] s u)) ∧
  (∀ (light : Bool) m s, Awake s → fromModule s m.src = true → m.reissue = false →
    let row : Instr := if light then .lightRead m else .readRequest m
    (requestOk m (if light then 256 else 4096) = true →
      (∀ w, w ∈ wordsOf m.address m.length → s.poison.contains w = false ∧ mget s.memctl.latent w = none) →
      ∃ u, exec row s = .next (wake u) ∧
        u.sent = .answer 9 m.src m.txid false .ok (bread s.hbm m.address m.length) [] :: s.sent ∧ Keeps [.sent, .fabric] s u) ∧
    (requestOk m (if light then 256 else 4096) = true → ∃ u, exec row s = .next (wake u) ∧
      Keeps [.hbm, .poison, .memctl, .err, .evt, .fmw, .cxl, .sent, .fabric, .free] s u) ∧
    (requestOk m (if light then 256 else 4096) = false →
      ∃ u, exec row s = .next (wake u) ∧ u.sent = .answer 9 m.src m.txid false .invalidArgument [] [] :: s.sent ∧
        Keeps [.sent, .fabric] s u)) ∧
  (∀ m op s, Awake s → fromModule s m.src = true → m.reissue = false →
    let c := m.address % 65536
    let n := BitVec.ofNat 32 m.amount
    let k := getC s c
    c ≠ 0xFFFF → k.mode = .claimed → n ≠ 0 →
    (op = 1 → k.waits = [] → k.value.toNat + n.toNat < 2 ^ 32 → ∃ u, exec (.counterRequest m op) s = .next (wake u) ∧
      u.sent = .answer 10 m.src m.txid false .ok [] [] :: s.sent ∧ getC u c = { k with value := k.value + n } ∧
      (∀ c', c' ≠ c → getC u c' = getC s c') ∧ Keeps [.ctrs, .fabric, .sent] s u) ∧
    (op = 2 → n ≤ k.value → ∃ u, exec (.counterRequest m op) s = .next (wake u) ∧
      u.sent = .answer 10 m.src m.txid false .ok [] [] :: s.sent ∧ getC u c = { k with value := k.value - n } ∧
      (∀ c', c' ≠ c → getC u c' = getC s c') ∧ Keeps [.ctrs, .fabric, .sent] s u) ∧
    ((op = 3 ∨ op = 4) → k.value < n → ∃ u, exec (.counterRequest m op) s = .next u ∧
      getC u c = { k with waits := k.waits ++ [{ who := .remote m.src m.txid, acquire := op == 4, amount := n }] } ∧
      (u.fabric.records.any fun r => r.src == m.src && r.txid == m.txid && !r.done) = true ∧ Keeps [.ctrs, .fabric] s u)) ∧
  (∀ m data bad op r s, Awake s → fromModule s m.src = true → m.reissue = true →
    s.fabric.records.find? (fun x => x.src == m.src && x.txid == m.txid && x.kind != 0) = some r →
    ∀ row : Instr, row ∈ [.writeRequest m data bad, .lightWrite m data bad, .readRequest m, .lightRead m, .counterRequest m op] →
      exec row s = .next (
        if r.done then { s with sent := .answer r.kind m.src m.txid true r.status r.data r.poison :: s.sent } else s)) ∧
  (∀ src n s, Awake s →
    exec (.recordExpiry src (.txn n)) s = .next { s with fabric := { s.fabric with
      records := s.fabric.records.filter fun r => !(r.src == src && (r.txid == n && r.kind != 0) && r.done) } } ∧
    exec (.recordExpiry src (.sync n)) s = .next { s with fabric := { s.fabric with
      records := s.fabric.records.filter fun r => !(r.src == src && (r.txid == n && r.kind == 0) && r.done) } })

/-- R434, R436, R369 and R441 at the source: the first answer to a request ends it, and what awaited it goes on. -/
def Obligations.FirstAnswersTaken : Prop :=
  (∀ src txid st r o s, Awake s → findReq s src txid [1, 4] = some r → AwaitsAlone s r o →
    ((getQ s r.queue).cls = 2 → hOpcode o.desc = 4 → ownCheck s r.queue o.desc = none) →
    ∃ u, exec (.completion src txid st) s = .next (wake u) ∧ Ended r.queue r.index st o.detail u ∧
      u.fabric.outstanding = s.fabric.outstanding.filter fun x => !(x.dst == r.dst && x.txid == r.txid)) ∧
  (∀ src txid r o s, Awake s → findReq s src txid [3] = some r → AwaitsAlone s r o → (getQ s r.queue).cls ≠ 2 →
    ∃ u, exec (.counterResult src txid .ok) s = .next (wake u) ∧ Ended r.queue r.index .ok o.detail u ∧
      u.fabric.outstanding = s.fabric.outstanding.filter fun x => !(x.dst == r.dst && x.txid == r.txid)) ∧
  (∀ src txid data r o s, Awake s → findReq s src txid [2, 5] = some r → AwaitsAlone s r o → data.length = r.length →
    bwf s.fabric.view = true →
    (∃ u, exec (.readData src txid .ok data false) s = .next (wake u) ∧
      getOp u r.queue r.index = some { o with reqs := [], status := .ok, phase := .running } ∧
      (∀ i, i < r.length → bget u.fabric.view (viewKey src r.address + i) = data.getD i 0) ∧
      Keeps [.fabric, .queues, .lines, .free] s u) ∧
    (∃ t, exec (.readData src txid .ok data true) s = .next t ∧ t.queues = s.queues ∧
      t.fabric.outstanding = (s.fabric.outstanding.map fun x =>
        if x.dst = src ∧ x.txid = txid then { x with kind := x.kind + 10 } else x) ∧ Keeps [.fabric] s t)) ∧
  (∀ src txid words r o s, Awake s → findReq s src txid [12, 15] = some r → AwaitsAlone s r o →
    ∃ u, exec (.poisonMap src txid words) s = .next (wake u) ∧
      getOp u r.queue r.index = some { o with reqs := [], status := .ok, phase := .running } ∧
      (∀ w, u.fabric.viewPoison.contains w =
        (s.fabric.viewPoison.contains w || words.any fun k => viewKey src r.address / 32 + k == w)) ∧
      Keeps [.fabric, .queues, .lines, .free] s u) ∧
  (∀ src txid st data map words s, s.fabric.outstanding.all (fun r => !(r.dst == src && r.txid == txid)) = true →
    exec (.completion src txid st) s = .next s ∧ exec (.counterResult src txid st) s = .next s ∧
    exec (.readData src txid st data map) s = .next s ∧ exec (.poisonMap src txid words) s = .next s)

/-- The link and routing rows. `noteLinks` raises the start-up summary of R561 once every port has settled. -/
def Obligations.FabricLinksComplete : Prop :=
  (∀ p bytes fec s, Awake s → p < 24 → s.fabric.ports.length = 24 → (getPort s p).state = 3 →
    crc32 (slice bytes 0 252) = BitVec.ofNat 32 (u32 bytes 252) → 2 ≤ bits (u64 bytes 0) 25 22 → bits (u64 bytes 0) 25 22 ≤ 4 →
    bits (u64 bytes 0) 9 8 = 0 → bits (u64 bytes 0) 63 52 = (getPort s p).rxSeq →
    ∃ u, exec (.flit p bytes fec 0) s = .next (noteLinks u) ∧ (getPort u p).rxSeq = ((getPort s p).rxSeq + 1) % 4096 ∧
      (getPort u p).nakSent = false ∧ (getPort u p).fec = min (2 ^ 32 - 1) ((getPort s p).fec + fec) ∧ Keeps [.fabric] s u) ∧
  (∀ p bytes fec bad s, Awake s → p < 24 → s.fabric.ports.length = 24 → (getPort s p).state = 3 → bad ≠ 0 →
    ∃ u, exec (.flit p bytes fec bad) s = .next (noteLinks u) ∧ (getPort u p).rxSeq = (getPort s p).rxSeq ∧
      (getPort u p).nakSent = true ∧
      u.sent = (if (getPort s p).nakSent then s.sent else .nak p (getPort s p).rxSeq :: s.sent) ∧ Keeps [.fabric, .sent] s u) ∧
  (∀ p seq s, Awake s → p < 24 → s.fabric.ports.length = 24 → (getPort s p).state = 3 → pump s = s →
    unacked (getPort s p) ≠ 0 → (getPort s p).replayed < 8 →
    let again : State := modPort p (fun x => { x with replayed := x.replayed + 1, replays := min 65535 (x.replays + 1) })
      { s with sent := .resend p (getPort s p).ackSeq :: s.sent }
    exec (.replayTimeout p) s = .next (noteLinks again) ∧
    (seq = (getPort s p).ackSeq → seq < 4096 → exec (.linkNak p seq) s = .next (noteLinks again))) ∧
  (∀ p s, Awake s → p < 24 → s.fabric.ports.length = 24 → (getPort s p).state = 3 →
    ∃ u, exec (.blockLockLoss p) s = .next (noteLinks u) ∧ (getPort u p).state = 2 ∧ (getPort u p).authed = false ∧
      (getPort u p).keyTx = [] ∧ (getPort u p).keyRx = [] ∧ Keeps [.fabric, .evt, .fmw, .cxl, .sent] s u) ∧
  (∀ p t s, Awake s → p < 24 → s.fabric.ports.length = 24 → (getPort s p).state = 2 → t.ok = true →
    let cfg := s.fabric.topology.configId
    let right := t.configId = cfg ∧ peerOf s.fabric.topology (self s) p = some (t.peerModule, t.peerPort)
    (¬ right → ∃ u, exec (.portTrainingComplete p t) s = .next (noteLinks u) ∧ (getPort u p).state = 6 ∧
      Keeps [.fabric, .evt, .fmw, .cxl, .sent] s u) ∧
    (right → mget s.fabric.incarnations t.peerModule = none ∨ mget s.fabric.incarnations t.peerModule = some t.incarnation →
      ∃ u, exec (.portTrainingComplete p t) s = .next (noteLinks u) ∧ (getPort u p).trained = true ∧
        (getPort u p).peerModule = t.peerModule ∧ (getPort u p).peerPort = t.peerPort ∧
        mget u.fabric.incarnations t.peerModule = some t.incarnation ∧
        u.sent.length = s.sent.length + (if self s < t.peerModule then 1 else 0) ∧ Keeps [.fabric, .sent, .free] s u)) ∧
  (∀ p m s, Awake s → p < 24 → s.fabric.ports.length = 24 → awaitsAuth s p false = true →
    ∃ u, exec (.linkAuthOffer p m) s = .next (noteLinks u) ∧
      (linkFails s m = none → (getPort u p).authed = true ∧
        (getPort u p).state = (if (getSvc s (portUnit p)).state = 0 then 3 else 4)) ∧
      (linkFails s m ≠ none → (getPort u p).state = 6) ∧ Keeps [.fabric, .evt, .fmw, .cxl, .sent, .free] s u) ∧
  (∀ p m s, Awake s → p < 24 → s.fabric.ports.length = 24 → awaitsAuth s p true = true →
    ∃ u, exec (.linkAuthReply p m) s = .next (noteLinks u) ∧
      (linkFails s m = none → Config.kemDecaps (getPort s p).seed m.keyMaterial ≠ none → (getPort u p).authed = true ∧
        (getPort u p).state = (if (getSvc s (portUnit p)).state = 0 then 3 else 4)) ∧
      (linkFails s m ≠ none ∨ Config.kemDecaps (getPort s p).seed m.keyMaterial = none → (getPort u p).state = 6) ∧
      Keeps [.fabric, .evt, .fmw, .cxl, .sent] s u) ∧
  (∀ s, Awake s → ∃ t, exec .routeRestore s = .next t ∧ t.fabric.returning = [] ∧ Keeps [.fabric, .evt, .fmw, .cxl, .sent] s t) ∧
  (∀ m s, Awake s →
    (routeOf s m ≠ none → exec (.noRouteTimeout m) s = .next s) ∧
    (routeOf s m = none → fromModule s m = true → ∃ t, exec (.noRouteTimeout m) s = .next t ∧
      (s.fabric.lost.contains m = false → t.fabric.lost.contains m = true ∧ t.fabric.noRoute.contains m = true)))

/-! ### Synchronisation counters -/

/-- R360, for the counter operations that queues, the window, other modules and plans share, and for the rows of the host signal class. -/
def Obligations.ZeroAmountCompletes : Prop :=
  ∀ (c : Nat) (s : State), c ≠ 0xFFFF →
    let st : Status := match (getC s c).mode with
      | .claimed => .ok
      | .free => .counterState
      | .poisoned => (getC s c).poison
    signalCounter c 0 s = (s, st) ∧ subCounter c 0 s = (s, st) ∧
    (∀ w : Wait, w.amount = 0 → arriveWait c w s = (s, some st)) ∧
    (∀ q idx, Awake s → sgCounter (descOf s q idx) = c → sgLocal s (descOf s q idx) = true → sgAmount (descOf s q idx) = 0 →
      storeTurn s q idx c = true →
      (opReady s q idx 5 1 = true → exec (.signalCtr q idx) s = .next (wake (finishOp q idx st 0 s))) ∧
      (opReady s q idx 5 2 = true → exec (.subCtr q idx) s = .next (finishOp q idx st 0 s)) ∧
      (opReady s q idx 5 3 = true → exec (.waitGe q idx) s = .next (finishOp q idx st 0 s)) ∧
      (opReady s q idx 5 4 = true → exec (.acquire q idx) s = .next (finishOp q idx st 0 s)))

/-- R358 to R371. The rows of the host signal class, in the order of their admission at each counter (R361), and the two rows of the counter
window. -/
def Obligations.CounterOperations : Prop :=
  (∀ q idx s, Awake s → opReady s q idx 5 1 = true → sgLocal s (descOf s q idx) = true →
    let c := sgCounter (descOf s q idx)
    let n := sgAmount (descOf s q idx)
    let k := getC s c
    storeTurn s q idx c = true → c ≠ 0xFFFF → k.mode = .claimed → n ≠ 0 →
    (2 ^ 32 ≤ k.value.toNat + n.toNat → exec (.signalCtr q idx) s = .next (wake (finishOp q idx .counterOverflow 0 s))) ∧
    (k.value.toNat + n.toNat < 2 ^ 32 → ∃ u, exec (.signalCtr q idx) s = .next (wake u) ∧ Ended q idx .ok 0 u ∧
      (∀ c', c' ≠ c → getC u c' = getC s c') ∧
      ((∀ w ∈ k.waits, w.acquire = false) → getC u c =
        { k with value := k.value + n, waits := k.waits.filter fun w => decide (k.value + n < w.amount) }) ∧
      Keeps [.ctrs, .queues, .plan, .fabric, .sent] s u)) ∧
  (∀ q idx s, Awake s → sgLocal s (descOf s q idx) = true → storeTurn s q idx (sgCounter (descOf s q idx)) = false →
    exec (.signalCtr q idx) s = .next (wake s) ∧ exec (.subCtr q idx) s = .next s ∧ exec (.waitGe q idx) s = .next s ∧
    exec (.acquire q idx) s = .next s) ∧
  (∀ q idx s, Awake s → sgLocal s (descOf s q idx) = true →
    let c := sgCounter (descOf s q idx)
    let n := sgAmount (descOf s q idx)
    let k := getC s c
    storeTurn s q idx c = true → c ≠ 0xFFFF → k.mode = .claimed → n ≠ 0 →
    (opReady s q idx 5 2 = true → exec (.subCtr q idx) s = .next (
      if k.value < n then finishOp q idx .counterUnderflow 0 s
      else finishOp q idx .ok 0 (setC c { k with value := k.value - n } s))) ∧
    (opReady s q idx 5 3 = true → exec (.waitGe q idx) s = .next (
      if n ≤ k.value then finishOp q idx .ok 0 s
      else modOp q idx (fun o => { o with phase := .blocked })
        (setC c { k with waits := k.waits ++ [{ who := .signal q idx, acquire := false, amount := n }] } s))) ∧
    (opReady s q idx 5 4 = true → exec (.acquire q idx) s = .next (
      if n ≤ k.value ∧ (∀ w ∈ k.waits, w.acquire = false) then finishOp q idx .ok 0 (setC c { k with value := k.value - n } s)
      else modOp q idx (fun o => { o with phase := .blocked })
        (setC c { k with waits := k.waits ++ [{ who := .signal q idx, acquire := true, amount := n }] } s)))) ∧
  (∀ q idx o s, Awake s → getOp s q idx = some o → o.reqs = [] → sgLocal s o.desc = false →
    s.fabric.lost.contains (sgModule o.desc) = false →
    let m := sgModule o.desc
    let x := mgetD s.fabric.txids m 0
    ∀ code, (code = 1 ∨ code = 2 ∨ code = 3 ∨ code = 4) → opReady s q idx 5 code = true →
    let row : Instr := if code = 1 then .signalCtr q idx else if code = 2 then .subCtr q idx
      else if code = 3 then .waitGe q idx else .acquire q idx
    ∃ u, exec row s = .next (if code = 1 then wake u else u) ∧
      u.sent = .request 3 m x false false (sgCounter o.desc + 2 ^ 16 * code) 0 (sgAmount o.desc).toNat [] :: s.sent ∧
      getOp u q idx = some { o with phase := .blocked, reqs := [(m, x)] } ∧ Keeps [.queues, .fabric, .sent] s u) ∧
  (∀ c n s, Awake s → doorbellsOpen s = true → c < 0xFFFF →
    let k := getC s c
    ((k.mode = .free ∨ (k.mode = .poisoned ∧ (k.poison = .ownerReset ∨ k.poison = .uncorrectable))) →
      exec (.ctrAddWrite c n) s = .next (wake (setC c { k with errState := true } s)) ∧
      exec (.ctrSubWrite c n) s = .next (setC c { k with errState := true } s)) ∧
    (k.mode = .claimed → n ≠ 0 →
      (2 ^ 32 ≤ k.value.toNat + n.toNat →
        exec (.ctrAddWrite c n) s = .next (wake (setC c { k with errOverflow := true } s))) ∧
      (k.value.toNat + n.toNat < 2 ^ 32 → ∃ u, exec (.ctrAddWrite c n) s = .next (wake u) ∧
        (∀ c', c' ≠ c → getC u c' = getC s c') ∧
        ((∀ w ∈ k.waits, w.acquire = false) → getC u c =
          { k with value := k.value + n, waits := k.waits.filter fun w => decide (k.value + n < w.amount) }) ∧
        Keeps [.ctrs, .queues, .plan, .fabric, .sent] s u) ∧
      exec (.ctrSubWrite c n) s = .next (
        if k.value < n then setC c { k with errUnderflow := true } s else setC c { k with value := k.value - n } s))) ∧
  (∀ c n s, Awake s → doorbellsOpen s = false →
    exec (.ctrAddWrite c n) s = .next (wake s) ∧ exec (.ctrSubWrite c n) s = .next s)

/-! ### Queues and their operations -/

/-- The queue rows beside the operations' own (R330 to R348, R485). A row that may release plan units ends in `wake`. -/
def Obligations.QueueRowsComplete : Prop :=
  (∀ q (t : U32) s, Awake s → doorbellsOpen s = true → q < 4096 → (getQ s q).mode ≠ .disabled →
    let v := getQ s q
    (t - v.tail ≤ BitVec.ofNat 32 v.entries - (v.tail - v.done) →
      exec (.qdbTailWrite q t) s = .next (setQ q { v with tail := t } s)) ∧
    (¬ t - v.tail ≤ BitVec.ofNat 32 v.entries - (v.tail - v.done) → v.mode = .running →
      ∃ u, exec (.qdbTailWrite q t) s = .next u ∧ getQ u q = { v with mode := .stopped, lastStop := .invalidArgument } ∧
        Keeps [.queues, .evt, .fmw, .cxl, .sent] s u)) ∧
  (∀ q t s, doorbellsOpen s = false → exec (.qdbTailWrite q t) s = .next s) ∧
  (∀ r (h : U32) v s, Awake s → doorbellsOpen s = true → mget s.rings r = some v →
    (h - v.head ≤ v.tail - v.head → ∃ u, exec (.srHeadWrite r h) s = .next (wake u) ∧ mget u.rings r = some { v with head := h } ∧
      (∀ r', r' ≠ r → mget u.rings r' = mget s.rings r') ∧ Keeps [.rings, .ctrs, .queues, .plan, .fabric, .sent] s u) ∧
    (¬ h - v.head ≤ v.tail - v.head → exec (.srHeadWrite r h) s = .next (wake s))) ∧
  (∀ q idx v s, Awake s → opReady s q idx 1 3 = true → mget s.rings (u16 (descOf s q idx) 16) = some v →
    let n := u32 (descOf s q idx) 20
    (n ≤ (v.tail - v.head).toNat → ∃ u, exec (.slotFree q idx) s = .next (wake u) ∧ Ended q idx .ok 0 u ∧
      mget u.rings (u16 (descOf s q idx) 16) = some { v with head := v.head + BitVec.ofNat 32 n } ∧
      Keeps [.rings, .ctrs, .queues, .plan, .fabric, .sent] s u) ∧
    ((v.tail - v.head).toNat < n → exec (.slotFree q idx) s = .next (wake (finishOp q idx .invalidArgument 0 s)))) ∧
  (∀ q idx o s, Awake s → getOp s q idx = some o → hHint o.desc = true → o.phase = .running →
    let first := s.tick.count + 1
    let asked := if u64 o.desc 16 = 0 then first else ownTick s (u64 o.desc 16)
    let start := max first asked
    let left := asked + u32 o.desc 24 - start
    exec (.hint q idx) s = .next (finishOp q idx .ok 0 (
      if left = 0 then s
      else { s with power := { s.power with hints := s.power.hints ++
        [{ start := start, ticks := left, watts := u16 o.desc 28, cls := u8 o.desc 30 }] } }))) ∧
  (∀ q idx s, Awake s → opReady s q idx 0 1 = true → exec (.runPlan q idx) s = .next (
    if u32 (descOf s q idx) 20 = 0 then finishOp q idx .ok 0 s else modOp q idx (fun o => { o with phase := .blocked }) s)) ∧
  (∀ q idx o s, Awake s → getOp s q idx = some o → o.phase = .admitted → s.tick.windowOpen = false →
    (hWait o.desc = false →
      exec (.descriptorStart q idx) s = .next (
        if hFence o.desc = true ∧ (getQ s q).done ≠ o.index then s
        else modOp q idx (fun p => { p with phase := .running }) s)) ∧
    (hWait o.desc = true → storeTurn s q idx (hWaitCounter o.desc) = true → hWaitCounter o.desc ≠ 0xFFFF → (getC s (hWaitCounter o.desc)).mode = .claimed →
      let k := getC s (hWaitCounter o.desc)
      k.value < BitVec.ofNat 32 (hWaitValue o.desc) →
      exec (.descriptorStart q idx) s = .next (modOp q idx (fun o => { o with phase := .waiting })
        (setC (hWaitCounter o.desc) { k with waits := k.waits ++
          [{ who := .header q idx, acquire := false, amount := BitVec.ofNat 32 (hWaitValue o.desc) }] } s)))) ∧
  (∀ q idx o c s, Awake s → getOp s q idx = some o → o.phase = .running → ((getQ s q).cls = 2 ∨ (getQ s q).cls = 3) →
    o.work.fixed = [c] → o.stepTick ≠ s.tick.count → s.tick.state ≠ 3 → (capOf s (getQ s q).cls).descs ≠ 0 →
    c ≤ (capOf s (getQ s q).cls).budget → neverFits s (getQ s q).cls c = false →
    ∃ t, exec (.operationStep q idx) s = .next t ∧
      getOp t q idx = some { o with
        work := { o.work with fixed := [] }, before := o.work, stepTick := s.tick.count, charge := c, order := s.tick.admissions } ∧
      t.tick = { s.tick with
        admissions := s.tick.admissions + 1
        caps := s.tick.caps.modify (getQ s q).cls fun x => { descs := x.descs - 1, budget := x.budget - c } } ∧
      Keeps [.queues, .tick] s t) ∧
  (∀ q o a s, Awake s → Canonical s → (getQ s q).mode ≠ .disabled →
    (getQ s q).ops.find? (fun p => p.index == (getQ s q).done) = some o → o.phase = .done →
    hSignal o.desc = false → o.publish = none → o.noTag = false → s.plan.waiting = [] →
    inHost (getQ s q).comp = false → addrOf s ((getQ s q).comp + 16 * (o.index.toNat % (getQ s q).entries)) = .hbm a →
    anyPoison s (.hbm a) 16 = false →
    ∃ u, exec (.operationComplete q) s = .next (wake u) ∧ (getQ u q).done = (getQ s q).done + 1 ∧
      (getQ u q).ops = (getQ s q).ops.filter (fun p => p.index != o.index) ∧
      (∀ i, i < 16 → bget u.hbm (a + i) = (completionBytes (getQ s q).entries o o.status false).getD i 0) ∧
      (Correctable s → ∀ j, (j < a ∨ a + 16 ≤ j) → bget u.hbm j = bget s.hbm j) ∧
      Keeps [.queues, .hbm, .poison, .memctl, .err, .evt, .fmw, .cxl, .sent, .culture, .index, .free] s u)

/-- One clause per operation. `afterReads` and the result function are the ones that the meanings apply. -/
def Obligations.DataOperationsComplete : Prop :=
  ∀ (q : Nat) (idx : U32),
    let d (s : State) := descOf s q idx
    let plain (_ : State) := false
    RunsData (.matmul q idx none) q idx 0 0x10 plain (fun s => mmReads s (mmAt s (d s))) (fun u => mmResult u (mmAt u (d u))) ∧
    RunsData (.attention q idx none) q idx 0 0x11 plain (fun s => attReads s (attAt s (d s))) (fun u => attResult u (attAt u (d u))) ∧
    RunsData (.conv q idx none) q idx 0 0x12 plain (fun s => cvReads s (cvAt s (d s))) (fun u => cvResult u (cvAt u (d u))) ∧
    RunsData (.resample q idx none) q idx 0 0x13 plain (fun s => rsReads s (rsOf (d s))) (fun u => rsResult u (rsOf (d u))) ∧
    RunsData (.func q idx none) q idx 0 0x14 plain (fun s => fnReads s (fnOf (d s))) (fun u => fnResult u (fnOf (d u))) ∧
    RunsData (.norm q idx none) q idx 0 0x15 plain (fun s => nmReads s (nmAt s (d s))) (fun u => nmResult u (nmAt u (d u))) ∧
    RunsData (.softmax q idx none) q idx 0 0x16 plain (fun s => smReads s (smAt s (d s))) (fun u => smResult u (smAt u (d u))) ∧
    RunsData (.transfer q idx) q idx 1 1 (fun s => bit (trOf (d s)).flags 0) (fun s => trReads s (trOf (d s)))
      (fun u => trResult u (trOf (d u)) (slotOf u q idx)) ∧
    RunsData (.gather q idx) q idx 1 2 (fun s => bit (gaOf (d s)).flags 1) (fun s => gaReads s (gaOf (d s)))
      (fun u => gaResult u (gaOf (d u)) (slotOf u q idx)) ∧
    (∀ v s, Awake s → v < 160 → ∀ row : Instr × Nat,
      row ∈ [(Instr.matmul q idx (some v), 0x10), (.attention q idx (some v), 0x11), (.conv q idx (some v), 0x12),
        (.resample q idx (some v), 0x13), (.func q idx (some v), 0x14), (.norm q idx (some v), 0x15), (.softmax q idx (some v), 0x16)] →
      opReady s q idx 0 row.2 = true →
      ∃ t, exec row.1 s = .next t ∧ Ended q idx .uncorrectable 0 t ∧ (getSvc t { cls := 0, num := v }).suspect = true) ∧
    (∀ s, Awake s → rcReady s q idx 1 = true → Unasked q idx s → Local (dbReads s q (d s)) s →
      let u := afterReads q idx none (dbReads s q (d s)) s
      ∃ t, exec (.decodeBegin q idx) s = .next t ∧ Ended q idx (rcBegin q (opGen u q idx) (d u) u).2 0 t) ∧
    (∀ fault s, Awake s → rcReady s q idx 2 = true → Unasked q idx s → Local (dpReads s q (d s)) s →
      let p := rcPass q fault (d s) (afterReads q idx none (dpReads s q (d s)) s)
      Local (outSpans p.2) p.1 → ∃ t, exec (.decodePass q idx fault) s = .next t ∧ Ended q idx p.2.status p.2.detail t) ∧
    (∀ s, Awake s → rcReady s q idx 3 = true → Unasked q idx s →
      let p := rcEnd q (d s) s
      Local (outSpans p.2) p.1 → ∃ t, exec (.decodeEnd q idx) s = .next t ∧ Ended q idx p.2.status p.2.detail t) ∧
    (∀ fault s, Awake s → rcReady s q idx 4 = true → Unasked q idx s → ownCheck s q (d s) = none → Local (ewReads s (d s)) s →
      let u := afterReads q idx none (ewReads s (d s)) s
      let p := rcEncode false q (opGen u q idx) fault (d u) u
      Local (outSpans p.2) p.1 →
      (ownCheck p.1 q (d s) = none → ∃ t, exec (.encodeWheel q { idx := idx, tableFault := fault }) s = .next t ∧ Ended q idx p.2.status p.2.detail t) ∧
      (∀ k, ownCheck p.1 q (d s) = some k → ∃ t, exec (.encodeWheel q { idx := idx, tableFault := fault }) s = .next t ∧
        ((∃ o, getOp t q idx = some o ∧ o.phase = .running ∧ ownCheck t q (d s) = some k) ∨ ∃ st, Ended q idx st 0 t))) ∧
    (∀ fault k s, Awake s → rcReady s q idx 4 = true → Unasked q idx s → ownCheck s q (d s) = some k → Local (checkReads s k) s →
      let p := rcCheck k false (d s) (afterReads q idx none (checkReads s k) s)
      Local (outSpans p.2) p.1 → ∃ t, exec (.encodeWheel q { idx := idx, tableFault := fault }) s = .next t ∧ Ended q idx p.2.status p.2.detail t) ∧
    (∀ inflate s, Awake s → opReady s q idx 3 (if inflate then 2 else 1) = true → Unasked q idx s →
      Local (prReads s inflate (prOf (d s))) s →
      let u := afterReads q idx none (prReads s inflate (prOf (d s))) s
      let r := if inflate then inflateResult u (prOf (d s)) else compressResult u (prOf (d s))
      Local (outSpans r) u →
      ∃ t, exec (if inflate then .inflate q idx none else .compress q idx none) s = .next t ∧ Ended q idx r.status r.detail t) ∧
    (∀ o s, Awake s → getOp s q idx = some o → sampling s q o = true → o.phase = .running → o.sample.flights = [] →
      (saOf o.desc).count ≤ o.sample.next → (saOf o.desc).count ≠ 0 → (saOf o.desc).result ≠ 0 → o.reqs = [] →
      Local [(addrOf s (saOf o.desc).result, 32)] s → Canonical s →
      ∃ u, exec (.sample q idx) s = .next (wake u) ∧ Ended q idx .ok 0 u ∧
        ∀ a, addrOf s (saOf o.desc).result = .hbm a →
          ∀ i, i < 32 → bget u.hbm (a + i) = (sampleResult o.sample o.epoch).getD i 0) ∧
    (∀ o fault s, Awake s → getOp s q idx = some o → sampling s q o = true → sampleReady s q o = true →
      let x := saOf o.desc
      let e := saEntry s x o.sample.next
      let found := if e.1 = 0 then (s, Status.invalidArgument, []) else lookupKey (whoOf q o.desc) (epochTable s o.epoch) e.1 s
      let st := if found.2.1 = .ok ∧ entFrames found.2.2 < e.2.1 + e.2.2 then .invalidArgument else found.2.1
      exec (.sampleEntry q idx fault) s = .next (wake (sampleAdvance q idx fault (startEntry q idx o s))) ∧
      ∃ o' fl, getOp (startEntry q idx o s) q idx = some o' ∧ o'.sample.next = o.sample.next + 1 ∧
        o'.sample.flights.getLast? = some fl ∧ fl.k = o.sample.next ∧ fl.entry = found.2.2 ∧ fl.status = st ∧
        fl.out = (if st = .ok then none else some ([], []))) ∧
    (∀ o fl head data s, Awake s → getOp s q idx = some o → sampling s q o = true → o.phase = .running → o.status = .ok → o.reqs = [] →
      o.sample.flights = [fl] → fl.out = some (head, data) →
      (o.sample.next < (saOf o.desc).count → (saEntry s (saOf o.desc) o.sample.next).2.2 ≠ 0) →
      let x := saOf o.desc
      let e := saEntry s x fl.k
      (fl.status ≠ .ok → bit x.flags 2 = true → exec (.sample q idx) s =
        .next (wake (sampleEnd q idx (leaveFlight q idx fl (fun r => { r with dropped := r.dropped + 1 }) s)))) ∧
      (∀ v a, (fl.status = .ok ∨ bit x.flags 2 = false) → slotReady s x.ring q = true → mget s.rings x.ring = some v →
        v.readyCtr = 0xFFFF → addrOf s (slotAddr v 0) = .hbm a → Canonical s →
        ∃ u o', exec (.sample q idx) s = .next (wake (sampleEnd q idx u)) ∧
          getOp u q idx = some o' ∧ o'.phase = .running ∧ o'.sample.flights = [] ∧ o'.sample.next = o.sample.next ∧
          o'.sample.delivered = o.sample.delivered + (if fl.status = .ok then 1 else 0) ∧
          o'.sample.failed = o.sample.failed + (if fl.status = .ok then 0 else 1) ∧
          mget u.rings x.ring = some { v with tail := v.tail + 1, openFor := none } ∧
          (∀ i, i < 64 + data.length → bget u.hbm (a + i) =
            (slotHeader x e.1 e.2.1 e.2.2 o.epoch s.tick.count fl head data.length ++ data).getD i 0))) ∧
    (∀ s, Awake s → indexTurn s q idx = true →
      (opReady s q idx 4 2 = true → Unasked q idx s →
        let p := lookupKey (whoOf q (d s)) (opTable s q idx) (u64 (d s) 16) s
        Local [(addrOf s (u64 (d s) 24), 32)] p.1 → ∃ t, exec (.lookup q idx) s = .next t ∧ Ended q idx p.2.1 0 t) ∧
      (opReady s q idx 4 3 = true →
        ∃ t, exec (.putEntry q idx) s = .next t ∧
          Ended q idx (putEntryIn (whoOf q (d s)) (opTable s q idx) (slice (d s) 16 32) s).2 0 t) ∧
      (opReady s q idx 4 4 = true →
        ∃ t, exec (.deleteKey q idx) s = .next t ∧
          Ended q idx (deleteIn (whoOf q (d s)) (opTable s q idx) (u64 (d s) 16) s).2 0 t))
end

