-- ==== Sys2Proof/Laws/State.lean ====
section
/-!
SUPPORT. What each named update of State does to each field of it: one lemma per field, so that no proof unfolds a record update.
-/

namespace Sys2Proof.Machine

/-! ### emit -/

@[simp] theorem emit_pending (x : Sent) (s : State) : (emit x s).pending = s.pending := rfl
@[simp] theorem emit_start (x : Sent) (s : State) : (emit x s).start = s.start := rfl
@[simp] theorem emit_tick (x : Sent) (s : State) : (emit x s).tick = s.tick := rfl
@[simp] theorem emit_plan (x : Sent) (s : State) : (emit x s).plan = s.plan := rfl
@[simp] theorem emit_queues (x : Sent) (s : State) : (emit x s).queues = s.queues := rfl
@[simp] theorem emit_rings (x : Sent) (s : State) : (emit x s).rings = s.rings := rfl
@[simp] theorem emit_ctrs (x : Sent) (s : State) : (emit x s).ctrs = s.ctrs := rfl
@[simp] theorem emit_hbm (x : Sent) (s : State) : (emit x s).hbm = s.hbm := rfl
@[simp] theorem emit_poison (x : Sent) (s : State) : (emit x s).poison = s.poison := rfl
@[simp] theorem emit_host (x : Sent) (s : State) : (emit x s).host = s.host := rfl
@[simp] theorem emit_hostPoison (x : Sent) (s : State) : (emit x s).hostPoison = s.hostPoison := rfl
@[simp] theorem emit_sram (x : Sent) (s : State) : (emit x s).sram = s.sram := rfl
@[simp] theorem emit_sramPoison (x : Sent) (s : State) : (emit x s).sramPoison = s.sramPoison := rfl
@[simp] theorem emit_memctl (x : Sent) (s : State) : (emit x s).memctl = s.memctl := rfl
@[simp] theorem emit_lines (x : Sent) (s : State) : (emit x s).lines = s.lines := rfl
@[simp] theorem emit_culture (x : Sent) (s : State) : (emit x s).culture = s.culture := rfl
@[simp] theorem emit_rc (x : Sent) (s : State) : (emit x s).rc = s.rc := rfl
@[simp] theorem emit_index (x : Sent) (s : State) : (emit x s).index = s.index := rfl
@[simp] theorem emit_press (x : Sent) (s : State) : (emit x s).press = s.press := rfl
@[simp] theorem emit_sticky (x : Sent) (s : State) : (emit x s).sticky = s.sticky := rfl
@[simp] theorem emit_err (x : Sent) (s : State) : (emit x s).err = s.err := rfl
@[simp] theorem emit_evt (x : Sent) (s : State) : (emit x s).evt = s.evt := rfl
@[simp] theorem emit_thr (x : Sent) (s : State) : (emit x s).thr = s.thr := rfl
@[simp] theorem emit_fmw (x : Sent) (s : State) : (emit x s).fmw = s.fmw := rfl
@[simp] theorem emit_cave (x : Sent) (s : State) : (emit x s).cave = s.cave := rfl
@[simp] theorem emit_fuses (x : Sent) (s : State) : (emit x s).fuses = s.fuses := rfl
@[simp] theorem emit_sec (x : Sent) (s : State) : (emit x s).sec = s.sec := rfl
@[simp] theorem emit_fw (x : Sent) (s : State) : (emit x s).fw = s.fw := rfl
@[simp] theorem emit_power (x : Sent) (s : State) : (emit x s).power = s.power := rfl
@[simp] theorem emit_fabric (x : Sent) (s : State) : (emit x s).fabric = s.fabric := rfl
@[simp] theorem emit_cxl (x : Sent) (s : State) : (emit x s).cxl = s.cxl := rfl
@[simp] theorem emit_svc (x : Sent) (s : State) : (emit x s).svc = s.svc := rfl
@[simp] theorem emit_ageing (x : Sent) (s : State) : (emit x s).ageing = s.ageing := rfl
@[simp] theorem emit_packages (x : Sent) (s : State) : (emit x s).packages = s.packages := rfl
@[simp] theorem emit_sent (x : Sent) (s : State) : (emit x s).sent = x :: s.sent := rfl
@[simp] theorem emit_free (x : Sent) (s : State) : (emit x s).free = s.free := rfl

/-! ### setQ -/

@[simp] theorem setQ_pending (q : Nat) (v : Queue) (s : State) : (setQ q v s).pending = s.pending := rfl
@[simp] theorem setQ_start (q : Nat) (v : Queue) (s : State) : (setQ q v s).start = s.start := rfl
@[simp] theorem setQ_tick (q : Nat) (v : Queue) (s : State) : (setQ q v s).tick = s.tick := rfl
@[simp] theorem setQ_plan (q : Nat) (v : Queue) (s : State) : (setQ q v s).plan = s.plan := rfl
@[simp] theorem setQ_queues (q : Nat) (v : Queue) (s : State) : (setQ q v s).queues = if v = Queue.off then mdel s.queues q else mput s.queues q v := rfl
@[simp] theorem setQ_rings (q : Nat) (v : Queue) (s : State) : (setQ q v s).rings = s.rings := rfl
@[simp] theorem setQ_ctrs (q : Nat) (v : Queue) (s : State) : (setQ q v s).ctrs = s.ctrs := rfl
@[simp] theorem setQ_hbm (q : Nat) (v : Queue) (s : State) : (setQ q v s).hbm = s.hbm := rfl
@[simp] theorem setQ_poison (q : Nat) (v : Queue) (s : State) : (setQ q v s).poison = s.poison := rfl
@[simp] theorem setQ_host (q : Nat) (v : Queue) (s : State) : (setQ q v s).host = s.host := rfl
@[simp] theorem setQ_hostPoison (q : Nat) (v : Queue) (s : State) : (setQ q v s).hostPoison = s.hostPoison := rfl
@[simp] theorem setQ_sram (q : Nat) (v : Queue) (s : State) : (setQ q v s).sram = s.sram := rfl
@[simp] theorem setQ_sramPoison (q : Nat) (v : Queue) (s : State) : (setQ q v s).sramPoison = s.sramPoison := rfl
@[simp] theorem setQ_memctl (q : Nat) (v : Queue) (s : State) : (setQ q v s).memctl = s.memctl := rfl
@[simp] theorem setQ_lines (q : Nat) (v : Queue) (s : State) : (setQ q v s).lines = s.lines := rfl
@[simp] theorem setQ_culture (q : Nat) (v : Queue) (s : State) : (setQ q v s).culture = s.culture := rfl
@[simp] theorem setQ_rc (q : Nat) (v : Queue) (s : State) : (setQ q v s).rc = s.rc := rfl
@[simp] theorem setQ_index (q : Nat) (v : Queue) (s : State) : (setQ q v s).index = s.index := rfl
@[simp] theorem setQ_press (q : Nat) (v : Queue) (s : State) : (setQ q v s).press = s.press := rfl
@[simp] theorem setQ_sticky (q : Nat) (v : Queue) (s : State) : (setQ q v s).sticky = s.sticky := rfl
@[simp] theorem setQ_err (q : Nat) (v : Queue) (s : State) : (setQ q v s).err = s.err := rfl
@[simp] theorem setQ_evt (q : Nat) (v : Queue) (s : State) : (setQ q v s).evt = s.evt := rfl
@[simp] theorem setQ_thr (q : Nat) (v : Queue) (s : State) : (setQ q v s).thr = s.thr := rfl
@[simp] theorem setQ_fmw (q : Nat) (v : Queue) (s : State) : (setQ q v s).fmw = s.fmw := rfl
@[simp] theorem setQ_cave (q : Nat) (v : Queue) (s : State) : (setQ q v s).cave = s.cave := rfl
@[simp] theorem setQ_fuses (q : Nat) (v : Queue) (s : State) : (setQ q v s).fuses = s.fuses := rfl
@[simp] theorem setQ_sec (q : Nat) (v : Queue) (s : State) : (setQ q v s).sec = s.sec := rfl
@[simp] theorem setQ_fw (q : Nat) (v : Queue) (s : State) : (setQ q v s).fw = s.fw := rfl
@[simp] theorem setQ_power (q : Nat) (v : Queue) (s : State) : (setQ q v s).power = s.power := rfl
@[simp] theorem setQ_fabric (q : Nat) (v : Queue) (s : State) : (setQ q v s).fabric = s.fabric := rfl
@[simp] theorem setQ_cxl (q : Nat) (v : Queue) (s : State) : (setQ q v s).cxl = s.cxl := rfl
@[simp] theorem setQ_svc (q : Nat) (v : Queue) (s : State) : (setQ q v s).svc = s.svc := rfl
@[simp] theorem setQ_ageing (q : Nat) (v : Queue) (s : State) : (setQ q v s).ageing = s.ageing := rfl
@[simp] theorem setQ_packages (q : Nat) (v : Queue) (s : State) : (setQ q v s).packages = s.packages := rfl
@[simp] theorem setQ_sent (q : Nat) (v : Queue) (s : State) : (setQ q v s).sent = s.sent := rfl
@[simp] theorem setQ_free (q : Nat) (v : Queue) (s : State) : (setQ q v s).free = s.free := rfl

/-! ### modQ -/

@[simp] theorem modQ_pending (q : Nat) (f : Queue → Queue) (s : State) : (modQ q f s).pending = s.pending := rfl
@[simp] theorem modQ_start (q : Nat) (f : Queue → Queue) (s : State) : (modQ q f s).start = s.start := rfl
@[simp] theorem modQ_tick (q : Nat) (f : Queue → Queue) (s : State) : (modQ q f s).tick = s.tick := rfl
@[simp] theorem modQ_plan (q : Nat) (f : Queue → Queue) (s : State) : (modQ q f s).plan = s.plan := rfl
@[simp] theorem modQ_queues (q : Nat) (f : Queue → Queue) (s : State) : (modQ q f s).queues = (setQ q (f (getQ s q)) s).queues := rfl
@[simp] theorem modQ_rings (q : Nat) (f : Queue → Queue) (s : State) : (modQ q f s).rings = s.rings := rfl
@[simp] theorem modQ_ctrs (q : Nat) (f : Queue → Queue) (s : State) : (modQ q f s).ctrs = s.ctrs := rfl
@[simp] theorem modQ_hbm (q : Nat) (f : Queue → Queue) (s : State) : (modQ q f s).hbm = s.hbm := rfl
@[simp] theorem modQ_poison (q : Nat) (f : Queue → Queue) (s : State) : (modQ q f s).poison = s.poison := rfl
@[simp] theorem modQ_host (q : Nat) (f : Queue → Queue) (s : State) : (modQ q f s).host = s.host := rfl
@[simp] theorem modQ_hostPoison (q : Nat) (f : Queue → Queue) (s : State) : (modQ q f s).hostPoison = s.hostPoison := rfl
@[simp] theorem modQ_sram (q : Nat) (f : Queue → Queue) (s : State) : (modQ q f s).sram = s.sram := rfl
@[simp] theorem modQ_sramPoison (q : Nat) (f : Queue → Queue) (s : State) : (modQ q f s).sramPoison = s.sramPoison := rfl
@[simp] theorem modQ_memctl (q : Nat) (f : Queue → Queue) (s : State) : (modQ q f s).memctl = s.memctl := rfl
@[simp] theorem modQ_lines (q : Nat) (f : Queue → Queue) (s : State) : (modQ q f s).lines = s.lines := rfl
@[simp] theorem modQ_culture (q : Nat) (f : Queue → Queue) (s : State) : (modQ q f s).culture = s.culture := rfl
@[simp] theorem modQ_rc (q : Nat) (f : Queue → Queue) (s : State) : (modQ q f s).rc = s.rc := rfl
@[simp] theorem modQ_index (q : Nat) (f : Queue → Queue) (s : State) : (modQ q f s).index = s.index := rfl
@[simp] theorem modQ_press (q : Nat) (f : Queue → Queue) (s : State) : (modQ q f s).press = s.press := rfl
@[simp] theorem modQ_sticky (q : Nat) (f : Queue → Queue) (s : State) : (modQ q f s).sticky = s.sticky := rfl
@[simp] theorem modQ_err (q : Nat) (f : Queue → Queue) (s : State) : (modQ q f s).err = s.err := rfl
@[simp] theorem modQ_evt (q : Nat) (f : Queue → Queue) (s : State) : (modQ q f s).evt = s.evt := rfl
@[simp] theorem modQ_thr (q : Nat) (f : Queue → Queue) (s : State) : (modQ q f s).thr = s.thr := rfl
@[simp] theorem modQ_fmw (q : Nat) (f : Queue → Queue) (s : State) : (modQ q f s).fmw = s.fmw := rfl
@[simp] theorem modQ_cave (q : Nat) (f : Queue → Queue) (s : State) : (modQ q f s).cave = s.cave := rfl
@[simp] theorem modQ_fuses (q : Nat) (f : Queue → Queue) (s : State) : (modQ q f s).fuses = s.fuses := rfl
@[simp] theorem modQ_sec (q : Nat) (f : Queue → Queue) (s : State) : (modQ q f s).sec = s.sec := rfl
@[simp] theorem modQ_fw (q : Nat) (f : Queue → Queue) (s : State) : (modQ q f s).fw = s.fw := rfl
@[simp] theorem modQ_power (q : Nat) (f : Queue → Queue) (s : State) : (modQ q f s).power = s.power := rfl
@[simp] theorem modQ_fabric (q : Nat) (f : Queue → Queue) (s : State) : (modQ q f s).fabric = s.fabric := rfl
@[simp] theorem modQ_cxl (q : Nat) (f : Queue → Queue) (s : State) : (modQ q f s).cxl = s.cxl := rfl
@[simp] theorem modQ_svc (q : Nat) (f : Queue → Queue) (s : State) : (modQ q f s).svc = s.svc := rfl
@[simp] theorem modQ_ageing (q : Nat) (f : Queue → Queue) (s : State) : (modQ q f s).ageing = s.ageing := rfl
@[simp] theorem modQ_packages (q : Nat) (f : Queue → Queue) (s : State) : (modQ q f s).packages = s.packages := rfl
@[simp] theorem modQ_sent (q : Nat) (f : Queue → Queue) (s : State) : (modQ q f s).sent = s.sent := rfl
@[simp] theorem modQ_free (q : Nat) (f : Queue → Queue) (s : State) : (modQ q f s).free = s.free := rfl

/-! ### setC -/

@[simp] theorem setC_pending (c : Nat) (v : Ctr) (s : State) : (setC c v s).pending = s.pending := rfl
@[simp] theorem setC_start (c : Nat) (v : Ctr) (s : State) : (setC c v s).start = s.start := rfl
@[simp] theorem setC_tick (c : Nat) (v : Ctr) (s : State) : (setC c v s).tick = s.tick := rfl
@[simp] theorem setC_plan (c : Nat) (v : Ctr) (s : State) : (setC c v s).plan = s.plan := rfl
@[simp] theorem setC_queues (c : Nat) (v : Ctr) (s : State) : (setC c v s).queues = s.queues := rfl
@[simp] theorem setC_rings (c : Nat) (v : Ctr) (s : State) : (setC c v s).rings = s.rings := rfl
@[simp] theorem setC_ctrs (c : Nat) (v : Ctr) (s : State) : (setC c v s).ctrs = if v = Ctr.free then mdel s.ctrs c else mput s.ctrs c v := rfl
@[simp] theorem setC_hbm (c : Nat) (v : Ctr) (s : State) : (setC c v s).hbm = s.hbm := rfl
@[simp] theorem setC_poison (c : Nat) (v : Ctr) (s : State) : (setC c v s).poison = s.poison := rfl
@[simp] theorem setC_host (c : Nat) (v : Ctr) (s : State) : (setC c v s).host = s.host := rfl
@[simp] theorem setC_hostPoison (c : Nat) (v : Ctr) (s : State) : (setC c v s).hostPoison = s.hostPoison := rfl
@[simp] theorem setC_sram (c : Nat) (v : Ctr) (s : State) : (setC c v s).sram = s.sram := rfl
@[simp] theorem setC_sramPoison (c : Nat) (v : Ctr) (s : State) : (setC c v s).sramPoison = s.sramPoison := rfl
@[simp] theorem setC_memctl (c : Nat) (v : Ctr) (s : State) : (setC c v s).memctl = s.memctl := rfl
@[simp] theorem setC_lines (c : Nat) (v : Ctr) (s : State) : (setC c v s).lines = s.lines := rfl
@[simp] theorem setC_culture (c : Nat) (v : Ctr) (s : State) : (setC c v s).culture = s.culture := rfl
@[simp] theorem setC_rc (c : Nat) (v : Ctr) (s : State) : (setC c v s).rc = s.rc := rfl
@[simp] theorem setC_index (c : Nat) (v : Ctr) (s : State) : (setC c v s).index = s.index := rfl
@[simp] theorem setC_press (c : Nat) (v : Ctr) (s : State) : (setC c v s).press = s.press := rfl
@[simp] theorem setC_sticky (c : Nat) (v : Ctr) (s : State) : (setC c v s).sticky = s.sticky := rfl
@[simp] theorem setC_err (c : Nat) (v : Ctr) (s : State) : (setC c v s).err = s.err := rfl
@[simp] theorem setC_evt (c : Nat) (v : Ctr) (s : State) : (setC c v s).evt = s.evt := rfl
@[simp] theorem setC_thr (c : Nat) (v : Ctr) (s : State) : (setC c v s).thr = s.thr := rfl
@[simp] theorem setC_fmw (c : Nat) (v : Ctr) (s : State) : (setC c v s).fmw = s.fmw := rfl
@[simp] theorem setC_cave (c : Nat) (v : Ctr) (s : State) : (setC c v s).cave = s.cave := rfl
@[simp] theorem setC_fuses (c : Nat) (v : Ctr) (s : State) : (setC c v s).fuses = s.fuses := rfl
@[simp] theorem setC_sec (c : Nat) (v : Ctr) (s : State) : (setC c v s).sec = s.sec := rfl
@[simp] theorem setC_fw (c : Nat) (v : Ctr) (s : State) : (setC c v s).fw = s.fw := rfl
@[simp] theorem setC_power (c : Nat) (v : Ctr) (s : State) : (setC c v s).power = s.power := rfl
@[simp] theorem setC_fabric (c : Nat) (v : Ctr) (s : State) : (setC c v s).fabric = s.fabric := rfl
@[simp] theorem setC_cxl (c : Nat) (v : Ctr) (s : State) : (setC c v s).cxl = s.cxl := rfl
@[simp] theorem setC_svc (c : Nat) (v : Ctr) (s : State) : (setC c v s).svc = s.svc := rfl
@[simp] theorem setC_ageing (c : Nat) (v : Ctr) (s : State) : (setC c v s).ageing = s.ageing := rfl
@[simp] theorem setC_packages (c : Nat) (v : Ctr) (s : State) : (setC c v s).packages = s.packages := rfl
@[simp] theorem setC_sent (c : Nat) (v : Ctr) (s : State) : (setC c v s).sent = s.sent := rfl
@[simp] theorem setC_free (c : Nat) (v : Ctr) (s : State) : (setC c v s).free = s.free := rfl

/-! ### modC -/

@[simp] theorem modC_pending (c : Nat) (f : Ctr → Ctr) (s : State) : (modC c f s).pending = s.pending := rfl
@[simp] theorem modC_start (c : Nat) (f : Ctr → Ctr) (s : State) : (modC c f s).start = s.start := rfl
@[simp] theorem modC_tick (c : Nat) (f : Ctr → Ctr) (s : State) : (modC c f s).tick = s.tick := rfl
@[simp] theorem modC_plan (c : Nat) (f : Ctr → Ctr) (s : State) : (modC c f s).plan = s.plan := rfl
@[simp] theorem modC_queues (c : Nat) (f : Ctr → Ctr) (s : State) : (modC c f s).queues = s.queues := rfl
@[simp] theorem modC_rings (c : Nat) (f : Ctr → Ctr) (s : State) : (modC c f s).rings = s.rings := rfl
@[simp] theorem modC_ctrs (c : Nat) (f : Ctr → Ctr) (s : State) : (modC c f s).ctrs = (setC c (f (getC s c)) s).ctrs := rfl
@[simp] theorem modC_hbm (c : Nat) (f : Ctr → Ctr) (s : State) : (modC c f s).hbm = s.hbm := rfl
@[simp] theorem modC_poison (c : Nat) (f : Ctr → Ctr) (s : State) : (modC c f s).poison = s.poison := rfl
@[simp] theorem modC_host (c : Nat) (f : Ctr → Ctr) (s : State) : (modC c f s).host = s.host := rfl
@[simp] theorem modC_hostPoison (c : Nat) (f : Ctr → Ctr) (s : State) : (modC c f s).hostPoison = s.hostPoison := rfl
@[simp] theorem modC_sram (c : Nat) (f : Ctr → Ctr) (s : State) : (modC c f s).sram = s.sram := rfl
@[simp] theorem modC_sramPoison (c : Nat) (f : Ctr → Ctr) (s : State) : (modC c f s).sramPoison = s.sramPoison := rfl
@[simp] theorem modC_memctl (c : Nat) (f : Ctr → Ctr) (s : State) : (modC c f s).memctl = s.memctl := rfl
@[simp] theorem modC_lines (c : Nat) (f : Ctr → Ctr) (s : State) : (modC c f s).lines = s.lines := rfl
@[simp] theorem modC_culture (c : Nat) (f : Ctr → Ctr) (s : State) : (modC c f s).culture = s.culture := rfl
@[simp] theorem modC_rc (c : Nat) (f : Ctr → Ctr) (s : State) : (modC c f s).rc = s.rc := rfl
@[simp] theorem modC_index (c : Nat) (f : Ctr → Ctr) (s : State) : (modC c f s).index = s.index := rfl
@[simp] theorem modC_press (c : Nat) (f : Ctr → Ctr) (s : State) : (modC c f s).press = s.press := rfl
@[simp] theorem modC_sticky (c : Nat) (f : Ctr → Ctr) (s : State) : (modC c f s).sticky = s.sticky := rfl
@[simp] theorem modC_err (c : Nat) (f : Ctr → Ctr) (s : State) : (modC c f s).err = s.err := rfl
@[simp] theorem modC_evt (c : Nat) (f : Ctr → Ctr) (s : State) : (modC c f s).evt = s.evt := rfl
@[simp] theorem modC_thr (c : Nat) (f : Ctr → Ctr) (s : State) : (modC c f s).thr = s.thr := rfl
@[simp] theorem modC_fmw (c : Nat) (f : Ctr → Ctr) (s : State) : (modC c f s).fmw = s.fmw := rfl
@[simp] theorem modC_cave (c : Nat) (f : Ctr → Ctr) (s : State) : (modC c f s).cave = s.cave := rfl
@[simp] theorem modC_fuses (c : Nat) (f : Ctr → Ctr) (s : State) : (modC c f s).fuses = s.fuses := rfl
@[simp] theorem modC_sec (c : Nat) (f : Ctr → Ctr) (s : State) : (modC c f s).sec = s.sec := rfl
@[simp] theorem modC_fw (c : Nat) (f : Ctr → Ctr) (s : State) : (modC c f s).fw = s.fw := rfl
@[simp] theorem modC_power (c : Nat) (f : Ctr → Ctr) (s : State) : (modC c f s).power = s.power := rfl
@[simp] theorem modC_fabric (c : Nat) (f : Ctr → Ctr) (s : State) : (modC c f s).fabric = s.fabric := rfl
@[simp] theorem modC_cxl (c : Nat) (f : Ctr → Ctr) (s : State) : (modC c f s).cxl = s.cxl := rfl
@[simp] theorem modC_svc (c : Nat) (f : Ctr → Ctr) (s : State) : (modC c f s).svc = s.svc := rfl
@[simp] theorem modC_ageing (c : Nat) (f : Ctr → Ctr) (s : State) : (modC c f s).ageing = s.ageing := rfl
@[simp] theorem modC_packages (c : Nat) (f : Ctr → Ctr) (s : State) : (modC c f s).packages = s.packages := rfl
@[simp] theorem modC_sent (c : Nat) (f : Ctr → Ctr) (s : State) : (modC c f s).sent = s.sent := rfl
@[simp] theorem modC_free (c : Nat) (f : Ctr → Ctr) (s : State) : (modC c f s).free = s.free := rfl

/-! ### modOp -/

@[simp] theorem modOp_pending (q : Nat) (i : U32) (f : Op → Op) (s : State) : (modOp q i f s).pending = s.pending := rfl
@[simp] theorem modOp_start (q : Nat) (i : U32) (f : Op → Op) (s : State) : (modOp q i f s).start = s.start := rfl
@[simp] theorem modOp_tick (q : Nat) (i : U32) (f : Op → Op) (s : State) : (modOp q i f s).tick = s.tick := rfl
@[simp] theorem modOp_plan (q : Nat) (i : U32) (f : Op → Op) (s : State) : (modOp q i f s).plan = s.plan := rfl
@[simp] theorem modOp_rings (q : Nat) (i : U32) (f : Op → Op) (s : State) : (modOp q i f s).rings = s.rings := rfl
@[simp] theorem modOp_ctrs (q : Nat) (i : U32) (f : Op → Op) (s : State) : (modOp q i f s).ctrs = s.ctrs := rfl
@[simp] theorem modOp_hbm (q : Nat) (i : U32) (f : Op → Op) (s : State) : (modOp q i f s).hbm = s.hbm := rfl
@[simp] theorem modOp_poison (q : Nat) (i : U32) (f : Op → Op) (s : State) : (modOp q i f s).poison = s.poison := rfl
@[simp] theorem modOp_host (q : Nat) (i : U32) (f : Op → Op) (s : State) : (modOp q i f s).host = s.host := rfl
@[simp] theorem modOp_hostPoison (q : Nat) (i : U32) (f : Op → Op) (s : State) : (modOp q i f s).hostPoison = s.hostPoison := rfl
@[simp] theorem modOp_sram (q : Nat) (i : U32) (f : Op → Op) (s : State) : (modOp q i f s).sram = s.sram := rfl
@[simp] theorem modOp_sramPoison (q : Nat) (i : U32) (f : Op → Op) (s : State) : (modOp q i f s).sramPoison = s.sramPoison := rfl
@[simp] theorem modOp_memctl (q : Nat) (i : U32) (f : Op → Op) (s : State) : (modOp q i f s).memctl = s.memctl := rfl
@[simp] theorem modOp_lines (q : Nat) (i : U32) (f : Op → Op) (s : State) : (modOp q i f s).lines = s.lines := rfl
@[simp] theorem modOp_culture (q : Nat) (i : U32) (f : Op → Op) (s : State) : (modOp q i f s).culture = s.culture := rfl
@[simp] theorem modOp_rc (q : Nat) (i : U32) (f : Op → Op) (s : State) : (modOp q i f s).rc = s.rc := rfl
@[simp] theorem modOp_index (q : Nat) (i : U32) (f : Op → Op) (s : State) : (modOp q i f s).index = s.index := rfl
@[simp] theorem modOp_press (q : Nat) (i : U32) (f : Op → Op) (s : State) : (modOp q i f s).press = s.press := rfl
@[simp] theorem modOp_sticky (q : Nat) (i : U32) (f : Op → Op) (s : State) : (modOp q i f s).sticky = s.sticky := rfl
@[simp] theorem modOp_err (q : Nat) (i : U32) (f : Op → Op) (s : State) : (modOp q i f s).err = s.err := rfl
@[simp] theorem modOp_evt (q : Nat) (i : U32) (f : Op → Op) (s : State) : (modOp q i f s).evt = s.evt := rfl
@[simp] theorem modOp_thr (q : Nat) (i : U32) (f : Op → Op) (s : State) : (modOp q i f s).thr = s.thr := rfl
@[simp] theorem modOp_fmw (q : Nat) (i : U32) (f : Op → Op) (s : State) : (modOp q i f s).fmw = s.fmw := rfl
@[simp] theorem modOp_cave (q : Nat) (i : U32) (f : Op → Op) (s : State) : (modOp q i f s).cave = s.cave := rfl
@[simp] theorem modOp_fuses (q : Nat) (i : U32) (f : Op → Op) (s : State) : (modOp q i f s).fuses = s.fuses := rfl
@[simp] theorem modOp_sec (q : Nat) (i : U32) (f : Op → Op) (s : State) : (modOp q i f s).sec = s.sec := rfl
@[simp] theorem modOp_fw (q : Nat) (i : U32) (f : Op → Op) (s : State) : (modOp q i f s).fw = s.fw := rfl
@[simp] theorem modOp_power (q : Nat) (i : U32) (f : Op → Op) (s : State) : (modOp q i f s).power = s.power := rfl
@[simp] theorem modOp_fabric (q : Nat) (i : U32) (f : Op → Op) (s : State) : (modOp q i f s).fabric = s.fabric := rfl
@[simp] theorem modOp_cxl (q : Nat) (i : U32) (f : Op → Op) (s : State) : (modOp q i f s).cxl = s.cxl := rfl
@[simp] theorem modOp_svc (q : Nat) (i : U32) (f : Op → Op) (s : State) : (modOp q i f s).svc = s.svc := rfl
@[simp] theorem modOp_ageing (q : Nat) (i : U32) (f : Op → Op) (s : State) : (modOp q i f s).ageing = s.ageing := rfl
@[simp] theorem modOp_packages (q : Nat) (i : U32) (f : Op → Op) (s : State) : (modOp q i f s).packages = s.packages := rfl
@[simp] theorem modOp_sent (q : Nat) (i : U32) (f : Op → Op) (s : State) : (modOp q i f s).sent = s.sent := rfl
@[simp] theorem modOp_free (q : Nat) (i : U32) (f : Op → Op) (s : State) : (modOp q i f s).free = s.free := rfl

/-! ### finishOp -/

@[simp] theorem finishOp_pending (q : Nat) (i : U32) (st : Status) (d : Nat) (s : State) : (finishOp q i st d s).pending = s.pending := rfl
@[simp] theorem finishOp_start (q : Nat) (i : U32) (st : Status) (d : Nat) (s : State) : (finishOp q i st d s).start = s.start := rfl
@[simp] theorem finishOp_tick (q : Nat) (i : U32) (st : Status) (d : Nat) (s : State) : (finishOp q i st d s).tick = s.tick := rfl
@[simp] theorem finishOp_plan (q : Nat) (i : U32) (st : Status) (d : Nat) (s : State) : (finishOp q i st d s).plan = s.plan := rfl
@[simp] theorem finishOp_rings (q : Nat) (i : U32) (st : Status) (d : Nat) (s : State) : (finishOp q i st d s).rings = s.rings := rfl
@[simp] theorem finishOp_ctrs (q : Nat) (i : U32) (st : Status) (d : Nat) (s : State) : (finishOp q i st d s).ctrs = s.ctrs := rfl
@[simp] theorem finishOp_hbm (q : Nat) (i : U32) (st : Status) (d : Nat) (s : State) : (finishOp q i st d s).hbm = s.hbm := rfl
@[simp] theorem finishOp_poison (q : Nat) (i : U32) (st : Status) (d : Nat) (s : State) : (finishOp q i st d s).poison = s.poison := rfl
@[simp] theorem finishOp_host (q : Nat) (i : U32) (st : Status) (d : Nat) (s : State) : (finishOp q i st d s).host = s.host := rfl
@[simp] theorem finishOp_hostPoison (q : Nat) (i : U32) (st : Status) (d : Nat) (s : State) : (finishOp q i st d s).hostPoison = s.hostPoison := rfl
@[simp] theorem finishOp_sram (q : Nat) (i : U32) (st : Status) (d : Nat) (s : State) : (finishOp q i st d s).sram = s.sram := rfl
@[simp] theorem finishOp_sramPoison (q : Nat) (i : U32) (st : Status) (d : Nat) (s : State) : (finishOp q i st d s).sramPoison = s.sramPoison := rfl
@[simp] theorem finishOp_memctl (q : Nat) (i : U32) (st : Status) (d : Nat) (s : State) : (finishOp q i st d s).memctl = s.memctl := rfl
@[simp] theorem finishOp_lines (q : Nat) (i : U32) (st : Status) (d : Nat) (s : State) : (finishOp q i st d s).lines = s.lines := rfl
@[simp] theorem finishOp_culture (q : Nat) (i : U32) (st : Status) (d : Nat) (s : State) : (finishOp q i st d s).culture = s.culture := rfl
@[simp] theorem finishOp_rc (q : Nat) (i : U32) (st : Status) (d : Nat) (s : State) : (finishOp q i st d s).rc = s.rc := rfl
@[simp] theorem finishOp_index (q : Nat) (i : U32) (st : Status) (d : Nat) (s : State) : (finishOp q i st d s).index = s.index := rfl
@[simp] theorem finishOp_press (q : Nat) (i : U32) (st : Status) (d : Nat) (s : State) : (finishOp q i st d s).press = s.press := rfl
@[simp] theorem finishOp_sticky (q : Nat) (i : U32) (st : Status) (d : Nat) (s : State) : (finishOp q i st d s).sticky = s.sticky := rfl
@[simp] theorem finishOp_err (q : Nat) (i : U32) (st : Status) (d : Nat) (s : State) : (finishOp q i st d s).err = s.err := rfl
@[simp] theorem finishOp_evt (q : Nat) (i : U32) (st : Status) (d : Nat) (s : State) : (finishOp q i st d s).evt = s.evt := rfl
@[simp] theorem finishOp_thr (q : Nat) (i : U32) (st : Status) (d : Nat) (s : State) : (finishOp q i st d s).thr = s.thr := rfl
@[simp] theorem finishOp_fmw (q : Nat) (i : U32) (st : Status) (d : Nat) (s : State) : (finishOp q i st d s).fmw = s.fmw := rfl
@[simp] theorem finishOp_cave (q : Nat) (i : U32) (st : Status) (d : Nat) (s : State) : (finishOp q i st d s).cave = s.cave := rfl
@[simp] theorem finishOp_fuses (q : Nat) (i : U32) (st : Status) (d : Nat) (s : State) : (finishOp q i st d s).fuses = s.fuses := rfl
@[simp] theorem finishOp_sec (q : Nat) (i : U32) (st : Status) (d : Nat) (s : State) : (finishOp q i st d s).sec = s.sec := rfl
@[simp] theorem finishOp_fw (q : Nat) (i : U32) (st : Status) (d : Nat) (s : State) : (finishOp q i st d s).fw = s.fw := rfl
@[simp] theorem finishOp_power (q : Nat) (i : U32) (st : Status) (d : Nat) (s : State) : (finishOp q i st d s).power = s.power := rfl
@[simp] theorem finishOp_fabric (q : Nat) (i : U32) (st : Status) (d : Nat) (s : State) : (finishOp q i st d s).fabric = s.fabric := rfl
@[simp] theorem finishOp_cxl (q : Nat) (i : U32) (st : Status) (d : Nat) (s : State) : (finishOp q i st d s).cxl = s.cxl := rfl
@[simp] theorem finishOp_svc (q : Nat) (i : U32) (st : Status) (d : Nat) (s : State) : (finishOp q i st d s).svc = s.svc := rfl
@[simp] theorem finishOp_ageing (q : Nat) (i : U32) (st : Status) (d : Nat) (s : State) : (finishOp q i st d s).ageing = s.ageing := rfl
@[simp] theorem finishOp_packages (q : Nat) (i : U32) (st : Status) (d : Nat) (s : State) : (finishOp q i st d s).packages = s.packages := rfl
@[simp] theorem finishOp_sent (q : Nat) (i : U32) (st : Status) (d : Nat) (s : State) : (finishOp q i st d s).sent = s.sent := rfl
@[simp] theorem finishOp_free (q : Nat) (i : U32) (st : Status) (d : Nat) (s : State) : (finishOp q i st d s).free = s.free := rfl

/-! ### setSvc -/

@[simp] theorem setSvc_pending (u : UnitId) (v : Svc) (s : State) : (setSvc u v s).pending = s.pending := rfl
@[simp] theorem setSvc_start (u : UnitId) (v : Svc) (s : State) : (setSvc u v s).start = s.start := rfl
@[simp] theorem setSvc_tick (u : UnitId) (v : Svc) (s : State) : (setSvc u v s).tick = s.tick := rfl
@[simp] theorem setSvc_plan (u : UnitId) (v : Svc) (s : State) : (setSvc u v s).plan = s.plan := rfl
@[simp] theorem setSvc_queues (u : UnitId) (v : Svc) (s : State) : (setSvc u v s).queues = s.queues := rfl
@[simp] theorem setSvc_rings (u : UnitId) (v : Svc) (s : State) : (setSvc u v s).rings = s.rings := rfl
@[simp] theorem setSvc_ctrs (u : UnitId) (v : Svc) (s : State) : (setSvc u v s).ctrs = s.ctrs := rfl
@[simp] theorem setSvc_hbm (u : UnitId) (v : Svc) (s : State) : (setSvc u v s).hbm = s.hbm := rfl
@[simp] theorem setSvc_poison (u : UnitId) (v : Svc) (s : State) : (setSvc u v s).poison = s.poison := rfl
@[simp] theorem setSvc_host (u : UnitId) (v : Svc) (s : State) : (setSvc u v s).host = s.host := rfl
@[simp] theorem setSvc_hostPoison (u : UnitId) (v : Svc) (s : State) : (setSvc u v s).hostPoison = s.hostPoison := rfl
@[simp] theorem setSvc_sram (u : UnitId) (v : Svc) (s : State) : (setSvc u v s).sram = s.sram := rfl
@[simp] theorem setSvc_sramPoison (u : UnitId) (v : Svc) (s : State) : (setSvc u v s).sramPoison = s.sramPoison := rfl
@[simp] theorem setSvc_memctl (u : UnitId) (v : Svc) (s : State) : (setSvc u v s).memctl = s.memctl := rfl
@[simp] theorem setSvc_lines (u : UnitId) (v : Svc) (s : State) : (setSvc u v s).lines = s.lines := rfl
@[simp] theorem setSvc_culture (u : UnitId) (v : Svc) (s : State) : (setSvc u v s).culture = s.culture := rfl
@[simp] theorem setSvc_rc (u : UnitId) (v : Svc) (s : State) : (setSvc u v s).rc = s.rc := rfl
@[simp] theorem setSvc_index (u : UnitId) (v : Svc) (s : State) : (setSvc u v s).index = s.index := rfl
@[simp] theorem setSvc_press (u : UnitId) (v : Svc) (s : State) : (setSvc u v s).press = s.press := rfl
@[simp] theorem setSvc_sticky (u : UnitId) (v : Svc) (s : State) : (setSvc u v s).sticky = s.sticky := rfl
@[simp] theorem setSvc_err (u : UnitId) (v : Svc) (s : State) : (setSvc u v s).err = s.err := rfl
@[simp] theorem setSvc_evt (u : UnitId) (v : Svc) (s : State) : (setSvc u v s).evt = s.evt := rfl
@[simp] theorem setSvc_thr (u : UnitId) (v : Svc) (s : State) : (setSvc u v s).thr = s.thr := rfl
@[simp] theorem setSvc_fmw (u : UnitId) (v : Svc) (s : State) : (setSvc u v s).fmw = s.fmw := rfl
@[simp] theorem setSvc_cave (u : UnitId) (v : Svc) (s : State) : (setSvc u v s).cave = s.cave := rfl
@[simp] theorem setSvc_fuses (u : UnitId) (v : Svc) (s : State) : (setSvc u v s).fuses = s.fuses := rfl
@[simp] theorem setSvc_sec (u : UnitId) (v : Svc) (s : State) : (setSvc u v s).sec = s.sec := rfl
@[simp] theorem setSvc_fw (u : UnitId) (v : Svc) (s : State) : (setSvc u v s).fw = s.fw := rfl
@[simp] theorem setSvc_power (u : UnitId) (v : Svc) (s : State) : (setSvc u v s).power = s.power := rfl
@[simp] theorem setSvc_fabric (u : UnitId) (v : Svc) (s : State) : (setSvc u v s).fabric = s.fabric := rfl
@[simp] theorem setSvc_cxl (u : UnitId) (v : Svc) (s : State) : (setSvc u v s).cxl = s.cxl := rfl
@[simp] theorem setSvc_svc (u : UnitId) (v : Svc) (s : State) : (setSvc u v s).svc = aset s.svc u v := rfl
@[simp] theorem setSvc_ageing (u : UnitId) (v : Svc) (s : State) : (setSvc u v s).ageing = s.ageing := rfl
@[simp] theorem setSvc_packages (u : UnitId) (v : Svc) (s : State) : (setSvc u v s).packages = s.packages := rfl
@[simp] theorem setSvc_sent (u : UnitId) (v : Svc) (s : State) : (setSvc u v s).sent = s.sent := rfl
@[simp] theorem setSvc_free (u : UnitId) (v : Svc) (s : State) : (setSvc u v s).free = s.free := rfl

/-! ### modTick -/

@[simp] theorem modTick_pending (f : Tick → Tick) (s : State) : (modTick f s).pending = s.pending := rfl
@[simp] theorem modTick_start (f : Tick → Tick) (s : State) : (modTick f s).start = s.start := rfl
@[simp] theorem modTick_tick (f : Tick → Tick) (s : State) : (modTick f s).tick = f s.tick := rfl
@[simp] theorem modTick_plan (f : Tick → Tick) (s : State) : (modTick f s).plan = s.plan := rfl
@[simp] theorem modTick_queues (f : Tick → Tick) (s : State) : (modTick f s).queues = s.queues := rfl
@[simp] theorem modTick_rings (f : Tick → Tick) (s : State) : (modTick f s).rings = s.rings := rfl
@[simp] theorem modTick_ctrs (f : Tick → Tick) (s : State) : (modTick f s).ctrs = s.ctrs := rfl
@[simp] theorem modTick_hbm (f : Tick → Tick) (s : State) : (modTick f s).hbm = s.hbm := rfl
@[simp] theorem modTick_poison (f : Tick → Tick) (s : State) : (modTick f s).poison = s.poison := rfl
@[simp] theorem modTick_host (f : Tick → Tick) (s : State) : (modTick f s).host = s.host := rfl
@[simp] theorem modTick_hostPoison (f : Tick → Tick) (s : State) : (modTick f s).hostPoison = s.hostPoison := rfl
@[simp] theorem modTick_sram (f : Tick → Tick) (s : State) : (modTick f s).sram = s.sram := rfl
@[simp] theorem modTick_sramPoison (f : Tick → Tick) (s : State) : (modTick f s).sramPoison = s.sramPoison := rfl
@[simp] theorem modTick_memctl (f : Tick → Tick) (s : State) : (modTick f s).memctl = s.memctl := rfl
@[simp] theorem modTick_lines (f : Tick → Tick) (s : State) : (modTick f s).lines = s.lines := rfl
@[simp] theorem modTick_culture (f : Tick → Tick) (s : State) : (modTick f s).culture = s.culture := rfl
@[simp] theorem modTick_rc (f : Tick → Tick) (s : State) : (modTick f s).rc = s.rc := rfl
@[simp] theorem modTick_index (f : Tick → Tick) (s : State) : (modTick f s).index = s.index := rfl
@[simp] theorem modTick_press (f : Tick → Tick) (s : State) : (modTick f s).press = s.press := rfl
@[simp] theorem modTick_sticky (f : Tick → Tick) (s : State) : (modTick f s).sticky = s.sticky := rfl
@[simp] theorem modTick_err (f : Tick → Tick) (s : State) : (modTick f s).err = s.err := rfl
@[simp] theorem modTick_evt (f : Tick → Tick) (s : State) : (modTick f s).evt = s.evt := rfl
@[simp] theorem modTick_thr (f : Tick → Tick) (s : State) : (modTick f s).thr = s.thr := rfl
@[simp] theorem modTick_fmw (f : Tick → Tick) (s : State) : (modTick f s).fmw = s.fmw := rfl
@[simp] theorem modTick_cave (f : Tick → Tick) (s : State) : (modTick f s).cave = s.cave := rfl
@[simp] theorem modTick_fuses (f : Tick → Tick) (s : State) : (modTick f s).fuses = s.fuses := rfl
@[simp] theorem modTick_sec (f : Tick → Tick) (s : State) : (modTick f s).sec = s.sec := rfl
@[simp] theorem modTick_fw (f : Tick → Tick) (s : State) : (modTick f s).fw = s.fw := rfl
@[simp] theorem modTick_power (f : Tick → Tick) (s : State) : (modTick f s).power = s.power := rfl
@[simp] theorem modTick_fabric (f : Tick → Tick) (s : State) : (modTick f s).fabric = s.fabric := rfl
@[simp] theorem modTick_cxl (f : Tick → Tick) (s : State) : (modTick f s).cxl = s.cxl := rfl
@[simp] theorem modTick_svc (f : Tick → Tick) (s : State) : (modTick f s).svc = s.svc := rfl
@[simp] theorem modTick_ageing (f : Tick → Tick) (s : State) : (modTick f s).ageing = s.ageing := rfl
@[simp] theorem modTick_packages (f : Tick → Tick) (s : State) : (modTick f s).packages = s.packages := rfl
@[simp] theorem modTick_sent (f : Tick → Tick) (s : State) : (modTick f s).sent = s.sent := rfl
@[simp] theorem modTick_free (f : Tick → Tick) (s : State) : (modTick f s).free = s.free := rfl

/-! ### modStart -/

@[simp] theorem modStart_pending (f : Start → Start) (s : State) : (modStart f s).pending = s.pending := rfl
@[simp] theorem modStart_start (f : Start → Start) (s : State) : (modStart f s).start = f s.start := rfl
@[simp] theorem modStart_tick (f : Start → Start) (s : State) : (modStart f s).tick = s.tick := rfl
@[simp] theorem modStart_plan (f : Start → Start) (s : State) : (modStart f s).plan = s.plan := rfl
@[simp] theorem modStart_queues (f : Start → Start) (s : State) : (modStart f s).queues = s.queues := rfl
@[simp] theorem modStart_rings (f : Start → Start) (s : State) : (modStart f s).rings = s.rings := rfl
@[simp] theorem modStart_ctrs (f : Start → Start) (s : State) : (modStart f s).ctrs = s.ctrs := rfl
@[simp] theorem modStart_hbm (f : Start → Start) (s : State) : (modStart f s).hbm = s.hbm := rfl
@[simp] theorem modStart_poison (f : Start → Start) (s : State) : (modStart f s).poison = s.poison := rfl
@[simp] theorem modStart_host (f : Start → Start) (s : State) : (modStart f s).host = s.host := rfl
@[simp] theorem modStart_hostPoison (f : Start → Start) (s : State) : (modStart f s).hostPoison = s.hostPoison := rfl
@[simp] theorem modStart_sram (f : Start → Start) (s : State) : (modStart f s).sram = s.sram := rfl
@[simp] theorem modStart_sramPoison (f : Start → Start) (s : State) : (modStart f s).sramPoison = s.sramPoison := rfl
@[simp] theorem modStart_memctl (f : Start → Start) (s : State) : (modStart f s).memctl = s.memctl := rfl
@[simp] theorem modStart_lines (f : Start → Start) (s : State) : (modStart f s).lines = s.lines := rfl
@[simp] theorem modStart_culture (f : Start → Start) (s : State) : (modStart f s).culture = s.culture := rfl
@[simp] theorem modStart_rc (f : Start → Start) (s : State) : (modStart f s).rc = s.rc := rfl
@[simp] theorem modStart_index (f : Start → Start) (s : State) : (modStart f s).index = s.index := rfl
@[simp] theorem modStart_press (f : Start → Start) (s : State) : (modStart f s).press = s.press := rfl
@[simp] theorem modStart_sticky (f : Start → Start) (s : State) : (modStart f s).sticky = s.sticky := rfl
@[simp] theorem modStart_err (f : Start → Start) (s : State) : (modStart f s).err = s.err := rfl
@[simp] theorem modStart_evt (f : Start → Start) (s : State) : (modStart f s).evt = s.evt := rfl
@[simp] theorem modStart_thr (f : Start → Start) (s : State) : (modStart f s).thr = s.thr := rfl
@[simp] theorem modStart_fmw (f : Start → Start) (s : State) : (modStart f s).fmw = s.fmw := rfl
@[simp] theorem modStart_cave (f : Start → Start) (s : State) : (modStart f s).cave = s.cave := rfl
@[simp] theorem modStart_fuses (f : Start → Start) (s : State) : (modStart f s).fuses = s.fuses := rfl
@[simp] theorem modStart_sec (f : Start → Start) (s : State) : (modStart f s).sec = s.sec := rfl
@[simp] theorem modStart_fw (f : Start → Start) (s : State) : (modStart f s).fw = s.fw := rfl
@[simp] theorem modStart_power (f : Start → Start) (s : State) : (modStart f s).power = s.power := rfl
@[simp] theorem modStart_fabric (f : Start → Start) (s : State) : (modStart f s).fabric = s.fabric := rfl
@[simp] theorem modStart_cxl (f : Start → Start) (s : State) : (modStart f s).cxl = s.cxl := rfl
@[simp] theorem modStart_svc (f : Start → Start) (s : State) : (modStart f s).svc = s.svc := rfl
@[simp] theorem modStart_ageing (f : Start → Start) (s : State) : (modStart f s).ageing = s.ageing := rfl
@[simp] theorem modStart_packages (f : Start → Start) (s : State) : (modStart f s).packages = s.packages := rfl
@[simp] theorem modStart_sent (f : Start → Start) (s : State) : (modStart f s).sent = s.sent := rfl
@[simp] theorem modStart_free (f : Start → Start) (s : State) : (modStart f s).free = s.free := rfl

/-! ### modPower -/

@[simp] theorem modPower_pending (f : Power → Power) (s : State) : (modPower f s).pending = s.pending := rfl
@[simp] theorem modPower_start (f : Power → Power) (s : State) : (modPower f s).start = s.start := rfl
@[simp] theorem modPower_tick (f : Power → Power) (s : State) : (modPower f s).tick = s.tick := rfl
@[simp] theorem modPower_plan (f : Power → Power) (s : State) : (modPower f s).plan = s.plan := rfl
@[simp] theorem modPower_queues (f : Power → Power) (s : State) : (modPower f s).queues = s.queues := rfl
@[simp] theorem modPower_rings (f : Power → Power) (s : State) : (modPower f s).rings = s.rings := rfl
@[simp] theorem modPower_ctrs (f : Power → Power) (s : State) : (modPower f s).ctrs = s.ctrs := rfl
@[simp] theorem modPower_hbm (f : Power → Power) (s : State) : (modPower f s).hbm = s.hbm := rfl
@[simp] theorem modPower_poison (f : Power → Power) (s : State) : (modPower f s).poison = s.poison := rfl
@[simp] theorem modPower_host (f : Power → Power) (s : State) : (modPower f s).host = s.host := rfl
@[simp] theorem modPower_hostPoison (f : Power → Power) (s : State) : (modPower f s).hostPoison = s.hostPoison := rfl
@[simp] theorem modPower_sram (f : Power → Power) (s : State) : (modPower f s).sram = s.sram := rfl
@[simp] theorem modPower_sramPoison (f : Power → Power) (s : State) : (modPower f s).sramPoison = s.sramPoison := rfl
@[simp] theorem modPower_memctl (f : Power → Power) (s : State) : (modPower f s).memctl = s.memctl := rfl
@[simp] theorem modPower_lines (f : Power → Power) (s : State) : (modPower f s).lines = s.lines := rfl
@[simp] theorem modPower_culture (f : Power → Power) (s : State) : (modPower f s).culture = s.culture := rfl
@[simp] theorem modPower_rc (f : Power → Power) (s : State) : (modPower f s).rc = s.rc := rfl
@[simp] theorem modPower_index (f : Power → Power) (s : State) : (modPower f s).index = s.index := rfl
@[simp] theorem modPower_press (f : Power → Power) (s : State) : (modPower f s).press = s.press := rfl
@[simp] theorem modPower_sticky (f : Power → Power) (s : State) : (modPower f s).sticky = s.sticky := rfl
@[simp] theorem modPower_err (f : Power → Power) (s : State) : (modPower f s).err = s.err := rfl
@[simp] theorem modPower_evt (f : Power → Power) (s : State) : (modPower f s).evt = s.evt := rfl
@[simp] theorem modPower_thr (f : Power → Power) (s : State) : (modPower f s).thr = s.thr := rfl
@[simp] theorem modPower_fmw (f : Power → Power) (s : State) : (modPower f s).fmw = s.fmw := rfl
@[simp] theorem modPower_cave (f : Power → Power) (s : State) : (modPower f s).cave = s.cave := rfl
@[simp] theorem modPower_fuses (f : Power → Power) (s : State) : (modPower f s).fuses = s.fuses := rfl
@[simp] theorem modPower_sec (f : Power → Power) (s : State) : (modPower f s).sec = s.sec := rfl
@[simp] theorem modPower_fw (f : Power → Power) (s : State) : (modPower f s).fw = s.fw := rfl
@[simp] theorem modPower_power (f : Power → Power) (s : State) : (modPower f s).power = f s.power := rfl
@[simp] theorem modPower_fabric (f : Power → Power) (s : State) : (modPower f s).fabric = s.fabric := rfl
@[simp] theorem modPower_cxl (f : Power → Power) (s : State) : (modPower f s).cxl = s.cxl := rfl
@[simp] theorem modPower_svc (f : Power → Power) (s : State) : (modPower f s).svc = s.svc := rfl
@[simp] theorem modPower_ageing (f : Power → Power) (s : State) : (modPower f s).ageing = s.ageing := rfl
@[simp] theorem modPower_packages (f : Power → Power) (s : State) : (modPower f s).packages = s.packages := rfl
@[simp] theorem modPower_sent (f : Power → Power) (s : State) : (modPower f s).sent = s.sent := rfl
@[simp] theorem modPower_free (f : Power → Power) (s : State) : (modPower f s).free = s.free := rfl

/-! ### modMem -/

@[simp] theorem modMem_pending (f : MemCtl → MemCtl) (s : State) : (modMem f s).pending = s.pending := rfl
@[simp] theorem modMem_start (f : MemCtl → MemCtl) (s : State) : (modMem f s).start = s.start := rfl
@[simp] theorem modMem_tick (f : MemCtl → MemCtl) (s : State) : (modMem f s).tick = s.tick := rfl
@[simp] theorem modMem_plan (f : MemCtl → MemCtl) (s : State) : (modMem f s).plan = s.plan := rfl
@[simp] theorem modMem_queues (f : MemCtl → MemCtl) (s : State) : (modMem f s).queues = s.queues := rfl
@[simp] theorem modMem_rings (f : MemCtl → MemCtl) (s : State) : (modMem f s).rings = s.rings := rfl
@[simp] theorem modMem_ctrs (f : MemCtl → MemCtl) (s : State) : (modMem f s).ctrs = s.ctrs := rfl
@[simp] theorem modMem_hbm (f : MemCtl → MemCtl) (s : State) : (modMem f s).hbm = s.hbm := rfl
@[simp] theorem modMem_poison (f : MemCtl → MemCtl) (s : State) : (modMem f s).poison = s.poison := rfl
@[simp] theorem modMem_host (f : MemCtl → MemCtl) (s : State) : (modMem f s).host = s.host := rfl
@[simp] theorem modMem_hostPoison (f : MemCtl → MemCtl) (s : State) : (modMem f s).hostPoison = s.hostPoison := rfl
@[simp] theorem modMem_sram (f : MemCtl → MemCtl) (s : State) : (modMem f s).sram = s.sram := rfl
@[simp] theorem modMem_sramPoison (f : MemCtl → MemCtl) (s : State) : (modMem f s).sramPoison = s.sramPoison := rfl
@[simp] theorem modMem_memctl (f : MemCtl → MemCtl) (s : State) : (modMem f s).memctl = f s.memctl := rfl
@[simp] theorem modMem_lines (f : MemCtl → MemCtl) (s : State) : (modMem f s).lines = s.lines := rfl
@[simp] theorem modMem_culture (f : MemCtl → MemCtl) (s : State) : (modMem f s).culture = s.culture := rfl
@[simp] theorem modMem_rc (f : MemCtl → MemCtl) (s : State) : (modMem f s).rc = s.rc := rfl
@[simp] theorem modMem_index (f : MemCtl → MemCtl) (s : State) : (modMem f s).index = s.index := rfl
@[simp] theorem modMem_press (f : MemCtl → MemCtl) (s : State) : (modMem f s).press = s.press := rfl
@[simp] theorem modMem_sticky (f : MemCtl → MemCtl) (s : State) : (modMem f s).sticky = s.sticky := rfl
@[simp] theorem modMem_err (f : MemCtl → MemCtl) (s : State) : (modMem f s).err = s.err := rfl
@[simp] theorem modMem_evt (f : MemCtl → MemCtl) (s : State) : (modMem f s).evt = s.evt := rfl
@[simp] theorem modMem_thr (f : MemCtl → MemCtl) (s : State) : (modMem f s).thr = s.thr := rfl
@[simp] theorem modMem_fmw (f : MemCtl → MemCtl) (s : State) : (modMem f s).fmw = s.fmw := rfl
@[simp] theorem modMem_cave (f : MemCtl → MemCtl) (s : State) : (modMem f s).cave = s.cave := rfl
@[simp] theorem modMem_fuses (f : MemCtl → MemCtl) (s : State) : (modMem f s).fuses = s.fuses := rfl
@[simp] theorem modMem_sec (f : MemCtl → MemCtl) (s : State) : (modMem f s).sec = s.sec := rfl
@[simp] theorem modMem_fw (f : MemCtl → MemCtl) (s : State) : (modMem f s).fw = s.fw := rfl
@[simp] theorem modMem_power (f : MemCtl → MemCtl) (s : State) : (modMem f s).power = s.power := rfl
@[simp] theorem modMem_fabric (f : MemCtl → MemCtl) (s : State) : (modMem f s).fabric = s.fabric := rfl
@[simp] theorem modMem_cxl (f : MemCtl → MemCtl) (s : State) : (modMem f s).cxl = s.cxl := rfl
@[simp] theorem modMem_svc (f : MemCtl → MemCtl) (s : State) : (modMem f s).svc = s.svc := rfl
@[simp] theorem modMem_ageing (f : MemCtl → MemCtl) (s : State) : (modMem f s).ageing = s.ageing := rfl
@[simp] theorem modMem_packages (f : MemCtl → MemCtl) (s : State) : (modMem f s).packages = s.packages := rfl
@[simp] theorem modMem_sent (f : MemCtl → MemCtl) (s : State) : (modMem f s).sent = s.sent := rfl
@[simp] theorem modMem_free (f : MemCtl → MemCtl) (s : State) : (modMem f s).free = s.free := rfl

/-! ### modCxl -/

@[simp] theorem modCxl_pending (f : Cxl → Cxl) (s : State) : (modCxl f s).pending = s.pending := rfl
@[simp] theorem modCxl_start (f : Cxl → Cxl) (s : State) : (modCxl f s).start = s.start := rfl
@[simp] theorem modCxl_tick (f : Cxl → Cxl) (s : State) : (modCxl f s).tick = s.tick := rfl
@[simp] theorem modCxl_plan (f : Cxl → Cxl) (s : State) : (modCxl f s).plan = s.plan := rfl
@[simp] theorem modCxl_queues (f : Cxl → Cxl) (s : State) : (modCxl f s).queues = s.queues := rfl
@[simp] theorem modCxl_rings (f : Cxl → Cxl) (s : State) : (modCxl f s).rings = s.rings := rfl
@[simp] theorem modCxl_ctrs (f : Cxl → Cxl) (s : State) : (modCxl f s).ctrs = s.ctrs := rfl
@[simp] theorem modCxl_hbm (f : Cxl → Cxl) (s : State) : (modCxl f s).hbm = s.hbm := rfl
@[simp] theorem modCxl_poison (f : Cxl → Cxl) (s : State) : (modCxl f s).poison = s.poison := rfl
@[simp] theorem modCxl_host (f : Cxl → Cxl) (s : State) : (modCxl f s).host = s.host := rfl
@[simp] theorem modCxl_hostPoison (f : Cxl → Cxl) (s : State) : (modCxl f s).hostPoison = s.hostPoison := rfl
@[simp] theorem modCxl_sram (f : Cxl → Cxl) (s : State) : (modCxl f s).sram = s.sram := rfl
@[simp] theorem modCxl_sramPoison (f : Cxl → Cxl) (s : State) : (modCxl f s).sramPoison = s.sramPoison := rfl
@[simp] theorem modCxl_memctl (f : Cxl → Cxl) (s : State) : (modCxl f s).memctl = s.memctl := rfl
@[simp] theorem modCxl_lines (f : Cxl → Cxl) (s : State) : (modCxl f s).lines = s.lines := rfl
@[simp] theorem modCxl_culture (f : Cxl → Cxl) (s : State) : (modCxl f s).culture = s.culture := rfl
@[simp] theorem modCxl_rc (f : Cxl → Cxl) (s : State) : (modCxl f s).rc = s.rc := rfl
@[simp] theorem modCxl_index (f : Cxl → Cxl) (s : State) : (modCxl f s).index = s.index := rfl
@[simp] theorem modCxl_press (f : Cxl → Cxl) (s : State) : (modCxl f s).press = s.press := rfl
@[simp] theorem modCxl_sticky (f : Cxl → Cxl) (s : State) : (modCxl f s).sticky = s.sticky := rfl
@[simp] theorem modCxl_err (f : Cxl → Cxl) (s : State) : (modCxl f s).err = s.err := rfl
@[simp] theorem modCxl_evt (f : Cxl → Cxl) (s : State) : (modCxl f s).evt = s.evt := rfl
@[simp] theorem modCxl_thr (f : Cxl → Cxl) (s : State) : (modCxl f s).thr = s.thr := rfl
@[simp] theorem modCxl_fmw (f : Cxl → Cxl) (s : State) : (modCxl f s).fmw = s.fmw := rfl
@[simp] theorem modCxl_cave (f : Cxl → Cxl) (s : State) : (modCxl f s).cave = s.cave := rfl
@[simp] theorem modCxl_fuses (f : Cxl → Cxl) (s : State) : (modCxl f s).fuses = s.fuses := rfl
@[simp] theorem modCxl_sec (f : Cxl → Cxl) (s : State) : (modCxl f s).sec = s.sec := rfl
@[simp] theorem modCxl_fw (f : Cxl → Cxl) (s : State) : (modCxl f s).fw = s.fw := rfl
@[simp] theorem modCxl_power (f : Cxl → Cxl) (s : State) : (modCxl f s).power = s.power := rfl
@[simp] theorem modCxl_fabric (f : Cxl → Cxl) (s : State) : (modCxl f s).fabric = s.fabric := rfl
@[simp] theorem modCxl_cxl (f : Cxl → Cxl) (s : State) : (modCxl f s).cxl = f s.cxl := rfl
@[simp] theorem modCxl_svc (f : Cxl → Cxl) (s : State) : (modCxl f s).svc = s.svc := rfl
@[simp] theorem modCxl_ageing (f : Cxl → Cxl) (s : State) : (modCxl f s).ageing = s.ageing := rfl
@[simp] theorem modCxl_packages (f : Cxl → Cxl) (s : State) : (modCxl f s).packages = s.packages := rfl
@[simp] theorem modCxl_sent (f : Cxl → Cxl) (s : State) : (modCxl f s).sent = s.sent := rfl
@[simp] theorem modCxl_free (f : Cxl → Cxl) (s : State) : (modCxl f s).free = s.free := rfl

/-! ### modPort -/

@[simp] theorem modPort_pending (p : Nat) (f : Port → Port) (s : State) : (modPort p f s).pending = s.pending := rfl
@[simp] theorem modPort_start (p : Nat) (f : Port → Port) (s : State) : (modPort p f s).start = s.start := rfl
@[simp] theorem modPort_tick (p : Nat) (f : Port → Port) (s : State) : (modPort p f s).tick = s.tick := rfl
@[simp] theorem modPort_plan (p : Nat) (f : Port → Port) (s : State) : (modPort p f s).plan = s.plan := rfl
@[simp] theorem modPort_queues (p : Nat) (f : Port → Port) (s : State) : (modPort p f s).queues = s.queues := rfl
@[simp] theorem modPort_rings (p : Nat) (f : Port → Port) (s : State) : (modPort p f s).rings = s.rings := rfl
@[simp] theorem modPort_ctrs (p : Nat) (f : Port → Port) (s : State) : (modPort p f s).ctrs = s.ctrs := rfl
@[simp] theorem modPort_hbm (p : Nat) (f : Port → Port) (s : State) : (modPort p f s).hbm = s.hbm := rfl
@[simp] theorem modPort_poison (p : Nat) (f : Port → Port) (s : State) : (modPort p f s).poison = s.poison := rfl
@[simp] theorem modPort_host (p : Nat) (f : Port → Port) (s : State) : (modPort p f s).host = s.host := rfl
@[simp] theorem modPort_hostPoison (p : Nat) (f : Port → Port) (s : State) : (modPort p f s).hostPoison = s.hostPoison := rfl
@[simp] theorem modPort_sram (p : Nat) (f : Port → Port) (s : State) : (modPort p f s).sram = s.sram := rfl
@[simp] theorem modPort_sramPoison (p : Nat) (f : Port → Port) (s : State) : (modPort p f s).sramPoison = s.sramPoison := rfl
@[simp] theorem modPort_memctl (p : Nat) (f : Port → Port) (s : State) : (modPort p f s).memctl = s.memctl := rfl
@[simp] theorem modPort_lines (p : Nat) (f : Port → Port) (s : State) : (modPort p f s).lines = s.lines := rfl
@[simp] theorem modPort_culture (p : Nat) (f : Port → Port) (s : State) : (modPort p f s).culture = s.culture := rfl
@[simp] theorem modPort_rc (p : Nat) (f : Port → Port) (s : State) : (modPort p f s).rc = s.rc := rfl
@[simp] theorem modPort_index (p : Nat) (f : Port → Port) (s : State) : (modPort p f s).index = s.index := rfl
@[simp] theorem modPort_press (p : Nat) (f : Port → Port) (s : State) : (modPort p f s).press = s.press := rfl
@[simp] theorem modPort_sticky (p : Nat) (f : Port → Port) (s : State) : (modPort p f s).sticky = s.sticky := rfl
@[simp] theorem modPort_err (p : Nat) (f : Port → Port) (s : State) : (modPort p f s).err = s.err := rfl
@[simp] theorem modPort_evt (p : Nat) (f : Port → Port) (s : State) : (modPort p f s).evt = s.evt := rfl
@[simp] theorem modPort_thr (p : Nat) (f : Port → Port) (s : State) : (modPort p f s).thr = s.thr := rfl
@[simp] theorem modPort_fmw (p : Nat) (f : Port → Port) (s : State) : (modPort p f s).fmw = s.fmw := rfl
@[simp] theorem modPort_cave (p : Nat) (f : Port → Port) (s : State) : (modPort p f s).cave = s.cave := rfl
@[simp] theorem modPort_fuses (p : Nat) (f : Port → Port) (s : State) : (modPort p f s).fuses = s.fuses := rfl
@[simp] theorem modPort_sec (p : Nat) (f : Port → Port) (s : State) : (modPort p f s).sec = s.sec := rfl
@[simp] theorem modPort_fw (p : Nat) (f : Port → Port) (s : State) : (modPort p f s).fw = s.fw := rfl
@[simp] theorem modPort_power (p : Nat) (f : Port → Port) (s : State) : (modPort p f s).power = s.power := rfl
@[simp] theorem modPort_fabric (p : Nat) (f : Port → Port) (s : State) : (modPort p f s).fabric = { s.fabric with ports := s.fabric.ports.modify p f } := rfl
@[simp] theorem modPort_cxl (p : Nat) (f : Port → Port) (s : State) : (modPort p f s).cxl = s.cxl := rfl
@[simp] theorem modPort_svc (p : Nat) (f : Port → Port) (s : State) : (modPort p f s).svc = s.svc := rfl
@[simp] theorem modPort_ageing (p : Nat) (f : Port → Port) (s : State) : (modPort p f s).ageing = s.ageing := rfl
@[simp] theorem modPort_packages (p : Nat) (f : Port → Port) (s : State) : (modPort p f s).packages = s.packages := rfl
@[simp] theorem modPort_sent (p : Nat) (f : Port → Port) (s : State) : (modPort p f s).sent = s.sent := rfl
@[simp] theorem modPort_free (p : Nat) (f : Port → Port) (s : State) : (modPort p f s).free = s.free := rfl

/-! ### modBox -/

@[simp] theorem modBox_pending (m : Nat) (f : Mailbox → Mailbox) (s : State) : (modBox m f s).pending = s.pending := rfl
@[simp] theorem modBox_start (m : Nat) (f : Mailbox → Mailbox) (s : State) : (modBox m f s).start = s.start := rfl
@[simp] theorem modBox_tick (m : Nat) (f : Mailbox → Mailbox) (s : State) : (modBox m f s).tick = s.tick := rfl
@[simp] theorem modBox_plan (m : Nat) (f : Mailbox → Mailbox) (s : State) : (modBox m f s).plan = s.plan := rfl
@[simp] theorem modBox_queues (m : Nat) (f : Mailbox → Mailbox) (s : State) : (modBox m f s).queues = s.queues := rfl
@[simp] theorem modBox_rings (m : Nat) (f : Mailbox → Mailbox) (s : State) : (modBox m f s).rings = s.rings := rfl
@[simp] theorem modBox_ctrs (m : Nat) (f : Mailbox → Mailbox) (s : State) : (modBox m f s).ctrs = s.ctrs := rfl
@[simp] theorem modBox_hbm (m : Nat) (f : Mailbox → Mailbox) (s : State) : (modBox m f s).hbm = s.hbm := rfl
@[simp] theorem modBox_poison (m : Nat) (f : Mailbox → Mailbox) (s : State) : (modBox m f s).poison = s.poison := rfl
@[simp] theorem modBox_host (m : Nat) (f : Mailbox → Mailbox) (s : State) : (modBox m f s).host = s.host := rfl
@[simp] theorem modBox_hostPoison (m : Nat) (f : Mailbox → Mailbox) (s : State) : (modBox m f s).hostPoison = s.hostPoison := rfl
@[simp] theorem modBox_sram (m : Nat) (f : Mailbox → Mailbox) (s : State) : (modBox m f s).sram = s.sram := rfl
@[simp] theorem modBox_sramPoison (m : Nat) (f : Mailbox → Mailbox) (s : State) : (modBox m f s).sramPoison = s.sramPoison := rfl
@[simp] theorem modBox_memctl (m : Nat) (f : Mailbox → Mailbox) (s : State) : (modBox m f s).memctl = s.memctl := rfl
@[simp] theorem modBox_lines (m : Nat) (f : Mailbox → Mailbox) (s : State) : (modBox m f s).lines = s.lines := rfl
@[simp] theorem modBox_culture (m : Nat) (f : Mailbox → Mailbox) (s : State) : (modBox m f s).culture = s.culture := rfl
@[simp] theorem modBox_rc (m : Nat) (f : Mailbox → Mailbox) (s : State) : (modBox m f s).rc = s.rc := rfl
@[simp] theorem modBox_index (m : Nat) (f : Mailbox → Mailbox) (s : State) : (modBox m f s).index = s.index := rfl
@[simp] theorem modBox_press (m : Nat) (f : Mailbox → Mailbox) (s : State) : (modBox m f s).press = s.press := rfl
@[simp] theorem modBox_sticky (m : Nat) (f : Mailbox → Mailbox) (s : State) : (modBox m f s).sticky = s.sticky := rfl
@[simp] theorem modBox_err (m : Nat) (f : Mailbox → Mailbox) (s : State) : (modBox m f s).err = s.err := rfl
@[simp] theorem modBox_evt (m : Nat) (f : Mailbox → Mailbox) (s : State) : (modBox m f s).evt = s.evt := rfl
@[simp] theorem modBox_thr (m : Nat) (f : Mailbox → Mailbox) (s : State) : (modBox m f s).thr = s.thr := rfl
@[simp] theorem modBox_fmw (m : Nat) (f : Mailbox → Mailbox) (s : State) : (modBox m f s).fmw = { s.fmw with boxes := s.fmw.boxes.modify m f } := rfl
@[simp] theorem modBox_cave (m : Nat) (f : Mailbox → Mailbox) (s : State) : (modBox m f s).cave = s.cave := rfl
@[simp] theorem modBox_fuses (m : Nat) (f : Mailbox → Mailbox) (s : State) : (modBox m f s).fuses = s.fuses := rfl
@[simp] theorem modBox_sec (m : Nat) (f : Mailbox → Mailbox) (s : State) : (modBox m f s).sec = s.sec := rfl
@[simp] theorem modBox_fw (m : Nat) (f : Mailbox → Mailbox) (s : State) : (modBox m f s).fw = s.fw := rfl
@[simp] theorem modBox_power (m : Nat) (f : Mailbox → Mailbox) (s : State) : (modBox m f s).power = s.power := rfl
@[simp] theorem modBox_fabric (m : Nat) (f : Mailbox → Mailbox) (s : State) : (modBox m f s).fabric = s.fabric := rfl
@[simp] theorem modBox_cxl (m : Nat) (f : Mailbox → Mailbox) (s : State) : (modBox m f s).cxl = s.cxl := rfl
@[simp] theorem modBox_svc (m : Nat) (f : Mailbox → Mailbox) (s : State) : (modBox m f s).svc = s.svc := rfl
@[simp] theorem modBox_ageing (m : Nat) (f : Mailbox → Mailbox) (s : State) : (modBox m f s).ageing = s.ageing := rfl
@[simp] theorem modBox_packages (m : Nat) (f : Mailbox → Mailbox) (s : State) : (modBox m f s).packages = s.packages := rfl
@[simp] theorem modBox_sent (m : Nat) (f : Mailbox → Mailbox) (s : State) : (modBox m f s).sent = s.sent := rfl
@[simp] theorem modBox_free (m : Nat) (f : Mailbox → Mailbox) (s : State) : (modBox m f s).free = s.free := rfl

/-! ### modSettings -/

@[simp] theorem modSettings_pending (f : Settings → Settings) (s : State) : (modSettings f s).pending = s.pending := rfl
@[simp] theorem modSettings_start (f : Settings → Settings) (s : State) : (modSettings f s).start = s.start := rfl
@[simp] theorem modSettings_tick (f : Settings → Settings) (s : State) : (modSettings f s).tick = s.tick := rfl
@[simp] theorem modSettings_plan (f : Settings → Settings) (s : State) : (modSettings f s).plan = s.plan := rfl
@[simp] theorem modSettings_queues (f : Settings → Settings) (s : State) : (modSettings f s).queues = s.queues := rfl
@[simp] theorem modSettings_rings (f : Settings → Settings) (s : State) : (modSettings f s).rings = s.rings := rfl
@[simp] theorem modSettings_ctrs (f : Settings → Settings) (s : State) : (modSettings f s).ctrs = s.ctrs := rfl
@[simp] theorem modSettings_hbm (f : Settings → Settings) (s : State) : (modSettings f s).hbm = s.hbm := rfl
@[simp] theorem modSettings_poison (f : Settings → Settings) (s : State) : (modSettings f s).poison = s.poison := rfl
@[simp] theorem modSettings_host (f : Settings → Settings) (s : State) : (modSettings f s).host = s.host := rfl
@[simp] theorem modSettings_hostPoison (f : Settings → Settings) (s : State) : (modSettings f s).hostPoison = s.hostPoison := rfl
@[simp] theorem modSettings_sram (f : Settings → Settings) (s : State) : (modSettings f s).sram = s.sram := rfl
@[simp] theorem modSettings_sramPoison (f : Settings → Settings) (s : State) : (modSettings f s).sramPoison = s.sramPoison := rfl
@[simp] theorem modSettings_memctl (f : Settings → Settings) (s : State) : (modSettings f s).memctl = s.memctl := rfl
@[simp] theorem modSettings_lines (f : Settings → Settings) (s : State) : (modSettings f s).lines = s.lines := rfl
@[simp] theorem modSettings_culture (f : Settings → Settings) (s : State) : (modSettings f s).culture = s.culture := rfl
@[simp] theorem modSettings_rc (f : Settings → Settings) (s : State) : (modSettings f s).rc = s.rc := rfl
@[simp] theorem modSettings_index (f : Settings → Settings) (s : State) : (modSettings f s).index = s.index := rfl
@[simp] theorem modSettings_press (f : Settings → Settings) (s : State) : (modSettings f s).press = s.press := rfl
@[simp] theorem modSettings_sticky (f : Settings → Settings) (s : State) : (modSettings f s).sticky = s.sticky := rfl
@[simp] theorem modSettings_err (f : Settings → Settings) (s : State) : (modSettings f s).err = s.err := rfl
@[simp] theorem modSettings_evt (f : Settings → Settings) (s : State) : (modSettings f s).evt = s.evt := rfl
@[simp] theorem modSettings_thr (f : Settings → Settings) (s : State) : (modSettings f s).thr = s.thr := rfl
@[simp] theorem modSettings_fmw (f : Settings → Settings) (s : State) : (modSettings f s).fmw = { s.fmw with settings := f s.fmw.settings } := rfl
@[simp] theorem modSettings_cave (f : Settings → Settings) (s : State) : (modSettings f s).cave = s.cave := rfl
@[simp] theorem modSettings_fuses (f : Settings → Settings) (s : State) : (modSettings f s).fuses = s.fuses := rfl
@[simp] theorem modSettings_sec (f : Settings → Settings) (s : State) : (modSettings f s).sec = s.sec := rfl
@[simp] theorem modSettings_fw (f : Settings → Settings) (s : State) : (modSettings f s).fw = s.fw := rfl
@[simp] theorem modSettings_power (f : Settings → Settings) (s : State) : (modSettings f s).power = s.power := rfl
@[simp] theorem modSettings_fabric (f : Settings → Settings) (s : State) : (modSettings f s).fabric = s.fabric := rfl
@[simp] theorem modSettings_cxl (f : Settings → Settings) (s : State) : (modSettings f s).cxl = s.cxl := rfl
@[simp] theorem modSettings_svc (f : Settings → Settings) (s : State) : (modSettings f s).svc = s.svc := rfl
@[simp] theorem modSettings_ageing (f : Settings → Settings) (s : State) : (modSettings f s).ageing = s.ageing := rfl
@[simp] theorem modSettings_packages (f : Settings → Settings) (s : State) : (modSettings f s).packages = s.packages := rfl
@[simp] theorem modSettings_sent (f : Settings → Settings) (s : State) : (modSettings f s).sent = s.sent := rfl
@[simp] theorem modSettings_free (f : Settings → Settings) (s : State) : (modSettings f s).free = s.free := rfl

/-! ### modJob -/

@[simp] theorem modJob_pending (f : Job → Job) (s : State) : (modJob f s).pending = s.pending := rfl
@[simp] theorem modJob_start (f : Job → Job) (s : State) : (modJob f s).start = s.start := rfl
@[simp] theorem modJob_tick (f : Job → Job) (s : State) : (modJob f s).tick = s.tick := rfl
@[simp] theorem modJob_plan (f : Job → Job) (s : State) : (modJob f s).plan = { s.plan with job := s.plan.job.map f } := rfl
@[simp] theorem modJob_queues (f : Job → Job) (s : State) : (modJob f s).queues = s.queues := rfl
@[simp] theorem modJob_rings (f : Job → Job) (s : State) : (modJob f s).rings = s.rings := rfl
@[simp] theorem modJob_ctrs (f : Job → Job) (s : State) : (modJob f s).ctrs = s.ctrs := rfl
@[simp] theorem modJob_hbm (f : Job → Job) (s : State) : (modJob f s).hbm = s.hbm := rfl
@[simp] theorem modJob_poison (f : Job → Job) (s : State) : (modJob f s).poison = s.poison := rfl
@[simp] theorem modJob_host (f : Job → Job) (s : State) : (modJob f s).host = s.host := rfl
@[simp] theorem modJob_hostPoison (f : Job → Job) (s : State) : (modJob f s).hostPoison = s.hostPoison := rfl
@[simp] theorem modJob_sram (f : Job → Job) (s : State) : (modJob f s).sram = s.sram := rfl
@[simp] theorem modJob_sramPoison (f : Job → Job) (s : State) : (modJob f s).sramPoison = s.sramPoison := rfl
@[simp] theorem modJob_memctl (f : Job → Job) (s : State) : (modJob f s).memctl = s.memctl := rfl
@[simp] theorem modJob_lines (f : Job → Job) (s : State) : (modJob f s).lines = s.lines := rfl
@[simp] theorem modJob_culture (f : Job → Job) (s : State) : (modJob f s).culture = s.culture := rfl
@[simp] theorem modJob_rc (f : Job → Job) (s : State) : (modJob f s).rc = s.rc := rfl
@[simp] theorem modJob_index (f : Job → Job) (s : State) : (modJob f s).index = s.index := rfl
@[simp] theorem modJob_press (f : Job → Job) (s : State) : (modJob f s).press = s.press := rfl
@[simp] theorem modJob_sticky (f : Job → Job) (s : State) : (modJob f s).sticky = s.sticky := rfl
@[simp] theorem modJob_err (f : Job → Job) (s : State) : (modJob f s).err = s.err := rfl
@[simp] theorem modJob_evt (f : Job → Job) (s : State) : (modJob f s).evt = s.evt := rfl
@[simp] theorem modJob_thr (f : Job → Job) (s : State) : (modJob f s).thr = s.thr := rfl
@[simp] theorem modJob_fmw (f : Job → Job) (s : State) : (modJob f s).fmw = s.fmw := rfl
@[simp] theorem modJob_cave (f : Job → Job) (s : State) : (modJob f s).cave = s.cave := rfl
@[simp] theorem modJob_fuses (f : Job → Job) (s : State) : (modJob f s).fuses = s.fuses := rfl
@[simp] theorem modJob_sec (f : Job → Job) (s : State) : (modJob f s).sec = s.sec := rfl
@[simp] theorem modJob_fw (f : Job → Job) (s : State) : (modJob f s).fw = s.fw := rfl
@[simp] theorem modJob_power (f : Job → Job) (s : State) : (modJob f s).power = s.power := rfl
@[simp] theorem modJob_fabric (f : Job → Job) (s : State) : (modJob f s).fabric = s.fabric := rfl
@[simp] theorem modJob_cxl (f : Job → Job) (s : State) : (modJob f s).cxl = s.cxl := rfl
@[simp] theorem modJob_svc (f : Job → Job) (s : State) : (modJob f s).svc = s.svc := rfl
@[simp] theorem modJob_ageing (f : Job → Job) (s : State) : (modJob f s).ageing = s.ageing := rfl
@[simp] theorem modJob_packages (f : Job → Job) (s : State) : (modJob f s).packages = s.packages := rfl
@[simp] theorem modJob_sent (f : Job → Job) (s : State) : (modJob f s).sent = s.sent := rfl
@[simp] theorem modJob_free (f : Job → Job) (s : State) : (modJob f s).free = s.free := rfl

/-! ### modUnit -/

@[simp] theorem modUnit_pending (u : UnitId) (f : UnitRun → UnitRun) (s : State) : (modUnit u f s).pending = s.pending := rfl
@[simp] theorem modUnit_start (u : UnitId) (f : UnitRun → UnitRun) (s : State) : (modUnit u f s).start = s.start := rfl
@[simp] theorem modUnit_tick (u : UnitId) (f : UnitRun → UnitRun) (s : State) : (modUnit u f s).tick = s.tick := rfl
@[simp] theorem modUnit_queues (u : UnitId) (f : UnitRun → UnitRun) (s : State) : (modUnit u f s).queues = s.queues := rfl
@[simp] theorem modUnit_rings (u : UnitId) (f : UnitRun → UnitRun) (s : State) : (modUnit u f s).rings = s.rings := rfl
@[simp] theorem modUnit_ctrs (u : UnitId) (f : UnitRun → UnitRun) (s : State) : (modUnit u f s).ctrs = s.ctrs := rfl
@[simp] theorem modUnit_hbm (u : UnitId) (f : UnitRun → UnitRun) (s : State) : (modUnit u f s).hbm = s.hbm := rfl
@[simp] theorem modUnit_poison (u : UnitId) (f : UnitRun → UnitRun) (s : State) : (modUnit u f s).poison = s.poison := rfl
@[simp] theorem modUnit_host (u : UnitId) (f : UnitRun → UnitRun) (s : State) : (modUnit u f s).host = s.host := rfl
@[simp] theorem modUnit_hostPoison (u : UnitId) (f : UnitRun → UnitRun) (s : State) : (modUnit u f s).hostPoison = s.hostPoison := rfl
@[simp] theorem modUnit_sram (u : UnitId) (f : UnitRun → UnitRun) (s : State) : (modUnit u f s).sram = s.sram := rfl
@[simp] theorem modUnit_sramPoison (u : UnitId) (f : UnitRun → UnitRun) (s : State) : (modUnit u f s).sramPoison = s.sramPoison := rfl
@[simp] theorem modUnit_memctl (u : UnitId) (f : UnitRun → UnitRun) (s : State) : (modUnit u f s).memctl = s.memctl := rfl
@[simp] theorem modUnit_lines (u : UnitId) (f : UnitRun → UnitRun) (s : State) : (modUnit u f s).lines = s.lines := rfl
@[simp] theorem modUnit_culture (u : UnitId) (f : UnitRun → UnitRun) (s : State) : (modUnit u f s).culture = s.culture := rfl
@[simp] theorem modUnit_rc (u : UnitId) (f : UnitRun → UnitRun) (s : State) : (modUnit u f s).rc = s.rc := rfl
@[simp] theorem modUnit_index (u : UnitId) (f : UnitRun → UnitRun) (s : State) : (modUnit u f s).index = s.index := rfl
@[simp] theorem modUnit_press (u : UnitId) (f : UnitRun → UnitRun) (s : State) : (modUnit u f s).press = s.press := rfl
@[simp] theorem modUnit_sticky (u : UnitId) (f : UnitRun → UnitRun) (s : State) : (modUnit u f s).sticky = s.sticky := rfl
@[simp] theorem modUnit_err (u : UnitId) (f : UnitRun → UnitRun) (s : State) : (modUnit u f s).err = s.err := rfl
@[simp] theorem modUnit_evt (u : UnitId) (f : UnitRun → UnitRun) (s : State) : (modUnit u f s).evt = s.evt := rfl
@[simp] theorem modUnit_thr (u : UnitId) (f : UnitRun → UnitRun) (s : State) : (modUnit u f s).thr = s.thr := rfl
@[simp] theorem modUnit_fmw (u : UnitId) (f : UnitRun → UnitRun) (s : State) : (modUnit u f s).fmw = s.fmw := rfl
@[simp] theorem modUnit_cave (u : UnitId) (f : UnitRun → UnitRun) (s : State) : (modUnit u f s).cave = s.cave := rfl
@[simp] theorem modUnit_fuses (u : UnitId) (f : UnitRun → UnitRun) (s : State) : (modUnit u f s).fuses = s.fuses := rfl
@[simp] theorem modUnit_sec (u : UnitId) (f : UnitRun → UnitRun) (s : State) : (modUnit u f s).sec = s.sec := rfl
@[simp] theorem modUnit_fw (u : UnitId) (f : UnitRun → UnitRun) (s : State) : (modUnit u f s).fw = s.fw := rfl
@[simp] theorem modUnit_power (u : UnitId) (f : UnitRun → UnitRun) (s : State) : (modUnit u f s).power = s.power := rfl
@[simp] theorem modUnit_fabric (u : UnitId) (f : UnitRun → UnitRun) (s : State) : (modUnit u f s).fabric = s.fabric := rfl
@[simp] theorem modUnit_cxl (u : UnitId) (f : UnitRun → UnitRun) (s : State) : (modUnit u f s).cxl = s.cxl := rfl
@[simp] theorem modUnit_svc (u : UnitId) (f : UnitRun → UnitRun) (s : State) : (modUnit u f s).svc = s.svc := rfl
@[simp] theorem modUnit_ageing (u : UnitId) (f : UnitRun → UnitRun) (s : State) : (modUnit u f s).ageing = s.ageing := rfl
@[simp] theorem modUnit_packages (u : UnitId) (f : UnitRun → UnitRun) (s : State) : (modUnit u f s).packages = s.packages := rfl
@[simp] theorem modUnit_sent (u : UnitId) (f : UnitRun → UnitRun) (s : State) : (modUnit u f s).sent = s.sent := rfl
@[simp] theorem modUnit_free (u : UnitId) (f : UnitRun → UnitRun) (s : State) : (modUnit u f s).free = s.free := rfl

/-! ### modEngine -/

@[simp] theorem modEngine_pending (n : Nat) (f : RcEngine → RcEngine) (s : State) : (modEngine n f s).pending = s.pending := rfl
@[simp] theorem modEngine_start (n : Nat) (f : RcEngine → RcEngine) (s : State) : (modEngine n f s).start = s.start := rfl
@[simp] theorem modEngine_tick (n : Nat) (f : RcEngine → RcEngine) (s : State) : (modEngine n f s).tick = s.tick := rfl
@[simp] theorem modEngine_plan (n : Nat) (f : RcEngine → RcEngine) (s : State) : (modEngine n f s).plan = s.plan := rfl
@[simp] theorem modEngine_queues (n : Nat) (f : RcEngine → RcEngine) (s : State) : (modEngine n f s).queues = s.queues := rfl
@[simp] theorem modEngine_rings (n : Nat) (f : RcEngine → RcEngine) (s : State) : (modEngine n f s).rings = s.rings := rfl
@[simp] theorem modEngine_ctrs (n : Nat) (f : RcEngine → RcEngine) (s : State) : (modEngine n f s).ctrs = s.ctrs := rfl
@[simp] theorem modEngine_hbm (n : Nat) (f : RcEngine → RcEngine) (s : State) : (modEngine n f s).hbm = s.hbm := rfl
@[simp] theorem modEngine_poison (n : Nat) (f : RcEngine → RcEngine) (s : State) : (modEngine n f s).poison = s.poison := rfl
@[simp] theorem modEngine_host (n : Nat) (f : RcEngine → RcEngine) (s : State) : (modEngine n f s).host = s.host := rfl
@[simp] theorem modEngine_hostPoison (n : Nat) (f : RcEngine → RcEngine) (s : State) : (modEngine n f s).hostPoison = s.hostPoison := rfl
@[simp] theorem modEngine_sram (n : Nat) (f : RcEngine → RcEngine) (s : State) : (modEngine n f s).sram = s.sram := rfl
@[simp] theorem modEngine_sramPoison (n : Nat) (f : RcEngine → RcEngine) (s : State) : (modEngine n f s).sramPoison = s.sramPoison := rfl
@[simp] theorem modEngine_memctl (n : Nat) (f : RcEngine → RcEngine) (s : State) : (modEngine n f s).memctl = s.memctl := rfl
@[simp] theorem modEngine_lines (n : Nat) (f : RcEngine → RcEngine) (s : State) : (modEngine n f s).lines = s.lines := rfl
@[simp] theorem modEngine_culture (n : Nat) (f : RcEngine → RcEngine) (s : State) : (modEngine n f s).culture = s.culture := rfl
@[simp] theorem modEngine_rc (n : Nat) (f : RcEngine → RcEngine) (s : State) : (modEngine n f s).rc = s.rc.modify n f := rfl
@[simp] theorem modEngine_index (n : Nat) (f : RcEngine → RcEngine) (s : State) : (modEngine n f s).index = s.index := rfl
@[simp] theorem modEngine_press (n : Nat) (f : RcEngine → RcEngine) (s : State) : (modEngine n f s).press = s.press := rfl
@[simp] theorem modEngine_sticky (n : Nat) (f : RcEngine → RcEngine) (s : State) : (modEngine n f s).sticky = s.sticky := rfl
@[simp] theorem modEngine_err (n : Nat) (f : RcEngine → RcEngine) (s : State) : (modEngine n f s).err = s.err := rfl
@[simp] theorem modEngine_evt (n : Nat) (f : RcEngine → RcEngine) (s : State) : (modEngine n f s).evt = s.evt := rfl
@[simp] theorem modEngine_thr (n : Nat) (f : RcEngine → RcEngine) (s : State) : (modEngine n f s).thr = s.thr := rfl
@[simp] theorem modEngine_fmw (n : Nat) (f : RcEngine → RcEngine) (s : State) : (modEngine n f s).fmw = s.fmw := rfl
@[simp] theorem modEngine_cave (n : Nat) (f : RcEngine → RcEngine) (s : State) : (modEngine n f s).cave = s.cave := rfl
@[simp] theorem modEngine_fuses (n : Nat) (f : RcEngine → RcEngine) (s : State) : (modEngine n f s).fuses = s.fuses := rfl
@[simp] theorem modEngine_sec (n : Nat) (f : RcEngine → RcEngine) (s : State) : (modEngine n f s).sec = s.sec := rfl
@[simp] theorem modEngine_fw (n : Nat) (f : RcEngine → RcEngine) (s : State) : (modEngine n f s).fw = s.fw := rfl
@[simp] theorem modEngine_power (n : Nat) (f : RcEngine → RcEngine) (s : State) : (modEngine n f s).power = s.power := rfl
@[simp] theorem modEngine_fabric (n : Nat) (f : RcEngine → RcEngine) (s : State) : (modEngine n f s).fabric = s.fabric := rfl
@[simp] theorem modEngine_cxl (n : Nat) (f : RcEngine → RcEngine) (s : State) : (modEngine n f s).cxl = s.cxl := rfl
@[simp] theorem modEngine_svc (n : Nat) (f : RcEngine → RcEngine) (s : State) : (modEngine n f s).svc = s.svc := rfl
@[simp] theorem modEngine_ageing (n : Nat) (f : RcEngine → RcEngine) (s : State) : (modEngine n f s).ageing = s.ageing := rfl
@[simp] theorem modEngine_packages (n : Nat) (f : RcEngine → RcEngine) (s : State) : (modEngine n f s).packages = s.packages := rfl
@[simp] theorem modEngine_sent (n : Nat) (f : RcEngine → RcEngine) (s : State) : (modEngine n f s).sent = s.sent := rfl
@[simp] theorem modEngine_free (n : Nat) (f : RcEngine → RcEngine) (s : State) : (modEngine n f s).free = s.free := rfl

/-! ### modPress -/

@[simp] theorem modPress_pending (n : Nat) (f : PressEngine → PressEngine) (s : State) : (modPress n f s).pending = s.pending := rfl
@[simp] theorem modPress_start (n : Nat) (f : PressEngine → PressEngine) (s : State) : (modPress n f s).start = s.start := rfl
@[simp] theorem modPress_tick (n : Nat) (f : PressEngine → PressEngine) (s : State) : (modPress n f s).tick = s.tick := rfl
@[simp] theorem modPress_plan (n : Nat) (f : PressEngine → PressEngine) (s : State) : (modPress n f s).plan = s.plan := rfl
@[simp] theorem modPress_queues (n : Nat) (f : PressEngine → PressEngine) (s : State) : (modPress n f s).queues = s.queues := rfl
@[simp] theorem modPress_rings (n : Nat) (f : PressEngine → PressEngine) (s : State) : (modPress n f s).rings = s.rings := rfl
@[simp] theorem modPress_ctrs (n : Nat) (f : PressEngine → PressEngine) (s : State) : (modPress n f s).ctrs = s.ctrs := rfl
@[simp] theorem modPress_hbm (n : Nat) (f : PressEngine → PressEngine) (s : State) : (modPress n f s).hbm = s.hbm := rfl
@[simp] theorem modPress_poison (n : Nat) (f : PressEngine → PressEngine) (s : State) : (modPress n f s).poison = s.poison := rfl
@[simp] theorem modPress_host (n : Nat) (f : PressEngine → PressEngine) (s : State) : (modPress n f s).host = s.host := rfl
@[simp] theorem modPress_hostPoison (n : Nat) (f : PressEngine → PressEngine) (s : State) : (modPress n f s).hostPoison = s.hostPoison := rfl
@[simp] theorem modPress_sram (n : Nat) (f : PressEngine → PressEngine) (s : State) : (modPress n f s).sram = s.sram := rfl
@[simp] theorem modPress_sramPoison (n : Nat) (f : PressEngine → PressEngine) (s : State) : (modPress n f s).sramPoison = s.sramPoison := rfl
@[simp] theorem modPress_memctl (n : Nat) (f : PressEngine → PressEngine) (s : State) : (modPress n f s).memctl = s.memctl := rfl
@[simp] theorem modPress_lines (n : Nat) (f : PressEngine → PressEngine) (s : State) : (modPress n f s).lines = s.lines := rfl
@[simp] theorem modPress_culture (n : Nat) (f : PressEngine → PressEngine) (s : State) : (modPress n f s).culture = s.culture := rfl
@[simp] theorem modPress_rc (n : Nat) (f : PressEngine → PressEngine) (s : State) : (modPress n f s).rc = s.rc := rfl
@[simp] theorem modPress_index (n : Nat) (f : PressEngine → PressEngine) (s : State) : (modPress n f s).index = s.index := rfl
@[simp] theorem modPress_press (n : Nat) (f : PressEngine → PressEngine) (s : State) : (modPress n f s).press = s.press.modify n f := rfl
@[simp] theorem modPress_sticky (n : Nat) (f : PressEngine → PressEngine) (s : State) : (modPress n f s).sticky = s.sticky := rfl
@[simp] theorem modPress_err (n : Nat) (f : PressEngine → PressEngine) (s : State) : (modPress n f s).err = s.err := rfl
@[simp] theorem modPress_evt (n : Nat) (f : PressEngine → PressEngine) (s : State) : (modPress n f s).evt = s.evt := rfl
@[simp] theorem modPress_thr (n : Nat) (f : PressEngine → PressEngine) (s : State) : (modPress n f s).thr = s.thr := rfl
@[simp] theorem modPress_fmw (n : Nat) (f : PressEngine → PressEngine) (s : State) : (modPress n f s).fmw = s.fmw := rfl
@[simp] theorem modPress_cave (n : Nat) (f : PressEngine → PressEngine) (s : State) : (modPress n f s).cave = s.cave := rfl
@[simp] theorem modPress_fuses (n : Nat) (f : PressEngine → PressEngine) (s : State) : (modPress n f s).fuses = s.fuses := rfl
@[simp] theorem modPress_sec (n : Nat) (f : PressEngine → PressEngine) (s : State) : (modPress n f s).sec = s.sec := rfl
@[simp] theorem modPress_fw (n : Nat) (f : PressEngine → PressEngine) (s : State) : (modPress n f s).fw = s.fw := rfl
@[simp] theorem modPress_power (n : Nat) (f : PressEngine → PressEngine) (s : State) : (modPress n f s).power = s.power := rfl
@[simp] theorem modPress_fabric (n : Nat) (f : PressEngine → PressEngine) (s : State) : (modPress n f s).fabric = s.fabric := rfl
@[simp] theorem modPress_cxl (n : Nat) (f : PressEngine → PressEngine) (s : State) : (modPress n f s).cxl = s.cxl := rfl
@[simp] theorem modPress_svc (n : Nat) (f : PressEngine → PressEngine) (s : State) : (modPress n f s).svc = s.svc := rfl
@[simp] theorem modPress_ageing (n : Nat) (f : PressEngine → PressEngine) (s : State) : (modPress n f s).ageing = s.ageing := rfl
@[simp] theorem modPress_packages (n : Nat) (f : PressEngine → PressEngine) (s : State) : (modPress n f s).packages = s.packages := rfl
@[simp] theorem modPress_sent (n : Nat) (f : PressEngine → PressEngine) (s : State) : (modPress n f s).sent = s.sent := rfl
@[simp] theorem modPress_free (n : Nat) (f : PressEngine → PressEngine) (s : State) : (modPress n f s).free = s.free := rfl

end Sys2Proof.Machine
end

