-- ==== Sys2Proof/Laws/Footprint.lean ====
section
/-!
SUPPORT. What the shared operations can change: for each, the parts of State that it may touch, so that a proof cites the footprint in
place of the definition. `Keeps ps s t` says that every part outside `ps` is the same in `t` as in `s`.
-/

namespace Sys2Proof.Safety

open Sys2Proof.Machine

/-! ### The algebra of footprints -/

theorem Keeps.refl (ps : List Part) (s : State) : Keeps ps s s := by
  intro p _
  cases p <;> rfl

theorem Keeps.trans {ps : List Part} {s t u : State} (h : Keeps ps s t) (k : Keeps ps t u) : Keeps ps s u := by
  intro p hp
  have a := h p hp
  have b := k p hp
  cases p <;> exact Eq.trans b a

theorem Keeps.mono {ps qs : List Part} {s t : State} (h : Keeps ps s t) (sub : ps ⊆ qs) : Keeps qs s t :=
  fun p hp => h p fun hm => hp (sub hm)

/-- Footprints of two operations in turn. -/
theorem Keeps.append {ps qs : List Part} {s t u : State} (h : Keeps ps s t) (k : Keeps qs t u) : Keeps (ps ++ qs) s u :=
  (h.mono (List.subset_append_left ps qs)).trans (k.mono (List.subset_append_right ps qs))

/-- A fold over a list keeps what each of its steps keeps. -/
theorem Keeps.foldl {α : Type} {ps : List Part} (f : State → α → State) (h : ∀ s a, Keeps ps s (f s a)) (l : List α) (s : State) :
    Keeps ps s (l.foldl f s) := by
  induction l generalizing s with
  | nil => exact Keeps.refl ps s
  | cons a r ih => exact (h s a).trans (ih (f s a))

/-- One part of a footprint's frame, as an equation. -/
theorem Keeps.part {ps : List Part} {s t : State} (h : Keeps ps s t) (p : Part) (hp : p ∉ ps := by decide) : Same p s t := h p hp

/-! ### Single updates -/

theorem emit_keeps (x : Sent) (s : State) : Keeps [.sent] s (emit x s) := by
  intro p hp; cases p <;> simp_all [Same]

theorem emitAll_keeps (xs : List Sent) (s : State) : Keeps [.sent] s (emitAll xs s) := Keeps.foldl _ (fun s x => emit_keeps x s) xs s

theorem setQ_keeps (q : Nat) (v : Queue) (s : State) : Keeps [.queues] s (setQ q v s) := by
  intro p hp; cases p <;> simp_all [Same]

theorem modQ_keeps (q : Nat) (f : Queue → Queue) (s : State) : Keeps [.queues] s (modQ q f s) := setQ_keeps q _ s

theorem modOp_keeps (q : Nat) (i : U32) (f : Op → Op) (s : State) : Keeps [.queues] s (modOp q i f s) := modQ_keeps q _ s

theorem finishOp_keeps (q : Nat) (i : U32) (st : Status) (d : Nat) (s : State) : Keeps [.queues] s (finishOp q i st d s) :=
  modOp_keeps q i _ s

theorem setC_keeps (c : Nat) (v : Ctr) (s : State) : Keeps [.ctrs] s (setC c v s) := by
  intro p hp; cases p <;> simp_all [Same]

theorem modC_keeps (c : Nat) (f : Ctr → Ctr) (s : State) : Keeps [.ctrs] s (modC c f s) := setC_keeps c _ s

theorem setSvc_keeps (u : UnitId) (v : Svc) (s : State) : Keeps [.svc] s (setSvc u v s) := by
  intro p hp; cases p <;> simp_all [Same]

theorem modTick_keeps (f : Tick → Tick) (s : State) : Keeps [.tick] s (modTick f s) := by
  intro p hp; cases p <;> simp_all [Same]

theorem modStart_keeps (f : Start → Start) (s : State) : Keeps [.start] s (modStart f s) := by
  intro p hp; cases p <;> simp_all [Same]

theorem modPower_keeps (f : Power → Power) (s : State) : Keeps [.power] s (modPower f s) := by
  intro p hp; cases p <;> simp_all [Same]

theorem modMem_keeps (f : MemCtl → MemCtl) (s : State) : Keeps [.memctl] s (modMem f s) := by
  intro p hp; cases p <;> simp_all [Same]

theorem modCxl_keeps (f : Cxl → Cxl) (s : State) : Keeps [.cxl] s (modCxl f s) := by
  intro p hp; cases p <;> simp_all [Same]

theorem modPort_keeps (n : Nat) (f : Port → Port) (s : State) : Keeps [.fabric] s (modPort n f s) := by
  intro p hp; cases p <;> simp_all [Same]

theorem modBox_keeps (m : Nat) (f : Mailbox → Mailbox) (s : State) : Keeps [.fmw] s (modBox m f s) := by
  intro p hp; cases p <;> simp_all [Same]

theorem modSettings_keeps (f : Settings → Settings) (s : State) : Keeps [.fmw] s (modSettings f s) := by
  intro p hp; cases p <;> simp_all [Same]

theorem modJob_keeps (f : Job → Job) (s : State) : Keeps [.plan] s (modJob f s) := by
  intro p hp; cases p <;> simp_all [Same]

theorem modUnit_keeps (u : UnitId) (f : UnitRun → UnitRun) (s : State) : Keeps [.plan] s (modUnit u f s) := modJob_keeps _ s

theorem modEngine_keeps (n : Nat) (f : RcEngine → RcEngine) (s : State) : Keeps [.rc] s (modEngine n f s) := by
  intro p hp; cases p <;> simp_all [Same]

theorem modPress_keeps (n : Nat) (f : PressEngine → PressEngine) (s : State) : Keeps [.press] s (modPress n f s) := by
  intro p hp; cases p <;> simp_all [Same]

theorem freePress_keeps (q : Nat) (i : U32) (s : State) : Keeps [.press] s (freePress q i s) := by
  simp only [freePress]
  split
  · exact modPress_keeps _ _ _
  · exact Keeps.refl _ s

/-! ### Interrupts, events and error records -/

theorem raiseMsix_keeps (v : Nat) (s : State) : Keeps [.cxl, .sent] s (raiseMsix v s) := by
  intro p hp
  simp only [raiseMsix, sendMsix]
  split_ifs <;> cases p <;> simp_all [Same]

theorem writeEvent_keeps (e : Event) (s : State) : Keeps [.evt, .fmw, .cxl, .sent] s (writeEvent e s) := by
  intro p hp
  simp only [writeEvent, raiseMsix, sendMsix]
  split_ifs <;> cases p <;> simp_all [Same]

theorem routeEvent_keeps (e : Event) (s : State) : Keeps [.evt, .fmw, .cxl, .sent] s (routeEvent e s) := by
  intro p hp
  simp only [routeEvent, writeEvent, raiseMsix, sendMsix]
  split_ifs <;> cases p <;> simp_all [Same]

theorem raise_keeps (c v : Nat) (d : List Byte) (s : State) : Keeps [.evt, .fmw, .cxl, .sent] s (raise c v d s) := routeEvent_keeps _ s

theorem flushEvents_keeps (s : State) : Keeps [.evt, .fmw, .cxl, .sent] s (flushEvents s) := by
  simp only [flushEvents]
  split_ifs
  · refine Keeps.trans ?_ (Keeps.foldl _ (fun s e => routeEvent_keeps e s) _ _)
    intro p hp; cases p <;> simp_all [Same]
  · exact Keeps.refl _ s

/-- What an error record may change: its ring, and where it overflows what an event may. -/
theorem errRecord_keeps (r : ErrRec) (s : State) : Keeps [.err, .evt, .fmw, .cxl, .sent] s (errRecord r s) := by
  have h : Keeps [.err, .evt, .fmw, .cxl, .sent] s { s with err := s.err.push 1024 (errBytes s.tick.count s.err.head r) } := by
    intro p hp; cases p <;> simp_all [Same]
  simp only [errRecord]
  split_ifs
  · exact h.trans ((raise_keeps _ _ _ _).mono (by simp))
  · exact h

/-! ### Reading memory: it may correct, poison and record -/

/-- The parts that reading a span of memory may change. -/
abbrev readParts : List Part := [.hbm, .poison, .sramPoison, .memctl, .free, .err, .evt, .fmw, .cxl, .sent]

theorem errRecord_reads (r : ErrRec) (s : State) : Keeps readParts s (errRecord r s) := (errRecord_keeps r s).mono (by simp)

theorem degrade_keeps (g : Nat) (s : State) : Keeps readParts s (degrade g s) := by
  simp only [degrade]
  split_ifs
  · exact Keeps.refl _ s
  · refine Keeps.trans ?_ (errRecord_reads _ _)
    intro p hp; cases p <;> simp_all [Same]

theorem correctWord_keeps (who : Who) (w : Nat) (l : Latent) (s : State) : Keeps readParts s (correctWord who w l s) := by
  simp only [correctWord]
  split_ifs
  · refine Keeps.trans ?_ (degrade_keeps _ _)
    refine Keeps.trans ?_ (errRecord_reads _ _)
    intro p hp; cases p <;> simp_all [Same]
  · refine Keeps.trans ?_ (degrade_keeps _ _)
    intro p hp; cases p <;> simp_all [Same]
  · refine Keeps.trans ?_ (errRecord_reads _ _)
    intro p hp; cases p <;> simp_all [Same]
  · intro p hp; cases p <;> simp_all [Same]

theorem poisonWord_keeps (who : Who) (w : Nat) (l : Latent) (s : State) : Keeps readParts s (poisonWord who w l s) := by
  simp only [poisonWord]
  refine Keeps.trans ?_ (degrade_keeps _ _)
  refine Keeps.trans ?_ (errRecord_reads _ _)
  intro p hp; cases p <;> simp_all [Same]

theorem consumeWord_keeps (who : Who) (w : Nat) (b : Bool) (s : State) : Keeps readParts s (consumeWord who w b s) := by
  simp only [consumeWord]
  refine Keeps.trans ?_ (errRecord_reads _ _)
  intro p hp; cases p <;> simp_all [Same]

theorem touchWord_keeps (who : Who) (s : State) (w : Nat) : Keeps readParts s (touchWord who s w) := by
  simp only [touchWord]
  split
  · split
    · exact Keeps.refl _ s
    · exact consumeWord_keeps _ _ _ _
  · split
    · exact Keeps.refl _ s
    · have poison (l) : Keeps readParts s { s with poison := sadd s.poison w, memctl := { s.memctl with latent := l } } := by
        intro p hp; cases p <;> simp_all [Same]
      split
      · split
        · exact poison _
        · exact (poison _).trans (consumeWord_keeps _ _ _ _)
      · split
        · exact correctWord_keeps _ _ _ _
        · split
          · intro p hp; cases p <;> simp_all [Same, freeBytes]
          · exact poisonWord_keeps _ _ _ _

theorem touchHbm_keeps (who : Who) (a len : Nat) (s : State) : Keeps readParts s (touchHbm who a len s) :=
  Keeps.foldl _ (touchWord_keeps who) _ s

theorem sramRecord_keeps (type severity source unit off status : Nat) (who : Who) (l : Latent) (s : State) :
    Keeps readParts s (sramRecord type severity source unit off status who l s) := errRecord_reads _ _

theorem correctSram_keeps (source unit off : Nat) (who : Who) (l : Latent) (s : State) :
    Keeps readParts s (correctSram source unit off who l s) := by
  simp only [correctSram]
  split_ifs
  · refine Keeps.trans ?_ (sramRecord_keeps _ _ _ _ _ _ _ _ _)
    intro p hp; cases p <;> simp_all [Same]
  · intro p hp; cases p <;> simp_all [Same]

theorem uncorrectSram_keeps (source unit off : Nat) (who : Who) (l : Latent) (s : State) :
    Keeps readParts s (uncorrectSram source unit off who l s) := by
  refine Keeps.trans ?_ (sramRecord_keeps _ _ _ _ _ _ _ _ _)
  intro p hp; cases p <;> simp_all [Same]

theorem touchSramWord_keeps (who : Who) (s : State) (x : Nat × Nat × Nat × Latent) : Keeps readParts s (touchSramWord who s x) := by
  simp only [touchSramWord]
  split_ifs
  · intro p hp; cases p <;> simp_all [Same]
  · refine Keeps.trans ?_ (sramRecord_keeps _ _ _ _ _ _ _ _ _)
    intro p hp; cases p <;> simp_all [Same]
  · refine Keeps.trans ?_ (correctSram_keeps _ _ _ _ _ _)
    intro p hp; cases p <;> simp_all [Same]
  · refine Keeps.trans ?_ (uncorrectSram_keeps _ _ _ _ _ _)
    intro p hp; cases p <;> simp_all [Same]

theorem touchSram_keeps (who : Who) (v off len : Nat) (s : State) : Keeps readParts s (touchSram who v off len s) :=
  Keeps.foldl _ (touchSramWord_keeps who) _ s

theorem touch_keeps (who : Who) (a : LAddr) (len : Nat) (s : State) : Keeps readParts s (touch who a len s) := by
  cases a with
  | hbm x => exact touchHbm_keeps who x len s
  | sram v x => exact touchSram_keeps who v x len s
  | remote m x => exact Keeps.refl _ s
  | host x =>
    simp only [touch, hostPoisonIn]
    split_ifs
    · intro p hp; cases p <;> simp_all [Same]
    · exact Keeps.refl _ s

/-- A read answers bytes and leaves what a read may leave. -/
theorem readSpan_keeps (who : Who) (a : LAddr) (len : Nat) (s : State) : Keeps readParts s (readSpan who a len s).2.2 :=
  touch_keeps who a len s

/-- A read of words that hold no error and no poison changes nothing. -/
theorem touchHbm_clean (who : Who) (a len : Nat) (s : State)
    (h : ∀ w ∈ wordsOf a len, s.poison.contains w = false ∧ mget s.memctl.latent w = none) : touchHbm who a len s = s := by
  simp only [touchHbm]
  generalize wordsOf a len = l at h
  induction l with
  | nil => rfl
  | cons w r ih =>
    obtain ⟨h1, h2⟩ := h w (by simp)
    have e : touchWord who s w = s := by simp only [touchWord, h1, h2]; simp
    simp only [List.foldl_cons, e]
    exact ih fun x hx => h x (by simp [hx])

/-! ### Writing memory -/

/-- The parts that writing a span of memory may change. -/
abbrev writeParts : List Part := [.hbm, .poison, .host, .hostPoison, .sram, .sramPoison, .memctl, .free, .err, .evt, .fmw, .cxl, .sent]

theorem injectHbm_keeps (a len : Nat) (s : State) : Keeps [.memctl] s (injectHbm a len s) := by
  intro p hp
  simp only [injectHbm]
  split <;> cases p <;> simp_all [Same]

theorem injectSram_keeps (v off len : Nat) (s : State) : Keeps [.memctl] s (injectSram v off len s) := by
  intro p hp
  simp only [injectSram]
  split <;> cases p <;> simp_all [Same]

theorem mergeWord_keeps (s : State) (w : Nat) : Keeps readParts s (mergeWord s w) := by
  simp only [mergeWord]
  split
  · exact Keeps.refl _ _
  · split_ifs
    · intro p hp; cases p <;> simp_all [Same]
    · exact touchWord_keeps _ _ _

theorem writeHbm_keeps (a : Nat) (data : List Byte) (flags : List Bool) (s : State) : Keeps readParts s (writeHbm a data flags s) := by
  simp only [writeHbm]
  refine (Keeps.foldl _ mergeWord_keeps
    ((wordsOf a data.length).filter fun w => !decide (a ≤ w * 32 ∧ w * 32 + 32 ≤ a + data.length)) s).trans ?_
  refine Keeps.trans ?_ ((injectHbm_keeps _ _ _).mono (by simp))
  intro p hp; cases p <;> first | rfl | exact absurd (by simp) hp

theorem mergeSram_keeps (v : Nat) (ws : List Nat) (s : State) : Keeps readParts s (mergeSram v ws s) := by
  simp only [mergeSram]
  refine Keeps.foldl _ (fun s x => ?_) _ s
  split_ifs
  · intro p hp; cases p <;> simp_all [Same]
  · exact touchSramWord_keeps _ _ _

theorem poke_keeps (a : LAddr) (data : List Byte) (flags : List Bool) (s : State) : Keeps writeParts s (poke a data flags s) := by
  cases a with
  | hbm x => exact (writeHbm_keeps x data flags s).mono (by simp)
  | host x => intro p hp; cases p <;> simp_all [Same, poke]
  | sram v x =>
    have hu (ws : List Nat) : Keeps writeParts s (mergeSram v ws s) := (mergeSram_keeps v ws s).mono (by simp)
    simp only [poke]
    generalize List.filter _ (wordsOf x data.length) = part
    generalize List.filter _ (wordsOf x data.length) = whole
    refine (hu part).trans (Keeps.trans ?_ ((injectSram_keeps _ _ _ _).mono (by simp)))
    generalize mergeSram v part s = u
    intro p hp; cases p <;> simp_all [Same]
  | remote m x => exact Keeps.refl _ s

theorem pokeClean_keeps (a : LAddr) (data : List Byte) (s : State) : Keeps writeParts s (pokeClean a data s) := poke_keeps a data [] s

theorem scramble_keeps (a : LAddr) (len : Nat) (s : State) : Keeps writeParts s (scramble a len s) := by
  refine Keeps.trans ?_ (pokeClean_keeps a _ _)
  intro p hp; cases p <;> simp_all [Same]

/-- A write of host memory changes host memory alone. -/
theorem pokeHost_keeps (x : Nat) (data : List Byte) (flags : List Bool) (s : State) :
    Keeps [.host, .hostPoison] s (poke (.host x) data flags s) := by
  intro p hp; cases p <;> simp_all [Same, poke]

/-! ### Queues and units -/

theorem stopQueue_keeps (q : Nat) (st : Status) (s : State) : Keeps [.queues, .evt, .fmw, .cxl, .sent] s (stopQueue q st s) := by
  simp only [stopQueue]
  split_ifs
  · exact ((modQ_keeps _ _ _).mono (by simp)).trans ((raise_keeps _ _ _ _).mono (by simp))
  · exact Keeps.refl _ s

theorem suspect_keeps (u : UnitId) (c : Nat) (s : State) : Keeps [.svc, .evt, .fmw, .cxl, .sent] s (suspect u c s) :=
  ((setSvc_keeps _ _ _).mono (by simp)).trans ((raise_keeps _ _ _ _).mono (by simp))

theorem unitUncorr_keeps (u : UnitId) (s : State) : Keeps [.svc, .evt, .fmw, .cxl, .sent] s (unitUncorr u s) :=
  ((setSvc_keeps _ _ _).mono (by simp)).trans (suspect_keeps _ _ _)

/-! ### Counters (R358-R360) -/

/-- A refusal of SUB, like an accepted one, touches the counters alone: SUB wakes no waiter. -/
theorem subCounter_keeps (c : Nat) (n : U32) (s : State) : Keeps [.ctrs] s (subCounter c n s).1 := by
  simp only [subCounter]
  split
  · exact Keeps.refl _ s
  · split_ifs
    · exact Keeps.refl _ s
    · exact Keeps.refl _ s
    · exact modC_keeps _ _ _

theorem arriveWait_keeps (c : Nat) (w : Wait) (s : State) : Keeps [.ctrs] s (arriveWait c w s).1 := by
  simp only [arriveWait]
  split
  · exact Keeps.refl _ s
  · split_ifs
    · exact Keeps.refl _ s
    · exact setC_keeps _ _ _
    · exact setC_keeps _ _ _
    · exact Keeps.refl _ s
    · exact setC_keeps _ _ _

/-- The parts that a change of a counter may reach: its waiters, of queues, of the plan job and of other modules. -/
abbrev counterParts : List Part := [.ctrs, .queues, .plan, .press, .fabric, .evt, .fmw, .cxl, .sent]

theorem releaseWaiter_keeps (st : Status) (s : State) (w : Waiter) : Keeps counterParts s (releaseWaiter st s w) := by
  cases w with
  | header q i =>
    simp only [releaseWaiter]
    split
    · exact (modOp_keeps _ _ _ _).mono (by simp)
    · exact ((finishOp_keeps _ _ _ _ _).mono (by simp)).trans
        (((freePress_keeps _ _ _).mono (by simp)).trans ((stopQueue_keeps _ _ _).mono (by simp)))
  | signal q i =>
    simp only [releaseWaiter]
    split
    · exact (finishOp_keeps _ _ _ _ _).mono (by simp)
    · exact ((finishOp_keeps _ _ _ _ _).mono (by simp)).trans ((stopQueue_keeps _ _ _).mono (by simp))
  | unit u =>
    simp only [releaseWaiter]
    split
    · exact Keeps.refl _ s
    · intro p hp; cases p <;> simp_all [Same]
  | remote m t =>
    simp only [releaseWaiter]
    intro p hp; cases p <;> simp_all [Same]

theorem settle_keeps (c : Nat) (s : State) : Keeps counterParts s (settle c s) := by
  simp only [settle]
  exact ((setC_keeps _ _ _).mono (by simp)).trans (Keeps.foldl _ (fun s (w : Wait) => releaseWaiter_keeps .ok s w.who) _ _)

theorem signalCounter_keeps (c : Nat) (n : U32) (s : State) : Keeps counterParts s (signalCounter c n s).1 := by
  simp only [signalCounter]
  split
  · exact Keeps.refl _ s
  · split_ifs
    · exact Keeps.refl _ s
    · exact Keeps.refl _ s
    · exact ((modC_keeps _ _ _).mono (by simp)).trans (settle_keeps _ _)

theorem withdraw_keeps (p : Waiter → Bool) (s : State) : Keeps counterParts s (withdraw p s) := by
  refine Keeps.foldl _ (fun s e => ?_) _ _
  dsimp only
  split
  · exact ((setC_keeps _ _ _).mono (by simp)).trans (settle_keeps _ _)
  · exact Keeps.refl _ s

theorem poisonCounter_keeps (st : Status) (s : State) (c : Nat) : Keeps counterParts s (poisonCounter st s c) := by
  simp only [poisonCounter]
  refine Keeps.trans ?_ (Keeps.foldl _ (fun s (w : Wait) => releaseWaiter_keeps st s w.who) _ _)
  split
  · intro p hp; cases p <;> first | rfl | exact absurd (by simp) hp
  · exact (setC_keeps _ _ _).mono (by simp)

theorem poisonCounters_keeps (cause : Nat) (st : Status) (cs : List Nat) (s : State) :
    Keeps counterParts s (poisonCounters cause st cs s) := by
  simp only [poisonCounters]
  exact (Keeps.foldl _ (fun s c => poisonCounter_keeps st s c) _ _).trans
    (Keeps.foldl _ (fun s o => (raise_keeps _ _ _ _).mono (by simp)) _ _)

theorem ringSignal_keeps (c : Nat) (s : State) : Keeps counterParts s (ringSignal c s) := by
  simp only [ringSignal]
  split
  · exact Keeps.refl _ s
  · split
    · exact signalCounter_keeps _ _ _
    · exact (modC_keeps _ _ _).mono (by simp)
    · exact (modC_keeps _ _ _).mono (by simp)

/-! ### Mailbox responses -/

theorem noteHistory_keeps (c : Cmd) (st : Status) (s : State) : Keeps [.fmw] s (noteHistory c st s) := by
  intro p hp; cases p <;> simp_all [Same, noteHistory]

theorem writeResponse_keeps (m : Nat) (c : Cmd) (st : Status) (f n : Nat) (pl : List Byte) (s : State) :
    Keeps [.fmw, .cxl, .sent] s (writeResponse m c st f n pl s) := by
  simp only [writeResponse]
  generalize (fun b : Mailbox => _) = g
  refine Keeps.trans ((modBox_keeps m g s).mono (by simp)) ?_
  split
  · exact (raiseMsix_keeps _ _).mono (by simp)
  · exact Keeps.refl _ _

/-- The parts that a broadcast's effective tick may reach: the changes that wait for one, and what the module sends. -/
abbrev effectParts : List Part := [.culture, .index, .tick, .fw, .fmw, .cxl, .sent]

theorem noteFixed_keeps (c : Cmd) (pl : List Byte) (s : State) : Keeps [.fmw] s (noteFixed c pl s) := by
  simp only [noteFixed]
  split_ifs <;> intro p hp <;> cases p <;> simp_all [Same]

theorem fixEffect_keeps (op n : Nat) (s : State) : Keeps effectParts s (fixEffect op n s) := by
  simp only [fixEffect]
  split_ifs <;> intro p hp <;> cases p <;> simp_all [Same]

theorem fixBroadcast_keeps (f : Forwarding) (s : State) : Keeps effectParts s (fixBroadcast f s) := by
  simp only [fixBroadcast]
  split
  · exact Keeps.refl _ s
  · exact (fixEffect_keeps _ _ _).trans (Keeps.foldl _ (fun s r => (emit_keeps _ _).mono (by simp)) _ _)

theorem settleForward_keeps (f : Forwarding) (s : State) : Keeps effectParts s (settleForward f s) := by
  have drop : Keeps effectParts s { s with fmw := { s.fmw with forwards := s.fmw.forwards.filter fun g => !sameCmd g.cmd f.cmd } } := by
    intro p hp; cases p <;> simp_all [Same]
  simp only [settleForward]
  split_ifs
  · exact drop.trans ((fixBroadcast_keeps _ _).trans ((writeResponse_keeps _ _ _ _ _ _ _).mono (by simp)))
  · exact drop.trans ((writeResponse_keeps _ _ _ _ _ _ _).mono (by simp))
  · intro p hp; cases p <;> simp_all [Same]

/-- The end of a command writes a response, or sends one to the module that forwarded it, and notes it in the history; the end of a
broadcast fixes its effective tick. -/
theorem finishCmd_keeps (c : Cmd) (st : Status) (n : Nat) (pl : List Byte) (s : State) :
    Keeps effectParts s (finishCmd c st n pl s) := by
  simp only [finishCmd]
  refine Keeps.trans ((noteHistory_keeps c st s).mono (by simp)) ?_
  have fixed (s : State) : Keeps effectParts s (noteFixed c pl s) := (noteFixed_keeps c pl s).mono (by simp)
  split
  · exact (fixed _).trans ((emit_keeps _ _).mono (by simp))
  · split_ifs
    · split
      · exact (fixed _).trans (settleForward_keeps _ _)
      · exact (writeResponse_keeps _ _ _ _ _ _ _).mono (by simp)
    · exact (fixed _).trans ((writeResponse_keeps _ _ _ _ _ _ _).mono (by simp))

/-- The end of a command that is no broadcast touches the mailboxes, the interrupts and what the module sends. -/
theorem finishCmd_keeps_single (c : Cmd) (st : Status) (n : Nat) (pl : List Byte) (s : State) (h : c.target ≠ 0xFF) :
    Keeps [.fmw, .cxl, .sent] s (finishCmd c st n pl s) := by
  simp only [finishCmd, if_neg h]
  refine Keeps.trans ((noteHistory_keeps c st s).mono (by simp)) ?_
  have fixed (s : State) : Keeps [.fmw, .cxl, .sent] s (noteFixed c pl s) := (noteFixed_keeps c pl s).mono (by simp)
  split
  · exact (fixed _).trans ((emit_keeps _ _).mono (by simp))
  · exact (fixed _).trans (writeResponse_keeps _ _ _ _ _ _ _)

end Sys2Proof.Safety
end

