-- ==== Sys2Proof/Laws/Memory.lean ====
section
/-!
SUPPORT. Sparse maps and memory: reading after writing, and the canonical form that every memory operation keeps.
-/

namespace Sys2Proof.Machine

/-! ### Sparse maps -/

theorem mget_mput_same {α : Type} (m : Sparse α) (k : Nat) (v : α) : mget (mput m k v) k = some v := by
  induction m with
  | nil => simp [mput, mget]
  | cons p r ih =>
    obtain ⟨a, w⟩ := p
    simp only [mput]
    split
    · simp [mget]
    · split
      · simp [mget]
      · simp [mget, Ne.symm, *]

theorem mget_mput_other {α : Type} (m : Sparse α) (k j : Nat) (v : α) (h : j ≠ k) : mget (mput m k v) j = mget m j := by
  induction m with
  | nil => simp [mput, mget, h]
  | cons p r ih =>
    obtain ⟨a, w⟩ := p
    simp only [mput]
    split
    · simp [mget, h]
    · split
      · subst_vars; simp [mget, h]
      · simp [mget, ih]

/-- Keys strictly rising. -/
abbrev Rising {α : Type} (m : Sparse α) : Prop := m.Pairwise fun x y => x.1 < y.1

theorem mput_keys {α : Type} (m : Sparse α) (k : Nat) (v : α) (p : Nat × α) (h : p ∈ mput m k v) : p = (k, v) ∨ p ∈ m := by
  induction m with
  | nil => simp [mput] at h; exact .inl h
  | cons q r ih =>
    obtain ⟨a, w⟩ := q
    simp only [mput] at h
    split at h
    · simp at h; rcases h with h | h | h <;> simp [h]
    · split at h
      · simp at h; rcases h with h | h <;> simp [h]
      · simp at h; rcases h with h | h
        · simp [h]
        · rcases ih h with h | h <;> simp [h]

theorem mdel_keys {α : Type} (m : Sparse α) (k : Nat) (p : Nat × α) (h : p ∈ mdel m k) : p ∈ m := by
  induction m with
  | nil => simp [mdel] at h
  | cons q r ih =>
    obtain ⟨a, w⟩ := q
    simp only [mdel] at h
    split at h
    · simp [h]
    · simp at h; rcases h with h | h
      · simp [h]
      · simp [ih h]

theorem rising_mput {α : Type} (m : Sparse α) (k : Nat) (v : α) (h : Rising m) : Rising (mput m k v) := by
  induction m with
  | nil => simp [mput, Rising]
  | cons q r ih =>
    obtain ⟨a, w⟩ := q
    obtain ⟨h1, h2⟩ := List.pairwise_cons.1 h
    simp only [mput]
    split
    · refine List.pairwise_cons.2 ⟨?_, h⟩
      intro x hx
      simp at hx
      rcases hx with rfl | hx
      · assumption
      · have := h1 x hx; simp at this; simp; omega
    · split
      · subst_vars; exact List.pairwise_cons.2 ⟨h1, h2⟩
      · refine List.pairwise_cons.2 ⟨?_, ih h2⟩
        intro x hx
        rcases mput_keys r k v x hx with rfl | hx
        · simp; omega
        · exact h1 x hx

theorem rising_mdel {α : Type} (m : Sparse α) (k : Nat) (h : Rising m) : Rising (mdel m k) := by
  induction m with
  | nil => simp [mdel, Rising]
  | cons q r ih =>
    obtain ⟨a, w⟩ := q
    obtain ⟨h1, h2⟩ := List.pairwise_cons.1 h
    simp only [mdel]
    split
    · exact h2
    · exact List.pairwise_cons.2 ⟨fun x hx => h1 x (mdel_keys r k x hx), ih h2⟩

theorem mget_lt {α : Type} (m : Sparse α) (k : Nat) (h : ∀ p ∈ m, k < p.1) : mget m k = none := by
  induction m with
  | nil => rfl
  | cons q r ih =>
    obtain ⟨a, w⟩ := q
    have := h (a, w) (by simp)
    simp only [mget]
    rw [if_neg (by simp at this; omega), ih fun p hp => h p (by simp [hp])]

theorem mget_mdel_same {α : Type} (m : Sparse α) (k : Nat) (h : Rising m) : mget (mdel m k) k = none := by
  induction m with
  | nil => rfl
  | cons q r ih =>
    obtain ⟨a, w⟩ := q
    obtain ⟨h1, h2⟩ := List.pairwise_cons.1 h
    simp only [mdel]
    split
    · subst_vars; exact mget_lt r a h1
    · simp [mget, ih h2]; omega

theorem mget_mdel_other {α : Type} (m : Sparse α) (k j : Nat) (h : j ≠ k) : mget (mdel m k) j = mget m j := by
  induction m with
  | nil => rfl
  | cons q r ih =>
    obtain ⟨a, w⟩ := q
    simp only [mdel]
    split
    · subst_vars; simp [mget, h]
    · simp [mget, ih]

/-! ### Bytes of memory -/

theorem bwf_iff (m : Sparse Byte) : bwf m = true ↔ Rising m ∧ ∀ p ∈ m, p.2 ≠ 0 := by
  simp [bwf, Rising]

/-- Writing one byte keeps the canonical form. -/
theorem bwf_bput (m : Sparse Byte) (a : Nat) (b : Byte) (h : bwf m = true) : bwf (bput m a b) = true := by
  rw [bwf_iff] at *
  unfold bput
  split
  · exact ⟨rising_mdel m a h.1, fun p hp => h.2 p (mdel_keys m a p hp)⟩
  · refine ⟨rising_mput m a b h.1, fun p hp => ?_⟩
    rcases mput_keys m a b p hp with rfl | hp
    · assumption
    · exact h.2 p hp

/-- Writing bytes keeps the canonical form. -/
theorem bwf_bwrite (bs : List Byte) (m : Sparse Byte) (a : Nat) (h : bwf m = true) : bwf (bwrite m a bs) = true := by
  induction bs generalizing m a with
  | nil => exact h
  | cons b r ih => exact ih _ _ (bwf_bput m a b h)

/-- Dropping bytes keeps the canonical form. -/
theorem bwf_filter (m : Sparse Byte) (f : Nat × Byte → Bool) (h : bwf m = true) : bwf (m.filter f) = true := by
  rw [bwf_iff] at *
  exact ⟨h.1.filter _, fun p hp => h.2 p (List.mem_filter.1 hp).1⟩

/-- The byte just written reads back. -/
theorem bget_bput_same (m : Sparse Byte) (a : Nat) (b : Byte) (h : bwf m = true) : bget (bput m a b) a = b := by
  rw [bwf_iff] at h
  unfold bget bput mgetD
  split
  · rw [mget_mdel_same m a h.1]; simp [*]
  · rw [mget_mput_same]; rfl

/-- Every other byte reads as before. -/
theorem bget_bput_other (m : Sparse Byte) (a j : Nat) (b : Byte) (h : j ≠ a) : bget (bput m a b) j = bget m j := by
  unfold bget bput mgetD
  split
  · rw [mget_mdel_other m a j h]
  · rw [mget_mput_other m a j b h]

/-- A byte outside a written span reads as before. -/
theorem bget_bwrite_outside (bs : List Byte) (m : Sparse Byte) (a j : Nat) (h : j < a ∨ a + bs.length ≤ j) :
    bget (bwrite m a bs) j = bget m j := by
  induction bs generalizing m a with
  | nil => rfl
  | cons b r ih =>
    simp only [List.length_cons] at h
    rw [bwrite, ih _ _ (by omega), bget_bput_other _ _ _ _ (by omega)]

/-- A byte of a written span reads as it was written. -/
theorem bget_bwrite_inside (bs : List Byte) (m : Sparse Byte) (a i : Nat) (hm : bwf m = true) (h : i < bs.length) :
    bget (bwrite m a bs) (a + i) = bs.getD i 0 := by
  induction bs generalizing m a i with
  | nil => simp at h
  | cons b r ih =>
    simp only [List.length_cons] at h
    cases i with
    | zero => rw [bwrite, bget_bwrite_outside _ _ _ _ (by omega), Nat.add_zero, bget_bput_same m a b hm]; rfl
    | succ i =>
      have := ih (bput m a b) (a + 1) i (bwf_bput m a b hm) (by omega)
      rw [bwrite, show a + (i + 1) = a + 1 + i by omega, this]; rfl

end Sys2Proof.Machine
end

