-- ==== Sys2Proof/Laws/Lookup.lean ====
section
/-!
SUPPORT. Reading a queue, an operation, a counter, a unit, a port or a mailbox after it, or another one, was written; and a command on
a module that is awake or asleep.
-/

namespace Sys2Proof.Safety

open Sys2Proof.Machine

/-! ### Awake and asleep -/

theorem live_awake {s : State} (h : Awake s) (f : State → State) : live f s = f s := by
  obtain ⟨h1, h2⟩ := h
  simp [live, h1, h2]

theorem live_reset {s : State} (h : s.start.inReset = true) (f : State → State) : live f s = s := by simp [live, h]

theorem live_scanned {s : State} (h : s.sec.scanned = true) (f : State → State) : live f s = s := by simp [live, h]

/-! ### Queues -/

/-- Writing `Queue.off` unlists the queue, which reads as off where the keys rise. -/
theorem getQ_setQ_same (q : Nat) (v : Queue) (s : State) (h : v ≠ Queue.off ∨ Rising s.queues) : getQ (setQ q v s) q = v := by
  simp only [getQ, setQ, mgetD]
  split
  · rw [mget_mdel_same _ _ (h.resolve_left (not_not_intro ‹_›))]; exact Eq.symm ‹v = Queue.off›
  · rw [mget_mput_same]; rfl

theorem Queue.ne_off_of_mode {v : Queue} (h : v.mode ≠ .disabled) : v ≠ Queue.off := fun e => h (by rw [e]; rfl)

theorem Queue.ne_off_of_ops {v : Queue} (h : v.ops ≠ []) : v ≠ Queue.off := fun e => h (by rw [e]; rfl)

theorem getQ_setQ_other (q r : Nat) (v : Queue) (s : State) (h : r ≠ q) : getQ (setQ q v s) r = getQ s r := by
  simp only [getQ, setQ, mgetD]
  split
  · rw [mget_mdel_other _ _ _ h]
  · rw [mget_mput_other _ _ _ _ h]

theorem getQ_modQ_same (q : Nat) (f : Queue → Queue) (s : State) (h : f (getQ s q) ≠ Queue.off ∨ Rising s.queues) :
    getQ (modQ q f s) q = f (getQ s q) := getQ_setQ_same q _ s h

theorem getQ_modQ_other (q r : Nat) (f : Queue → Queue) (s : State) (h : r ≠ q) : getQ (modQ q f s) r = getQ s r :=
  getQ_setQ_other q r _ s h

/-- An operation that keeps the queues keeps every queue. -/
theorem Keeps.getQ {ps : List Part} {s t : State} (h : Keeps ps s t) (q : Nat) (hp : Part.queues ∉ ps := by decide) :
    getQ t q = getQ s q := by
  have e : t.queues = s.queues := h .queues hp
  simp only [Machine.getQ, e]

theorem getOp_modOp_same (q : Nat) (i : U32) (f : Op → Op) (s : State) (o : Op) (hf : ∀ o, (f o).index = o.index)
    (h : getOp s q i = some o) : getOp (modOp q i f s) q i = some (f o) := by
  have key : ∀ l : List Op, l.find? (fun o => o.index == i) = some o →
      l ≠ [] ∧ (l.map fun o => if o.index == i then f o else o).find? (fun o => o.index == i) = some (f o) := by
    intro l
    induction l with
    | nil => simp
    | cons p r ih =>
      by_cases e : p.index = i
      · intro h; simp [e] at h; subst h; simp [e, hf]
      · intro h; simp [e] at h; simpa [e] using (ih (by simpa using h)).2
  obtain ⟨ne, e⟩ := key _ h
  simp only [getOp, modOp]
  rw [getQ_modQ_same _ _ _ (.inl (Queue.ne_off_of_ops (by simpa using ne)))]
  exact e

/-- A finished operation waits with its status and detail for its record's turn. -/
theorem getOp_finishOp (q : Nat) (i : U32) (st : Status) (d : Nat) (s : State) (o : Op) (h : getOp s q i = some o) :
    getOp (finishOp q i st d s) q i = some { o with phase := .done, status := st, detail := d } :=
  getOp_modOp_same q i _ s o (fun _ => rfl) h

theorem ended_finishOp (q : Nat) (i : U32) (st : Status) (d : Nat) (s : State) (o : Op) (h : getOp s q i = some o) :
    Ended q i st d (finishOp q i st d s) := ⟨_, getOp_finishOp q i st d s o h, rfl, rfl, rfl⟩

/-! ### Counters -/

/-- Writing `Ctr.free` unlists the counter, which reads as free where the keys rise. -/
theorem getC_setC_same (c : Nat) (v : Ctr) (s : State) (h : v ≠ Ctr.free ∨ Rising s.ctrs) : getC (setC c v s) c = v := by
  simp only [getC, setC, mgetD]
  split
  · rw [mget_mdel_same _ _ (h.resolve_left (not_not_intro ‹_›))]; exact Eq.symm ‹v = Ctr.free›
  · rw [mget_mput_same]; rfl

theorem Ctr.ne_free_of_mode {v : Ctr} (h : v.mode ≠ .free) : v ≠ Ctr.free := fun e => h (by rw [e]; rfl)

theorem getC_setC_other (c d : Nat) (v : Ctr) (s : State) (h : d ≠ c) : getC (setC c v s) d = getC s d := by
  simp only [getC, setC, mgetD]
  split
  · rw [mget_mdel_other _ _ _ h]
  · rw [mget_mput_other _ _ _ _ h]

theorem Keeps.getC {ps : List Part} {s t : State} (h : Keeps ps s t) (c : Nat) (hp : Part.ctrs ∉ ps := by decide) :
    getC t c = getC s c := by
  have e : t.ctrs = s.ctrs := h .ctrs hp
  simp only [Machine.getC, e]

/-- What an operation on a counter finds that is not claimed (R356, R368). -/
theorem ctrRefusal_claimed (s : State) (c : Nat) (hc : c ≠ 0xFFFF) (h : (getC s c).mode = .claimed) : ctrRefusal s c = none := by
  simp [ctrRefusal, hc, h]

/-! ### Units, ports and mailboxes -/

theorem getPort_modPort_other (p q : Nat) (f : Port → Port) (s : State) (h : q ≠ p) : getPort (modPort p f s) q = getPort s q := by
  simp [getPort, modPort, List.getD_eq_getElem?_getD, Ne.symm h]

theorem getBox_modBox_other (m n : Nat) (f : Mailbox → Mailbox) (s : State) (h : n ≠ m) : getBox (modBox m f s) n = getBox s n := by
  simp [getBox, modBox, List.getD_eq_getElem?_getD, Ne.symm h]

theorem getBox_modBox_same (m : Nat) (f : Mailbox → Mailbox) (s : State) (h : m < s.fmw.boxes.length) :
    getBox (modBox m f s) m = f (getBox s m) := by
  simp [getBox, modBox, List.getD_eq_getElem?_getD, h]

end Sys2Proof.Safety
end

