-- ==== Sys2Proof/Laws/Commands.lean ====
section
/-!
SUPPORT. How a mailbox command that passes its checks runs: the one place where the entry checks, the routing and the turn of settings
commands are unfolded. A claim about a command cites `command_done` or `command_later` and looks only at the command's handler.
-/

namespace Sys2Proof.Safety

open Sys2Proof.Machine

/-- What the entry checks pass on: the command keeps its opcode and its mailbox, and no fuse is touched. -/
theorem entryChecks_pass (op : Nat) (call : MbCall) (s : State) (c : Cmd) (t : State) (ck : entryChecks op call s = .pass c t) :
    c.opcode = op ∧ c.src = .mailbox call.mb ∧ t.fuses = s.fuses ∧ ∃ n, c.payload = call.payload.take n := by
  revert ck
  unfold entryChecks
  dsimp only
  split; simp
  split; simp
  split; simp
  split; simp
  split
  · split; simp
    intro h; injection h with h1 h2; subst h1; subst h2; exact ⟨rfl, rfl, rfl, _, rfl⟩
  · split; simp
    split; simp
    split; simp
    split; simp
    intro h; injection h with h1 h2; subst h1; subst h2; exact ⟨rfl, rfl, rfl, _, rfl⟩

theorem arrives_opcode {op : Nat} {call : MbCall} {s : State} {c : Cmd} {t : State} (h : Arrives op call s c t) : c.opcode = op :=
  (entryChecks_pass _ _ _ _ _ h.checks).1

theorem arrives_src {op : Nat} {call : MbCall} {s : State} {c : Cmd} {t : State} (h : Arrives op call s c t) :
    c.src = .mailbox call.mb := (entryChecks_pass _ _ _ _ _ h.checks).2.1

theorem arrives_live {op : Nat} {call : MbCall} {s : State} {c : Cmd} {t : State} (h : Arrives op call s c t) (f : State → State) :
    live f s = f s := live_awake h.awake f

theorem arrives_fuses {op : Nat} {call : MbCall} {s : State} {c : Cmd} {t : State} (h : Arrives op call s c t) : t.fuses = s.fuses :=
  (entryChecks_pass _ _ _ _ _ h.checks).2.2.1

/-- A command that arrives comes to run. -/
theorem submit_arrives {op : Nat} {call : MbCall} {s : State} {c : Cmd} {t : State} (h : Arrives op call s c t)
    (tagged : op = 5 → c.tagged = true) :
    submit handle payloadCheck op call s = runCmd handle (((catalogue op).map (·.settings)).getD false) c t := by
  obtain ⟨aw, sv, nb, nd, up, ck, own, sg, al, pl⟩ := h
  obtain ⟨hop, hsrc, hfu, _⟩ := entryChecks_pass _ _ _ _ _ ck
  have hp : boxesPaused (opened op call s) = false := up
  simp only [submit, sv, nb, nd]
  simp only [Bool.not_true, Bool.or_self, Bool.false_eq_true, if_false]
  have e : opened op call s = modBox call.mb (fun b => { b with
      busy := true, steps := 0, cmdHeader := cmdHeaderBytes op call, cmdPayload := padTo 4096 call.payload }) s := rfl
  rw [← e]
  simp only [hp, serve, ck]
  have hsess : ((isSessionCmd op || op == 0x806) && c.target != self t) = false := by simp [own]
  have h5 : (op == 5 && !c.tagged) = false := by
    by_cases h : op = 5
    · simp [h, tagged h]
    · simp [h]
  simp only [hsess, h5]
  simp [route, own, targetRun, hop, al, pl]
  intro h; exact absurd (own.trans h) sg

/-- A command that is no settings command and is done: its response is what its handler answered. -/
theorem command_done {op : Nat} {call : MbCall} {s : State} {c : Cmd} {t : State} (h : Arrives op call s c t)
    (tagged : op = 5 → c.tagged = true) (plain : ((catalogue op).map (·.settings)).getD false = false)
    {st : Status} {pl : List Byte} {u : State} (run : handle c t = .done st pl u) (fuses : u.fuses = t.fuses) :
    mailboxCommand op call s = finishCmd c st 0 pl u := by
  have e := submit_arrives h tagged
  have f : (finishCmd c st 0 pl u).fuses = s.fuses :=
    ((finishCmd_keeps c st 0 pl u).part .fuses).trans (fuses.trans (arrives_fuses h))
  simp only [mailboxCommand, e, plain, runCmd, run]
  simp [retireReset, f]

/-- A command that is no settings command and answers later. -/
theorem command_later {op : Nat} {call : MbCall} {s : State} {c : Cmd} {t : State} (h : Arrives op call s c t)
    (tagged : op = 5 → c.tagged = true) (plain : ((catalogue op).map (·.settings)).getD false = false)
    {u : State} (run : handle c t = .later u) (fuses : u.fuses = t.fuses) : mailboxCommand op call s = u := by
  have e := submit_arrives h tagged
  have f : u.fuses = s.fuses := fuses.trans (arrives_fuses h)
  simp only [mailboxCommand, e, plain, runCmd, run]
  simp [retireReset, f]

/-- The state in which a settings command runs at its turn (R400). -/
def atTurn (c : Cmd) (t : State) : State := { t with fmw := { t.fmw with running := some (keepsBusy c 0) } }

theorem startSettings_eq (c : Cmd) (t : State) :
    startSettings handle c t = (match handle c (atTurn c t) with
      | .done st pl s => finishCmd c st 0 pl (endTurn s)
      | .later s => s) := rfl

/-- A settings command at its turn that is done: its turn ends with its response. -/
theorem settings_done {op : Nat} {call : MbCall} {s : State} {c : Cmd} {t : State} (h : Arrives op call s c t) (turn : Turn t)
    (tagged : op = 5 → c.tagged = true) (settings : ((catalogue op).map (·.settings)).getD false = true)
    {st : Status} {pl : List Byte} {u v : State} (run : handle c (atTurn c t) = .done st pl v) (ends : endTurn v = u)
    (fuses : u.fuses = t.fuses) : mailboxCommand op call s = finishCmd c st 0 pl u := by
  have e := submit_arrives h tagged
  obtain ⟨h1, h2⟩ := turn
  have f : (finishCmd c st 0 pl u).fuses = s.fuses :=
    ((finishCmd_keeps c st 0 pl u).part .fuses).trans (fuses.trans (arrives_fuses h))
  have r : runCmd handle true c t = finishCmd c st 0 pl u := by
    simp only [runCmd, h1, h2, startSettings_eq, run, ends]; simp
  simp only [mailboxCommand, e, settings, r]
  simp [retireReset, f]

/-- A settings command at its turn that keeps its mailbox BUSY. -/
theorem settings_later {op : Nat} {call : MbCall} {s : State} {c : Cmd} {t : State} (h : Arrives op call s c t) (turn : Turn t)
    (tagged : op = 5 → c.tagged = true) (settings : ((catalogue op).map (·.settings)).getD false = true)
    {v : State} (run : handle c (atTurn c t) = .later v) (fuses : v.fuses = t.fuses) : mailboxCommand op call s = v := by
  have e := submit_arrives h tagged
  obtain ⟨h1, h2⟩ := turn
  have f : v.fuses = s.fuses := fuses.trans (arrives_fuses h)
  have r : runCmd handle true c t = v := by
    simp only [runCmd, h1, h2, startSettings_eq, run]; simp
  simp only [mailboxCommand, e, settings, r]
  simp [retireReset, f]

end Sys2Proof.Safety
end

