-- ==== Sys2Proof/Laws/Arrivals.lean ====
section
/-!
SUPPORT. The lengths of hashes and tags, and commands that arrive: when an untagged call, and one that its session's key has tagged,
passes every check.
-/

namespace Sys2Proof.Safety

open Sys2Proof.Machine

/-! ### Lengths -/

theorem bendRows_length (a : List U64) : (bendRows a).length = 25 := by simp [bendRows]

theorem keccakRounds_length (n r : Nat) (a : List U64) (h : a.length = 25) : (keccakRounds n r a).length = 25 := by
  induction n generalizing r a with
  | zero => exact h
  | succ n ih => exact ih _ _ (by rw [List.length_modify, bendRows_length])

theorem keccakF_length (a : List U64) : (keccakF a).length = 25 :=
  keccakRounds_length 23 _ _ (by rw [List.length_modify, bendRows_length])

theorem absorb_length (rate n : Nat) (a : List U64) (m : List Byte) (h : a.length = 25) : (absorb rate n a m).length = 25 := by
  induction n generalizing a m with
  | zero => exact h
  | succ n ih => exact ih _ _ (keccakF_length _)

theorem lanes_length (a : List U64) : (a.flatMap fun w => leBytes 8 w.toNat).length = 8 * a.length := by
  induction a with
  | nil => rfl
  | cons x r ih =>
    rw [List.flatMap_cons, List.length_append, ih]
    simp [leBytes]; omega

/-- One squeezed block holds every tag. -/
theorem kmac128_length (key msg : List Byte) (custom : String) : (kmac128 key msg 16 custom).length = 16 := by
  simp only [kmac128, kmac, sponge]
  have one : ceilDiv 16 168 = 1 := by decide
  rw [one]
  simp only [squeeze, List.append_nil, List.length_take, lanes_length]
  rw [absorb_length _ _ _ _ (by simp)]
  decide

theorem cmdTag_length (key header body : List Byte) : (cmdTag key header body).length = 16 := kmac128_length _ _ _

/-! ### An untagged call -/

/-- The command that an untagged call spells. -/
def plainCmd (op : Nat) (call : MbCall) : Cmd :=
  { src := .mailbox call.mb, opcode := op, tagged := false, sequence := call.sequence, target := call.target, session := call.session,
    counter := call.counter, payload := call.payload.take call.length, rspKey := [] }

/-- Everything that `Arrives` asks of a call on this module but its checks 1 to 8. -/
def comesIn (op : Nat) (call : MbCall) (payload : List Byte) (s t : State) : Bool :=
  !s.start.inReset && !s.sec.scanned && boxServes s call.mb && !(getBox s call.mb).busy && !(getBox s call.mb).done &&
  !boxesPaused s && decide (call.target = self t ∧ call.target ≠ 0xFF) && (allowed t op).isNone && (payloadCheck t op payload).isNone

theorem arrives_plain {op : Nat} {call : MbCall} {s : State} {row : CatRow} (cat : catalogue op = some row) (plain : row.critical = false)
    (form : call.flags = 0 ∧ call.rsvd = 0 ∧ call.length ≤ 4096 ∧ inConfig (opened op call s) call.target = true)
    (h : comesIn op call (call.payload.take call.length) s (opened op call s) = true) :
    Arrives op call s (plainCmd op call) (opened op call s) := by
  obtain ⟨h1, h2, h3, h4⟩ := form
  simp only [comesIn, Bool.and_eq_true, Bool.not_eq_true', decide_eq_true_eq, Option.isNone_iff_eq_none] at h
  obtain ⟨⟨⟨⟨⟨⟨⟨⟨a1, a2⟩, a3⟩, a4⟩, a5⟩, a6⟩, a7, a8⟩, a9⟩, a10⟩ := h
  refine ⟨⟨a1, a2⟩, a3, a4, a5, a6, ?_, a7, a8, a9, a10⟩
  have l : ¬ 4096 < call.length := Nat.not_lt.mpr h3
  simp [entryChecks, h1, h2, h4, l, cat, plain, bit, plainCmd]

/-! ### A tagged call -/

/-- A call with its tag: the body is the payload's part before it. -/
def tag (op : Nat) (key body : List Byte) (call : MbCall) : MbCall :=
  let c := { call with flags := 1, length := body.length + 16 }
  { c with payload := body ++ cmdTag key (cmdHeaderBytes op c) body }

def taggedCmd (op : Nat) (body rspKey : List Byte) (call : MbCall) : Cmd :=
  { plainCmd op call with tagged := true, payload := body, rspKey := rspKey }

/-- The tag is where check 6 of R390 looks for it, over what it covers. -/
theorem tag_valid (op : Nat) (key body : List Byte) (call : MbCall) :
    let c := tag op key body call
    (c.payload.drop (c.length - 16)).take 16 = cmdTag key (cmdHeaderBytes op c) (c.payload.take (c.length - 16)) := by
  have l := cmdTag_length key (cmdHeaderBytes op { call with flags := 1, length := body.length + 16 }) body
  have e : cmdHeaderBytes op (tag op key body call) = cmdHeaderBytes op { call with flags := 1, length := body.length + 16 } := rfl
  dsimp only
  rw [e]
  simp only [tag, Nat.add_sub_cancel, List.drop_left, List.take_left]
  exact List.take_of_length_le (le_of_eq l)

/-- The session's counter consumed. -/
def consumed (x : Session) (n : Nat) (s : State) : State :=
  { s with fmw := { s.fmw with sessions := s.fmw.sessions.map fun y =>
    if y.id == x.id then { x with lastCounter := n, since := s.tick.timebase } else y } }

theorem arrives_tagged {op : Nat} {call : MbCall} {body : List Byte} {s : State} {row : CatRow} {x : Session}
    (cat : catalogue op = some row) (session : (s.fmw.sessions.find? fun y => y.id == call.session && y.isOpen) = some x)
    (form : call.rsvd = 0 ∧ body.length ≤ 4080 ∧ x.lastCounter < call.counter ∧ inConfig s call.target = true)
    (h : comesIn op call body s (consumed x call.counter (opened op (tag op x.cmdKey body call) s)) = true) :
    Arrives op (tag op x.cmdKey body call) s (taggedCmd op body x.rspKey call)
      (consumed x call.counter (opened op (tag op x.cmdKey body call) s)) := by
  obtain ⟨h1, h2, h3, h4⟩ := form
  simp only [comesIn, Bool.and_eq_true, Bool.not_eq_true', decide_eq_true_eq, Option.isNone_iff_eq_none] at h
  obtain ⟨⟨⟨⟨⟨⟨⟨⟨a1, a2⟩, a3⟩, a4⟩, a5⟩, a6⟩, a7, a8⟩, a9⟩, a10⟩ := h
  refine ⟨⟨a1, a2⟩, a3, a4, a5, a6, ?_, a7, a8, a9, a10⟩
  have e1 : (tag op x.cmdKey body call).length = body.length + 16 := rfl
  have e2 : (tag op x.cmdKey body call).flags = 1 := rfl
  have e3 : (tag op x.cmdKey body call).rsvd = 0 := h1
  have e4 : (tag op x.cmdKey body call).target = call.target := rfl
  have e5 : (tag op x.cmdKey body call).session = call.session := rfl
  have e6 : (tag op x.cmdKey body call).counter = call.counter := rfl
  have e7 : (tag op x.cmdKey body call).payload.take body.length = body := by simp [tag]
  have e8 : ((tag op x.cmdKey body call).payload.drop body.length).take 16 =
      cmdTag x.cmdKey (cmdHeaderBytes op (tag op x.cmdKey body call)) body := by
    have v := tag_valid op x.cmdKey body call
    simp only [e1, Nat.add_sub_cancel, e7] at v
    exact v
  have se : ((opened op (tag op x.cmdKey body call) s).fmw.sessions.find? fun y => y.id == call.session && y.isOpen) = some x := session
  have ic : inConfig (opened op (tag op x.cmdKey body call) s) call.target = true := h4
  have l1 : ¬ 4096 < body.length + 16 := by omega
  simp only [entryChecks, e1, e2, e3, e4, e5, e6, cat, se, Nat.add_sub_cancel, e7, e8, ne_eq, not_true_eq_false, if_false]
  simp [l1, bit, Nat.not_le.mpr h3, inConfig, consumed, taggedCmd, plainCmd, tag]
  exact fun _ => ic

end Sys2Proof.Safety
end

