-- ==== Sys2Proof/Laws/Steady.lean ====
section
/-!
SUPPORT. What every operation of the model leaves true: fuses go one way, the command queue is step's own, memory stays canonical. One
lemma for each operation follows in the other Steady files.
-/

namespace Sys2Proof.Machine

open Sys2Proof.Safety

theorem OneWay.refl (a : Fuses) : OneWay a a :=
  ⟨id, id, id, fun _ => id, Nat.le_refl _, fun _ _ => id, rfl, rfl⟩

theorem OneWay.trans {a b c : Fuses} (x : OneWay a b) (y : OneWay b c) : OneWay a c :=
  ⟨fun h => y.provisioned (x.provisioned h), fun h => y.deployed (x.deployed h), fun h => y.retired (x.retired h),
   fun n h => y.revoked n (x.revoked n h), Nat.le_trans x.rollback y.rollback, fun n k h => y.hashes n k (x.hashes n k h),
   y.secret.trans x.secret, y.fused.trans x.fused⟩

/-- From a state to a later one: fuses one way, the same waiting commands, memory canonical if it was. -/
structure Steady (s t : State) : Prop where
  fuses : OneWay s.fuses t.fuses
  pending : t.pending = s.pending
  hbm : bwf s.hbm = true → bwf t.hbm = true
  host : bwf s.host = true → bwf t.host = true

namespace Steady

variable {s₀ s t : State}

theorem refl (s : State) : Steady s s := ⟨OneWay.refl _, rfl, id, id⟩

/-- A change of other fields. -/
theorem of_eq (h : Steady s₀ s) (hf : t.fuses = s.fuses) (hp : t.pending = s.pending) (hm : t.hbm = s.hbm) (hh : t.host = s.host) :
    Steady s₀ t :=
  ⟨hf ▸ h.fuses, hp.trans h.pending, fun x => hm ▸ h.hbm x, fun x => hh ▸ h.host x⟩

theorem of_hbm (h : Steady s₀ s) (hf : t.fuses = s.fuses) (hp : t.pending = s.pending) (hm : bwf s.hbm = true → bwf t.hbm = true)
    (hh : t.host = s.host) : Steady s₀ t :=
  ⟨hf ▸ h.fuses, hp.trans h.pending, fun x => hm (h.hbm x), fun x => hh ▸ h.host x⟩

theorem of_host (h : Steady s₀ s) (hf : t.fuses = s.fuses) (hp : t.pending = s.pending) (hm : t.hbm = s.hbm)
    (hh : bwf s.host = true → bwf t.host = true) : Steady s₀ t :=
  ⟨hf ▸ h.fuses, hp.trans h.pending, fun x => hm ▸ h.hbm x, fun x => hh (h.host x)⟩

theorem of_fuses (h : Steady s₀ s) (hf : OneWay s.fuses t.fuses) (hp : t.pending = s.pending) (hm : t.hbm = s.hbm)
    (hh : t.host = s.host) : Steady s₀ t :=
  ⟨OneWay.trans h.fuses hf, hp.trans h.pending, fun x => hm ▸ h.hbm x, fun x => hh ▸ h.host x⟩

/-- A module that starts over: only fuses, waiting commands and host memory stay. -/
theorem of_reset (h : Steady s₀ s) (hf : t.fuses = s.fuses) (hp : t.pending = s.pending) (hm : t.hbm = []) (hh : t.host = s.host) :
    Steady s₀ t :=
  ⟨hf ▸ h.fuses, hp.trans h.pending, fun _ => by rw [hm]; decide, fun x => hh ▸ h.host x⟩

/-- A record update of other fields. -/
theorem upd {xstart xtick xplan xqueues xrings xctrs xpoison xhostPoison xsram xsramPoison xmemctl xlines xculture xrc xindex xpress xsticky xerr xevt xthr xfmw xcave xsec xfw xpower xfabric xcxl xsvc xageing xpackages xsent xfree} (h : Steady s₀ s) :
    Steady s₀
      ⟨s.pending, xstart, xtick, xplan, xqueues, xrings, xctrs, s.hbm, xpoison, s.host, xhostPoison, xsram, xsramPoison, xmemctl, xlines, xculture, xrc, xindex, xpress, xsticky, xerr, xevt, xthr, xfmw, xcave, s.fuses, xsec, xfw, xpower, xfabric, xcxl, xsvc, xageing, xpackages, xsent, xfree⟩ :=
  of_eq h rfl rfl rfl rfl

/-- Bytes of HBM are written. -/
theorem upd_write {xstart xtick xplan xqueues xrings xctrs xpoison xhostPoison xsram xsramPoison xmemctl xlines xculture xrc xindex xpress xsticky xerr xevt xthr xfmw xcave xsec xfw xpower xfabric xcxl xsvc xageing xpackages xsent xfree} {a : Nat} {bs : List Byte} (h : Steady s₀ s) :
    Steady s₀
      ⟨s.pending, xstart, xtick, xplan, xqueues, xrings, xctrs, bwrite s.hbm a bs, xpoison, s.host, xhostPoison, xsram, xsramPoison, xmemctl, xlines, xculture, xrc, xindex, xpress, xsticky, xerr, xevt, xthr, xfmw, xcave, s.fuses, xsec, xfw, xpower, xfabric, xcxl, xsvc, xageing, xpackages, xsent, xfree⟩ :=
  of_hbm h rfl rfl (bwf_bwrite bs s.hbm a) rfl

/-- Bytes of HBM return to zero. -/
theorem upd_drop {xstart xtick xplan xqueues xrings xctrs xpoison xhostPoison xsram xsramPoison xmemctl xlines xculture xrc xindex xpress xsticky xerr xevt xthr xfmw xcave xsec xfw xpower xfabric xcxl xsvc xageing xpackages xsent xfree} {f : Nat × Byte → Bool} (h : Steady s₀ s) :
    Steady s₀
      ⟨s.pending, xstart, xtick, xplan, xqueues, xrings, xctrs, s.hbm.filter f, xpoison, s.host, xhostPoison, xsram, xsramPoison, xmemctl, xlines, xculture, xrc, xindex, xpress, xsticky, xerr, xevt, xthr, xfmw, xcave, s.fuses, xsec, xfw, xpower, xfabric, xcxl, xsvc, xageing, xpackages, xsent, xfree⟩ :=
  of_hbm h rfl rfl (bwf_filter s.hbm f) rfl

/-- Bytes of host memory are written. -/
theorem upd_host {xstart xtick xplan xqueues xrings xctrs xpoison xhostPoison xsram xsramPoison xmemctl xlines xculture xrc xindex xpress xsticky xerr xevt xthr xfmw xcave xsec xfw xpower xfabric xcxl xsvc xageing xpackages xsent xfree} {a : Nat} {bs : List Byte} (h : Steady s₀ s) :
    Steady s₀
      ⟨s.pending, xstart, xtick, xplan, xqueues, xrings, xctrs, s.hbm, xpoison, bwrite s.host a bs, xhostPoison, xsram, xsramPoison, xmemctl, xlines, xculture, xrc, xindex, xpress, xsticky, xerr, xevt, xthr, xfmw, xcave, s.fuses, xsec, xfw, xpower, xfabric, xcxl, xsvc, xageing, xpackages, xsent, xfree⟩ :=
  of_host h rfl rfl rfl (bwf_bwrite bs s.host a)

/-- The module starts over. -/
theorem upd_over {xstart xtick xplan xqueues xrings xctrs xpoison xhostPoison xsram xsramPoison xmemctl xlines xculture xrc xindex xpress xsticky xerr xevt xthr xfmw xcave xsec xfw xpower xfabric xcxl xsvc xageing xpackages xsent xfree} (h : Steady s₀ s) :
    Steady s₀
      ⟨s.pending, xstart, xtick, xplan, xqueues, xrings, xctrs, [], xpoison, s.host, xhostPoison, xsram, xsramPoison, xmemctl, xlines, xculture, xrc, xindex, xpress, xsticky, xerr, xevt, xthr, xfmw, xcave, s.fuses, xsec, xfw, xpower, xfabric, xcxl, xsvc, xageing, xpackages, xsent, xfree⟩ :=
  of_reset h rfl rfl rfl rfl

/-- Fuses change one way. -/
theorem upd_fuses {xstart xtick xplan xqueues xrings xctrs xpoison xhostPoison xsram xsramPoison xmemctl xlines xculture xrc xindex xpress xsticky xerr xevt xthr xfmw xcave xsec xfw xpower xfabric xcxl xsvc xageing xpackages xsent xfree} {f : Fuses} (hf : OneWay s.fuses f) (h : Steady s₀ s) :
    Steady s₀
      ⟨s.pending, xstart, xtick, xplan, xqueues, xrings, xctrs, s.hbm, xpoison, s.host, xhostPoison, xsram, xsramPoison, xmemctl, xlines, xculture, xrc, xindex, xpress, xsticky, xerr, xevt, xthr, xfmw, xcave, f, xsec, xfw, xpower, xfabric, xcxl, xsvc, xageing, xpackages, xsent, xfree⟩ :=
  of_fuses h hf rfl rfl rfl

theorem ite {c : Prop} [Decidable c] {t u : State} (ht : Steady s₀ t) (hu : Steady s₀ u) : Steady s₀ (if c then t else u) := by
  by_cases h : c
  · rw [if_pos h]; exact ht
  · rw [if_neg h]; exact hu

theorem foldl {α : Type} {F : State → α → State} {l : List α} (hf : ∀ s x, Steady s₀ s → Steady s₀ (F s x)) (h : Steady s₀ s) :
    Steady s₀ (l.foldl F s) := by
  induction l generalizing s with
  | nil => exact h
  | cons a r ih => exact ih (hf _ _ h)

/-- A fold that carries a second value beside the state. -/
theorem foldl_fst {α β : Type} {F : State × β → α → State × β} {l : List α} {p : State × β}
    (hf : ∀ p x, Steady s₀ p.1 → Steady s₀ (F p x).1) (h : Steady s₀ p.1) : Steady s₀ (l.foldl F p).1 := by
  induction l generalizing p with
  | nil => exact h
  | cons a r ih => exact ih (hf _ _ h)

theorem of_fst {β : Type} {x : State × β} {b : β} (e : x = (t, b)) (h : Steady s₀ x.1) : Steady s₀ t := by subst e; exact h

theorem of_snd {β : Type} {x : β × State} {b : β} (e : x = (b, t)) (h : Steady s₀ x.2) : Steady s₀ t := by subst e; exact h

theorem of_thd {β γ : Type} {x : β × γ × State} {b : β} {c : γ} (e : x = (b, c, t)) (h : Steady s₀ x.2.2) : Steady s₀ t := by
  subst e; exact h

end Steady

/-- The state that a handler leaves. -/
def HRes.state : HRes → State
  | .done _ _ s => s
  | .later s => s

theorem Steady.of_done {s₀ t : State} {x : HRes} {st : Status} {p : List Byte} (e : x = .done st p t) (h : Steady s₀ x.state) :
    Steady s₀ t := by subst e; exact h

theorem Steady.of_later {s₀ t : State} {x : HRes} (e : x = .later t) (h : Steady s₀ x.state) : Steady s₀ t := by subst e; exact h

/-- The state that the entry checks leave. -/
def Entry.state : Entry → State
  | .fail _ _ s => s
  | .pass _ s => s

theorem Steady.of_fail {s₀ t : State} {x : Entry} {c : Cmd} {st : Status} (e : x = .fail c st t) (h : Steady s₀ x.state) :
    Steady s₀ t := by subst e; exact h

theorem Steady.of_pass {s₀ t : State} {x : Entry} {c : Cmd} (e : x = .pass c t) (h : Steady s₀ x.state) : Steady s₀ t := by
  subst e; exact h

/-- The state in which a head waits, or the one given. -/
def HeadRes.state (s : State) : HeadRes → State
  | .waits t => t
  | _ => s

theorem Steady.of_waits {s₀ s t : State} {x : HeadRes} (e : x = .waits t) (h : Steady s₀ (x.state s)) : Steady s₀ t := by
  subst e; exact h

end Sys2Proof.Machine
end

