-- ==== Sys2Proof/Laws/SteadyOps.lean ====
section
/-!
SUPPORT. The operations of Machine/Ops.lean are steady: fuses go one way, the command queue stays, memory stays canonical.
-/

namespace Sys2Proof.Machine

open Sys2Proof.Safety

set_option linter.unusedTactic false
set_option linter.unreachableTactic false

theorem emit_steady {s₀ : State} (x : Sent) {s : State} (hst : Steady s₀ s) :
    Steady s₀ (emit x s) := by
  unfold emit
  repeat' (first
    | with_reducible assumption | split | extract_lets | dsimp only | with_reducible apply Steady.upd)

theorem sendMsix_steady {s₀ : State} (v : Nat) {s : State} (hst : Steady s₀ s) :
    Steady s₀ (sendMsix v s) := by
  unfold sendMsix
  repeat' (first
    | with_reducible assumption | with_reducible apply emit_steady | split | extract_lets | dsimp only
    | with_reducible apply Steady.upd)

theorem raiseMsix_steady {s₀ : State} (v : Nat) {s : State} (hst : Steady s₀ s) :
    Steady s₀ (raiseMsix v s) := by
  unfold raiseMsix
  repeat' (first
    | with_reducible assumption | with_reducible apply sendMsix_steady | split | extract_lets | dsimp only
    | with_reducible apply Steady.upd)

theorem writeEvent_steady {s₀ : State} (e : Event) {s : State} (hst : Steady s₀ s) :
    Steady s₀ (writeEvent e s) := by
  unfold writeEvent
  repeat' (first
    | with_reducible assumption | with_reducible apply raiseMsix_steady | split | extract_lets | dsimp only
    | with_reducible apply Steady.upd)

theorem routeEvent_steady {s₀ : State} (e : Event) {s : State} (hst : Steady s₀ s) :
    Steady s₀ (routeEvent e s) := by
  unfold routeEvent
  repeat' (first
    | with_reducible assumption | with_reducible apply writeEvent_steady | with_reducible apply emit_steady | split
    | extract_lets | dsimp only | with_reducible apply Steady.upd)

theorem raise_steady {s₀ : State} (code : Nat) (severity : Nat) (detail : List Byte) {s : State} (hst : Steady s₀ s) :
    Steady s₀ (raise code severity detail s) := by
  unfold raise
  repeat' (first
    | with_reducible assumption | with_reducible apply routeEvent_steady | split | extract_lets | dsimp only
    | with_reducible apply Steady.upd)

theorem setC_steady {s₀ : State} (c : Nat) (v : Ctr) {s : State} (hst : Steady s₀ s) :
    Steady s₀ (setC c v s) := by
  unfold setC
  repeat' (first
    | with_reducible assumption | split | extract_lets | dsimp only | with_reducible apply Steady.upd)

theorem modC_steady {s₀ : State} (c : Nat) (f : Ctr → Ctr) {s : State} (hst : Steady s₀ s) :
    Steady s₀ (modC c f s) := by
  unfold modC
  repeat' (first
    | with_reducible assumption | with_reducible apply setC_steady | split | extract_lets | dsimp only
    | with_reducible apply Steady.upd)

theorem setQ_steady {s₀ : State} (q : Nat) (v : Queue) {s : State} (hst : Steady s₀ s) :
    Steady s₀ (setQ q v s) := by
  unfold setQ
  repeat' (first
    | with_reducible assumption | split | extract_lets | dsimp only | with_reducible apply Steady.upd)

theorem modQ_steady {s₀ : State} (q : Nat) (f : Queue → Queue) {s : State} (hst : Steady s₀ s) :
    Steady s₀ (modQ q f s) := by
  unfold modQ
  repeat' (first
    | with_reducible assumption | with_reducible apply setQ_steady | split | extract_lets | dsimp only
    | with_reducible apply Steady.upd)

theorem modOp_steady {s₀ : State} (q : Nat) (i : U32) (f : Op → Op) {s : State} (hst : Steady s₀ s) :
    Steady s₀ (modOp q i f s) := by
  unfold modOp
  repeat' (first
    | with_reducible assumption | with_reducible apply modQ_steady | split | extract_lets | dsimp only
    | with_reducible apply Steady.upd)

theorem finishOp_steady {s₀ : State} (q : Nat) (i : U32) (st : Status) (detail : Nat) {s : State} (hst : Steady s₀ s) :
    Steady s₀ (finishOp q i st detail s) := by
  unfold finishOp
  repeat' (first
    | with_reducible assumption | with_reducible apply modOp_steady | split | extract_lets | dsimp only
    | with_reducible apply Steady.upd)

theorem freeBytes_steady {s₀ : State} (n : Nat) {s : State} (hst : Steady s₀ s) :
    Steady s₀ (freeBytes n s).2 := by
  unfold freeBytes
  repeat' (first
    | with_reducible assumption | split | extract_lets | dsimp only | with_reducible apply Steady.upd)

theorem errRecord_steady {s₀ : State} (r : ErrRec) {s : State} (hst : Steady s₀ s) :
    Steady s₀ (errRecord r s) := by
  unfold errRecord
  repeat' (first
    | with_reducible assumption | with_reducible apply raise_steady | split | extract_lets | dsimp only
    | with_reducible apply Steady.upd)

theorem consumeWord_steady {s₀ : State} (who : Who) (w : Nat) (injected : Bool) {s : State} (hst : Steady s₀ s) :
    Steady s₀ (consumeWord who w injected s) := by
  unfold consumeWord
  repeat' (first
    | with_reducible assumption | with_reducible apply errRecord_steady | split | extract_lets | dsimp only
    | with_reducible apply Steady.upd)

theorem degrade_steady {s₀ : State} (granule : Nat) {s : State} (hst : Steady s₀ s) :
    Steady s₀ (degrade granule s) := by
  unfold degrade
  repeat' (first
    | with_reducible assumption | with_reducible apply errRecord_steady | split | extract_lets | dsimp only
    | with_reducible apply Steady.upd)

theorem correctWord_steady {s₀ : State} (who : Who) (w : Nat) (l : Latent) {s : State} (hst : Steady s₀ s) :
    Steady s₀ (correctWord who w l s) := by
  unfold correctWord
  repeat' (first
    | with_reducible assumption | with_reducible apply errRecord_steady | with_reducible apply degrade_steady | split
    | extract_lets | dsimp only | with_reducible apply Steady.upd)

theorem poisonWord_steady {s₀ : State} (who : Who) (w : Nat) (l : Latent) {s : State} (hst : Steady s₀ s) :
    Steady s₀ (poisonWord who w l s) := by
  unfold poisonWord
  repeat' (first
    | with_reducible assumption | with_reducible apply errRecord_steady | with_reducible apply degrade_steady | split
    | extract_lets | dsimp only | with_reducible apply Steady.upd)

theorem touchWord_steady {s₀ : State} (who : Who) {s : State} (w : Nat) (hst : Steady s₀ s) :
    Steady s₀ (touchWord who s w) := by
  unfold touchWord
  repeat' (first
    | with_reducible assumption | with_reducible apply consumeWord_steady | with_reducible apply correctWord_steady
    | with_reducible apply freeBytes_steady | with_reducible apply poisonWord_steady | split | extract_lets | dsimp only
    | refine Steady.of_snd (by with_reducible assumption) ?_ | with_reducible apply Steady.upd
    | with_reducible apply Steady.upd_write | with_reducible apply Steady.upd_drop | with_reducible apply Steady.upd_over)

theorem mergeWord_steady {s₀ : State} {s : State} (w : Nat) (hst : Steady s₀ s) :
    Steady s₀ (mergeWord s w) := by
  unfold mergeWord
  repeat' (first
    | with_reducible assumption | with_reducible apply touchWord_steady | split | extract_lets | dsimp only
    | with_reducible apply Steady.upd)

theorem injectHbm_steady {s₀ : State} (a : Nat) (len : Nat) {s : State} (hst : Steady s₀ s) :
    Steady s₀ (injectHbm a len s) := by
  unfold injectHbm
  repeat' (first
    | with_reducible assumption | split | extract_lets | dsimp only | with_reducible apply Steady.upd)

theorem writeHbm_steady {s₀ : State} (a : Nat) (data : List Byte) (flags : List Bool) {s : State} (hst : Steady s₀ s) :
    Steady s₀ (writeHbm a data flags s) := by
  unfold writeHbm
  repeat' (first
    | with_reducible assumption | intro _ | with_reducible apply mergeWord_steady | with_reducible apply injectHbm_steady
    | with_reducible apply Steady.foldl | with_reducible apply Steady.foldl_fst | split | extract_lets | dsimp only
    | with_reducible apply Steady.upd | with_reducible apply Steady.upd_write | with_reducible apply Steady.upd_drop
    | with_reducible apply Steady.upd_over)

theorem sramRecord_steady {s₀ : State} (type : Nat) (severity : Nat) (source : Nat) (unit : Nat) (off : Nat) (status : Nat) (who : Who) (l : Latent) {s : State} (hst : Steady s₀ s) :
    Steady s₀ (sramRecord type severity source unit off status who l s) := by
  unfold sramRecord
  repeat' (first
    | with_reducible assumption | with_reducible apply errRecord_steady | split | extract_lets | dsimp only
    | with_reducible apply Steady.upd)

theorem correctSram_steady {s₀ : State} (source : Nat) (unit : Nat) (off : Nat) (who : Who) (l : Latent) {s : State} (hst : Steady s₀ s) :
    Steady s₀ (correctSram source unit off who l s) := by
  unfold correctSram
  repeat' (first
    | with_reducible assumption | with_reducible apply sramRecord_steady | split | extract_lets | dsimp only
    | with_reducible apply Steady.upd)

theorem uncorrectSram_steady {s₀ : State} (source : Nat) (unit : Nat) (off : Nat) (who : Who) (l : Latent) {s : State} (hst : Steady s₀ s) :
    Steady s₀ (uncorrectSram source unit off who l s) := by
  unfold uncorrectSram
  repeat' (first
    | with_reducible assumption | with_reducible apply sramRecord_steady | split | extract_lets | dsimp only
    | with_reducible apply Steady.upd)

theorem touchSramWord_steady {s₀ : State} (who : Who) {s : State} (x : Nat × Nat × Nat × Latent) (hst : Steady s₀ s) :
    Steady s₀ (touchSramWord who s x) := by
  unfold touchSramWord
  repeat' (first
    | with_reducible assumption | with_reducible apply sramRecord_steady | with_reducible apply correctSram_steady
    | with_reducible apply uncorrectSram_steady | split | extract_lets | dsimp only | with_reducible apply Steady.upd)

theorem mergeSram_steady {s₀ : State} (v : Nat) (ws : List Nat) {s : State} (hst : Steady s₀ s) :
    Steady s₀ (mergeSram v ws s) := by
  unfold mergeSram
  repeat' (first
    | with_reducible assumption | intro _ | with_reducible apply touchSramWord_steady | with_reducible apply Steady.foldl
    | with_reducible apply Steady.foldl_fst | split | extract_lets | dsimp only | with_reducible apply Steady.upd)

theorem injectSram_steady {s₀ : State} (v : Nat) (off : Nat) (len : Nat) {s : State} (hst : Steady s₀ s) :
    Steady s₀ (injectSram v off len s) := by
  unfold injectSram
  repeat' (first
    | with_reducible assumption | split | extract_lets | dsimp only | with_reducible apply Steady.upd)

theorem poke_steady {s₀ : State} (a : LAddr) (data : List Byte) (flags : List Bool) {s : State} (hst : Steady s₀ s) :
    Steady s₀ (poke a data flags s) := by
  unfold poke
  repeat' (first
    | with_reducible assumption | with_reducible apply writeHbm_steady | with_reducible apply mergeSram_steady
    | with_reducible apply injectSram_steady | split | extract_lets | dsimp only | with_reducible apply Steady.upd
    | with_reducible apply Steady.upd_write | with_reducible apply Steady.upd_drop | with_reducible apply Steady.upd_over
    | with_reducible apply Steady.upd_host)

theorem pokeClean_steady {s₀ : State} (a : LAddr) (data : List Byte) {s : State} (hst : Steady s₀ s) :
    Steady s₀ (pokeClean a data s) := by
  unfold pokeClean
  repeat' (first
    | with_reducible assumption | with_reducible apply poke_steady | split | extract_lets | dsimp only
    | with_reducible apply Steady.upd)

theorem scramble_steady {s₀ : State} (a : LAddr) (len : Nat) {s : State} (hst : Steady s₀ s) :
    Steady s₀ (scramble a len s) := by
  unfold scramble
  repeat' (first
    | with_reducible assumption | with_reducible apply freeBytes_steady | with_reducible apply pokeClean_steady | split
    | extract_lets | dsimp only | refine Steady.of_snd (by with_reducible assumption) ?_ | with_reducible apply Steady.upd)

theorem touchHbm_steady {s₀ : State} (who : Who) (a : Nat) (len : Nat) {s : State} (hst : Steady s₀ s) :
    Steady s₀ (touchHbm who a len s) := by
  unfold touchHbm
  repeat' (first
    | with_reducible assumption | intro _ | with_reducible apply touchWord_steady | with_reducible apply Steady.foldl
    | with_reducible apply Steady.foldl_fst | split | extract_lets | dsimp only | with_reducible apply Steady.upd)

theorem touchSram_steady {s₀ : State} (who : Who) (v : Nat) (off : Nat) (len : Nat) {s : State} (hst : Steady s₀ s) :
    Steady s₀ (touchSram who v off len s) := by
  unfold touchSram
  repeat' (first
    | with_reducible assumption | intro _ | with_reducible apply touchSramWord_steady | with_reducible apply Steady.foldl
    | with_reducible apply Steady.foldl_fst | split | extract_lets | dsimp only | with_reducible apply Steady.upd)

theorem hostPoisonIn_steady {s₀ : State} (x : Nat) (len : Nat) {s : State} (hst : Steady s₀ s) :
    Steady s₀ (hostPoisonIn x len s) := by
  unfold hostPoisonIn
  repeat' (first
    | with_reducible assumption | split | extract_lets | dsimp only | with_reducible apply Steady.upd)

theorem touch_steady {s₀ : State} (who : Who) (a : LAddr) (len : Nat) {s : State} (hst : Steady s₀ s) :
    Steady s₀ (touch who a len s) := by
  unfold touch
  repeat' (first
    | with_reducible assumption | with_reducible apply touchHbm_steady | with_reducible apply touchSram_steady
    | with_reducible apply hostPoisonIn_steady | split | extract_lets | dsimp only | with_reducible apply Steady.upd
    | with_reducible apply Steady.upd_write | with_reducible apply Steady.upd_drop | with_reducible apply Steady.upd_over)

theorem setSvc_steady {s₀ : State} (u : UnitId) (v : Svc) {s : State} (hst : Steady s₀ s) :
    Steady s₀ (setSvc u v s) := by
  unfold setSvc
  repeat' (first
    | with_reducible assumption | split | extract_lets | dsimp only | with_reducible apply Steady.upd)

theorem suspect_steady {s₀ : State} (u : UnitId) (cause : Nat) {s : State} (hst : Steady s₀ s) :
    Steady s₀ (suspect u cause s) := by
  unfold suspect
  repeat' (first
    | with_reducible assumption | with_reducible apply raise_steady | with_reducible apply setSvc_steady | split | extract_lets
    | dsimp only | with_reducible apply Steady.upd)

theorem unitUncorr_steady {s₀ : State} (u : UnitId) {s : State} (hst : Steady s₀ s) :
    Steady s₀ (unitUncorr u s) := by
  unfold unitUncorr
  repeat' (first
    | with_reducible assumption | with_reducible apply suspect_steady | with_reducible apply setSvc_steady | split | extract_lets
    | dsimp only | with_reducible apply Steady.upd)

theorem stopQueue_steady {s₀ : State} (q : Nat) (st : Status) {s : State} (hst : Steady s₀ s) :
    Steady s₀ (stopQueue q st s) := by
  unfold stopQueue
  repeat' (first
    | with_reducible assumption | with_reducible apply raise_steady | with_reducible apply modQ_steady | split | extract_lets
    | dsimp only | with_reducible apply Steady.upd)

theorem modPress_steady {s₀ : State} (n : Nat) (f : PressEngine → PressEngine) {s : State} (hst : Steady s₀ s) :
    Steady s₀ (modPress n f s) := by
  unfold modPress
  repeat' (first
    | with_reducible assumption | split | extract_lets | dsimp only | with_reducible apply Steady.upd)

theorem freePress_steady {s₀ : State} (q : Nat) (idx : U32) {s : State} (hst : Steady s₀ s) :
    Steady s₀ (freePress q idx s) := by
  unfold freePress
  repeat' (first
    | with_reducible assumption | with_reducible apply modPress_steady | split | extract_lets | dsimp only
    | with_reducible apply Steady.upd)

theorem emitAll_steady {s₀ : State} (xs : List Sent) {s : State} (hst : Steady s₀ s) :
    Steady s₀ (emitAll xs s) := by
  unfold emitAll
  repeat' (first
    | with_reducible assumption | intro _ | with_reducible apply emit_steady | with_reducible apply Steady.foldl
    | with_reducible apply Steady.foldl_fst | split | extract_lets | dsimp only | with_reducible apply Steady.upd)

theorem sendSync_steady {s₀ : State} (dsts : List Nat) (m : Nat → Sent) {s : State} (hst : Steady s₀ s) :
    Steady s₀ (sendSync dsts m s) := by
  unfold sendSync
  repeat' (first
    | with_reducible assumption | with_reducible apply emit_steady | split | extract_lets | dsimp only
    | with_reducible apply Steady.upd)

theorem lateEventIrq_steady {s₀ : State} {s : State} (hst : Steady s₀ s) :
    Steady s₀ (lateEventIrq s) := by
  unfold lateEventIrq
  repeat' (first
    | with_reducible assumption | with_reducible apply raiseMsix_steady | split | extract_lets | dsimp only
    | with_reducible apply Steady.upd)

theorem readSpan_steady {s₀ : State} (who : Who) (a : LAddr) (len : Nat) {s : State} (hst : Steady s₀ s) :
    Steady s₀ (readSpan who a len s).2.2 := by
  unfold readSpan
  repeat' (first
    | with_reducible assumption | with_reducible apply touch_steady | split | extract_lets | dsimp only
    | with_reducible apply Steady.upd)

theorem flushEvents_steady {s₀ : State} {s : State} (hst : Steady s₀ s) :
    Steady s₀ (flushEvents s) := by
  unfold flushEvents
  repeat' (first
    | with_reducible assumption | intro _ | with_reducible apply routeEvent_steady | with_reducible apply Steady.foldl
    | with_reducible apply Steady.foldl_fst | split | extract_lets | dsimp only | with_reducible apply Steady.upd)

theorem gateVats_steady {s₀ : State} (vs : List Nat) {s : State} (hst : Steady s₀ s) :
    Steady s₀ (gateVats vs s) := by
  unfold gateVats
  repeat' (first
    | with_reducible assumption | intro _ | with_reducible apply Steady.foldl | with_reducible apply Steady.foldl_fst | split
    | extract_lets | dsimp only | with_reducible apply Steady.upd)

theorem live_steady {s₀ : State} (f : State → State) {s : State} (hf : ∀ {s₀ s}, Steady s₀ s → Steady s₀ (f s)) (hst : Steady s₀ s) :
    Steady s₀ (live f s) := by
  unfold live
  repeat' (first
    | with_reducible assumption | intro _ | with_reducible apply hf | split | extract_lets | dsimp only
    | with_reducible apply Steady.upd)

end Sys2Proof.Machine
end

