-- ==== Sys2Proof/Laws/SteadyCounters.lean ====
section
/-!
SUPPORT. The operations of Machine/Counters.lean are steady: fuses go one way, the command queue stays, memory stays canonical.
-/

namespace Sys2Proof.Machine

open Sys2Proof.Safety

set_option linter.unusedTactic false
set_option linter.unreachableTactic false

theorem subCounter_steady {s₀ : State} (c : Nat) (n : U32) {s : State} (hst : Steady s₀ s) :
    Steady s₀ (subCounter c n s).1 := by
  unfold subCounter
  repeat' (first
    | with_reducible assumption | with_reducible apply modC_steady | split | extract_lets | dsimp only
    | with_reducible apply Steady.upd)

theorem releaseWaiter_steady {s₀ : State} (st : Status) {s : State} (w : Waiter) (hst : Steady s₀ s) :
    Steady s₀ (releaseWaiter st s w) := by
  unfold releaseWaiter
  repeat' (first
    | with_reducible assumption | with_reducible apply modOp_steady | with_reducible apply stopQueue_steady
    | with_reducible apply freePress_steady | with_reducible apply finishOp_steady | with_reducible apply emit_steady | split
    | extract_lets | dsimp only | with_reducible apply Steady.upd)

theorem poisonCounter_steady {s₀ : State} (st : Status) {s : State} (c : Nat) (hst : Steady s₀ s) :
    Steady s₀ (poisonCounter st s c) := by
  unfold poisonCounter
  repeat' (first
    | with_reducible assumption | intro _ | with_reducible apply setC_steady | with_reducible apply releaseWaiter_steady
    | with_reducible apply Steady.foldl | with_reducible apply Steady.foldl_fst | split | extract_lets | dsimp only
    | with_reducible apply Steady.upd)

theorem poisonCounters_steady {s₀ : State} (cause : Nat) (st : Status) (cs : List Nat) {s : State} (hst : Steady s₀ s) :
    Steady s₀ (poisonCounters cause st cs s) := by
  unfold poisonCounters
  repeat' (first
    | with_reducible assumption | intro _ | with_reducible apply poisonCounter_steady | with_reducible apply raise_steady
    | with_reducible apply Steady.foldl | with_reducible apply Steady.foldl_fst | split | extract_lets | dsimp only
    | with_reducible apply Steady.upd)

theorem forceRelease_steady {s₀ : State} (first : Nat) (count : Nat) {s : State} (hst : Steady s₀ s) :
    Steady s₀ (forceRelease first count s) := by
  unfold forceRelease
  repeat' (first
    | with_reducible assumption | with_reducible apply poisonCounters_steady | split | extract_lets | dsimp only
    | with_reducible apply Steady.upd)

theorem freeCounter_steady {s₀ : State} {s : State} (c : Nat) (hst : Steady s₀ s) :
    Steady s₀ (freeCounter s c) := by
  unfold freeCounter
  repeat' (first
    | with_reducible assumption | with_reducible apply setC_steady | split | extract_lets | dsimp only
    | with_reducible apply Steady.upd)

theorem releaseCounters_steady {s₀ : State} (first : Nat) (count : Nat) {s : State} (hst : Steady s₀ s) :
    Steady s₀ (releaseCounters first count s).1 := by
  unfold releaseCounters
  repeat' (first
    | with_reducible assumption | intro _ | with_reducible apply freeCounter_steady | with_reducible apply Steady.foldl
    | with_reducible apply Steady.foldl_fst | split | extract_lets | dsimp only | with_reducible apply Steady.upd)

theorem settle_steady {s₀ : State} (c : Nat) {s : State} (hst : Steady s₀ s) :
    Steady s₀ (settle c s) := by
  unfold settle
  repeat' (first
    | with_reducible assumption | intro _ | with_reducible apply setC_steady | with_reducible apply releaseWaiter_steady
    | with_reducible apply Steady.foldl | with_reducible apply Steady.foldl_fst | split | extract_lets | dsimp only
    | with_reducible apply Steady.upd)

theorem signalCounter_steady {s₀ : State} (c : Nat) (n : U32) {s : State} (hst : Steady s₀ s) :
    Steady s₀ (signalCounter c n s).1 := by
  unfold signalCounter
  repeat' (first
    | with_reducible assumption | with_reducible apply settle_steady | with_reducible apply modC_steady | split | extract_lets
    | dsimp only | with_reducible apply Steady.upd)

theorem arriveWait_steady {s₀ : State} (c : Nat) (w : Wait) {s : State} (hst : Steady s₀ s) :
    Steady s₀ (arriveWait c w s).1 := by
  unfold arriveWait
  repeat' (first
    | with_reducible assumption | with_reducible apply setC_steady | split | extract_lets | dsimp only
    | with_reducible apply Steady.upd)

theorem remoteCounterOp_steady {s₀ : State} (m : Nat) (txid : Nat) (op : Nat) (c : Nat) (n : U32) {s : State} (hst : Steady s₀ s) :
    Steady s₀ (remoteCounterOp m txid op c n s).1 := by
  unfold remoteCounterOp
  repeat' (first
    | with_reducible assumption | with_reducible apply signalCounter_steady | with_reducible apply subCounter_steady
    | with_reducible apply arriveWait_steady | split | extract_lets | dsimp only
    | refine Steady.of_fst (by with_reducible assumption) ?_ | with_reducible apply Steady.upd)

theorem ringSignal_steady {s₀ : State} (c : Nat) {s : State} (hst : Steady s₀ s) :
    Steady s₀ (ringSignal c s) := by
  unfold ringSignal
  repeat' (first
    | with_reducible assumption | with_reducible apply signalCounter_steady | with_reducible apply modC_steady | split
    | extract_lets | dsimp only | refine Steady.of_fst (by with_reducible assumption) ?_ | with_reducible apply Steady.upd)

theorem withdraw_steady {s₀ : State} (p : Waiter → Bool) {s : State} (hst : Steady s₀ s) :
    Steady s₀ (withdraw p s) := by
  unfold withdraw
  repeat' (first
    | with_reducible assumption | intro _ | with_reducible apply settle_steady | with_reducible apply setC_steady
    | with_reducible apply Steady.foldl | with_reducible apply Steady.foldl_fst | split | extract_lets | dsimp only
    | with_reducible apply Steady.upd)

theorem claimCounters_steady {s₀ : State} (first : Nat) (count : Nat) (owner : Nat) (start : U32) {s : State} (hst : Steady s₀ s) :
    Steady s₀ (claimCounters first count owner start s).1 := by
  unfold claimCounters
  repeat' (first
    | with_reducible assumption | intro _ | with_reducible apply setC_steady | with_reducible apply Steady.foldl
    | with_reducible apply Steady.foldl_fst | split | extract_lets | dsimp only | with_reducible apply Steady.upd)

theorem setCounter_steady {s₀ : State} (c : Nat) (v : U32) {s : State} (hst : Steady s₀ s) :
    Steady s₀ (setCounter c v s).1 := by
  unfold setCounter
  repeat' (first
    | with_reducible assumption | with_reducible apply settle_steady | with_reducible apply modC_steady | split | extract_lets
    | dsimp only | with_reducible apply Steady.upd)

theorem windowWrite_steady {s₀ : State} (c : Nat) (sub : Bool) (n : U32) {s : State} (hst : Steady s₀ s) :
    Steady s₀ (windowWrite c sub n s) := by
  unfold windowWrite
  repeat' (first
    | with_reducible assumption | with_reducible apply subCounter_steady | with_reducible apply signalCounter_steady
    | with_reducible apply modC_steady | split | extract_lets | dsimp only
    | refine Steady.of_fst (by with_reducible assumption) ?_ | with_reducible apply Steady.upd)

end Sys2Proof.Machine
end

