-- ==== Sys2Proof/Laws/SteadyOperands.lean ====
section
/-!
SUPPORT. The operations of Machine/Operands.lean are steady: fuses go one way, the command queue stays, memory stays canonical.
-/

namespace Sys2Proof.Machine

open Sys2Proof.Safety

set_option linter.unusedTactic false
set_option linter.unreachableTactic false

theorem hostFailed_steady {s₀ : State} {s : State} (hst : Steady s₀ s) :
    Steady s₀ (hostFailed s) := by
  unfold hostFailed
  repeat' (first
    | with_reducible assumption | split | extract_lets | dsimp only | with_reducible apply Steady.upd)

theorem publishSlot_steady {s₀ : State} (r : Nat) {s : State} (hst : Steady s₀ s) :
    Steady s₀ (publishSlot r s) := by
  unfold publishSlot
  repeat' (first
    | with_reducible assumption | with_reducible apply ringSignal_steady | split | extract_lets | dsimp only
    | with_reducible apply Steady.upd)

theorem openSlot_steady {s₀ : State} (r : Nat) (q : Nat) {s : State} (hst : Steady s₀ s) :
    Steady s₀ (openSlot r q s) := by
  unfold openSlot
  repeat' (first
    | with_reducible assumption | split | extract_lets | dsimp only | with_reducible apply Steady.upd)

theorem writeRecord_steady {s₀ : State} (q : Nat) (o : Op) {s : State} (hst : Steady s₀ s) :
    Steady s₀ (writeRecord q o s) := by
  unfold writeRecord
  repeat' (first
    | with_reducible assumption | with_reducible apply stopQueue_steady | with_reducible apply hostFailed_steady
    | with_reducible apply pokeClean_steady | with_reducible apply modQ_steady | with_reducible apply signalCounter_steady
    | with_reducible apply publishSlot_steady | with_reducible apply raiseMsix_steady | split | extract_lets | dsimp only
    | refine Steady.of_fst (by with_reducible assumption) ?_ | with_reducible apply Steady.upd)

theorem closeSlots_steady {s₀ : State} (q : Nat) {s : State} (hst : Steady s₀ s) :
    Steady s₀ (closeSlots q s) := by
  unfold closeSlots
  repeat' (first
    | with_reducible assumption | split | extract_lets | dsimp only | with_reducible apply Steady.upd)

theorem freeSlots_steady {s₀ : State} (r n : Nat) {s : State} (hst : Steady s₀ s) : Steady s₀ (freeSlots r n s) := by
  induction n generalizing s with
  | zero => exact hst
  | succ n ih =>
    unfold freeSlots
    split
    · exact hst
    · apply ih; apply ringSignal_steady; with_reducible apply Steady.upd; exact hst

theorem slotHeadWrite_steady {s₀ : State} (r : Nat) (t : U32) {s : State} (hst : Steady s₀ s) :
    Steady s₀ (slotHeadWrite r t s) := by
  unfold slotHeadWrite
  split
  · exact hst
  · generalize (t - _).toNat = n
    split
    · exact freeSlots_steady r n hst
    · exact hst

theorem fetchQueue_steady {s₀ : State} (q : Nat) {s : State} (hst : Steady s₀ s) :
    Steady s₀ (fetchQueue q s) := by
  unfold fetchQueue
  repeat' (first
    | with_reducible assumption | intro _ | with_reducible apply modQ_steady | with_reducible apply stopQueue_steady
    | with_reducible apply hostFailed_steady | with_reducible apply touch_steady | with_reducible apply Steady.foldl
    | with_reducible apply Steady.foldl_fst | split | extract_lets | dsimp only | with_reducible apply Steady.upd)

theorem snapshotTails_steady {s₀ : State} {s : State} (hst : Steady s₀ s) :
    Steady s₀ (snapshotTails s) := by
  unfold snapshotTails
  repeat' (first
    | with_reducible assumption | intro _ | with_reducible apply fetchQueue_steady | with_reducible apply Steady.foldl
    | with_reducible apply Steady.foldl_fst | split | extract_lets | dsimp only | with_reducible apply Steady.upd)

theorem tailWrite_steady {s₀ : State} (q : Nat) (t : U32) {s : State} (hst : Steady s₀ s) :
    Steady s₀ (tailWrite q t s) := by
  unfold tailWrite
  repeat' (first
    | with_reducible assumption | with_reducible apply modQ_steady | with_reducible apply stopQueue_steady | split | extract_lets
    | dsimp only | with_reducible apply Steady.upd)

end Sys2Proof.Machine
end

