-- ==== Sys2Proof/Laws/SteadyMailbox.lean ====
section
/-!
SUPPORT. The operations of Machine/Mailbox.lean are steady: fuses go one way, the command queue stays, memory stays canonical.
-/

namespace Sys2Proof.Machine

open Sys2Proof.Safety

set_option linter.unusedTactic false
set_option linter.unreachableTactic false

theorem modBox_steady {s₀ : State} (m : Nat) (f : Mailbox → Mailbox) {s : State} (hst : Steady s₀ s) :
    Steady s₀ (modBox m f s) := by
  unfold modBox
  repeat' (first
    | with_reducible assumption | split | extract_lets | dsimp only | with_reducible apply Steady.upd)

theorem authFailure_steady {s₀ : State} {s : State} (hst : Steady s₀ s) :
    Steady s₀ (authFailure s) := by
  unfold authFailure
  repeat' (first
    | with_reducible assumption | with_reducible apply raise_steady | split | extract_lets | dsimp only
    | with_reducible apply Steady.upd)

theorem entryChecks_steady {s₀ : State} (op : Nat) (call : MbCall) {s : State} (hst : Steady s₀ s) :
    Steady s₀ (entryChecks op call s).state := by
  unfold entryChecks
  extract_lets tagged base
  clear_value tagged base
  split
  · exact hst
  split
  · exact hst
  split
  · exact hst
  split
  · exact hst
  split
  · split
    · exact hst
    · exact hst
  split
  · exact hst
  split
  · exact authFailure_steady hst
  split
  · exact hst
  dsimp only
  split
  · dsimp only [Entry.state]; with_reducible apply Steady.upd; exact hst
  · dsimp only [Entry.state]; with_reducible apply Steady.upd; exact hst

theorem writeResponse_steady {s₀ : State} (m : Nat) (c : Cmd) (st : Status) (flags : Nat) (steps : Nat) (payload : List Byte) {s : State} (hst : Steady s₀ s) :
    Steady s₀ (writeResponse m c st flags steps payload s) := by
  unfold writeResponse
  repeat' (first
    | with_reducible assumption | with_reducible apply modBox_steady | with_reducible apply raiseMsix_steady | split
    | extract_lets | dsimp only | with_reducible apply Steady.upd)

theorem noteHistory_steady {s₀ : State} (c : Cmd) (st : Status) {s : State} (hst : Steady s₀ s) :
    Steady s₀ (noteHistory c st s) := by
  unfold noteHistory
  repeat' (first
    | with_reducible assumption | split | extract_lets | dsimp only | with_reducible apply Steady.upd)

theorem noteFixed_steady {s₀ : State} (c : Cmd) (payload : List Byte) {s : State} (hst : Steady s₀ s) :
    Steady s₀ (noteFixed c payload s) := by
  unfold noteFixed
  repeat' (first
    | with_reducible assumption | split | extract_lets | dsimp only | with_reducible apply Steady.upd)

theorem fixEffect_steady {s₀ : State} (op : Nat) (tick : Nat) {s : State} (hst : Steady s₀ s) :
    Steady s₀ (fixEffect op tick s) := by
  unfold fixEffect
  repeat' (first
    | with_reducible assumption | split | extract_lets | dsimp only | with_reducible apply Steady.upd)

theorem fixBroadcast_steady {s₀ : State} (f : Forwarding) {s : State} (hst : Steady s₀ s) :
    Steady s₀ (fixBroadcast f s) := by
  unfold fixBroadcast
  repeat' (first
    | with_reducible assumption | intro _ | with_reducible apply emit_steady | with_reducible apply fixEffect_steady
    | with_reducible apply Steady.foldl | with_reducible apply Steady.foldl_fst | split | extract_lets | dsimp only
    | with_reducible apply Steady.upd)

theorem settleForward_steady {s₀ : State} (f : Forwarding) {s : State} (hst : Steady s₀ s) :
    Steady s₀ (settleForward f s) := by
  unfold settleForward
  repeat' (first
    | with_reducible assumption | with_reducible apply fixBroadcast_steady | with_reducible apply writeResponse_steady | split
    | extract_lets | dsimp only | with_reducible apply Steady.upd)

theorem finishCmd_steady {s₀ : State} (c : Cmd) (st : Status) (steps : Nat) (payload : List Byte) {s : State} (hst : Steady s₀ s) :
    Steady s₀ (finishCmd c st steps payload s) := by
  unfold finishCmd
  repeat' (first
    | with_reducible assumption | with_reducible apply noteHistory_steady | with_reducible apply emit_steady
    | with_reducible apply noteFixed_steady | with_reducible apply settleForward_steady
    | with_reducible apply writeResponse_steady | split | extract_lets | dsimp only | with_reducible apply Steady.upd)

theorem endTurn_steady {s₀ : State} {s : State} (hst : Steady s₀ s) :
    Steady s₀ (endTurn s) := by
  unfold endTurn
  repeat' (first
    | with_reducible assumption | split | extract_lets | dsimp only | with_reducible apply Steady.upd)

theorem startSettings_steady {s₀ : State} (h : Handler) (c : Cmd) {s : State} (hh : ∀ {s₀ s} c, Steady s₀ s → Steady s₀ (h c s).state) (hst : Steady s₀ s) :
    Steady s₀ (startSettings h c s) := by
  unfold startSettings
  repeat' (first
    | with_reducible assumption | intro _ | with_reducible apply hh | with_reducible apply finishCmd_steady
    | with_reducible apply endTurn_steady | split | extract_lets | dsimp only
    | refine Steady.of_done (by with_reducible assumption) ?_ | refine Steady.of_later (by with_reducible assumption) ?_
    | with_reducible apply Steady.upd)

theorem runCmd_steady {s₀ : State} (h : Handler) (settings : Bool) (c : Cmd) {s : State} (hh : ∀ {s₀ s} c, Steady s₀ s → Steady s₀ (h c s).state) (hst : Steady s₀ s) :
    Steady s₀ (runCmd h settings c s) := by
  unfold runCmd
  repeat' (first
    | with_reducible assumption | intro _ | with_reducible apply hh | with_reducible apply startSettings_steady
    | with_reducible apply finishCmd_steady | split | extract_lets | dsimp only
    | refine Steady.of_done (by with_reducible assumption) ?_ | refine Steady.of_later (by with_reducible assumption) ?_
    | with_reducible apply Steady.upd)

theorem targetRun_steady {s₀ : State} (h : Handler) (args : State → Nat → List Byte → Option Status) (c : Cmd) {s : State} (hh : ∀ {s₀ s} c, Steady s₀ s → Steady s₀ (h c s).state) (hst : Steady s₀ s) :
    Steady s₀ (targetRun h args c s) := by
  unfold targetRun
  repeat' (first
    | with_reducible assumption | intro _ | with_reducible apply hh | with_reducible apply finishCmd_steady
    | with_reducible apply runCmd_steady | split | extract_lets | dsimp only
    | refine Steady.of_done (by with_reducible assumption) ?_ | refine Steady.of_later (by with_reducible assumption) ?_
    | with_reducible apply Steady.upd)

theorem route_steady {s₀ : State} (h : Handler) (args : State → Nat → List Byte → Option Status) (c : Cmd) {s : State} (hh : ∀ {s₀ s} c, Steady s₀ s → Steady s₀ (h c s).state) (hst : Steady s₀ s) :
    Steady s₀ (route h args c s) := by
  unfold route
  repeat' (first
    | with_reducible assumption | intro _ | with_reducible apply hh | with_reducible apply targetRun_steady
    | with_reducible apply emit_steady | with_reducible apply settleForward_steady | with_reducible apply Steady.foldl
    | with_reducible apply Steady.foldl_fst | split | extract_lets | dsimp only
    | refine Steady.of_done (by with_reducible assumption) ?_ | refine Steady.of_later (by with_reducible assumption) ?_
    | with_reducible apply Steady.upd)

theorem serve_steady {s₀ : State} (h : Handler) (args : State → Nat → List Byte → Option Status) (op : Nat) (call : MbCall) {s : State} (hh : ∀ {s₀ s} c, Steady s₀ s → Steady s₀ (h c s).state) (hst : Steady s₀ s) :
    Steady s₀ (serve h args op call s) := by
  unfold serve
  repeat' (first
    | with_reducible assumption | intro _ | with_reducible apply hh | with_reducible apply entryChecks_steady
    | with_reducible apply writeResponse_steady | with_reducible apply route_steady | split | extract_lets | dsimp only
    | refine Steady.of_done (by with_reducible assumption) ?_ | refine Steady.of_later (by with_reducible assumption) ?_
    | refine Steady.of_fail (by with_reducible assumption) ?_ | refine Steady.of_pass (by with_reducible assumption) ?_
    | with_reducible apply Steady.upd)

theorem submit_steady {s₀ : State} (h : Handler) (args : State → Nat → List Byte → Option Status) (op : Nat) (call : MbCall) {s : State} (hh : ∀ {s₀ s} c, Steady s₀ s → Steady s₀ (h c s).state) (hst : Steady s₀ s) :
    Steady s₀ (submit h args op call s) := by
  unfold submit
  repeat' (first
    | with_reducible assumption | intro _ | with_reducible apply hh | with_reducible apply modBox_steady
    | with_reducible apply serve_steady | split | extract_lets | dsimp only
    | refine Steady.of_done (by with_reducible assumption) ?_ | refine Steady.of_later (by with_reducible assumption) ?_
    | with_reducible apply Steady.upd)

theorem unpark_steady {s₀ : State} (h : Handler) (args : State → Nat → List Byte → Option Status) {s : State} (hh : ∀ {s₀ s} c, Steady s₀ s → Steady s₀ (h c s).state) (hst : Steady s₀ s) :
    Steady s₀ (unpark h args s) := by
  unfold unpark
  repeat' (first
    | with_reducible assumption | intro _ | with_reducible apply hh | with_reducible apply serve_steady
    | with_reducible apply Steady.foldl | with_reducible apply Steady.foldl_fst | split | extract_lets | dsimp only
    | refine Steady.of_done (by with_reducible assumption) ?_ | refine Steady.of_later (by with_reducible assumption) ?_
    | with_reducible apply Steady.upd)

theorem nextSettings_steady {s₀ : State} (h : Handler) {s : State} (hh : ∀ {s₀ s} c, Steady s₀ s → Steady s₀ (h c s).state) (hst : Steady s₀ s) :
    Steady s₀ (nextSettings h s) := by
  unfold nextSettings
  repeat' (first
    | with_reducible assumption | intro _ | with_reducible apply hh | with_reducible apply startSettings_steady | split
    | extract_lets | dsimp only | refine Steady.of_done (by with_reducible assumption) ?_
    | refine Steady.of_later (by with_reducible assumption) ?_ | with_reducible apply Steady.upd)

theorem takeEffective_steady {s₀ : State} (op : Nat) (tick : Nat) (payload : List Byte) {s : State} (hst : Steady s₀ s) :
    Steady s₀ (takeEffective op tick payload s) := by
  unfold takeEffective
  repeat' (first
    | with_reducible assumption | with_reducible apply fixEffect_steady | split | extract_lets | dsimp only
    | with_reducible apply Steady.upd)

end Sys2Proof.Machine
end

