-- ==== Sys2Proof/Laws/SteadyCulture.lean ====
section
/-!
SUPPORT. The operations of Machine/Culture.lean are steady: fuses go one way, the command queue stays, memory stays canonical.
-/

namespace Sys2Proof.Machine

open Sys2Proof.Safety

set_option linter.unusedTactic false
set_option linter.unreachableTactic false

theorem retireCulture_steady {s₀ : State} {s : State} (hst : Steady s₀ s) :
    Steady s₀ (retireCulture s) := by
  unfold retireCulture
  repeat' (first
    | with_reducible assumption | with_reducible apply raise_steady | split | extract_lets | dsimp only
    | with_reducible apply Steady.upd)

theorem tableWritten_steady {s₀ : State} (engine : Nat → Bool) (word : Nat → Bool) {s : State} (hst : Steady s₀ s) :
    Steady s₀ (tableWritten engine word s) := by
  unfold tableWritten
  repeat' (first
    | with_reducible assumption | split | extract_lets | dsimp only | with_reducible apply Steady.upd)

theorem setStaging_steady {s₀ : State} (ms : List ModelEntry) (slots : List Nat) {s : State} (hst : Steady s₀ s) :
    Steady s₀ (setStaging ms slots s) := by
  unfold setStaging
  repeat' (first
    | with_reducible assumption | with_reducible apply tableWritten_steady | split | extract_lets | dsimp only
    | with_reducible apply Steady.upd)

theorem stageModel_steady {s₀ : State} (package : Nat) (p : PkgModel) {s : State} (hst : Steady s₀ s) :
    Steady s₀ (stageModel package p s).1 := by
  unfold stageModel
  repeat' (first
    | with_reducible assumption | with_reducible apply setStaging_steady | split | extract_lets | dsimp only
    | with_reducible apply Steady.upd)

theorem commitCulture_steady {s₀ : State} {s : State} (hst : Steady s₀ s) :
    Steady s₀ (commitCulture s) := by
  unfold commitCulture
  repeat' (first
    | with_reducible assumption | with_reducible apply retireCulture_steady | split | extract_lets | dsimp only
    | with_reducible apply Steady.upd)

end Sys2Proof.Machine
end

