-- ==== Sys2Proof/Laws/SteadyReset.lean ====
section
/-!
SUPPORT. The operations of Machine/Reset.lean are steady: fuses go one way, the command queue stays, memory stays canonical.
-/

namespace Sys2Proof.Machine

open Sys2Proof.Safety

set_option linter.unusedTactic false
set_option linter.unreachableTactic false

theorem bootFrom_steady {s₀ : State} (slot : Nat) (fallback : Bool) {s : State} (hst : Steady s₀ s) :
    Steady s₀ (bootFrom slot fallback s) := by
  unfold bootFrom
  repeat' (first
    | with_reducible assumption | split | extract_lets | dsimp only | with_reducible apply Steady.upd)

theorem bootFallback_steady {s₀ : State} (failed : Nat) (stage : Nat) (reason : Nat) {s : State} (hst : Steady s₀ s) :
    Steady s₀ (bootFallback failed stage reason s) := by
  unfold bootFallback
  repeat' (first
    | with_reducible assumption | with_reducible apply raise_steady | with_reducible apply bootFrom_steady | split | extract_lets
    | dsimp only | with_reducible apply Steady.upd)

theorem bootRom_steady {s₀ : State} {s : State} (hst : Steady s₀ s) :
    Steady s₀ (bootRom s) := by
  unfold bootRom
  repeat' (first
    | with_reducible assumption | with_reducible apply bootFrom_steady | with_reducible apply bootFallback_steady | split
    | extract_lets | dsimp only | with_reducible apply Steady.upd)

theorem beginStart_steady {s₀ : State} {s : State} (hst : Steady s₀ s) :
    Steady s₀ (beginStart s) := by
  unfold beginStart
  repeat' (first
    | with_reducible assumption | with_reducible apply emit_steady | with_reducible apply bootRom_steady
    | with_reducible apply raise_steady | split | extract_lets | dsimp only | with_reducible apply Steady.upd)

theorem resetModule_steady {s₀ : State} (cause : Nat) {s : State} (hst : Steady s₀ s) : Steady s₀ (resetModule cause s) :=
  Steady.of_reset hst rfl rfl rfl rfl

theorem resetAtOnce_steady {s₀ : State} (cause : Nat) {s : State} (hst : Steady s₀ s) :
    Steady s₀ (resetAtOnce cause s) := by
  unfold resetAtOnce
  repeat' (first
    | with_reducible assumption | with_reducible apply beginStart_steady | with_reducible apply resetModule_steady | split
    | extract_lets | dsimp only | with_reducible apply Steady.upd)

end Sys2Proof.Machine
end

