-- ==== Sys2Proof/Laws/SteadySecurity.lean ====
section
/-!
SUPPORT. The operations of Machine/Security.lean are steady: fuses go one way, the command queue stays, memory stays canonical.
-/

namespace Sys2Proof.Machine

open Sys2Proof.Safety

set_option linter.unusedTactic false
set_option linter.unreachableTactic false

theorem lifecycleEvent_steady {s₀ : State} (action : Nat) {s : State} (hst : Steady s₀ s) :
    Steady s₀ (lifecycleEvent action s) := by
  unfold lifecycleEvent
  repeat' (first
    | with_reducible assumption | with_reducible apply raise_steady | split | extract_lets | dsimp only
    | with_reducible apply Steady.upd)

theorem retireFuses_steady {s₀ : State} {s : State} (hst : Steady s₀ s) : Steady s₀ (retireFuses s) := by
  unfold retireFuses
  with_reducible apply lifecycleEvent_steady
  refine Steady.of_fuses hst ?_ rfl rfl rfl
  exact ⟨id, id, fun _ => rfl, fun _ => id, Nat.le_refl _, fun _ _ => id, rfl, rfl⟩

theorem levelEvent_steady {s₀ : State} (old : Nat) (new : Nat) (signer : Nat) (cause : Nat) {s : State} (hst : Steady s₀ s) :
    Steady s₀ (levelEvent old new signer cause s) := by
  unfold levelEvent
  repeat' (first
    | with_reducible assumption | with_reducible apply raise_steady | split | extract_lets | dsimp only
    | with_reducible apply Steady.upd)

theorem dropLevel_steady {s₀ : State} (cause : Nat) {s : State} (hst : Steady s₀ s) :
    Steady s₀ (dropLevel cause s) := by
  unfold dropLevel
  repeat' (first
    | with_reducible assumption | with_reducible apply levelEvent_steady | split | extract_lets | dsimp only
    | with_reducible apply Steady.upd)

theorem endToken_steady {s₀ : State} (cause : Nat) {s : State} (hst : Steady s₀ s) :
    Steady s₀ (endToken cause s) := by
  unfold endToken
  repeat' (first
    | with_reducible assumption | with_reducible apply resetAtOnce_steady | with_reducible apply dropLevel_steady | split
    | extract_lets | dsimp only | with_reducible apply Steady.upd)

theorem closeSession_steady {s₀ : State} (id : Nat) {s : State} (hst : Steady s₀ s) :
    Steady s₀ (closeSession id s) := by
  unfold closeSession
  repeat' (first
    | with_reducible assumption | with_reducible apply endToken_steady | split | extract_lets | dsimp only
    | with_reducible apply Steady.upd)

theorem hIdentify_steady {s₀ : State} (a : Cmd) {s : State} (hst : Steady s₀ s) :
    Steady s₀ (hIdentify a s).state := by
  unfold hIdentify
  repeat' (first
    | with_reducible assumption | split | extract_lets | dsimp only | dsimp only [deny, HRes.state]
    | with_reducible apply Steady.upd)

theorem hGetStatus_steady {s₀ : State} (a : Cmd) {s : State} (hst : Steady s₀ s) :
    Steady s₀ (hGetStatus a s).state := by
  unfold hGetStatus
  repeat' (first
    | with_reducible assumption | split | extract_lets | dsimp only | dsimp only [deny, HRes.state]
    | with_reducible apply Steady.upd)

theorem drawBytes_steady {s₀ : State} (n : Nat) {s : State} (hst : Steady s₀ s) :
    Steady s₀ (drawBytes n s).2 := by
  unfold drawBytes
  repeat' (first
    | with_reducible assumption | split | extract_lets | dsimp only | with_reducible apply Steady.upd)

theorem hSessionInit_steady {s₀ : State} (a : Cmd) {s : State} (hst : Steady s₀ s) :
    Steady s₀ (hSessionInit a s).state := by
  unfold hSessionInit
  repeat' (first
    | with_reducible assumption | with_reducible apply drawBytes_steady | split | extract_lets | dsimp only
    | dsimp only [deny, HRes.state] | refine Steady.of_snd (by with_reducible assumption) ?_ | with_reducible apply Steady.upd)

theorem hSessionFinish_steady {s₀ : State} (a : Cmd) {s : State} (hst : Steady s₀ s) :
    Steady s₀ (hSessionFinish a s).state := by
  unfold hSessionFinish
  repeat' (first
    | with_reducible assumption | with_reducible apply authFailure_steady | split | extract_lets | dsimp only
    | dsimp only [deny, HRes.state] | with_reducible apply Steady.upd)

theorem hSessionClose_steady {s₀ : State} (a : Cmd) {s : State} (hst : Steady s₀ s) :
    Steady s₀ (hSessionClose a s).state := by
  unfold hSessionClose
  repeat' (first
    | with_reducible assumption | with_reducible apply closeSession_steady | split | extract_lets | dsimp only
    | dsimp only [deny, HRes.state] | with_reducible apply Steady.upd)

theorem setSlot_steady {s₀ : State} (slot : Nat) (r : CaveRec (List FwImage)) {s : State} (hst : Steady s₀ s) :
    Steady s₀ (setSlot slot r s) := by
  unfold setSlot
  repeat' (first
    | with_reducible assumption | split | extract_lets | dsimp only | with_reducible apply Steady.upd)

theorem hFwStage_steady {s₀ : State} (a : Cmd) {s : State} (hst : Steady s₀ s) :
    Steady s₀ (hFwStage a s).state := by
  unfold hFwStage
  repeat' (first
    | with_reducible assumption | with_reducible apply setSlot_steady | with_reducible apply raise_steady | split | extract_lets
    | dsimp only | dsimp only [deny, HRes.state] | with_reducible apply Steady.upd)

theorem hFwActivate_steady {s₀ : State} (a : Cmd) {s : State} (hst : Steady s₀ s) :
    Steady s₀ (hFwActivate a s).state := by
  unfold hFwActivate
  repeat' (first
    | with_reducible assumption | with_reducible apply raise_steady | split | extract_lets | dsimp only
    | dsimp only [deny, HRes.state] | with_reducible apply Steady.upd)

theorem hFwStatus_steady {s₀ : State} (a : Cmd) {s : State} (hst : Steady s₀ s) :
    Steady s₀ (hFwStatus a s).state := by
  unfold hFwStatus
  repeat' (first
    | with_reducible assumption | split | extract_lets | dsimp only | dsimp only [deny, HRes.state]
    | with_reducible apply Steady.upd)

theorem hAttest_steady {s₀ : State} (a : Cmd) {s : State} (hst : Steady s₀ s) :
    Steady s₀ (hAttest a s).state := by
  unfold hAttest
  repeat' (first
    | with_reducible assumption | split | extract_lets | dsimp only | dsimp only [deny, HRes.state]
    | with_reducible apply Steady.upd)

theorem hCredentialSet_steady {s₀ : State} (a : Cmd) {s : State} (hst : Steady s₀ s) :
    Steady s₀ (hCredentialSet a s).state := by
  unfold hCredentialSet
  repeat' (first
    | with_reducible assumption | intro _ | with_reducible apply closeSession_steady | with_reducible apply Steady.foldl
    | with_reducible apply Steady.foldl_fst | split | extract_lets | dsimp only | dsimp only [deny, HRes.state]
    | with_reducible apply Steady.upd)

theorem hDebugToken_steady {s₀ : State} (a : Cmd) {s : State} (hst : Steady s₀ s) :
    Steady s₀ (hDebugToken a s).state := by
  unfold hDebugToken
  repeat' (first
    | with_reducible assumption | with_reducible apply dropLevel_steady | with_reducible apply levelEvent_steady | split
    | extract_lets | dsimp only | dsimp only [deny, HRes.state] | with_reducible apply Steady.upd)

theorem logAction_steady {s₀ : State} (action : Nat) (arg : Nat) {s : State} (hst : Steady s₀ s) :
    Steady s₀ (logAction action arg s) := by
  unfold logAction
  repeat' (first
    | with_reducible assumption | split | extract_lets | dsimp only | with_reducible apply Steady.upd)

/-- Programming a list of slots, also in part, leaves a slot alone that the list does not name. -/
theorem partial_other (n : Nat) (l : List (Nat × List Byte)) (a : List (Option (List Byte)) × Nat) (h : ∀ x ∈ l, x.1 ≠ n) :
    (l.foldl (fun a x => (if a.2 = 0 then a.1 else a.1.set x.1 (some (blowBits a.2 x.2)), a.2 - (hashBits x.2).length)) a).1.getD n none =
      a.1.getD n none := by
  induction l generalizing a with
  | nil => rfl
  | cons x r ih =>
    rw [List.foldl_cons, ih _ fun y hy => h y (List.mem_cons_of_mem _ hy)]
    have hx := h x (List.mem_cons_self ..)
    dsimp only
    split
    · rfl
    · simp [List.getD_eq_getElem?_getD, hx]

theorem partialFuses_steady {s₀ : State} (p : List Byte) (k : Nat) {s : State} (hst : Steady s₀ s)
    (hm : u8 p 0 = 1 → ∀ n, n ∈ [1, 2, 3] → bit (u8 p 3) n = true → (s.fuses.hashes.getD n none).isNone) :
    Steady s₀ (partialFuses p k s) := by
  unfold partialFuses
  split
  · rename_i h1
    refine Steady.of_fuses hst ⟨id, id, id, fun _ => id, Nat.le_refl _, ?_, rfl, rfl⟩ rfl rfl rfl
    intro n h hk
    dsimp only
    rw [partial_other]
    · exact hk
    · rintro x hx rfl
      simp only [provisioned, List.mem_map, List.mem_filter] at hx
      obtain ⟨n, ⟨hn, hb⟩, rfl⟩ := hx
      have := hm h1 n hn hb
      rw [hk] at this; simp at this
  · exact Steady.of_fuses hst ⟨id, id, id, fun _ => id, Nat.le_add_right _ _, fun _ _ => id, rfl, rfl⟩ rfl rfl rfl
  · exact hst

/-- Programming the slots of a mask leaves a slot alone that the mask does not name. -/
theorem programmed_other (p : List Byte) (mask n : Nat) (l : List Nat) (hs : List (Option (List Byte)))
    (h : n ∉ l ∨ bit mask n = false) :
    (l.foldl (fun hs n => if bit mask n then hs.set n (some (slice p (8 + 32 * (n - 1)) 32)) else hs) hs).getD n none = hs.getD n none := by
  induction l generalizing hs with
  | nil => rfl
  | cons a r ih =>
    rw [List.foldl_cons, ih _ (by rcases h with h | h <;> simp_all)]
    split
    · have : a ≠ n := by rintro rfl; simp_all
      simp [List.getD_eq_getElem?_getD, this]
    · rfl

/-- Provisioning keeps the hashes of programmed slots when its mask names only slots that are not. -/
theorem provision_steady {s₀ : State} (p : List Byte) {s : State} (hst : Steady s₀ s)
    (hm : ∀ n, n ∈ [1, 2, 3] → bit (u8 p 3) n = true → (s.fuses.hashes.getD n none).isNone) : Steady s₀ (provision p s) := by
  have h : ∀ n k, s.fuses.hashes.getD n none = some k →
      ([1, 2, 3].foldl (fun hs n => if bit (u8 p 3) n then hs.set n (some (slice p (8 + 32 * (n - 1)) 32)) else hs)
        s.fuses.hashes).getD n none = some k := by
    intro n k hk
    rw [programmed_other]
    · exact hk
    · by_cases hn : n ∈ [1, 2, 3]
      · right
        cases hb : bit (u8 p 3) n with
        | false => rfl
        | true => have := hm n hn hb; rw [hk] at this; simp at this
      · exact .inl hn
  unfold provision
  dsimp only
  split
  · refine Steady.of_fuses hst ⟨fun _ => rfl, id, id, fun _ => id, Nat.le_refl _, h, rfl, rfl⟩ rfl rfl rfl
  · apply lifecycleEvent_steady
    exact Steady.of_fuses hst ⟨fun _ => rfl, id, id, fun _ => id, Nat.le_refl _, h, rfl, rfl⟩ rfl rfl rfl

theorem revokeSlot_steady {s₀ : State} (n : Nat) {s : State} (hst : Steady s₀ s) : Steady s₀ (revokeSlot n s) := by
  have h : Steady s₀ { s with fuses := { s.fuses with revoked := s.fuses.revoked.set n true } } := by
    refine Steady.of_fuses hst ⟨id, id, id, ?_, Nat.le_refl _, fun _ _ => id, rfl, rfl⟩ rfl rfl rfl
    intro k hk
    simp only [List.getD_eq_getElem?_getD, List.getElem?_set] at hk ⊢
    split
    · subst_vars
      split
      · rfl
      · rename_i hl; rw [List.getElem?_eq_none (by omega)] at hk; simp at hk
    · exact hk
  unfold revokeSlot
  dsimp only
  split
  · split
    · exact endToken_steady _ h
    · exact h
  · exact h

theorem lifecycleDone_steady {s₀ : State} (p : List Byte) {s : State} (hst : Steady s₀ s) (ha : lifecycleAccepts s p = true) :
    Steady s₀ (lifecycleDone p s) := by
  unfold lifecycleDone
  split
  · rename_i h1
    refine provision_steady _ hst ?_
    intro n hn hb
    simp only [lifecycleAccepts, h1] at ha
    simp only [List.mem_cons, List.not_mem_nil, or_false] at hn
    rcases hn with rfl | rfl | rfl <;> simp_all
  · apply lifecycleEvent_steady
    exact Steady.of_fuses hst ⟨id, fun _ => rfl, id, fun _ => id, Nat.le_refl _, fun _ _ => id, rfl, rfl⟩ rfl rfl rfl
  · exact retireFuses_steady hst
  · exact revokeSlot_steady _ hst
  · rename_i h1 h2 h3 h4
    refine Steady.of_fuses hst ⟨id, id, id, fun _ => id, ?_, fun _ _ => id, rfl, rfl⟩ rfl rfl rfl
    simp only [lifecycleAccepts] at ha
    split at ha <;> simp_all
    omega

/-- What a lifecycle action accepts rests on the fuses and the cave's slots alone. -/
theorem lifecycleAccepts_logAction (a b n : Nat) (s : State) (p : List Byte) :
    lifecycleAccepts { logAction a b s with free := n } p = lifecycleAccepts s p := rfl

theorem hLifecycleSet_steady {s₀ : State} (c : Cmd) {s : State} (hst : Steady s₀ s) : Steady s₀ (hLifecycleSet c s).state := by
  unfold hLifecycleSet
  dsimp only
  split
  · exact hst
  · rename_i ha
    have hacc : lifecycleAccepts s c.payload = true := by simpa using ha
    have hl := fun a b => logAction_steady (s₀ := s₀) a b hst
    split
    · dsimp only [HRes.state]
      refine partialFuses_steady _ _ (Steady.upd (hl _ _)) ?_
      intro h1 n hn hb
      have hh := hacc
      simp only [lifecycleAccepts, h1] at hh
      simp only [List.mem_cons, List.not_mem_nil, or_false] at hn
      change (s.fuses.hashes.getD n none).isNone = true
      rcases hn with rfl | rfl | rfl <;> simp_all
    · dsimp only [HRes.state]
      exact lifecycleDone_steady _ (Steady.upd (hl _ _)) ((lifecycleAccepts_logAction ..).trans hacc)

theorem haltCores_steady {s₀ : State} (v : U32) {s : State} (hst : Steady s₀ s) :
    Steady s₀ (haltCores v s) := by
  unfold haltCores
  repeat' (first
    | with_reducible assumption | split | extract_lets | dsimp only | with_reducible apply Steady.upd)

theorem stepCores_steady {s₀ : State} (v : U32) {s : State} (hst : Steady s₀ s) :
    Steady s₀ (stepCores v s) := by
  unfold stepCores
  repeat' (first
    | with_reducible assumption | split | extract_lets | dsimp only | with_reducible apply Steady.upd)

theorem swapFirmware_steady {s₀ : State} {s : State} (hst : Steady s₀ s) :
    Steady s₀ (swapFirmware s) := by
  unfold swapFirmware
  repeat' (first
    | with_reducible assumption | with_reducible apply flushEvents_steady | with_reducible apply raise_steady | split
    | extract_lets | dsimp only | with_reducible apply Steady.upd)

end Sys2Proof.Machine
end

