-- ==== Sys2Proof/Laws/SteadyData.lean ====
section
/-!
SUPPORT. The operations of Machine/Data.lean are steady: fuses go one way, the command queue stays, memory stays canonical.
-/

namespace Sys2Proof.Machine

open Sys2Proof.Safety

set_option linter.unusedTactic false
set_option linter.unreachableTactic false

theorem issue_steady {s₀ : State} (kind : Nat) (dst : Nat) (address : Nat) (len : Nat) (amount : Nat) (data : List Byte) (bad : List Nat) (cache : Option Nat) (q : Nat) (idx : U32) {s : State} (hst : Steady s₀ s) :
    Steady s₀ (issue kind dst address len amount data bad cache q idx s).1 := by
  unfold issue
  repeat' (first
    | with_reducible assumption | with_reducible apply emit_steady | split | extract_lets | dsimp only
    | with_reducible apply Steady.upd)

theorem issueFor_steady {s₀ : State} (q : Nat) (idx : U32) (kind : Nat) (dst : Nat) (address : Nat) (len : Nat) (amount : Nat) (data : List Byte) (bad : List Nat) (cache : Option Nat) {s : State} (hst : Steady s₀ s) :
    Steady s₀ (issueFor q idx kind dst address len amount data bad cache s) := by
  unfold issueFor
  repeat' (first
    | with_reducible assumption | with_reducible apply modOp_steady | with_reducible apply issue_steady | split | extract_lets
    | dsimp only | refine Steady.of_fst (by with_reducible assumption) ?_ | with_reducible apply Steady.upd)

theorem writeChunk_steady {s₀ : State} (q : Nat) (idx : U32) (light : Bool) (c : Chunk) {s : State} (hst : Steady s₀ s) :
    Steady s₀ (writeChunk q idx light c s) := by
  unfold writeChunk
  repeat' (first
    | with_reducible assumption | intro _ | with_reducible apply issueFor_steady | with_reducible apply poke_steady
    | with_reducible apply Steady.foldl | with_reducible apply Steady.foldl_fst | split | extract_lets | dsimp only
    | with_reducible apply Steady.upd)

theorem writeAfter_steady {s₀ : State} (q : Nat) (idx : U32) (l : List Chunk) {s : State} (hst : Steady s₀ s) :
    Steady s₀ (writeAfter q idx l s) := by
  induction l generalizing s with
  | nil => exact hst
  | cons c r ih =>
    unfold writeAfter
    split
    · exact hst
    · split
      · exact ih (writeChunk_steady _ _ _ _ (modOp_steady _ _ _ hst))
      · exact hst

theorem awaitOrEnd_steady {s₀ : State} (q : Nat) (idx : U32) {s : State} (hst : Steady s₀ s) :
    Steady s₀ (awaitOrEnd q idx s) := by
  unfold awaitOrEnd
  repeat' (first
    | with_reducible assumption | with_reducible apply writeAfter_steady | with_reducible apply finishOp_steady
    | with_reducible apply modOp_steady | split | extract_lets | dsimp only | with_reducible apply Steady.upd)

theorem askFor_steady {s₀ : State} (q : Nat) (idx : U32) (cache : Option Nat) (light : Bool) (spans : List (Nat × Nat × Nat)) {s : State} (hst : Steady s₀ s) :
    Steady s₀ (askFor q idx cache light spans s) := by
  unfold askFor
  repeat' (first
    | with_reducible assumption | intro _ | with_reducible apply issueFor_steady | with_reducible apply Steady.foldl
    | with_reducible apply Steady.foldl_fst | split | extract_lets | dsimp only | with_reducible apply Steady.upd)

theorem hostFails_steady {s₀ : State} (q : Nat) (idx : U32) (outs : List (LAddr × Nat)) {s : State} (hst : Steady s₀ s) :
    Steady s₀ (hostFails q idx outs s) := by
  unfold hostFails
  repeat' (first
    | with_reducible assumption | intro _ | with_reducible apply finishOp_steady | with_reducible apply scramble_steady
    | with_reducible apply hostFailed_steady | with_reducible apply Steady.foldl | with_reducible apply Steady.foldl_fst | split
    | extract_lets | dsimp only | with_reducible apply Steady.upd)

theorem withData_steady {s₀ : State} (q : Nat) (idx : U32) (cache : Option Nat) (light : Bool) (reads : List (LAddr × Nat)) (outs : State → List (LAddr × Nat)) (k : State → State) {s : State} (hk : ∀ {s₀ s}, Steady s₀ s → Steady s₀ (k s)) (hst : Steady s₀ s) :
    Steady s₀ (withData q idx cache light reads outs k s) := by
  unfold withData
  repeat' (first
    | with_reducible assumption | intro _ | with_reducible apply hk | with_reducible apply awaitOrEnd_steady
    | with_reducible apply askFor_steady | with_reducible apply modOp_steady | with_reducible apply hostFails_steady
    | with_reducible apply touch_steady | with_reducible apply Steady.foldl | with_reducible apply Steady.foldl_fst | split
    | extract_lets | dsimp only | with_reducible apply Steady.upd)

theorem putLine_steady {s₀ : State} (die : Nat) {s : State} (a : LAddr) (hst : Steady s₀ s) :
    Steady s₀ (putLine die s a) := by
  unfold putLine
  repeat' (first
    | with_reducible assumption | split | extract_lets | dsimp only | with_reducible apply Steady.upd)

theorem fillLines_steady {s₀ : State} (die : Nat) (a : LAddr) (len : Nat) {s : State} (hst : Steady s₀ s) :
    Steady s₀ (fillLines die a len s) := by
  unfold fillLines
  repeat' (first
    | with_reducible assumption | intro _ | with_reducible apply putLine_steady | with_reducible apply Steady.foldl
    | with_reducible apply Steady.foldl_fst | split | extract_lets | dsimp only | with_reducible apply Steady.upd)

theorem fillHost_steady {s₀ : State} (cache : Option Nat) (reads : List (LAddr × Nat)) {s : State} (hst : Steady s₀ s) :
    Steady s₀ (fillHost cache reads s) := by
  unfold fillHost
  repeat' (first
    | with_reducible assumption | intro _ | with_reducible apply fillLines_steady | with_reducible apply Steady.foldl
    | with_reducible apply Steady.foldl_fst | split | extract_lets | dsimp only | with_reducible apply Steady.upd)

theorem commit_steady {s₀ : State} (q : Nat) (idx : U32) (light : Bool) (r : DataRes) {s : State} (hst : Steady s₀ s) :
    Steady s₀ (commit q idx light r s) := by
  unfold commit
  repeat' (first
    | with_reducible assumption | intro _ | with_reducible apply scramble_steady | with_reducible apply modOp_steady
    | with_reducible apply awaitOrEnd_steady | with_reducible apply writeChunk_steady | with_reducible apply Steady.foldl
    | with_reducible apply Steady.foldl_fst | split | extract_lets | dsimp only | with_reducible apply Steady.upd)

theorem commitUp_steady {s₀ : State} (q : Nat) (idx : U32) (light : Bool) (r : DataRes) {s : State} (hst : Steady s₀ s) :
    Steady s₀ (commitUp q idx light r s) := by
  unfold commitUp
  repeat' (first
    | with_reducible assumption | with_reducible apply hostFails_steady | with_reducible apply commit_steady | split
    | extract_lets | dsimp only | with_reducible apply Steady.upd)

theorem cacheView_steady {s₀ : State} (die : Nat) {s : State} (hst : Steady s₀ s) :
    Steady s₀ (cacheView die s) := by
  unfold cacheView
  repeat' (first
    | with_reducible assumption | intro _ | with_reducible apply Steady.foldl | with_reducible apply Steady.foldl_fst | split
    | extract_lets | dsimp only | with_reducible apply Steady.upd | with_reducible apply Steady.upd_host)

theorem viewOf_steady {s₀ : State} (cache : Option Nat) {s : State} (hst : Steady s₀ s) :
    Steady s₀ (viewOf cache s) := by
  unfold viewOf
  repeat' (first
    | with_reducible assumption | with_reducible apply cacheView_steady | split | extract_lets | dsimp only
    | with_reducible apply Steady.upd)

theorem runData_steady {s₀ : State} (q : Nat) (idx : U32) (cache : Option Nat) (light : Bool) (reads : List (LAddr × Nat)) (compute : State → DataRes) {s : State} (hst : Steady s₀ s) :
    Steady s₀ (runData q idx cache light reads compute s) := by
  unfold runData
  repeat' (first
    | with_reducible assumption | intro _ | with_reducible apply withData_steady | with_reducible apply fillHost_steady
    | with_reducible apply commitUp_steady | with_reducible apply viewOf_steady | split | extract_lets | dsimp only
    | with_reducible apply Steady.upd)

end Sys2Proof.Machine
end

