-- ==== Sys2Proof/Laws/SteadyVat.lean ====
section
/-!
SUPPORT. The operations of Machine/Vat.lean are steady: fuses go one way, the command queue stays, memory stays canonical.
-/

namespace Sys2Proof.Machine

open Sys2Proof.Safety

set_option linter.unusedTactic false
set_option linter.unreachableTactic false

theorem vatFailure_steady {s₀ : State} (q : Nat) (idx : U32) (vat : Nat) (outs : List (LAddr × Nat)) {s : State} (hst : Steady s₀ s) :
    Steady s₀ (vatFailure q idx vat outs s) := by
  unfold vatFailure
  repeat' (first
    | with_reducible assumption | intro _ | with_reducible apply scramble_steady | with_reducible apply errRecord_steady
    | with_reducible apply finishOp_steady | with_reducible apply unitUncorr_steady | with_reducible apply Steady.foldl
    | with_reducible apply Steady.foldl_fst | split | extract_lets | dsimp only | with_reducible apply Steady.upd)

theorem runVat_steady {s₀ : State} (q : Nat) (idx : U32) (hw : Option Nat) (reads : List (LAddr × Nat)) (compute : State → DataRes) {s : State} (hst : Steady s₀ s) :
    Steady s₀ (runVat q idx hw reads compute s) := by
  unfold runVat
  repeat' (first
    | with_reducible assumption | with_reducible apply runData_steady | with_reducible apply vatFailure_steady | split
    | extract_lets | dsimp only | with_reducible apply Steady.upd)

theorem execAttentionOp_steady {s₀ : State} (q : Nat) (idx : U32) (hw : Option Nat) {s : State} (hst : Steady s₀ s) :
    Steady s₀ (execAttentionOp q idx hw s) := by
  unfold execAttentionOp
  repeat' (first
    | with_reducible assumption | with_reducible apply runVat_steady | split | extract_lets | dsimp only
    | with_reducible apply Steady.upd)

theorem execMatmulOp_steady {s₀ : State} (q : Nat) (idx : U32) (hw : Option Nat) {s : State} (hst : Steady s₀ s) :
    Steady s₀ (execMatmulOp q idx hw s) := by
  unfold execMatmulOp
  repeat' (first
    | with_reducible assumption | with_reducible apply runVat_steady | split | extract_lets | dsimp only
    | with_reducible apply Steady.upd)

end Sys2Proof.Machine
end

