-- ==== Sys2Proof/Laws/SteadyConv.lean ====
section
/-!
SUPPORT. The operations of Machine/Conv.lean are steady: fuses go one way, the command queue stays, memory stays canonical.
-/

namespace Sys2Proof.Machine

open Sys2Proof.Safety

set_option linter.unusedTactic false
set_option linter.unreachableTactic false

theorem execConvOp_steady {s₀ : State} (q : Nat) (idx : U32) (hw : Option Nat) {s : State} (hst : Steady s₀ s) :
    Steady s₀ (execConvOp q idx hw s) := by
  unfold execConvOp
  repeat' (first
    | with_reducible assumption | with_reducible apply runVat_steady | split | extract_lets | dsimp only
    | with_reducible apply Steady.upd)

theorem execResampleOp_steady {s₀ : State} (q : Nat) (idx : U32) (hw : Option Nat) {s : State} (hst : Steady s₀ s) :
    Steady s₀ (execResampleOp q idx hw s) := by
  unfold execResampleOp
  repeat' (first
    | with_reducible assumption | with_reducible apply runVat_steady | split | extract_lets | dsimp only
    | with_reducible apply Steady.upd)

end Sys2Proof.Machine
end

