-- ==== Sys2Proof/Laws/SteadyLadle.lean ====
section
/-!
SUPPORT. The operations of Machine/Ladle.lean are steady: fuses go one way, the command queue stays, memory stays canonical.
-/

namespace Sys2Proof.Machine

open Sys2Proof.Safety

set_option linter.unusedTactic false
set_option linter.unreachableTactic false

theorem execGatherOp_steady {s₀ : State} (q : Nat) (idx : U32) {s : State} (hst : Steady s₀ s) :
    Steady s₀ (execGatherOp q idx s) := by
  unfold execGatherOp
  repeat' (first
    | with_reducible assumption | with_reducible apply runData_steady | split | extract_lets | dsimp only
    | with_reducible apply Steady.upd)

theorem execSlotFreeOp_steady {s₀ : State} (q : Nat) (idx : U32) {s : State} (hst : Steady s₀ s) :
    Steady s₀ (execSlotFreeOp q idx s) := by
  unfold execSlotFreeOp
  repeat' (first
    | with_reducible assumption | with_reducible apply finishOp_steady | with_reducible apply freeSlots_steady | split
    | extract_lets | dsimp only | with_reducible apply Steady.upd)

theorem execTransferOp_steady {s₀ : State} (q : Nat) (idx : U32) {s : State} (hst : Steady s₀ s) :
    Steady s₀ (execTransferOp q idx s) := by
  unfold execTransferOp
  repeat' (first
    | with_reducible assumption | with_reducible apply runData_steady | split | extract_lets | dsimp only
    | with_reducible apply Steady.upd)

end Sys2Proof.Machine
end

