-- ==== Sys2Proof/Laws/SteadyIndex.lean ====
section
/-!
SUPPORT. The operations of Machine/Index.lean are steady: fuses go one way, the command queue stays, memory stays canonical.
-/

namespace Sys2Proof.Machine

open Sys2Proof.Safety

set_option linter.unusedTactic false
set_option linter.unreachableTactic false

theorem probeAll_steady {s₀ : State} (who : Who) (table : Nat) (key : Nat) {s : State} (hst : Steady s₀ s) :
    Steady s₀ (probeAll who table key s).1 := by
  unfold probeAll
  repeat' (first
    | with_reducible assumption | intro _ | with_reducible apply touchHbm_steady | with_reducible apply Steady.foldl
    | with_reducible apply Steady.foldl_fst | split | extract_lets | dsimp only | with_reducible apply Steady.upd
    | with_reducible apply Steady.upd_write | with_reducible apply Steady.upd_drop | with_reducible apply Steady.upd_over)

theorem noteInsert_steady {s₀ : State} (table : Nat) {s : State} (hst : Steady s₀ s) :
    Steady s₀ (noteInsert table s) := by
  unfold noteInsert
  repeat' (first
    | with_reducible assumption | split | extract_lets | dsimp only | with_reducible apply Steady.upd)

theorem addFill_steady {s₀ : State} (table : Nat) (d : ℤ) {s : State} (hst : Steady s₀ s) :
    Steady s₀ (addFill table d s) := by
  unfold addFill
  repeat' (first
    | with_reducible assumption | split | extract_lets | dsimp only | with_reducible apply Steady.upd)

theorem putEntryIn_steady {s₀ : State} (who : Who) (table : Nat) (e : List Byte) {s : State} (hst : Steady s₀ s) :
    Steady s₀ (putEntryIn who table e s).1 := by
  unfold putEntryIn
  repeat' (first
    | with_reducible assumption | with_reducible apply probeAll_steady | with_reducible apply noteInsert_steady
    | with_reducible apply writeHbm_steady | with_reducible apply addFill_steady | split | extract_lets | dsimp only
    | refine Steady.of_fst (by with_reducible assumption) ?_ | with_reducible apply Steady.upd)

theorem retireIndex_steady {s₀ : State} {s : State} (hst : Steady s₀ s) :
    Steady s₀ (retireIndex s) := by
  unfold retireIndex
  repeat' (first
    | with_reducible assumption | with_reducible apply raise_steady | split | extract_lets | dsimp only
    | with_reducible apply Steady.upd)

theorem lookupBucket_steady {s₀ : State} (who : Who) (table : Nat) (key : Nat) (i : Nat) {s : State} (hst : Steady s₀ s) :
    Steady s₀ (lookupBucket who table key i s).1 := by
  unfold lookupBucket
  repeat' (first
    | with_reducible assumption | with_reducible apply touchHbm_steady | split | extract_lets | dsimp only
    | with_reducible apply Steady.upd | with_reducible apply Steady.upd_write | with_reducible apply Steady.upd_drop
    | with_reducible apply Steady.upd_over)

theorem lookupFrom_steady {s₀ : State} (who : Who) (table key n i : Nat) {s : State} (hst : Steady s₀ s) :
    Steady s₀ (lookupFrom who table key n i s).1 := by
  induction n generalizing i s with
  | zero => exact hst
  | succ n ih =>
    have h := lookupBucket_steady who table key i hst
    unfold lookupFrom
    split
    · exact Steady.of_fst (by assumption) h
    · exact ih _ (Steady.of_fst (by assumption) h)

theorem lookupKey_steady {s₀ : State} (who : Who) (table : Nat) (key : Nat) {s : State} (hst : Steady s₀ s) :
    Steady s₀ (lookupKey who table key s).1 := by
  unfold lookupKey
  repeat' (first
    | with_reducible assumption | with_reducible apply lookupFrom_steady | split | extract_lets | dsimp only
    | refine Steady.of_fst (by with_reducible assumption) ?_ | with_reducible apply Steady.upd)

theorem bwf_bputs (l : List (Nat × Byte)) (f : Nat → Nat) (m : Sparse Byte) (h : bwf m = true) :
    bwf (l.foldl (fun m c => bput m (f c.1) c.2) m) = true := by
  induction l generalizing m with
  | nil => exact h
  | cons a r ih => exact ih _ (bwf_bput _ _ _ h)

theorem beginStaging_steady {s₀ : State} (copy : Bool) {s : State} (hst : Steady s₀ s) : Steady s₀ (beginStaging copy s) := by
  unfold beginStaging
  extract_lets src dst inside unread u listed clear bad t
  have hu : Steady s₀ u := Steady.foldl (fun s p h => touchWord_steady _ _ h) hst
  have ht : Steady s₀ t := by
    unfold t
    split
    · exact Steady.of_hbm hu rfl rfl (fun h => bwf_bputs listed (fun a => a - src + dst) clear (bwf_filter _ _ h)) rfl
    · exact Steady.of_hbm hu rfl rfl (fun h => bwf_filter _ _ h) rfl
  exact Steady.of_eq ht rfl rfl rfl rfl

theorem loadRun_steady {s₀ : State} (bucket : Nat) (image : List Byte) {s : State} (hst : Steady s₀ s) :
    Steady s₀ (loadRun bucket image s) := by
  unfold loadRun
  repeat' (first
    | with_reducible assumption | with_reducible apply writeHbm_steady | split | extract_lets | dsimp only
    | with_reducible apply Steady.upd)

theorem execLookupOp_steady {s₀ : State} (q : Nat) (idx : U32) {s : State} (hst : Steady s₀ s) :
    Steady s₀ (execLookupOp q idx s) := by
  unfold execLookupOp
  repeat' (first
    | with_reducible assumption | with_reducible apply lookupKey_steady | with_reducible apply commitUp_steady | split
    | extract_lets | dsimp only | refine Steady.of_fst (by with_reducible assumption) ?_ | with_reducible apply Steady.upd)

theorem commitIndex_steady {s₀ : State} {s : State} (hst : Steady s₀ s) :
    Steady s₀ (commitIndex s) := by
  unfold commitIndex
  repeat' (first
    | with_reducible assumption | with_reducible apply retireIndex_steady | split | extract_lets | dsimp only
    | with_reducible apply Steady.upd)

theorem deleteIn_steady {s₀ : State} (who : Who) (table : Nat) (key : Nat) {s : State} (hst : Steady s₀ s) :
    Steady s₀ (deleteIn who table key s).1 := by
  unfold deleteIn
  repeat' (first
    | with_reducible assumption | with_reducible apply probeAll_steady | with_reducible apply noteInsert_steady
    | with_reducible apply addFill_steady | with_reducible apply writeHbm_steady | split | extract_lets | dsimp only
    | refine Steady.of_fst (by with_reducible assumption) ?_ | with_reducible apply Steady.upd)

theorem execPutOp_steady {s₀ : State} (q : Nat) (idx : U32) {s : State} (hst : Steady s₀ s) :
    Steady s₀ (execPutOp q idx s) := by
  unfold execPutOp
  repeat' (first
    | with_reducible assumption | with_reducible apply putEntryIn_steady | with_reducible apply finishOp_steady | split
    | extract_lets | dsimp only | refine Steady.of_fst (by with_reducible assumption) ?_ | with_reducible apply Steady.upd)

theorem execDeleteOp_steady {s₀ : State} (q : Nat) (idx : U32) {s : State} (hst : Steady s₀ s) :
    Steady s₀ (execDeleteOp q idx s) := by
  unfold execDeleteOp
  repeat' (first
    | with_reducible assumption | with_reducible apply deleteIn_steady | with_reducible apply finishOp_steady | split
    | extract_lets | dsimp only | refine Steady.of_fst (by with_reducible assumption) ?_ | with_reducible apply Steady.upd)

end Sys2Proof.Machine
end

