-- ==== Sys2Proof/Laws/SteadyRange.lean ====
section
/-!
SUPPORT. The operations of Machine/Range.lean are steady: fuses go one way, the command queue stays, memory stays canonical.
-/

namespace Sys2Proof.Machine

open Sys2Proof.Safety

set_option linter.unusedTactic false
set_option linter.unreachableTactic false

theorem modEngine_steady {s₀ : State} (n : Nat) (f : RcEngine → RcEngine) {s : State} (hst : Steady s₀ s) :
    Steady s₀ (modEngine n f s) := by
  unfold modEngine
  repeat' (first
    | with_reducible assumption | split | extract_lets | dsimp only | with_reducible apply Steady.upd)

theorem closeCtx_steady {s₀ : State} (c : Nat) {s : State} (hst : Steady s₀ s) :
    Steady s₀ (closeCtx c s) := by
  unfold closeCtx
  repeat' (first
    | with_reducible assumption | with_reducible apply retireCulture_steady | with_reducible apply modEngine_steady | split
    | extract_lets | dsimp only | with_reducible apply Steady.upd)

theorem dropCheck_steady {s₀ : State} (owner : Nat) (d : List Byte) {s : State} (hst : Steady s₀ s) :
    Steady s₀ (dropCheck owner d s) := by
  unfold dropCheck
  repeat' (first
    | with_reducible assumption | with_reducible apply closeCtx_steady | split | extract_lets | dsimp only
    | with_reducible apply Steady.upd)

theorem noteCorrupt_steady {s₀ : State} (n : Nat) (st : Status) {s : State} (hst : Steady s₀ s) :
    Steady s₀ (noteCorrupt n st s) := by
  unfold noteCorrupt
  repeat' (first
    | with_reducible assumption | with_reducible apply modEngine_steady | split | extract_lets | dsimp only
    | with_reducible apply Steady.upd)

theorem loopMismatch_steady {s₀ : State} (enc : Nat) (chk : Nat) (level : Nat) (q : Nat) (cause : Status) (scratch : Nat) (d : List Byte) {s : State} (hst : Steady s₀ s) :
    Steady s₀ (loopMismatch enc chk level q cause scratch d s) := by
  unfold loopMismatch
  repeat' (first
    | with_reducible assumption | with_reducible apply errRecord_steady | with_reducible apply modEngine_steady | split
    | extract_lets | dsimp only | with_reducible apply Steady.upd)

theorem loseCheck_steady {s₀ : State} (chk : Nat) (t : Nat) (cause : Status) {s : State} (hst : Steady s₀ s) :
    Steady s₀ (loseCheck chk t cause s) := by
  unfold loseCheck
  repeat' (first
    | with_reducible assumption | with_reducible apply closeCtx_steady | with_reducible apply loopMismatch_steady | split
    | extract_lets | dsimp only | with_reducible apply Steady.upd)

theorem setCtx_steady {s₀ : State} (c : Nat) (x : Ctx) {s : State} (hst : Steady s₀ s) :
    Steady s₀ (setCtx c x s) := by
  unfold setCtx
  repeat' (first
    | with_reducible assumption | with_reducible apply modEngine_steady | split | extract_lets | dsimp only
    | with_reducible apply Steady.upd)

theorem rcBegin_steady {s₀ : State} (owner : Nat) (gen : Nat) (d : List Byte) {s : State} (hst : Steady s₀ s) :
    Steady s₀ (rcBegin owner gen d s).1 := by
  unfold rcBegin
  repeat' (first
    | with_reducible assumption | with_reducible apply noteCorrupt_steady | with_reducible apply loseCheck_steady
    | with_reducible apply setCtx_steady | split | extract_lets | dsimp only | with_reducible apply Steady.upd)

theorem failCtx_steady {s₀ : State} (c : Nat) (x : Ctx) (st : Status) {s : State} (hst : Steady s₀ s) :
    Steady s₀ (failCtx c x st s) := by
  unfold failCtx
  repeat' (first
    | with_reducible assumption | with_reducible apply retireCulture_steady | with_reducible apply noteCorrupt_steady
    | with_reducible apply setCtx_steady | split | extract_lets | dsimp only | with_reducible apply Steady.upd)

theorem tableFailure_steady {s₀ : State} (who : Who) (n : Nat) (off : Nat) (l : Latent) {s : State} (hst : Steady s₀ s) :
    Steady s₀ (tableFailure who n off l s) := by
  unfold tableFailure
  repeat' (first
    | with_reducible assumption | with_reducible apply modEngine_steady | with_reducible apply unitUncorr_steady
    | with_reducible apply sramRecord_steady | split | extract_lets | dsimp only | with_reducible apply Steady.upd)

theorem tableRead_steady {s₀ : State} (who : Who) (n : Nat) (gen : Nat) (e : ModelEntry) (fault : Bool) {s : State} (hst : Steady s₀ s) :
    Steady s₀ (tableRead who n gen e fault s).1 := by
  unfold tableRead
  repeat' (first
    | with_reducible assumption | intro _ | with_reducible apply tableFailure_steady | with_reducible apply correctSram_steady
    | with_reducible apply Steady.foldl | with_reducible apply Steady.foldl_fst | split | extract_lets | dsimp only
    | with_reducible apply Steady.upd)

theorem rcPass_steady {s₀ : State} (owner : Nat) (fault : Bool) (d : List Byte) {s : State} (hst : Steady s₀ s) :
    Steady s₀ (rcPass owner fault d s).1 := by
  unfold rcPass
  split
  · exact hst
  rename_i x hx
  extract_lets c q e is_ out undefined failing rec_ bad raw recs
  have hf : ∀ {st s}, Steady s₀ s → Steady s₀ (failing st s).1 := fun h => failCtx_steady _ _ _ h
  have ht := tableRead_steady (whoOf owner d) (engineOf c) x.generation e fault hst
  clear_value failing bad recs raw is_ out e
  generalize tableRead (whoOf owner d) (engineOf c) x.generation e fault s = r at ht ⊢
  obtain ⟨t, lost⟩ := r
  dsimp only at ht ⊢
  split
  · exact hf ht
  split
  · exact hf ht
  split
  · exact hf ht
  split
  · exact hf ht
  rename_i run span n h1 h2 h3 h4
  clear_value run span
  have hu : ∀ a b, Steady s₀ (touch (whoOf owner d) a b t) := fun a b => touch_steady _ _ _ ht
  split
  · exact hf (hu _ _)
  split
  · exact hf (hu _ _)
  · exact setCtx_steady _ _ (hu _ _)

theorem releaseWheel_steady {s₀ : State} (q : Nat) (d : List Byte) (w : List Byte) (words : Nat) (escaped : Nat) {s : State} (hst : Steady s₀ s) :
    Steady s₀ (releaseWheel q d w words escaped s).1 := by
  unfold releaseWheel
  repeat' (first
    | with_reducible assumption | with_reducible apply putEntryIn_steady | split | extract_lets | dsimp only
    | refine Steady.of_fst (by with_reducible assumption) ?_ | with_reducible apply Steady.upd)

theorem endCheck_steady {s₀ : State} (c : Nat) (t : Nat) (failed : Option Status) (digest : List Byte) (dest : List Chunk) {s : State} (hst : Steady s₀ s) :
    Steady s₀ (endCheck c t failed digest dest s).1 := by
  unfold endCheck
  repeat' (first
    | with_reducible assumption | with_reducible apply loseCheck_steady | with_reducible apply releaseWheel_steady
    | with_reducible apply closeCtx_steady | split | extract_lets | dsimp only
    | refine Steady.of_fst (by with_reducible assumption) ?_ | with_reducible apply Steady.upd)

theorem rcEnd_steady {s₀ : State} (owner : Nat) (d : List Byte) {s : State} (hst : Steady s₀ s) :
    Steady s₀ (rcEnd owner d s).1 := by
  unfold rcEnd
  repeat' (first
    | with_reducible assumption | with_reducible apply endCheck_steady | with_reducible apply closeCtx_steady
    | with_reducible apply noteCorrupt_steady | split | extract_lets | dsimp only
    | refine Steady.of_fst (by with_reducible assumption) ?_ | with_reducible apply Steady.upd)

theorem rcCheck_steady {s₀ : State} (k : Nat) (inPlan : Bool) (d : List Byte) {s : State} (hst : Steady s₀ s) :
    Steady s₀ (rcCheck k inPlan d s).1 := by
  unfold rcCheck
  split
  · exact hst
  rename_i x hx
  extract_lets p h e w xs
  have ht := tableRead_steady (whoOf x.queue d) (engineOf k) x.generation e false hst
  clear_value p h e w xs
  generalize tableRead (whoOf x.queue d) (engineOf k) x.generation e false s = r at ht ⊢
  obtain ⟨t, lost⟩ := r
  dsimp only at ht ⊢
  generalize (if lost = true then some Status.uncorrectable else _) = verdict
  have hc := closeCtx_steady k ht
  split
  · exact releaseWheel_steady _ _ _ _ _ hc
  · exact loopMismatch_steady _ _ _ _ _ _ _ (noteCorrupt_steady _ _ hc)

theorem rcEncode_steady {s₀ : State} (inPlan : Bool) (owner : Nat) (gen : Nat) (fault : Bool) (d : List Byte) {s : State} (hst : Steady s₀ s) :
    Steady s₀ (rcEncode inPlan owner gen fault d s).1 := by
  unfold rcEncode
  repeat' (first
    | with_reducible assumption | with_reducible apply tableRead_steady | with_reducible apply releaseWheel_steady
    | with_reducible apply setCtx_steady | split | extract_lets | dsimp only
    | refine Steady.of_fst (by with_reducible assumption) ?_ | with_reducible apply Steady.upd)

theorem closeContexts_steady {s₀ : State} (q : Nat) {s : State} (hst : Steady s₀ s) :
    Steady s₀ (closeContexts q s) := by
  unfold closeContexts
  repeat' (first
    | with_reducible assumption | intro _ | with_reducible apply scramble_steady | with_reducible apply retireCulture_steady
    | with_reducible apply Steady.foldl | with_reducible apply Steady.foldl_fst | split | extract_lets | dsimp only
    | with_reducible apply Steady.upd)

theorem unbindOp_steady {s₀ : State} (q : Nat) (idx : U32) {s : State} (hst : Steady s₀ s) :
    Steady s₀ (unbindOp q idx s) := by
  unfold unbindOp
  repeat' (first
    | with_reducible assumption | with_reducible apply retireCulture_steady | with_reducible apply modOp_steady | split
    | extract_lets | dsimp only | with_reducible apply Steady.upd)

theorem encodeEnds_steady {s₀ : State} (q : Nat) (idx : U32) (d : List Byte) {s : State} (hst : Steady s₀ s) :
    Steady s₀ (encodeEnds q idx d s) := by
  unfold encodeEnds
  repeat' (first
    | with_reducible assumption | with_reducible apply unbindOp_steady | with_reducible apply dropCheck_steady | split
    | extract_lets | dsimp only | with_reducible apply Steady.upd)

theorem stageWheel_steady {s₀ : State} (q : Nat) (idx : U32) (r : DataRes) {s : State} (hst : Steady s₀ s) :
    Steady s₀ (stageWheel q idx r s) := by
  unfold stageWheel
  repeat' (first
    | with_reducible assumption | intro _ | with_reducible apply hostFails_steady | with_reducible apply writeChunk_steady
    | with_reducible apply modOp_steady | with_reducible apply finishOp_steady | with_reducible apply Steady.foldl
    | with_reducible apply Steady.foldl_fst | split | extract_lets | dsimp only | with_reducible apply Steady.upd)

theorem execEncodeWheelOp_steady {s₀ : State} (q : Nat) (idx : U32) (fault : Bool) {s : State} (hst : Steady s₀ s) :
    Steady s₀ (execEncodeWheelOp q idx fault s) := by
  unfold execEncodeWheelOp
  repeat' (first
    | with_reducible assumption | intro _ | with_reducible apply encodeEnds_steady | with_reducible apply withData_steady
    | with_reducible apply rcCheck_steady | with_reducible apply commitUp_steady | with_reducible apply rcEncode_steady
    | with_reducible apply stageWheel_steady | with_reducible apply unbindOp_steady | split | extract_lets | dsimp only
    | refine Steady.of_fst (by with_reducible assumption) ?_ | with_reducible apply Steady.upd)

theorem execDecodePassOp_steady {s₀ : State} (q : Nat) (idx : U32) (tableFault : Bool) {s : State} (hst : Steady s₀ s) :
    Steady s₀ (execDecodePassOp q idx tableFault s) := by
  unfold execDecodePassOp
  repeat' (first
    | with_reducible assumption | intro _ | with_reducible apply withData_steady | with_reducible apply rcPass_steady
    | with_reducible apply commitUp_steady | split | extract_lets | dsimp only
    | refine Steady.of_fst (by with_reducible assumption) ?_ | with_reducible apply Steady.upd)

theorem execDecodeBeginOp_steady {s₀ : State} (q : Nat) (idx : U32) {s : State} (hst : Steady s₀ s) :
    Steady s₀ (execDecodeBeginOp q idx s) := by
  unfold execDecodeBeginOp
  repeat' (first
    | with_reducible assumption | intro _ | with_reducible apply withData_steady | with_reducible apply rcBegin_steady
    | with_reducible apply unbindOp_steady | with_reducible apply finishOp_steady | split | extract_lets | dsimp only
    | refine Steady.of_fst (by with_reducible assumption) ?_ | with_reducible apply Steady.upd)

theorem rewriteTables_steady {s₀ : State} (n : Nat) {s : State} (hst : Steady s₀ s) :
    Steady s₀ (rewriteTables n s) := by
  unfold rewriteTables
  repeat' (first
    | with_reducible assumption | with_reducible apply tableWritten_steady | with_reducible apply modEngine_steady | split
    | extract_lets | dsimp only | with_reducible apply Steady.upd)

theorem execDecodeEndOp_steady {s₀ : State} (q : Nat) (idx : U32) {s : State} (hst : Steady s₀ s) :
    Steady s₀ (execDecodeEndOp q idx s) := by
  unfold execDecodeEndOp
  repeat' (first
    | with_reducible assumption | with_reducible apply rcEnd_steady | with_reducible apply commitUp_steady | split | extract_lets
    | dsimp only | refine Steady.of_fst (by with_reducible assumption) ?_ | with_reducible apply Steady.upd)

end Sys2Proof.Machine
end

