-- ==== Sys2Proof/Laws/SteadySample.lean ====
section
/-!
SUPPORT. The operations of Machine/Sample.lean are steady: fuses go one way, the command queue stays, memory stays canonical.
-/

namespace Sys2Proof.Machine

open Sys2Proof.Safety

set_option linter.unusedTactic false
set_option linter.unreachableTactic false

theorem modRun_steady {s₀ : State} (q : Nat) (idx : U32) (f : SampleRun → SampleRun) {s : State} (hst : Steady s₀ s) :
    Steady s₀ (modRun q idx f s) := by
  unfold modRun
  repeat' (first
    | with_reducible assumption | with_reducible apply modOp_steady | split | extract_lets | dsimp only
    | with_reducible apply Steady.upd)

theorem modFlight_steady {s₀ : State} (q : Nat) (idx : U32) (k : Nat) (f : Flight → Flight) {s : State} (hst : Steady s₀ s) :
    Steady s₀ (modFlight q idx k f s) := by
  unfold modFlight
  repeat' (first
    | with_reducible assumption | with_reducible apply modRun_steady | split | extract_lets | dsimp only
    | with_reducible apply Steady.upd)

theorem endFlight_steady {s₀ : State} (q : Nat) (idx : U32) (fl : Flight) (st : Status) (header : List Byte) (data : List Byte) {s : State} (hst : Steady s₀ s) :
    Steady s₀ (endFlight q idx fl st header data s) := by
  unfold endFlight
  repeat' (first
    | with_reducible assumption | with_reducible apply retireCulture_steady | with_reducible apply setCtx_steady
    | with_reducible apply closeCtx_steady | with_reducible apply noteCorrupt_steady | with_reducible apply modFlight_steady
    | split | extract_lets | dsimp only | with_reducible apply Steady.upd)

theorem poolStops_steady {s₀ : State} (plan : Nat) {s : State} (hst : Steady s₀ s) :
    Steady s₀ (poolStops plan s) := by
  unfold poolStops
  repeat' (first
    | with_reducible assumption | intro _ | with_reducible apply endFlight_steady | with_reducible apply Steady.foldl
    | with_reducible apply Steady.foldl_fst | split | extract_lets | dsimp only | with_reducible apply Steady.upd)

theorem sampleEnd_steady {s₀ : State} (q : Nat) (idx : U32) {s : State} (hst : Steady s₀ s) :
    Steady s₀ (sampleEnd q idx s) := by
  unfold sampleEnd
  repeat' (first
    | with_reducible assumption | with_reducible apply commitUp_steady | split | extract_lets | dsimp only
    | with_reducible apply Steady.upd)

theorem skipEmpty_steady {s₀ : State} (q : Nat) (idx : U32) (n : Nat) {s : State} (hst : Steady s₀ s) :
    Steady s₀ (skipEmpty q idx n s) := by
  induction n generalizing s with
  | zero => exact hst
  | succ n ih =>
    unfold skipEmpty
    split
    · exact hst
    · dsimp only
      split
      · exact ih (modRun_steady _ _ _ hst)
      · exact hst

theorem checkFlight_steady {s₀ : State} (q : Nat) (idx : U32) (o : Op) (fl : Flight) (c : Nat) (v : Ctx) (src : LAddr) {s : State} (hst : Steady s₀ s) :
    Steady s₀ (checkFlight q idx o fl c v src s) := by
  unfold checkFlight
  repeat' (first
    | with_reducible assumption | with_reducible apply touch_steady | with_reducible apply endFlight_steady
    | with_reducible apply modFlight_steady | with_reducible apply setCtx_steady | split | extract_lets | dsimp only
    | with_reducible apply Steady.upd)

theorem copyWheel_steady {s₀ : State} (b : Nat) (src : LAddr) (len : Nat) {s : State} (hst : Steady s₀ s) :
    Steady s₀ (copyWheel b src len s) := by
  unfold copyWheel
  repeat' (first
    | with_reducible assumption | with_reducible apply writeHbm_steady | split | extract_lets | dsimp only
    | with_reducible apply Steady.upd)

theorem askWheel_steady {s₀ : State} (q : Nat) (idx : U32) (k : Nat) (m : Nat) (a : Nat) (len : Nat) {s : State} (hst : Steady s₀ s) :
    Steady s₀ (askWheel q idx k m a len s) := by
  unfold askWheel
  repeat' (first
    | with_reducible assumption | intro _ | with_reducible apply issue_steady | with_reducible apply modFlight_steady
    | with_reducible apply Steady.foldl | with_reducible apply Steady.foldl_fst | split | extract_lets | dsimp only
    | refine Steady.of_fst (by with_reducible assumption) ?_ | with_reducible apply Steady.upd)

theorem fetchFlight_steady {s₀ : State} (q : Nat) (idx : U32) (o : Op) (fl : Flight) {s : State} (hst : Steady s₀ s) :
    Steady s₀ (fetchFlight q idx o fl s) := by
  unfold fetchFlight
  repeat' (first
    | with_reducible assumption | with_reducible apply endFlight_steady | with_reducible apply checkFlight_steady
    | with_reducible apply copyWheel_steady | with_reducible apply hostFailed_steady | with_reducible apply askWheel_steady
    | with_reducible apply modFlight_steady | with_reducible apply touch_steady | split | extract_lets | dsimp only
    | with_reducible apply Steady.upd | with_reducible apply Steady.upd_write | with_reducible apply Steady.upd_drop
    | with_reducible apply Steady.upd_over)

theorem openFlight_steady {s₀ : State} (q : Nat) (idx : U32) (o : Op) (fl : Flight) {s : State} (hst : Steady s₀ s) :
    Steady s₀ (openFlight q idx o fl s) := by
  unfold openFlight
  repeat' (first
    | with_reducible assumption | with_reducible apply modFlight_steady | with_reducible apply setCtx_steady | split
    | extract_lets | dsimp only | with_reducible apply Steady.upd | with_reducible apply Steady.upd_write
    | with_reducible apply Steady.upd_drop | with_reducible apply Steady.upd_over)

theorem decodeEntry_steady {s₀ : State} (who : Who) (x : Sa) (ff n c : Nat) (v : Ctx) (fault : Bool) {s : State} (hst : Steady s₀ s) :
    Steady s₀ (decodeEntry who x ff n c v fault s).1 := by
  unfold decodeEntry
  extract_lets e h net run span
  have ht := tableRead_steady who (engineOf c) v.generation e fault hst
  clear_value e net run span
  generalize tableRead who (engineOf c) v.generation e fault s = r at ht ⊢
  obtain ⟨t, lost⟩ := r
  dsimp only at ht ⊢
  have hu : ∀ a b, Steady s₀ (touch who a b t) := fun a b => touch_steady _ _ _ ht
  repeat' split
  · exact hu _ _
  · exact hu _ _
  all_goals exact touch_steady _ _ _ (hu _ _)

theorem decodeFlight_steady {s₀ : State} (q : Nat) (idx : U32) (o : Op) (fl : Flight) (fault : Bool) {s : State} (hst : Steady s₀ s) :
    Steady s₀ (decodeFlight q idx o fl fault s).1 := by
  unfold decodeFlight
  repeat' (first
    | with_reducible assumption | with_reducible apply modFlight_steady | with_reducible apply decodeEntry_steady
    | with_reducible apply endFlight_steady | split | extract_lets | dsimp only
    | refine Steady.of_fst (by with_reducible assumption) ?_ | with_reducible apply Steady.upd)

theorem leaveFlight_steady {s₀ : State} (q : Nat) (idx : U32) (fl : Flight) (f : SampleRun → SampleRun) {s : State} (hst : Steady s₀ s) :
    Steady s₀ (leaveFlight q idx fl f s) := by
  unfold leaveFlight
  repeat' (first
    | with_reducible assumption | with_reducible apply closeCtx_steady | with_reducible apply modRun_steady | split
    | extract_lets | dsimp only | with_reducible apply Steady.upd)

theorem sampleFails_steady {s₀ : State} (q : Nat) (idx : U32) (st : Status) {s : State} (hst : Steady s₀ s) :
    Steady s₀ (sampleFails q idx st s) := by
  unfold sampleFails
  repeat' (first
    | with_reducible assumption | with_reducible apply closeContexts_steady | with_reducible apply finishOp_steady | split
    | extract_lets | dsimp only | with_reducible apply Steady.upd)

theorem sampleVisible_steady {s₀ : State} (q : Nat) (idx : U32) (ring : Nat) {s : State} (hst : Steady s₀ s) :
    Steady s₀ (sampleVisible q idx ring s) := by
  unfold sampleVisible
  repeat' (first
    | with_reducible assumption | with_reducible apply publishSlot_steady | with_reducible apply modOp_steady
    | with_reducible apply modRun_steady | with_reducible apply writeChunk_steady | with_reducible apply sampleFails_steady
    | split | extract_lets | dsimp only | with_reducible apply Steady.upd)

theorem sampleSlot_steady {s₀ : State} (q : Nat) (idx : U32) (ring : Nat) (data : List Byte) {s : State} (hst : Steady s₀ s) :
    Steady s₀ (sampleSlot q idx ring data s) := by
  unfold sampleSlot
  repeat' (first
    | with_reducible assumption | with_reducible apply openSlot_steady | with_reducible apply sampleFails_steady
    | with_reducible apply hostFailed_steady | with_reducible apply writeChunk_steady | with_reducible apply modRun_steady
    | with_reducible apply sampleVisible_steady | with_reducible apply modOp_steady | split | extract_lets | dsimp only
    | with_reducible apply Steady.upd)

theorem deliver_steady {s₀ : State} (q : Nat) (idx : U32) (n : Nat) {s : State} (hst : Steady s₀ s) :
    Steady s₀ (deliver q idx n s) := by
  induction n generalizing s with
  | zero => exact hst
  | succ n ih =>
    unfold deliver
    repeat' (first
      | with_reducible assumption | with_reducible apply ih | with_reducible apply leaveFlight_steady
      | with_reducible apply sampleSlot_steady | split | extract_lets | dsimp only)

theorem advanceFlight_steady {s₀ : State} (q : Nat) (idx : U32) (k : Nat) (p : State × Bool) (hst : Steady s₀ p.1) :
    Steady s₀ (advanceFlight q idx k p).1 := by
  unfold advanceFlight
  extract_lets run s t
  have hr : ∀ {f s}, (∀ o fl s, Steady s₀ s → Steady s₀ (f o fl s)) → Steady s₀ s → Steady s₀ (run f s) := by
    intro f s hf hs
    unfold run
    split
    · split
      · exact hs
      · exact hf _ _ _ hs
    · exact hs
  have hs : Steady s₀ s := hr (fun o fl s hs => Steady.ite hs (endFlight_steady _ _ _ _ _ _ hs)) hst
  have ht : Steady s₀ t := hr (fun _ _ _ h => fetchFlight_steady _ _ _ _ h) (hr (fun _ _ _ h => openFlight_steady _ _ _ _ h) hs)
  clear_value t
  split
  · split
    · exact ht
    · exact decodeFlight_steady _ _ _ _ _ ht
  · exact ht

theorem sampleAdvance_steady {s₀ : State} (q : Nat) (idx : U32) (fault : Bool) {s : State} (hst : Steady s₀ s) :
    Steady s₀ (sampleAdvance q idx fault s) := by
  unfold sampleAdvance
  split
  · exact hst
  · split
    · exact hst
    · refine sampleEnd_steady _ _ (deliver_steady _ _ _ (Steady.foldl_fst (fun p x h => ?_) (skipEmpty_steady _ _ _ hst)))
      exact advanceFlight_steady _ _ _ _ h

theorem startEntry_steady {s₀ : State} (q : Nat) (idx : U32) (o : Op) {s : State} (hst : Steady s₀ s) :
    Steady s₀ (startEntry q idx o s) := by
  unfold startEntry
  repeat' (first
    | with_reducible assumption | with_reducible apply lookupKey_steady | with_reducible apply modRun_steady
    | with_reducible apply endFlight_steady | split | extract_lets | dsimp only
    | refine Steady.of_fst (by with_reducible assumption) ?_ | with_reducible apply Steady.upd)

theorem execSampleEntryOp_steady {s₀ : State} (q : Nat) (idx : U32) (tableFault : Bool) {s : State} (hst : Steady s₀ s) :
    Steady s₀ (execSampleEntryOp q idx tableFault s) := by
  unfold execSampleEntryOp
  repeat' (first
    | with_reducible assumption | with_reducible apply skipEmpty_steady | with_reducible apply sampleAdvance_steady
    | with_reducible apply startEntry_steady | split | extract_lets | dsimp only | with_reducible apply Steady.upd)

theorem execSampleOp_steady {s₀ : State} (q : Nat) (idx : U32) {s : State} (hst : Steady s₀ s) :
    Steady s₀ (execSampleOp q idx s) := by
  unfold execSampleOp
  repeat' (first
    | with_reducible assumption | with_reducible apply sampleAdvance_steady | split | extract_lets | dsimp only
    | with_reducible apply Steady.upd)

end Sys2Proof.Machine
end

