-- ==== Sys2Proof/Laws/SteadyPress.lean ====
section
/-!
SUPPORT. The operations of Machine/Press.lean are steady: fuses go one way, the command queue stays, memory stays canonical.
-/

namespace Sys2Proof.Machine

open Sys2Proof.Safety

set_option linter.unusedTactic false
set_option linter.unreachableTactic false

theorem pressEnd_steady {s₀ : State} (q : Nat) (idx : U32) {s : State} (hst : Steady s₀ s) :
    Steady s₀ (pressEnd q idx s) := by
  unfold pressEnd
  repeat' (first
    | with_reducible assumption | with_reducible apply modPress_steady | with_reducible apply freePress_steady | split
    | extract_lets | dsimp only | with_reducible apply Steady.upd)

theorem pressFailure_steady {s₀ : State} (q : Nat) (idx : U32) (n : Nat) (out : LAddr × Nat) {s : State} (hst : Steady s₀ s) :
    Steady s₀ (pressFailure q idx n out s) := by
  unfold pressFailure
  repeat' (first
    | with_reducible assumption | with_reducible apply scramble_steady | with_reducible apply modPress_steady
    | with_reducible apply errRecord_steady | with_reducible apply finishOp_steady | with_reducible apply unitUncorr_steady
    | split | extract_lets | dsimp only | with_reducible apply Steady.upd)

theorem runPress_steady {s₀ : State} (q : Nat) (idx : U32) (inflate : Bool) (hw : Option Nat) {s : State} (hst : Steady s₀ s) :
    Steady s₀ (runPress q idx inflate hw s) := by
  unfold runPress
  repeat' (first
    | with_reducible assumption | with_reducible apply freePress_steady | with_reducible apply pressFailure_steady
    | with_reducible apply pressEnd_steady | with_reducible apply runData_steady | split | extract_lets | dsimp only
    | with_reducible apply Steady.upd)

theorem execInflateOp_steady {s₀ : State} (q : Nat) (idx : U32) (hw : Option Nat) {s : State} (hst : Steady s₀ s) :
    Steady s₀ (execInflateOp q idx hw s) := by
  unfold execInflateOp
  repeat' (first
    | with_reducible assumption | with_reducible apply runPress_steady | split | extract_lets | dsimp only
    | with_reducible apply Steady.upd)

theorem execCompressOp_steady {s₀ : State} (q : Nat) (idx : U32) (hw : Option Nat) {s : State} (hst : Steady s₀ s) :
    Steady s₀ (execCompressOp q idx hw s) := by
  unfold execCompressOp
  repeat' (first
    | with_reducible assumption | with_reducible apply runPress_steady | split | extract_lets | dsimp only
    | with_reducible apply Steady.upd)

end Sys2Proof.Machine
end

