-- ==== Sys2Proof/Laws/SteadySignal.lean ====
section
/-!
SUPPORT. The operations of Machine/Signal.lean are steady: fuses go one way, the command queue stays, memory stays canonical.
-/

namespace Sys2Proof.Machine

open Sys2Proof.Safety

set_option linter.unusedTactic false
set_option linter.unreachableTactic false

theorem sgRemote_steady {s₀ : State} (op : Nat) (q : Nat) (idx : U32) (d : List Byte) {s : State} (hst : Steady s₀ s) :
    Steady s₀ (sgRemote op q idx d s) := by
  unfold sgRemote
  repeat' (first
    | with_reducible assumption | with_reducible apply awaitOrEnd_steady | with_reducible apply issueFor_steady | split
    | extract_lets | dsimp only | with_reducible apply Steady.upd)

theorem execSubOp_steady {s₀ : State} (q : Nat) (idx : U32) {s : State} (hst : Steady s₀ s) :
    Steady s₀ (execSubOp q idx s) := by
  unfold execSubOp
  repeat' (first
    | with_reducible assumption | with_reducible apply subCounter_steady | with_reducible apply finishOp_steady
    | with_reducible apply sgRemote_steady | split | extract_lets | dsimp only
    | refine Steady.of_fst (by with_reducible assumption) ?_ | with_reducible apply Steady.upd)

theorem reserveCounters_steady {s₀ : State} (a : ArgTable) {s : State} (hst : Steady s₀ s) :
    Steady s₀ (reserveCounters a s) := by
  unfold reserveCounters
  repeat' (first
    | with_reducible assumption | intro _ | with_reducible apply modC_steady | with_reducible apply Steady.foldl
    | with_reducible apply Steady.foldl_fst | split | extract_lets | dsimp only | with_reducible apply Steady.upd)

theorem returnCounters_steady {s₀ : State} (a : ArgTable) {s : State} (hst : Steady s₀ s) :
    Steady s₀ (returnCounters a s) := by
  unfold returnCounters
  repeat' (first
    | with_reducible assumption | intro _ | with_reducible apply modC_steady | with_reducible apply Steady.foldl
    | with_reducible apply Steady.foldl_fst | split | extract_lets | dsimp only | with_reducible apply Steady.upd)

theorem sgArrive_steady {s₀ : State} (acquire : Bool) (q : Nat) (idx : U32) (d : List Byte) {s : State} (hst : Steady s₀ s) :
    Steady s₀ (sgArrive acquire q idx d s) := by
  unfold sgArrive
  repeat' (first
    | with_reducible assumption | with_reducible apply arriveWait_steady | with_reducible apply finishOp_steady
    | with_reducible apply modOp_steady | split | extract_lets | dsimp only
    | refine Steady.of_fst (by with_reducible assumption) ?_ | with_reducible apply Steady.upd)

theorem execRunPlanOp_steady {s₀ : State} (q : Nat) (idx : U32) {s : State} (hst : Steady s₀ s) :
    Steady s₀ (execRunPlanOp q idx s) := by
  unfold execRunPlanOp
  repeat' (first
    | with_reducible assumption | with_reducible apply finishOp_steady | with_reducible apply modOp_steady | split | extract_lets
    | dsimp only | with_reducible apply Steady.upd)

theorem execSignalOp_steady {s₀ : State} (q : Nat) (idx : U32) {s : State} (hst : Steady s₀ s) :
    Steady s₀ (execSignalOp q idx s) := by
  unfold execSignalOp
  repeat' (first
    | with_reducible assumption | with_reducible apply signalCounter_steady | with_reducible apply finishOp_steady
    | with_reducible apply sgRemote_steady | split | extract_lets | dsimp only
    | refine Steady.of_fst (by with_reducible assumption) ?_ | with_reducible apply Steady.upd)

theorem execHintOp_steady {s₀ : State} (q : Nat) (idx : U32) {s : State} (hst : Steady s₀ s) :
    Steady s₀ (execHintOp q idx s) := by
  unfold execHintOp
  repeat' (first
    | with_reducible assumption | with_reducible apply finishOp_steady | split | extract_lets | dsimp only
    | with_reducible apply Steady.upd)

theorem execAcquireOp_steady {s₀ : State} (q : Nat) (idx : U32) {s : State} (hst : Steady s₀ s) :
    Steady s₀ (execAcquireOp q idx s) := by
  unfold execAcquireOp
  repeat' (first
    | with_reducible assumption | with_reducible apply sgArrive_steady | with_reducible apply sgRemote_steady | split
    | extract_lets | dsimp only | with_reducible apply Steady.upd)

theorem execWaitGeOp_steady {s₀ : State} (q : Nat) (idx : U32) {s : State} (hst : Steady s₀ s) :
    Steady s₀ (execWaitGeOp q idx s) := by
  unfold execWaitGeOp
  repeat' (first
    | with_reducible assumption | with_reducible apply sgArrive_steady | with_reducible apply sgRemote_steady | split
    | extract_lets | dsimp only | with_reducible apply Steady.upd)

end Sys2Proof.Machine
end

