-- ==== Sys2Proof/Laws/SteadyRows.lean ====
section
/-!
SUPPORT. The operations of Machine/Rows.lean are steady: fuses go one way, the command queue stays, memory stays canonical.
-/

namespace Sys2Proof.Machine

open Sys2Proof.Safety

set_option linter.unusedTactic false
set_option linter.unreachableTactic false

theorem execNormOp_steady {s₀ : State} (q : Nat) (idx : U32) (hw : Option Nat) {s : State} (hst : Steady s₀ s) :
    Steady s₀ (execNormOp q idx hw s) := by
  unfold execNormOp
  repeat' (first
    | with_reducible assumption | with_reducible apply runVat_steady | split | extract_lets | dsimp only
    | with_reducible apply Steady.upd)

theorem execFuncOp_steady {s₀ : State} (q : Nat) (idx : U32) (hw : Option Nat) {s : State} (hst : Steady s₀ s) :
    Steady s₀ (execFuncOp q idx hw s) := by
  unfold execFuncOp
  repeat' (first
    | with_reducible assumption | with_reducible apply runVat_steady | split | extract_lets | dsimp only
    | with_reducible apply Steady.upd)

theorem execSoftmaxOp_steady {s₀ : State} (q : Nat) (idx : U32) (hw : Option Nat) {s : State} (hst : Steady s₀ s) :
    Steady s₀ (execSoftmaxOp q idx hw s) := by
  unfold execSoftmaxOp
  repeat' (first
    | with_reducible assumption | with_reducible apply runVat_steady | split | extract_lets | dsimp only
    | with_reducible apply Steady.upd)

end Sys2Proof.Machine
end

