-- ==== Sys2Proof/Laws/SteadyAdmit.lean ====
section
/-!
SUPPORT. The operations of Machine/Admit.lean are steady: fuses go one way, the command queue stays, memory stays canonical.
-/

namespace Sys2Proof.Machine

open Sys2Proof.Safety

set_option linter.unusedTactic false
set_option linter.unreachableTactic false

theorem countAdmission_steady {s₀ : State} {s : State} (hst : Steady s₀ s) :
    Steady s₀ (countAdmission s) := by
  unfold countAdmission
  repeat' (first
    | with_reducible assumption | split | extract_lets | dsimp only | with_reducible apply Steady.upd)

theorem spend_steady {s₀ : State} (cls : Nat) (charge : Nat) {s : State} (hst : Steady s₀ s) :
    Steady s₀ (spend cls charge s) := by
  unfold spend
  repeat' (first
    | with_reducible assumption | split | extract_lets | dsimp only | with_reducible apply Steady.upd)

theorem admitStep_steady {s₀ : State} (full : List Cap) (q : Nat) (o : Op) {s : State} (hst : Steady s₀ s) :
    Steady s₀ (admitStep full q o s).1 := by
  unfold admitStep
  repeat' (first
    | with_reducible assumption | with_reducible apply modOp_steady | with_reducible apply freePress_steady
    | with_reducible apply finishOp_steady | with_reducible apply countAdmission_steady | with_reducible apply spend_steady
    | split | extract_lets | dsimp only | with_reducible apply Steady.upd)

theorem pushOp_steady {s₀ : State} (q : Nat) (o : Op) {s : State} (hst : Steady s₀ s) :
    Steady s₀ (pushOp q o s) := by
  unfold pushOp
  repeat' (first
    | with_reducible assumption | with_reducible apply modQ_steady | split | extract_lets | dsimp only
    | with_reducible apply Steady.upd)

theorem askHead_steady {s₀ : State} (q : Nat) (idx : U32) (a : LAddr × Nat) {s : State} (hst : Steady s₀ s) :
    Steady s₀ (askHead q idx a s) := by
  unfold askHead
  repeat' (first
    | with_reducible assumption | intro _ | with_reducible apply modQ_steady | with_reducible apply issue_steady
    | with_reducible apply Steady.foldl | with_reducible apply Steady.foldl_fst | split | extract_lets | dsimp only
    | refine Steady.of_fst (by with_reducible assumption) ?_ | with_reducible apply Steady.upd)

theorem headFetch_steady {s₀ : State} (q : Nat) (idx : U32) (d : List Byte) {s : State} (hst : Steady s₀ s) :
    Steady s₀ ((headFetch q idx d s).state s) := by
  unfold headFetch
  repeat' (first
    | with_reducible assumption | intro _ | with_reducible apply askHead_steady | with_reducible apply modQ_steady
    | with_reducible apply Steady.foldl | with_reducible apply Steady.foldl_fst | split | extract_lets | dsimp only
    | dsimp only [HeadRes.state] | with_reducible apply Steady.upd)

theorem takePlaces_steady {s₀ : State} (q : Nat) (o : Op) {s : State} (hst : Steady s₀ s) :
    Steady s₀ (takePlaces q o s) := by
  unfold takePlaces
  repeat' (first
    | with_reducible assumption | with_reducible apply pushOp_steady | with_reducible apply reserveCounters_steady
    | with_reducible apply openSlot_steady | with_reducible apply modPress_steady | split | extract_lets | dsimp only
    | with_reducible apply Steady.upd)

theorem placeHead_steady {s₀ : State} (full : List Cap) (q : Nat) (o : Op) {s : State} (hst : Steady s₀ s) :
    Steady s₀ (placeHead full q o s).1 := by
  unfold placeHead
  repeat' (first
    | with_reducible assumption | with_reducible apply pushOp_steady | with_reducible apply takePlaces_steady
    | with_reducible apply countAdmission_steady | with_reducible apply spend_steady | split | extract_lets | dsimp only
    | with_reducible apply Steady.upd)

theorem readBlocks_steady {s₀ : State} (q : Nat) (cls : Nat) (d : List Byte) {s : State} (hst : Steady s₀ s) :
    Steady s₀ (readBlocks q cls d s) := by
  unfold readBlocks
  repeat' (first
    | with_reducible assumption | intro _ | with_reducible apply touch_steady | with_reducible apply Steady.foldl
    | with_reducible apply Steady.foldl_fst | split | extract_lets | dsimp only | with_reducible apply Steady.upd)

theorem admitHead_steady {s₀ : State} (full : List Cap) (q : Nat) {s : State} (hst : Steady s₀ s) :
    Steady s₀ (admitHead full q s).1 := by
  unfold admitHead
  extract_lets v
  clear_value v
  split
  · exact hst
  split
  · exact hst
  rename_i d bad _ _
  extract_lets o
  clear_value o
  split
  · exact stopQueue_steady _ _ (pushOp_steady _ _ hst)
  have hh := headFetch_steady q v.head d hst
  split
  · exact pushOp_steady _ _ hst
  · rename_i heq; exact Steady.of_waits heq hh
  · exact placeHead_steady _ _ _ (readBlocks_steady _ _ _ hst)

theorem visitQueue_steady {s₀ : State} (full : List Cap) (q n : Nat) {s : State} (hst : Steady s₀ s) :
    Steady s₀ (visitQueue full q n s).1 := by
  induction n generalizing s with
  | zero => exact hst
  | succ n ih =>
    unfold visitQueue
    split
    · rename_i o _
      have h := admitStep_steady full q o hst
      split
      rename_i heq
      have h := Steady.of_fst heq h
      split
      · exact h
      · exact ih h
    · have h := admitHead_steady full q hst
      split
      rename_i heq
      have h := Steady.of_fst heq h
      split
      · exact ih h
      · exact h

theorem noteServed_steady {s₀ : State} (cls : Nat) (prio : Nat) (q : Nat) {s : State} (hst : Steady s₀ s) :
    Steady s₀ (noteServed cls prio q s) := by
  unfold noteServed
  repeat' (first
    | with_reducible assumption | split | extract_lets | dsimp only | with_reducible apply Steady.upd)

theorem admitClass_steady {s₀ : State} (full : List Cap) (cls : Nat) {s : State} (hst : Steady s₀ s) :
    Steady s₀ (admitClass full cls s) := by
  unfold admitClass
  repeat' (first
    | with_reducible assumption | intro _ | with_reducible apply visitQueue_steady | with_reducible apply noteServed_steady
    | with_reducible apply Steady.foldl | with_reducible apply Steady.foldl_fst | split | extract_lets | dsimp only
    | refine Steady.of_fst (by with_reducible assumption) ?_ | with_reducible apply Steady.upd)

theorem admitNone_steady {s₀ : State} {s : State} (hst : Steady s₀ s) :
    Steady s₀ (admitNone s) := by
  unfold admitNone
  repeat' (first
    | with_reducible assumption | split | extract_lets | dsimp only | with_reducible apply Steady.upd)

theorem dropRequest_steady {s₀ : State} (q : Nat) (idx : U32) {s : State} (hst : Steady s₀ s) :
    Steady s₀ (dropRequest q idx s) := by
  unfold dropRequest
  repeat' (first
    | with_reducible assumption | with_reducible apply returnCounters_steady | split | extract_lets | dsimp only
    | with_reducible apply Steady.upd)

theorem completeOperation_steady {s₀ : State} (q : Nat) {s : State} (hst : Steady s₀ s) :
    Steady s₀ (completeOperation q s) := by
  unfold completeOperation
  repeat' (first
    | with_reducible assumption | with_reducible apply retireIndex_steady | with_reducible apply retireCulture_steady
    | with_reducible apply writeRecord_steady | with_reducible apply dropRequest_steady | split | extract_lets | dsimp only
    | with_reducible apply Steady.upd)

theorem admitAll_steady {s₀ : State} (caps : List Cap) {s : State} (hst : Steady s₀ s) :
    Steady s₀ (admitAll caps s) := by
  unfold admitAll
  repeat' (first
    | with_reducible assumption | intro _ | with_reducible apply admitClass_steady | with_reducible apply Steady.foldl
    | with_reducible apply Steady.foldl_fst | split | extract_lets | dsimp only | with_reducible apply Steady.upd)

theorem stepOperation_steady {s₀ : State} (q : Nat) (idx : U32) {s : State} (hst : Steady s₀ s) :
    Steady s₀ (stepOperation q idx s) := by
  unfold stepOperation
  repeat' (first
    | with_reducible assumption | with_reducible apply admitStep_steady | split | extract_lets | dsimp only
    | refine Steady.of_fst (by with_reducible assumption) ?_ | with_reducible apply Steady.upd)

theorem tryStart_steady {s₀ : State} (q : Nat) (o : Op) {s : State} (hst : Steady s₀ s) :
    Steady s₀ (tryStart q o s) := by
  unfold tryStart
  repeat' (first
    | with_reducible assumption | with_reducible apply modOp_steady | split | extract_lets | dsimp only
    | with_reducible apply Steady.upd)

theorem startDescriptor_steady {s₀ : State} (q : Nat) (idx : U32) {s : State} (hst : Steady s₀ s) :
    Steady s₀ (startDescriptor q idx s) := by
  unfold startDescriptor
  repeat' (first
    | with_reducible assumption | with_reducible apply arriveWait_steady | with_reducible apply modOp_steady
    | with_reducible apply tryStart_steady | with_reducible apply freePress_steady | with_reducible apply finishOp_steady
    | with_reducible apply stopQueue_steady | split | extract_lets | dsimp only
    | refine Steady.of_fst (by with_reducible assumption) ?_ | with_reducible apply Steady.upd)

end Sys2Proof.Machine
end

