-- ==== Sys2Proof/Laws/SteadyJob.lean ====
section
/-!
SUPPORT. The operations of Machine/Job.lean are steady: fuses go one way, the command queue stays, memory stays canonical.
-/

namespace Sys2Proof.Machine

open Sys2Proof.Safety

set_option linter.unusedTactic false
set_option linter.unreachableTactic false

theorem modJob_steady {s₀ : State} (f : Job → Job) {s : State} (hst : Steady s₀ s) :
    Steady s₀ (modJob f s) := by
  unfold modJob
  repeat' (first
    | with_reducible assumption | split | extract_lets | dsimp only | with_reducible apply Steady.upd)

theorem modUnit_steady {s₀ : State} (u : UnitId) (f : UnitRun → UnitRun) {s : State} (hst : Steady s₀ s) :
    Steady s₀ (modUnit u f s) := by
  unfold modUnit
  repeat' (first
    | with_reducible assumption | with_reducible apply modJob_steady | split | extract_lets | dsimp only
    | with_reducible apply Steady.upd)

theorem failSoon_steady {s₀ : State} (st : Status) {s : State} (hst : Steady s₀ s) :
    Steady s₀ (failSoon st s) := by
  unfold failSoon
  repeat' (first
    | with_reducible assumption | with_reducible apply modJob_steady | split | extract_lets | dsimp only
    | with_reducible apply Steady.upd)

theorem unitIssue_steady {s₀ : State} (u : UnitId) (kind : Nat) (dst : Nat) (address : Nat) (len : Nat) (amount : Nat) (data : List Byte) (bad : List Nat) (cache : Option Nat) {s : State} (hst : Steady s₀ s) :
    Steady s₀ (unitIssue u kind dst address len amount data bad cache s) := by
  unfold unitIssue
  repeat' (first
    | with_reducible assumption | with_reducible apply failSoon_steady | with_reducible apply issue_steady
    | with_reducible apply modUnit_steady | split | extract_lets | dsimp only
    | refine Steady.of_fst (by with_reducible assumption) ?_ | with_reducible apply Steady.upd)

theorem unitAsk_steady {s₀ : State} (u : UnitId) (cache : Option Nat) (spans : List (Nat × Nat × Nat)) (shared : List (Nat × Nat)) (phase : Nat) {s : State} (hst : Steady s₀ s) :
    Steady s₀ (unitAsk u cache spans shared phase s) := by
  unfold unitAsk
  repeat' (first
    | with_reducible assumption | intro _ | with_reducible apply modUnit_steady | with_reducible apply unitIssue_steady
    | with_reducible apply Steady.foldl | with_reducible apply Steady.foldl_fst | split | extract_lets | dsimp only
    | with_reducible apply Steady.upd)

theorem unitNext_steady {s₀ : State} (u : UnitId) {s : State} (hst : Steady s₀ s) :
    Steady s₀ (unitNext u s) := by
  unfold unitNext
  repeat' (first
    | with_reducible assumption | with_reducible apply modUnit_steady | split | extract_lets | dsimp only
    | with_reducible apply Steady.upd)

theorem unitEnd_steady {s₀ : State} (u : UnitId) (op : PlanOp) {s : State} (hst : Steady s₀ s) :
    Steady s₀ (unitEnd u op s) := by
  unfold unitEnd
  repeat' (first
    | with_reducible assumption | with_reducible apply publishSlot_steady | with_reducible apply modUnit_steady
    | with_reducible apply unitNext_steady | split | extract_lets | dsimp only | with_reducible apply Steady.upd)

theorem unitFails_steady {s₀ : State} (u : UnitId) (op : PlanOp) (st : Status) {s : State} (hst : Steady s₀ s) :
    Steady s₀ (unitFails u op st s) := by
  unfold unitFails
  repeat' (first
    | with_reducible assumption | with_reducible apply dropCheck_steady | with_reducible apply unitNext_steady
    | with_reducible apply failSoon_steady | split | extract_lets | dsimp only | with_reducible apply Steady.upd)

theorem unitHostFails_steady {s₀ : State} (u : UnitId) (op : PlanOp) (outs : List (LAddr × Nat)) {s : State} (hst : Steady s₀ s) :
    Steady s₀ (unitHostFails u op outs s) := by
  unfold unitHostFails
  repeat' (first
    | with_reducible assumption | intro _ | with_reducible apply unitFails_steady | with_reducible apply scramble_steady
    | with_reducible apply hostFailed_steady | with_reducible apply Steady.foldl | with_reducible apply Steady.foldl_fst | split
    | extract_lets | dsimp only | with_reducible apply Steady.upd)

theorem unitWrite_steady {s₀ : State} (u : UnitId) (c : Chunk) {s : State} (hst : Steady s₀ s) :
    Steady s₀ (unitWrite u c s) := by
  unfold unitWrite
  repeat' (first
    | with_reducible assumption | intro _ | with_reducible apply unitIssue_steady | with_reducible apply poke_steady
    | with_reducible apply Steady.foldl | with_reducible apply Steady.foldl_fst | split | extract_lets | dsimp only
    | with_reducible apply Steady.upd)

theorem unitCommit_steady {s₀ : State} (u : UnitId) (op : PlanOp) (r : DataRes) {s : State} (hst : Steady s₀ s) :
    Steady s₀ (unitCommit u op r s) := by
  unfold unitCommit
  repeat' (first
    | with_reducible assumption | intro _ | with_reducible apply unitHostFails_steady | with_reducible apply scramble_steady
    | with_reducible apply unitWrite_steady | with_reducible apply failSoon_steady | with_reducible apply unitEnd_steady
    | with_reducible apply modUnit_steady | with_reducible apply Steady.foldl | with_reducible apply Steady.foldl_fst | split
    | extract_lets | dsimp only | with_reducible apply Steady.upd)

theorem vatsFail_steady {s₀ : State} (u : UnitId) (op : PlanOp) (vats : List Nat) (outs : List (LAddr × Nat)) {s : State} (hst : Steady s₀ s) :
    Steady s₀ (vatsFail u op vats outs s) := by
  unfold vatsFail
  repeat' (first
    | with_reducible assumption | intro _ | with_reducible apply scramble_steady | with_reducible apply unitFails_steady
    | with_reducible apply unitUncorr_steady | with_reducible apply Steady.foldl | with_reducible apply Steady.foldl_fst | split
    | extract_lets | dsimp only | with_reducible apply Steady.upd)

theorem unitData_steady {s₀ : State} (u : UnitId) (op : PlanOp) (phase : Nat) (cache : Option Nat) (reads : List (LAddr × Nat)) (run : State → State × DataRes) {s : State} (hrun : ∀ {s₀ s}, Steady s₀ s → Steady s₀ (run s).1) (hst : Steady s₀ s) :
    Steady s₀ (unitData u op phase cache reads run s) := by
  unfold unitData
  repeat' (first
    | with_reducible assumption | intro _ | with_reducible apply hrun | with_reducible apply unitEnd_steady
    | with_reducible apply unitAsk_steady | with_reducible apply unitHostFails_steady | with_reducible apply touch_steady
    | with_reducible apply fillHost_steady | with_reducible apply unitCommit_steady | with_reducible apply vatsFail_steady
    | with_reducible apply Steady.foldl | with_reducible apply Steady.foldl_fst | split | extract_lets | dsimp only
    | refine Steady.of_fst (by with_reducible assumption) ?_ | with_reducible apply Steady.upd)

theorem unitRange_steady {s₀ : State} (u : UnitId) (q : Nat) (op : PlanOp) (phase : Nat) (d : List Byte) {s : State} (hst : Steady s₀ s) :
    Steady s₀ (unitRange u q op phase d s) := by
  unfold unitRange
  repeat' (first
    | with_reducible assumption | intro _ | with_reducible apply unitData_steady | with_reducible apply rcBegin_steady
    | with_reducible apply rcPass_steady | with_reducible apply rcEnd_steady | with_reducible apply rcCheck_steady
    | with_reducible apply rcEncode_steady | with_reducible apply unitNext_steady | split | extract_lets | dsimp only
    | refine Steady.of_fst (by with_reducible assumption) ?_ | with_reducible apply Steady.upd)

theorem flushRecords_steady {s₀ : State} (q n : Nat) {s : State} (hst : Steady s₀ s) : Steady s₀ (flushRecords q n s) := by
  induction n generalizing s with
  | zero => exact hst
  | succ n ih => exact ih (completeOperation_steady q hst)

theorem someSticky_steady {s₀ : State} (bits_ : U32) {s : State} (hst : Steady s₀ s) :
    Steady s₀ (someSticky bits_ s) := by
  unfold someSticky
  repeat' (first
    | with_reducible assumption | split | extract_lets | dsimp only | with_reducible apply Steady.upd)

theorem stopOps_steady {s₀ : State} (q : Nat) (st : Status) {s : State} (hst : Steady s₀ s) :
    Steady s₀ (stopOps q st s) := by
  unfold stopOps
  repeat' (first
    | with_reducible assumption | intro _ | with_reducible apply someSticky_steady | with_reducible apply scramble_steady
    | with_reducible apply freePress_steady | with_reducible apply finishOp_steady | with_reducible apply Steady.foldl
    | with_reducible apply Steady.foldl_fst | split | extract_lets | dsimp only | with_reducible apply Steady.upd)

theorem resetQueueBy_steady {s₀ : State} (stop : State → State) (q : Nat) (st : Status) (after : After) {s : State} (hstop : ∀ {s₀ s}, Steady s₀ s → Steady s₀ (stop s)) (hst : Steady s₀ s) :
    Steady s₀ (resetQueueBy stop q st after s) := by
  unfold resetQueueBy
  repeat' (first
    | with_reducible assumption | intro _ | with_reducible apply hstop | with_reducible apply withdraw_steady
    | with_reducible apply flushRecords_steady | with_reducible apply closeSlots_steady
    | with_reducible apply closeContexts_steady | with_reducible apply stopOps_steady
    | with_reducible apply poisonCounters_steady | with_reducible apply modQ_steady | with_reducible apply stopQueue_steady
    | with_reducible apply retireIndex_steady | with_reducible apply retireCulture_steady | split | extract_lets | dsimp only
    | with_reducible apply Steady.upd)

theorem stopUnits_steady {s₀ : State} {s : State} (hst : Steady s₀ s) :
    Steady s₀ (stopUnits s) := by
  unfold stopUnits
  repeat' (first
    | with_reducible assumption | intro _ | with_reducible apply someSticky_steady | with_reducible apply scramble_steady
    | with_reducible apply Steady.foldl | with_reducible apply Steady.foldl_fst | split | extract_lets | dsimp only
    | with_reducible apply Steady.upd)

theorem endJob_steady {s₀ : State} (st : Status) {s : State} (hst : Steady s₀ s) :
    Steady s₀ (endJob st s) := by
  unfold endJob
  repeat' (first
    | with_reducible assumption | with_reducible apply poolStops_steady | with_reducible apply stopUnits_steady
    | with_reducible apply withdraw_steady | with_reducible apply finishOp_steady | with_reducible apply returnCounters_steady
    | split | extract_lets | dsimp only | with_reducible apply Steady.upd)

theorem resetQueue_steady {s₀ : State} (q : Nat) (st : Status) (after : After) {s : State} (hst : Steady s₀ s) :
    Steady s₀ (resetQueue q st after s) := by
  unfold resetQueue
  repeat' (first
    | with_reducible assumption | intro _ | with_reducible apply resetQueueBy_steady | with_reducible apply endJob_steady | split
    | extract_lets | dsimp only | with_reducible apply Steady.upd)

theorem unitCounter_steady {s₀ : State} (u : UnitId) (op : Nat) (module : Nat) (counter : Nat) (amount : Nat) (phase : Nat) {s : State} (hst : Steady s₀ s) :
    Steady s₀ (unitCounter u op module counter amount phase s) := by
  unfold unitCounter
  repeat' (first
    | with_reducible assumption | with_reducible apply unitNext_steady | with_reducible apply modUnit_steady
    | with_reducible apply unitIssue_steady | with_reducible apply signalCounter_steady | with_reducible apply failSoon_steady
    | with_reducible apply arriveWait_steady | split | extract_lets | dsimp only
    | refine Steady.of_fst (by with_reducible assumption) ?_ | with_reducible apply Steady.upd)

theorem unitChecked_steady {s₀ : State} (q : Nat) (r : UnitRun) (op : PlanOp) (run : Nat → State → State) {s : State}
    (hrun : ∀ {s₀ s} n, Steady s₀ s → Steady s₀ (run n s)) (hst : Steady s₀ s) : Steady s₀ (unitChecked q r op run s) := by
  unfold unitChecked
  extract_lets first second t
  have ht : Steady s₀ t := Steady.foldl (fun _ _ h => touch_steady _ _ _ h) hst
  clear_value first second t
  split
  · exact unitAsk_steady _ _ _ _ _ hst
  split
  · exact unitAsk_steady _ _ _ _ _ hst
  split
  · exact hrun _ hst
  split
  · exact unitNext_steady _ ht
  · exact hrun _ ht

theorem unitTensor_steady {s₀ : State} (u : UnitId) (q : Nat) (op : PlanOp) (phase : Nat) {s : State} (hst : Steady s₀ s) :
    Steady s₀ (unitTensor u q op phase s) := by
  unfold unitTensor
  repeat' (first
    | with_reducible assumption | intro _ | with_reducible apply openSlot_steady | with_reducible apply unitData_steady
    | with_reducible apply viewOf_steady | with_reducible apply unitNext_steady | split | extract_lets | dsimp only
    | refine Steady.of_fst (by with_reducible assumption) ?_ | with_reducible apply Steady.upd)

theorem unitOp_steady {s₀ : State} (q : Nat) (r : UnitRun) (op : PlanOp) {s : State} (hst : Steady s₀ s) :
    Steady s₀ (unitOp q r op s) := by
  unfold unitOp
  repeat' (first
    | with_reducible assumption | intro _ | with_reducible apply unitNext_steady | with_reducible apply unitCounter_steady
    | with_reducible apply unitChecked_steady | with_reducible apply unitRange_steady | with_reducible apply unitTensor_steady
    | split | extract_lets | dsimp only | with_reducible apply Steady.upd)

theorem unitPass_steady {s₀ : State} {s : State} (hst : Steady s₀ s) :
    Steady s₀ (unitPass s) := by
  unfold unitPass
  repeat' (first
    | with_reducible assumption | intro _ | with_reducible apply unitOp_steady | with_reducible apply Steady.foldl
    | with_reducible apply Steady.foldl_fst | split | extract_lets | dsimp only | with_reducible apply Steady.upd)

theorem unitPasses_steady {s₀ : State} (n : Nat) {s : State} (hst : Steady s₀ s) : Steady s₀ (unitPasses n s) := by
  induction n generalizing s with
  | zero => exact hst
  | succ n ih => exact ih (unitPass_steady hst)

theorem wake_steady {s₀ : State} {s : State} (hst : Steady s₀ s) :
    Steady s₀ (wake s) := by
  unfold wake
  repeat' (first
    | with_reducible assumption | with_reducible apply unitPasses_steady | split | extract_lets | dsimp only
    | with_reducible apply Steady.upd)

theorem failJob_steady {s₀ : State} (st : Status) {s : State} (hst : Steady s₀ s) :
    Steady s₀ (failJob st s) := by
  unfold failJob
  repeat' (first
    | with_reducible assumption | with_reducible apply modJob_steady | with_reducible apply stopUnits_steady
    | with_reducible apply withdraw_steady | with_reducible apply retireCulture_steady | with_reducible apply endJob_steady
    | with_reducible apply closeContexts_steady | with_reducible apply poisonCounters_steady | split | extract_lets | dsimp only
    | with_reducible apply Steady.upd)

theorem startJob_steady {s₀ : State} (count : Nat) {s : State} (hst : Steady s₀ s) :
    Steady s₀ (startJob count s) := by
  unfold startJob
  repeat' (first
    | with_reducible assumption | intro _ | with_reducible apply dropRequest_steady | with_reducible apply sendSync_steady
    | with_reducible apply finishOp_steady | with_reducible apply modC_steady | with_reducible apply Steady.foldl
    | with_reducible apply Steady.foldl_fst | split | extract_lets | dsimp only | with_reducible apply Steady.upd)

theorem startJobs_steady {s₀ : State} (count n : Nat) {s : State} (hst : Steady s₀ s) : Steady s₀ (startJobs count n s) := by
  induction n generalizing s with
  | zero => exact hst
  | succ n ih => exact ih (startJob_steady count hst)

theorem replacePlan_steady {s₀ : State} {s : State} (hst : Steady s₀ s) :
    Steady s₀ (replacePlan s) := by
  unfold replacePlan
  repeat' (first
    | with_reducible assumption | with_reducible apply raise_steady | with_reducible apply modJob_steady | split | extract_lets
    | dsimp only | with_reducible apply Steady.upd)

theorem completeJob_steady {s₀ : State} {s : State} (hst : Steady s₀ s) :
    Steady s₀ (completeJob s) := by
  unfold completeJob
  repeat' (first
    | with_reducible assumption | intro _ | with_reducible apply raise_steady | with_reducible apply endJob_steady
    | with_reducible apply Steady.foldl | with_reducible apply Steady.foldl_fst | split | extract_lets | dsimp only
    | with_reducible apply Steady.upd)

theorem advanceJob_steady {s₀ : State} {s : State} (hst : Steady s₀ s) :
    Steady s₀ (advanceJob s) := by
  unfold advanceJob
  repeat' (first
    | with_reducible assumption | with_reducible apply completeJob_steady | with_reducible apply modJob_steady | split
    | extract_lets | dsimp only | with_reducible apply Steady.upd)

theorem startStep_steady {s₀ : State} {s : State} (hst : Steady s₀ s) :
    Steady s₀ (startStep s) := by
  unfold startStep
  repeat' (first
    | with_reducible assumption | with_reducible apply wake_steady | with_reducible apply modJob_steady | split | extract_lets
    | dsimp only | with_reducible apply Steady.upd)

theorem preemptJob_steady {s₀ : State} (st : Status) {s : State} (hst : Steady s₀ s) :
    Steady s₀ (preemptJob st s) := by
  unfold preemptJob
  repeat' (first
    | with_reducible assumption | with_reducible apply resetQueue_steady | with_reducible apply endJob_steady
    | with_reducible apply closeContexts_steady | with_reducible apply poisonCounters_steady | split | extract_lets | dsimp only
    | with_reducible apply Steady.upd)

theorem deferAbsent_steady {s₀ : State} (planSet : Nat) (start : Nat) {s : State} (hst : Steady s₀ s) :
    Steady s₀ (deferAbsent planSet start s) := by
  unfold deferAbsent
  repeat' (first
    | with_reducible assumption | split | extract_lets | dsimp only | with_reducible apply Steady.upd)

theorem deferUnadmitted_steady {s₀ : State} (count : Nat) {s : State} (hst : Steady s₀ s) :
    Steady s₀ (deferUnadmitted count s) := by
  unfold deferUnadmitted
  repeat' (first
    | with_reducible assumption | intro _ | with_reducible apply sendSync_steady | with_reducible apply deferAbsent_steady
    | with_reducible apply Steady.foldl | with_reducible apply Steady.foldl_fst | split | extract_lets | dsimp only
    | with_reducible apply Steady.upd)

theorem deferStarts_steady {s₀ : State} (count : Nat) {s : State} (hst : Steady s₀ s) :
    Steady s₀ (deferStarts count s) := by
  unfold deferStarts
  repeat' (first
    | with_reducible assumption | intro _ | with_reducible apply sendSync_steady | with_reducible apply Steady.foldl
    | with_reducible apply Steady.foldl_fst | split | extract_lets | dsimp only | with_reducible apply Steady.upd)

theorem changeJob_steady {s₀ : State} (count : Nat) {s : State} (hst : Steady s₀ s) :
    Steady s₀ (changeJob count s) := by
  unfold changeJob
  repeat' (first
    | with_reducible assumption | with_reducible apply failJob_steady | with_reducible apply advanceJob_steady
    | with_reducible apply modJob_steady | with_reducible apply preemptJob_steady | with_reducible apply replacePlan_steady
    | with_reducible apply deferUnadmitted_steady | with_reducible apply deferStarts_steady
    | with_reducible apply startJobs_steady | split | extract_lets | dsimp only | with_reducible apply Steady.upd)

end Sys2Proof.Machine
end

