-- ==== Sys2Proof/Laws/SteadyPower.lean ====
section
/-!
SUPPORT. The operations of Machine/Power.lean are steady: fuses go one way, the command queue stays, memory stays canonical.
-/

namespace Sys2Proof.Machine

open Sys2Proof.Safety

set_option linter.unusedTactic false
set_option linter.unreachableTactic false

theorem regulatorFault_steady {s₀ : State} (rail : Nat) (severity : Nat) (word : Nat) {s : State} (hst : Steady s₀ s) :
    Steady s₀ (regulatorFault rail severity word s) := by
  unfold regulatorFault
  repeat' (first
    | with_reducible assumption | with_reducible apply errRecord_steady | split | extract_lets | dsimp only
    | with_reducible apply Steady.upd)

theorem hPowerLimits_steady {s₀ : State} (a : Cmd) {s : State} (hst : Steady s₀ s) :
    Steady s₀ (hPowerLimits a s).state := by
  unfold hPowerLimits
  repeat' (first
    | with_reducible assumption | split | extract_lets | dsimp only | dsimp only [deny, HRes.state]
    | with_reducible apply Steady.upd)

theorem modPower_steady {s₀ : State} (f : Power → Power) {s : State} (hst : Steady s₀ s) :
    Steady s₀ (modPower f s) := by
  unfold modPower
  repeat' (first
    | with_reducible assumption | split | extract_lets | dsimp only | with_reducible apply Steady.upd)

theorem setPowerState_steady {s₀ : State} (n : Nat) {s : State} (hst : Steady s₀ s) :
    Steady s₀ (setPowerState n s) := by
  unfold setPowerState
  repeat' (first
    | with_reducible assumption | with_reducible apply modPower_steady | with_reducible apply raise_steady | split | extract_lets
    | dsimp only | with_reducible apply Steady.upd)

theorem exitA3_steady {s₀ : State} {s : State} (hst : Steady s₀ s) :
    Steady s₀ (exitA3 s) := by
  unfold exitA3
  repeat' (first
    | with_reducible assumption | with_reducible apply setPowerState_steady | with_reducible apply emit_steady
    | with_reducible apply raise_steady | split | extract_lets | dsimp only | with_reducible apply Steady.upd)

theorem a3Commands_steady {s₀ : State} {s : State} (hst : Steady s₀ s) :
    Steady s₀ (a3Commands s) := by
  unfold a3Commands
  repeat' (first
    | with_reducible assumption | intro _ | with_reducible apply finishCmd_steady | with_reducible apply settleForward_steady
    | with_reducible apply Steady.foldl | with_reducible apply Steady.foldl_fst | split | extract_lets | dsimp only
    | with_reducible apply Steady.upd)

theorem enterA3_steady {s₀ : State} {s : State} (hst : Steady s₀ s) : Steady s₀ (enterA3 s) := by
  unfold enterA3
  have h := a3Commands_steady hst
  generalize a3Commands s = u at h ⊢
  with_reducible apply setPowerState_steady
  with_reducible apply emitAll_steady
  exact Steady.of_reset h rfl rfl rfl rfl

theorem hPowerState_steady {s₀ : State} (a : Cmd) {s : State} (hst : Steady s₀ s) :
    Steady s₀ (hPowerState a s).state := by
  unfold hPowerState
  repeat' (first
    | with_reducible assumption | with_reducible apply exitA3_steady | with_reducible apply setPowerState_steady
    | with_reducible apply modPower_steady | with_reducible apply enterA3_steady | split | extract_lets | dsimp only
    | dsimp only [deny, HRes.state] | with_reducible apply Steady.upd)

theorem addBelow_steady {s₀ : State} (now : Nat) {s : State} (hst : Steady s₀ s) :
    Steady s₀ (addBelow now s) := by
  unfold addBelow
  repeat' (first
    | with_reducible assumption | with_reducible apply modPower_steady | split | extract_lets | dsimp only
    | with_reducible apply Steady.upd)

theorem lowerPoint_steady {s₀ : State} (pt : Nat) (reason : Nat) (now : Nat) {s : State} (hst : Steady s₀ s) :
    Steady s₀ (lowerPoint pt reason now s) := by
  unfold lowerPoint
  repeat' (first
    | with_reducible assumption | with_reducible apply addBelow_steady | with_reducible apply modPower_steady | split
    | extract_lets | dsimp only | with_reducible apply Steady.upd)

theorem thermalStep_steady {s₀ : State} {s : State} (hst : Steady s₀ s) :
    Steady s₀ (thermalStep s) := by
  unfold thermalStep
  repeat' (first
    | with_reducible assumption | with_reducible apply lowerPoint_steady | split | extract_lets | dsimp only
    | with_reducible apply Steady.upd)

theorem atTime_steady {s₀ : State} (now : Nat) {s : State} (hst : Steady s₀ s) :
    Steady s₀ (atTime now s) := by
  unfold atTime
  repeat' (first
    | with_reducible assumption | split | extract_lets | dsimp only | with_reducible apply Steady.upd)

theorem giveGrant_steady {s₀ : State} (eff : Nat) (g : Nat × Nat) {s : State} (hst : Steady s₀ s) :
    Steady s₀ (giveGrant eff g s) := by
  unfold giveGrant
  repeat' (first
    | with_reducible assumption | with_reducible apply modPower_steady | with_reducible apply emit_steady | split | extract_lets
    | dsimp only | with_reducible apply Steady.upd)

theorem endStretch_steady {s₀ : State} (domain : Nat) (now : Nat) {s : State} (hst : Steady s₀ s) :
    Steady s₀ (endStretch domain now s) := by
  unfold endStretch
  repeat' (first
    | with_reducible assumption | with_reducible apply modPower_steady | with_reducible apply atTime_steady | split
    | extract_lets | dsimp only | with_reducible apply Steady.upd)

theorem leadRound_steady {s₀ : State} {s : State} (hst : Steady s₀ s) :
    Steady s₀ (leadRound s) := by
  unfold leadRound
  repeat' (first
    | with_reducible assumption | intro _ | with_reducible apply giveGrant_steady | with_reducible apply modPower_steady
    | with_reducible apply Steady.foldl | with_reducible apply Steady.foldl_fst | split | extract_lets | dsimp only
    | with_reducible apply Steady.upd)

theorem sendIncreases_steady {s₀ : State} {s : State} (hst : Steady s₀ s) :
    Steady s₀ (sendIncreases s) := by
  unfold sendIncreases
  repeat' (first
    | with_reducible assumption | intro _ | with_reducible apply giveGrant_steady | with_reducible apply modPower_steady
    | with_reducible apply Steady.foldl | with_reducible apply Steady.foldl_fst | split | extract_lets | dsimp only
    | with_reducible apply Steady.upd)

theorem throttleRecord_steady {s₀ : State} (r : ThrRun) {s : State} (hst : Steady s₀ s) :
    Steady s₀ (throttleRecord r s) := by
  unfold throttleRecord
  repeat' (first
    | with_reducible assumption | with_reducible apply raise_steady | split | extract_lets | dsimp only
    | with_reducible apply Steady.upd)

theorem noteTick_steady {s₀ : State} (t : ThrRun) {s : State} (hst : Steady s₀ s) :
    Steady s₀ (noteTick t s) := by
  unfold noteTick
  repeat' (first
    | with_reducible assumption | with_reducible apply modPower_steady | with_reducible apply throttleRecord_steady | split
    | extract_lets | dsimp only | with_reducible apply Steady.upd)

theorem loseLead_steady {s₀ : State} {s : State} (hst : Steady s₀ s) :
    Steady s₀ (loseLead s) := by
  unfold loseLead
  repeat' (first
    | with_reducible assumption | with_reducible apply modPower_steady | with_reducible apply raise_steady | split | extract_lets
    | dsimp only | with_reducible apply Steady.upd)

theorem silentDevices_steady {s₀ : State} (answers : List (Option Nat)) {s : State} (hst : Steady s₀ s) :
    Steady s₀ (silentDevices answers s) := by
  unfold silentDevices
  repeat' (first
    | with_reducible assumption | intro _ | with_reducible apply regulatorFault_steady | with_reducible apply Steady.foldl
    | with_reducible apply Steady.foldl_fst | split | extract_lets | dsimp only | with_reducible apply Steady.upd)

theorem enterA2_steady {s₀ : State} {s : State} (hst : Steady s₀ s) :
    Steady s₀ (enterA2 s) := by
  unfold enterA2
  repeat' (first
    | with_reducible assumption | with_reducible apply setPowerState_steady | with_reducible apply gateVats_steady
    | with_reducible apply modPower_steady | split | extract_lets | dsimp only | with_reducible apply Steady.upd)

theorem thermalTrip_steady {s₀ : State} (r : Reading) {s : State} (hst : Steady s₀ s) :
    Steady s₀ (thermalTrip r s) := by
  unfold thermalTrip
  repeat' (first
    | with_reducible assumption | intro _ | with_reducible apply raise_steady | with_reducible apply lowerPoint_steady
    | with_reducible apply resetQueue_steady | with_reducible apply finishCmd_steady | with_reducible apply endTurn_steady
    | with_reducible apply enterA3_steady | with_reducible apply Steady.foldl | with_reducible apply Steady.foldl_fst | split
    | extract_lets | dsimp only | with_reducible apply Steady.upd)

theorem readSensors_steady {s₀ : State} (rs : List Reading) {s : State} (hst : Steady s₀ s) :
    Steady s₀ (readSensors rs s) := by
  unfold readSensors
  repeat' (first
    | with_reducible assumption | with_reducible apply modPower_steady | with_reducible apply thermalTrip_steady
    | with_reducible apply raise_steady | split | extract_lets | dsimp only | with_reducible apply Steady.upd)

theorem endDroop_steady {s₀ : State} (domain : Nat) {s : State} (hst : Steady s₀ s) :
    Steady s₀ (endDroop domain s) := by
  unfold endDroop
  repeat' (first
    | with_reducible assumption | with_reducible apply modPower_steady | split | extract_lets | dsimp only
    | with_reducible apply Steady.upd)

theorem leaveD3_steady {s₀ : State} {s : State} (hst : Steady s₀ s) :
    Steady s₀ (leaveD3 s) := by
  unfold leaveD3
  repeat' (first
    | with_reducible assumption | with_reducible apply modPower_steady | with_reducible apply setPowerState_steady | split
    | extract_lets | dsimp only | with_reducible apply Steady.upd)

theorem applyLimits_steady {s₀ : State} (count : Nat) {s : State} (hst : Steady s₀ s) :
    Steady s₀ (applyLimits count s) := by
  unfold applyLimits
  repeat' (first
    | with_reducible assumption | with_reducible apply modPower_steady | split | extract_lets | dsimp only
    | with_reducible apply Steady.upd)

theorem deassertAlert_steady {s₀ : State} (now : Nat) {s : State} (hst : Steady s₀ s) :
    Steady s₀ (deassertAlert now s) := by
  unfold deassertAlert
  repeat' (first
    | with_reducible assumption | with_reducible apply raise_steady | with_reducible apply modPower_steady
    | with_reducible apply atTime_steady | split | extract_lets | dsimp only | with_reducible apply Steady.upd)

theorem addLost_steady {s₀ : State} (reason : Nat) (ns : Nat) {s : State} (hst : Steady s₀ s) :
    Steady s₀ (addLost reason ns s) := by
  unfold addLost
  repeat' (first
    | with_reducible assumption | with_reducible apply modPower_steady | split | extract_lets | dsimp only
    | with_reducible apply Steady.upd)

theorem splitStretches_steady {s₀ : State} (now : Nat) {s : State} (hst : Steady s₀ s) :
    Steady s₀ (splitStretches now s) := by
  unfold splitStretches
  repeat' (first
    | with_reducible assumption | with_reducible apply modPower_steady | split | extract_lets | dsimp only
    | with_reducible apply Steady.upd)

theorem applyGrant_steady {s₀ : State} (count : Nat) {s : State} (hst : Steady s₀ s) :
    Steady s₀ (applyGrant count s) := by
  unfold applyGrant
  repeat' (first
    | with_reducible assumption | with_reducible apply modPower_steady | split | extract_lets | dsimp only
    | with_reducible apply Steady.upd)

theorem restoreGrant_steady {s₀ : State} {s : State} (hst : Steady s₀ s) :
    Steady s₀ (restoreGrant s) := by
  unfold restoreGrant
  repeat' (first
    | with_reducible assumption | with_reducible apply modPower_steady | split | extract_lets | dsimp only
    | with_reducible apply Steady.upd)

theorem takeGrant_steady {s₀ : State} (watts : Nat) (effective : Nat) {s : State} (hst : Steady s₀ s) :
    Steady s₀ (takeGrant watts effective s) := by
  unfold takeGrant
  repeat' (first
    | with_reducible assumption | with_reducible apply emit_steady | with_reducible apply modPower_steady | split | extract_lets
    | dsimp only | with_reducible apply Steady.upd)

theorem tripDroop_steady {s₀ : State} (domain : Nat) (now : Nat) {s : State} (hst : Steady s₀ s) :
    Steady s₀ (tripDroop domain now s) := by
  unfold tripDroop
  repeat' (first
    | with_reducible assumption | with_reducible apply modPower_steady | with_reducible apply atTime_steady | split
    | extract_lets | dsimp only | with_reducible apply Steady.upd)

theorem assertAlert_steady {s₀ : State} (now : Nat) (words : List (Option Nat)) {s : State} (hst : Steady s₀ s) :
    Steady s₀ (assertAlert now words s) := by
  unfold assertAlert
  repeat' (first
    | with_reducible assumption | with_reducible apply silentDevices_steady | with_reducible apply atTime_steady
    | with_reducible apply raise_steady | with_reducible apply lowerPoint_steady | with_reducible apply modPower_steady | split
    | extract_lets | dsimp only | with_reducible apply Steady.upd)

theorem endAlertHold_steady {s₀ : State} {s : State} (hst : Steady s₀ s) :
    Steady s₀ (endAlertHold s) := by
  unfold endAlertHold
  repeat' (first
    | with_reducible assumption | with_reducible apply modPower_steady | split | extract_lets | dsimp only
    | with_reducible apply Steady.upd)

theorem compareEstimate_steady {s₀ : State} (estimateW : Nat) (poutW : List (Option Nat)) {s : State} (hst : Steady s₀ s) :
    Steady s₀ (compareEstimate estimateW poutW s) := by
  unfold compareEstimate
  repeat' (first
    | with_reducible assumption | with_reducible apply silentDevices_steady | with_reducible apply raise_steady
    | with_reducible apply modPower_steady | split | extract_lets | dsimp only | with_reducible apply Steady.upd)

theorem notePower_steady {s₀ : State} (estimateMw : Nat) (avg1ms : Nat) (avg1s : Nat) (queueUj : List (Nat × Nat)) (projected : List Nat) {s : State} (hst : Steady s₀ s) :
    Steady s₀ (notePower estimateMw avg1ms avg1s queueUj projected s) := by
  unfold notePower
  repeat' (first
    | with_reducible assumption | intro _ | with_reducible apply modPower_steady | with_reducible apply modQ_steady
    | with_reducible apply lowerPoint_steady | with_reducible apply Steady.foldl | with_reducible apply Steady.foldl_fst | split
    | extract_lets | dsimp only | with_reducible apply Steady.upd)

theorem takeAck_steady {s₀ : State} (src : Nat) {s : State} (hst : Steady s₀ s) :
    Steady s₀ (takeAck src s) := by
  unfold takeAck
  repeat' (first
    | with_reducible assumption | with_reducible apply sendIncreases_steady | with_reducible apply modPower_steady | split
    | extract_lets | dsimp only | with_reducible apply Steady.upd)

theorem enterD3_steady {s₀ : State} {s : State} (hst : Steady s₀ s) :
    Steady s₀ (enterD3 s) := by
  unfold enterD3
  repeat' (first
    | with_reducible assumption | with_reducible apply modPower_steady | split | extract_lets | dsimp only
    | with_reducible apply Steady.upd)

theorem noteReport_steady {s₀ : State} (r : BudgetReport) {s : State} (hst : Steady s₀ s) :
    Steady s₀ (noteReport r s) := by
  unfold noteReport
  repeat' (first
    | with_reducible assumption | with_reducible apply sendIncreases_steady | with_reducible apply leadRound_steady
    | with_reducible apply modPower_steady | split | extract_lets | dsimp only | with_reducible apply Steady.upd)

theorem budgetRound_steady {s₀ : State} (averageW : Nat) (slackMilli : Nat) (forced : Bool) {s : State} (hst : Steady s₀ s) :
    Steady s₀ (budgetRound averageW slackMilli forced s) := by
  unfold budgetRound
  repeat' (first
    | with_reducible assumption | with_reducible apply noteReport_steady | with_reducible apply emit_steady | split
    | extract_lets | dsimp only | with_reducible apply Steady.upd)

end Sys2Proof.Machine
end

