-- ==== Sys2Proof/Laws/SteadyFabric.lean ====
section
/-!
SUPPORT. The operations of Machine/Fabric.lean are steady: fuses go one way, the command queue stays, memory stays canonical.
-/

namespace Sys2Proof.Machine

open Sys2Proof.Safety

set_option linter.unusedTactic false
set_option linter.unreachableTactic false

theorem cacheAnswer_steady {s₀ : State} (r : OutReq) (st : Status) {s : State} (hst : Steady s₀ s) :
    Steady s₀ (cacheAnswer r st s) := by
  unfold cacheAnswer
  repeat' (first
    | with_reducible assumption | with_reducible apply fillLines_steady | split | extract_lets | dsimp only
    | with_reducible apply Steady.upd)

theorem unitAnswered_steady {s₀ : State} (r : OutReq) (st : Status) (u : UnitId) {s : State} (hst : Steady s₀ s) :
    Steady s₀ (unitAnswered r st u s) := by
  unfold unitAnswered
  repeat' (first
    | with_reducible assumption | with_reducible apply failSoon_steady | with_reducible apply modUnit_steady | split
    | extract_lets | dsimp only | with_reducible apply Steady.upd)

theorem modPort_steady {s₀ : State} (p : Nat) (f : Port → Port) {s : State} (hst : Steady s₀ s) :
    Steady s₀ (modPort p f s) := by
  unfold modPort
  repeat' (first
    | with_reducible assumption | split | extract_lets | dsimp only | with_reducible apply Steady.upd)

theorem noteSync_steady {s₀ : State} (src : Nat) (id : Nat) {s : State} (hst : Steady s₀ s) :
    Steady s₀ (noteSync src id s) := by
  unfold noteSync
  repeat' (first
    | with_reducible assumption | split | extract_lets | dsimp only | with_reducible apply Steady.upd)

theorem commandAnswered_steady {s₀ : State} (r : OutReq) (st : Status) {s : State} (hst : Steady s₀ s) :
    Steady s₀ (commandAnswered r st s) := by
  unfold commandAnswered
  repeat' (first
    | with_reducible assumption | split | extract_lets | dsimp only | with_reducible apply Steady.upd)

theorem opGoesOn_steady {s₀ : State} (q : Nat) (idx : U32) (r : OutReq) (o : Op) {s : State} (hst : Steady s₀ s) :
    Steady s₀ (opGoesOn q idx r o s) := by
  unfold opGoesOn
  repeat' (first
    | with_reducible assumption | with_reducible apply modOp_steady | with_reducible apply sampleAdvance_steady
    | with_reducible apply sampleVisible_steady | with_reducible apply sampleFails_steady
    | with_reducible apply encodeEnds_steady | with_reducible apply awaitOrEnd_steady | with_reducible apply pressEnd_steady
    | with_reducible apply finishOp_steady | with_reducible apply stopQueue_steady | split | extract_lets | dsimp only
    | with_reducible apply Steady.upd)

theorem opAnswered_steady {s₀ : State} (r : OutReq) (st : Status) (q : Nat) (idx : U32) {s : State} (hst : Steady s₀ s) :
    Steady s₀ (opAnswered r st q idx s) := by
  unfold opAnswered
  repeat' (first
    | with_reducible assumption | with_reducible apply sampleAdvance_steady | with_reducible apply modRun_steady
    | with_reducible apply modOp_steady | with_reducible apply opGoesOn_steady | split | extract_lets | dsimp only
    | with_reducible apply Steady.upd)

theorem headAnswered_steady {s₀ : State} (r : OutReq) (st : Status) {s : State} (hst : Steady s₀ s) :
    Steady s₀ (headAnswered r st s) := by
  unfold headAnswered
  repeat' (first
    | with_reducible assumption | with_reducible apply modQ_steady | split | extract_lets | dsimp only
    | with_reducible apply Steady.upd)

theorem answered_steady {s₀ : State} (r : OutReq) (st : Status) {s : State} (hst : Steady s₀ s) :
    Steady s₀ (answered r st s) := by
  unfold answered
  repeat' (first
    | with_reducible assumption | intro _ | with_reducible apply cacheAnswer_steady | with_reducible apply commandAnswered_steady
    | with_reducible apply opAnswered_steady | with_reducible apply unitAnswered_steady | with_reducible apply wake_steady
    | with_reducible apply headAnswered_steady | with_reducible apply Steady.foldl | with_reducible apply Steady.foldl_fst
    | split | extract_lets | dsimp only | with_reducible apply Steady.upd)

theorem takeCompletion_steady {s₀ : State} (src : Nat) (txid : Nat) (st : Status) {s : State} (hst : Steady s₀ s) :
    Steady s₀ (takeCompletion src txid st s) := by
  unfold takeCompletion
  repeat' (first
    | with_reducible assumption | with_reducible apply answered_steady | split | extract_lets | dsimp only
    | with_reducible apply Steady.upd)

theorem joinModule_steady {s₀ : State} (m : Nat) {s : State} (hst : Steady s₀ s) :
    Steady s₀ (joinModule m s) := by
  unfold joinModule
  repeat' (first
    | with_reducible assumption | with_reducible apply raise_steady | split | extract_lets | dsimp only
    | with_reducible apply Steady.upd)

theorem setSvcState_steady {s₀ : State} (u : UnitId) (st : Nat) {s : State} (hst : Steady s₀ s) :
    Steady s₀ (setSvcState u st s) := by
  unfold setSvcState
  repeat' (first
    | with_reducible assumption | with_reducible apply raise_steady | with_reducible apply setSvc_steady | split | extract_lets
    | dsimp only | with_reducible apply Steady.upd)

theorem serveOnce_steady {s₀ : State} (kind : Nat) (light : Bool) (m : Txn) (run : State → State × Option (Status × List Byte × List Nat)) {s : State} (hrun : ∀ {s₀ s}, Steady s₀ s → Steady s₀ (run s).1) (hst : Steady s₀ s) :
    Steady s₀ (serveOnce kind light m run s) := by
  unfold serveOnce
  repeat' (first
    | with_reducible assumption | intro _ | with_reducible apply hrun | with_reducible apply emit_steady
    | with_reducible apply wake_steady | split | extract_lets | dsimp only
    | refine Steady.of_fst (by with_reducible assumption) ?_ | with_reducible apply Steady.upd)

theorem serveCounter_steady {s₀ : State} (m : Txn) (operation : Nat) {s : State} (hst : Steady s₀ s) :
    Steady s₀ (serveCounter m operation s) := by
  unfold serveCounter
  repeat' (first
    | with_reducible assumption | intro _ | with_reducible apply serveOnce_steady | with_reducible apply remoteCounterOp_steady
    | split | extract_lets | dsimp only | refine Steady.of_fst (by with_reducible assumption) ?_
    | with_reducible apply Steady.upd)

theorem postOne_steady {s₀ : State} {s : State} (m : Nat × Nat × Nat) (hst : Steady s₀ s) :
    Steady s₀ (postOne s m) := by
  unfold postOne
  repeat' (first
    | with_reducible assumption | with_reducible apply modPort_steady | split | extract_lets | dsimp only
    | with_reducible apply Steady.upd)

theorem pump_steady {s₀ : State} {s : State} (hst : Steady s₀ s) :
    Steady s₀ (pump s) := by
  unfold pump
  repeat' (first
    | with_reducible assumption | intro _ | with_reducible apply postOne_steady | with_reducible apply Steady.foldl
    | with_reducible apply Steady.foldl_fst | split | extract_lets | dsimp only | with_reducible apply Steady.upd)

theorem reissue_steady {s₀ : State} (d : Nat) {s : State} (hst : Steady s₀ s) :
    Steady s₀ (reissue d s) := by
  unfold reissue
  repeat' (first
    | with_reducible assumption | intro _ | with_reducible apply emit_steady | with_reducible apply Steady.foldl
    | with_reducible apply Steady.foldl_fst | split | extract_lets | dsimp only | with_reducible apply Steady.upd)

theorem reroute_steady {s₀ : State} (back : Bool) (change : State → State) {s : State} (hchange : ∀ {s₀ s}, Steady s₀ s → Steady s₀ (change s)) (hst : Steady s₀ s) :
    Steady s₀ (reroute back change s) := by
  unfold reroute
  repeat' (first
    | with_reducible assumption | intro _ | with_reducible apply hchange | with_reducible apply pump_steady
    | with_reducible apply reissue_steady | with_reducible apply raise_steady | with_reducible apply Steady.foldl
    | with_reducible apply Steady.foldl_fst | split | extract_lets | dsimp only | with_reducible apply Steady.upd)

theorem sendReach_steady {s₀ : State} (removed : Bool) {s : State} (hst : Steady s₀ s) :
    Steady s₀ (sendReach removed s) := by
  unfold sendReach
  repeat' (first
    | with_reducible assumption | with_reducible apply emit_steady | split | extract_lets | dsimp only
    | with_reducible apply Steady.upd)

theorem portDown_steady {s₀ : State} (p : Nat) (cause : Nat) {s : State} (hst : Steady s₀ s) :
    Steady s₀ (portDown p cause s) := by
  unfold portDown
  repeat' (first
    | with_reducible assumption | intro _ | with_reducible apply reroute_steady | with_reducible apply modPort_steady
    | with_reducible apply emit_steady | with_reducible apply sendReach_steady | with_reducible apply raise_steady | split
    | extract_lets | dsimp only | with_reducible apply Steady.upd)

theorem loseRequest_steady {s₀ : State} (st : Status) (r : OutReq) {s : State} (hst : Steady s₀ s) :
    Steady s₀ (loseRequest st r s) := by
  unfold loseRequest
  repeat' (first
    | with_reducible assumption | intro _ | with_reducible apply scramble_steady | with_reducible apply answered_steady
    | with_reducible apply Steady.foldl | with_reducible apply Steady.foldl_fst | split | extract_lets | dsimp only
    | with_reducible apply Steady.upd)

theorem receiveMgmt_steady {s₀ : State} (a : MgmtAuth) (k : State → State) {s : State} (hk : ∀ {s₀ s}, Steady s₀ s → Steady s₀ (k s)) (hst : Steady s₀ s) :
    Steady s₀ (receiveMgmt a k s) := by
  unfold receiveMgmt
  repeat' (first
    | with_reducible assumption | intro _ | with_reducible apply hk | with_reducible apply modPort_steady
    | with_reducible apply portDown_steady | with_reducible apply raise_steady | split | extract_lets | dsimp only
    | with_reducible apply Steady.upd)

theorem replayFrom_steady {s₀ : State} (p : Nat) (seq : Nat) {s : State} (hst : Steady s₀ s) :
    Steady s₀ (replayFrom p seq s) := by
  unfold replayFrom
  repeat' (first
    | with_reducible assumption | with_reducible apply portDown_steady | with_reducible apply emit_steady
    | with_reducible apply modPort_steady | split | extract_lets | dsimp only | with_reducible apply Steady.upd)

theorem takeNak_steady {s₀ : State} (p : Nat) (seq : Nat) {s : State} (hst : Steady s₀ s) :
    Steady s₀ (takeNak p seq s) := by
  unfold takeNak
  repeat' (first
    | with_reducible assumption | with_reducible apply pump_steady | with_reducible apply modPort_steady
    | with_reducible apply replayFrom_steady | split | extract_lets | dsimp only | with_reducible apply Steady.upd)

theorem peerFails_steady {s₀ : State} (p : Nat) (reason : Nat) {s : State} (hst : Steady s₀ s) :
    Steady s₀ (peerFails p reason s) := by
  unfold peerFails
  repeat' (first
    | with_reducible assumption | with_reducible apply raise_steady | with_reducible apply modPort_steady | split | extract_lets
    | dsimp only | with_reducible apply Steady.upd)

theorem discardFlit_steady {s₀ : State} (p : Nat) {s : State} (hst : Steady s₀ s) :
    Steady s₀ (discardFlit p s) := by
  unfold discardFlit
  repeat' (first
    | with_reducible assumption | with_reducible apply emit_steady | with_reducible apply modPort_steady | split | extract_lets
    | dsimp only | with_reducible apply Steady.upd)

theorem restoreRoutes_steady {s₀ : State} {s : State} (hst : Steady s₀ s) :
    Steady s₀ (restoreRoutes s) := by
  unfold restoreRoutes
  repeat' (first
    | with_reducible assumption | intro _ | with_reducible apply flushEvents_steady | with_reducible apply reroute_steady | split
    | extract_lets | dsimp only | with_reducible apply Steady.upd)

theorem portComesUp_steady {s₀ : State} (p : Nat) (tx : List Byte) (rx : List Byte) {s : State} (hst : Steady s₀ s) :
    Steady s₀ (portComesUp p tx rx s) := by
  unfold portComesUp
  repeat' (first
    | with_reducible assumption | with_reducible apply modPort_steady | with_reducible apply raise_steady
    | with_reducible apply sendReach_steady | with_reducible apply joinModule_steady | split | extract_lets | dsimp only
    | with_reducible apply Steady.upd)

theorem linkOffered_steady {s₀ : State} (p : Nat) (m : LinkAuth) {s : State} (hst : Steady s₀ s) :
    Steady s₀ (linkOffered p m s) := by
  unfold linkOffered
  repeat' (first
    | with_reducible assumption | with_reducible apply peerFails_steady | with_reducible apply portComesUp_steady
    | with_reducible apply emit_steady | split | extract_lets | dsimp only | with_reducible apply Steady.upd)

theorem retrainFails_steady {s₀ : State} (p : Nat) {s : State} (hst : Steady s₀ s) :
    Steady s₀ (retrainFails p s) := by
  unfold retrainFails
  repeat' (first
    | with_reducible assumption | with_reducible apply modPort_steady | with_reducible apply setSvcState_steady
    | with_reducible apply raise_steady | with_reducible apply emit_steady | split | extract_lets | dsimp only
    | with_reducible apply Steady.upd)

theorem linkReplied_steady {s₀ : State} (p : Nat) (m : LinkAuth) {s : State} (hst : Steady s₀ s) :
    Steady s₀ (linkReplied p m s) := by
  unfold linkReplied
  repeat' (first
    | with_reducible assumption | with_reducible apply peerFails_steady | with_reducible apply portComesUp_steady | split
    | extract_lets | dsimp only | with_reducible apply Steady.upd)

theorem replayTimedOut_steady {s₀ : State} (p : Nat) {s : State} (hst : Steady s₀ s) :
    Steady s₀ (replayTimedOut p s) := by
  unfold replayTimedOut
  repeat' (first
    | with_reducible assumption | with_reducible apply pump_steady | with_reducible apply replayFrom_steady | split
    | extract_lets | dsimp only | with_reducible apply Steady.upd)

theorem loseModule_steady {s₀ : State} (m : Nat) (cause : Nat) {s : State} (hst : Steady s₀ s) :
    Steady s₀ (loseModule m cause s) := by
  unfold loseModule
  repeat' (first
    | with_reducible assumption | intro _ | with_reducible apply loseRequest_steady | with_reducible apply withdraw_steady
    | with_reducible apply failSoon_steady | with_reducible apply settleForward_steady | with_reducible apply raise_steady
    | with_reducible apply wake_steady | with_reducible apply Steady.foldl | with_reducible apply Steady.foldl_fst | split
    | extract_lets | dsimp only | with_reducible apply Steady.upd)

theorem noRouteFor_steady {s₀ : State} (m : Nat) {s : State} (hst : Steady s₀ s) :
    Steady s₀ (noRouteFor m s) := by
  unfold noRouteFor
  repeat' (first
    | with_reducible assumption | with_reducible apply loseModule_steady | split | extract_lets | dsimp only
    | with_reducible apply Steady.upd)

theorem forwardFlit_steady {s₀ : State} (d : Nat) (vc : Nat) {s : State} (hst : Steady s₀ s) :
    Steady s₀ (forwardFlit d vc s) := by
  unfold forwardFlit
  repeat' (first
    | with_reducible assumption | with_reducible apply modPort_steady | split | extract_lets | dsimp only
    | with_reducible apply Steady.upd)

theorem takeFlit_steady {s₀ : State} (p : Nat) (bytes : List Byte) (fecCorrected : Nat) (fecUncorrectable : Nat) {s : State} (hst : Steady s₀ s) :
    Steady s₀ (takeFlit p bytes fecCorrected fecUncorrectable s) := by
  unfold takeFlit
  repeat' (first
    | with_reducible assumption | with_reducible apply modPort_steady | with_reducible apply pump_steady
    | with_reducible apply discardFlit_steady | with_reducible apply portDown_steady | with_reducible apply forwardFlit_steady
    | split | extract_lets | dsimp only | with_reducible apply Steady.upd)

theorem serveRead_steady {s₀ : State} (limit : Nat) (m : Txn) {s : State} (hst : Steady s₀ s) :
    Steady s₀ (serveRead limit m s) := by
  unfold serveRead
  repeat' (first
    | with_reducible assumption | intro _ | with_reducible apply serveOnce_steady | with_reducible apply touchHbm_steady | split
    | extract_lets | dsimp only | refine Steady.of_fst (by with_reducible assumption) ?_ | with_reducible apply Steady.upd
    | with_reducible apply Steady.upd_write | with_reducible apply Steady.upd_drop | with_reducible apply Steady.upd_over)

theorem noteIncarnation_steady {s₀ : State} (m : Nat) (inc : Nat) {s : State} (hst : Steady s₀ s) :
    Steady s₀ (noteIncarnation m inc s).1 := by
  unfold noteIncarnation
  repeat' (first
    | with_reducible assumption | with_reducible apply loseModule_steady | split | extract_lets | dsimp only
    | with_reducible apply Steady.upd)

theorem portTrained_steady {s₀ : State} (p : Nat) (t : Training) {s : State} (hst : Steady s₀ s) :
    Steady s₀ (portTrained p t s) := by
  unfold portTrained
  repeat' (first
    | with_reducible assumption | with_reducible apply retrainFails_steady | with_reducible apply raise_steady
    | with_reducible apply modPort_steady | with_reducible apply noteIncarnation_steady | with_reducible apply emit_steady
    | split | extract_lets | dsimp only | refine Steady.of_fst (by with_reducible assumption) ?_
    | with_reducible apply Steady.upd)

theorem takeCounterResult_steady {s₀ : State} (src : Nat) (txid : Nat) (st : Status) {s : State} (hst : Steady s₀ s) :
    Steady s₀ (takeCounterResult src txid st s) := by
  unfold takeCounterResult
  repeat' (first
    | with_reducible assumption | with_reducible apply answered_steady | split | extract_lets | dsimp only
    | with_reducible apply Steady.upd)

theorem dropRecord_steady {s₀ : State} (src : Nat) (key : RecKey) {s : State} (hst : Steady s₀ s) :
    Steady s₀ (dropRecord src key s) := by
  unfold dropRecord
  repeat' (first
    | with_reducible assumption | split | extract_lets | dsimp only | with_reducible apply Steady.upd)

theorem receiveSync_steady {s₀ : State} (src : Nat) (id : Nat) (k : State → State) {s : State} (hk : ∀ {s₀ s}, Steady s₀ s → Steady s₀ (k s)) (hst : Steady s₀ s) :
    Steady s₀ (receiveSync src id k s) := by
  unfold receiveSync
  repeat' (first
    | with_reducible assumption | intro _ | with_reducible apply hk | with_reducible apply noteSync_steady | split | extract_lets
    | dsimp only | with_reducible apply Steady.upd)

theorem serveWrite_steady {s₀ : State} (limit : Nat) (m : Txn) (data : List Byte) (bad : List Nat) {s : State} (hst : Steady s₀ s) :
    Steady s₀ (serveWrite limit m data bad s) := by
  unfold serveWrite
  repeat' (first
    | with_reducible assumption | intro _ | with_reducible apply serveOnce_steady | with_reducible apply writeHbm_steady | split
    | extract_lets | dsimp only | refine Steady.of_fst (by with_reducible assumption) ?_ | with_reducible apply Steady.upd)

theorem takePoisonMap_steady {s₀ : State} (src : Nat) (txid : Nat) (words : List Nat) {s : State} (hst : Steady s₀ s) :
    Steady s₀ (takePoisonMap src txid words s) := by
  unfold takePoisonMap
  repeat' (first
    | with_reducible assumption | with_reducible apply answered_steady | split | extract_lets | dsimp only
    | with_reducible apply Steady.upd)

theorem takeReadData_steady {s₀ : State} (src : Nat) (txid : Nat) (st : Status) (data : List Byte) (mapFollows : Bool) {s : State} (hst : Steady s₀ s) :
    Steady s₀ (takeReadData src txid st data mapFollows s) := by
  unfold takeReadData
  repeat' (first
    | with_reducible assumption | with_reducible apply answered_steady | split | extract_lets | dsimp only
    | with_reducible apply Steady.upd)

theorem takeReach_steady {s₀ : State} (r : Reach) {s : State} (hst : Steady s₀ s) :
    Steady s₀ (takeReach r s) := by
  unfold takeReach
  repeat' (first
    | with_reducible assumption | intro _ | with_reducible apply noteIncarnation_steady | with_reducible apply loseModule_steady
    | with_reducible apply reroute_steady | with_reducible apply joinModule_steady | split | extract_lets | dsimp only
    | refine Steady.of_fst (by with_reducible assumption) ?_ | with_reducible apply Steady.upd)

end Sys2Proof.Machine
end

