-- ==== Sys2Proof/Laws/SteadyService.lean ====
section
/-!
SUPPORT. The operations of Machine/Service.lean are steady: fuses go one way, the command queue stays, memory stays canonical.
-/

namespace Sys2Proof.Machine

open Sys2Proof.Safety

set_option linter.unusedTactic false
set_option linter.unreachableTactic false

theorem hUnitDrain_steady {s₀ : State} (a : Cmd) {s : State} (hst : Steady s₀ s) :
    Steady s₀ (hUnitDrain a s).state := by
  unfold hUnitDrain
  repeat' (first
    | with_reducible assumption | with_reducible apply setSvc_steady | split | extract_lets | dsimp only
    | dsimp only [deny, HRes.state] | with_reducible apply Steady.upd)

theorem hUnitReturn_steady {s₀ : State} (a : Cmd) {s : State} (hst : Steady s₀ s) :
    Steady s₀ (hUnitReturn a s).state := by
  unfold hUnitReturn
  repeat' (first
    | with_reducible assumption | with_reducible apply setSvc_steady | with_reducible apply emit_steady
    | with_reducible apply modPort_steady | split | extract_lets | dsimp only | dsimp only [deny, HRes.state]
    | with_reducible apply Steady.upd)

theorem hRecalibrate_steady {s₀ : State} (a : Cmd) {s : State} (hst : Steady s₀ s) :
    Steady s₀ (hRecalibrate a s).state := by
  unfold hRecalibrate
  repeat' (first
    | with_reducible assumption | with_reducible apply modPower_steady | split | extract_lets | dsimp only
    | dsimp only [deny, HRes.state] | with_reducible apply Steady.upd)

theorem hPlanReplace_steady {s₀ : State} (a : Cmd) {s : State} (hst : Steady s₀ s) :
    Steady s₀ (hPlanReplace a s).state := by
  unfold hPlanReplace
  repeat' (first
    | with_reducible assumption | intro _ | with_reducible apply emit_steady | with_reducible apply Steady.foldl
    | with_reducible apply Steady.foldl_fst | split | extract_lets | dsimp only | dsimp only [deny, HRes.state]
    | with_reducible apply Steady.upd)

theorem finishUnitCmd_steady {s₀ : State} (opcode : Nat) (u : UnitId) (st : Status) {s : State} (hst : Steady s₀ s) :
    Steady s₀ (finishUnitCmd opcode u st s) := by
  unfold finishUnitCmd
  repeat' (first
    | with_reducible assumption | with_reducible apply finishCmd_steady | with_reducible apply endTurn_steady | split
    | extract_lets | dsimp only | with_reducible apply Steady.upd)

theorem testRewrites_steady {s₀ : State} (u : UnitId) {s : State} (hst : Steady s₀ s) :
    Steady s₀ (testRewrites u s) := by
  unfold testRewrites
  repeat' (first
    | with_reducible assumption | with_reducible apply tableWritten_steady | split | extract_lets | dsimp only
    | with_reducible apply Steady.upd)

theorem ageingDeadline_steady {s₀ : State} (vat : Nat) {s : State} (hst : Steady s₀ s) :
    Steady s₀ (ageingDeadline vat s) := by
  unfold ageingDeadline
  repeat' (first
    | with_reducible assumption | split | extract_lets | dsimp only | with_reducible apply Steady.upd)

theorem returnUnit_steady {s₀ : State} (u : UnitId) {s : State} (hst : Steady s₀ s) :
    Steady s₀ (returnUnit u s) := by
  unfold returnUnit
  repeat' (first
    | with_reducible assumption | intro _ | with_reducible apply setSvcState_steady | with_reducible apply setSvc_steady
    | with_reducible apply sendReach_steady | with_reducible apply reroute_steady | with_reducible apply modPort_steady | split
    | extract_lets | dsimp only | with_reducible apply Steady.upd)

theorem ageingEvent_steady {s₀ : State} (vat : Nat) (step : Nat) (severity : Nat) (hours : Nat) {s : State} (hst : Steady s₀ s) :
    Steady s₀ (ageingEvent vat step severity hours s) := by
  unfold ageingEvent
  repeat' (first
    | with_reducible assumption | with_reducible apply raise_steady | split | extract_lets | dsimp only
    | with_reducible apply Steady.upd)

theorem lowerVat_steady {s₀ : State} (a : Ageing) {s : State} (hst : Steady s₀ s) :
    Steady s₀ (lowerVat a s) := by
  unfold lowerVat
  repeat' (first
    | with_reducible assumption | with_reducible apply modJob_steady | with_reducible apply ageingEvent_steady | split
    | extract_lets | dsimp only | with_reducible apply Steady.upd)

theorem lowerVats_steady {s₀ : State} {s : State} (hst : Steady s₀ s) :
    Steady s₀ (lowerVats s) := by
  unfold lowerVats
  repeat' (first
    | with_reducible assumption | intro _ | with_reducible apply lowerVat_steady | with_reducible apply Steady.foldl
    | with_reducible apply Steady.foldl_fst | split | extract_lets | dsimp only | with_reducible apply Steady.upd)

theorem drainUnit_steady {s₀ : State} (u : UnitId) {s : State} (hst : Steady s₀ s) :
    Steady s₀ (drainUnit u s) := by
  unfold drainUnit
  repeat' (first
    | with_reducible assumption | intro _ | with_reducible apply setSvcState_steady | with_reducible apply setSvc_steady
    | with_reducible apply sendReach_steady | with_reducible apply reroute_steady | with_reducible apply modPort_steady | split
    | extract_lets | dsimp only | with_reducible apply Steady.upd)

theorem changeUnits_steady {s₀ : State} {s : State} (hst : Steady s₀ s) :
    Steady s₀ (changeUnits s) := by
  unfold changeUnits
  repeat' (first
    | with_reducible assumption | intro _ | with_reducible apply returnUnit_steady | with_reducible apply drainUnit_steady
    | with_reducible apply Steady.foldl | with_reducible apply Steady.foldl_fst | split | extract_lets | dsimp only
    | with_reducible apply Steady.upd)

theorem setAgeing_steady {s₀ : State} (a : Ageing) {s : State} (hst : Steady s₀ s) :
    Steady s₀ (setAgeing a s) := by
  unfold setAgeing
  repeat' (first
    | with_reducible assumption | split | extract_lets | dsimp only | with_reducible apply Steady.upd)

theorem checkAgeing_steady {s₀ : State} (vat : Nat) (step : Nat) {s : State} (hst : Steady s₀ s) :
    Steady s₀ (checkAgeing vat step s) := by
  unfold checkAgeing
  repeat' (first
    | with_reducible assumption | with_reducible apply setAgeing_steady | with_reducible apply ageingEvent_steady | split
    | extract_lets | dsimp only | with_reducible apply Steady.upd)

theorem endRecalibrate_steady {s₀ : State} (r : Running) {s : State} (hst : Steady s₀ s) :
    Steady s₀ (endRecalibrate r s) := by
  unfold endRecalibrate
  extract_lets scope unit res step _ t
  have ht : Steady s₀ t := by
    unfold t
    with_reducible apply endTurn_steady
    with_reducible apply Steady.upd
    exact modPower_steady _ hst
  clear_value t res
  split
  · exact finishCmd_steady _ _ _ _ ht
  · with_reducible apply finishCmd_steady
    with_reducible apply raise_steady
    split
    · with_reducible apply checkAgeing_steady
      with_reducible apply modPower_steady
      with_reducible apply Steady.upd
      exact ht
    · with_reducible apply modPower_steady
      with_reducible apply Steady.upd
      exact ht

theorem unitTested_steady {s₀ : State} (u : UnitId) (pass : Bool) (stage : Nat) {s : State} (hst : Steady s₀ s) :
    Steady s₀ (unitTested u pass stage s) := by
  unfold unitTested
  repeat' (first
    | with_reducible assumption | with_reducible apply setSvc_steady | with_reducible apply testRewrites_steady
    | with_reducible apply finishUnitCmd_steady | with_reducible apply modEngine_steady | with_reducible apply setSvcState_steady
    | with_reducible apply modPort_steady | with_reducible apply suspect_steady | with_reducible apply raise_steady | split
    | extract_lets | dsimp only | with_reducible apply Steady.upd)

theorem unitDrained_steady {s₀ : State} (u : UnitId) {s : State} (hst : Steady s₀ s) :
    Steady s₀ (unitDrained u s) := by
  unfold unitDrained
  repeat' (first
    | with_reducible assumption | with_reducible apply setSvcState_steady | with_reducible apply gateVats_steady
    | with_reducible apply sendReach_steady | with_reducible apply modPort_steady | with_reducible apply finishUnitCmd_steady
    | split | extract_lets | dsimp only | with_reducible apply Steady.upd)

end Sys2Proof.Machine
end

