-- ==== Sys2Proof/Laws/SteadyBoundary.lean ====
section
/-!
SUPPORT. The operations of Machine/Boundary.lean are steady: fuses go one way, the command queue stays, memory stays canonical.
-/

namespace Sys2Proof.Machine

open Sys2Proof.Safety

set_option linter.unusedTactic false
set_option linter.unreachableTactic false

theorem modTick_steady {s₀ : State} (f : Tick → Tick) {s : State} (hst : Steady s₀ s) :
    Steady s₀ (modTick f s) := by
  unfold modTick
  repeat' (first
    | with_reducible assumption | split | extract_lets | dsimp only | with_reducible apply Steady.upd)

theorem avsFailed_steady {s₀ : State} {s : State} (hst : Steady s₀ s) :
    Steady s₀ (avsFailed s) := by
  unfold avsFailed
  repeat' (first
    | with_reducible assumption | with_reducible apply regulatorFault_steady | with_reducible apply modPower_steady
    | with_reducible apply raise_steady | with_reducible apply lowerPoint_steady | split | extract_lets | dsimp only
    | with_reducible apply Steady.upd)

theorem fixPoint_steady {s₀ : State} (p : PowerInput) (avsOk : Bool) {s : State} (hst : Steady s₀ s) :
    Steady s₀ (fixPoint p avsOk s) := by
  unfold fixPoint
  repeat' (first
    | with_reducible assumption | with_reducible apply modPower_steady | with_reducible apply emit_steady
    | with_reducible apply sendSync_steady | with_reducible apply avsFailed_steady | split | extract_lets | dsimp only
    | with_reducible apply Steady.upd)

theorem sendAlignment_steady {s₀ : State} (now : Nat) {s : State} (hst : Steady s₀ s) :
    Steady s₀ (sendAlignment now s) := by
  unfold sendAlignment
  repeat' (first
    | with_reducible assumption | with_reducible apply emit_steady | with_reducible apply modTick_steady
    | with_reducible apply sendSync_steady | split | extract_lets | dsimp only | with_reducible apply Steady.upd)

theorem planFails_steady {s₀ : State} (cause : Status) {s : State} (hst : Steady s₀ s) :
    Steady s₀ (planFails cause s) := by
  unfold planFails
  repeat' (first
    | with_reducible assumption | with_reducible apply failJob_steady | split | extract_lets | dsimp only
    | with_reducible apply Steady.upd)

theorem overrunUnit_steady {s₀ : State} (h : Hold) {s : State} (l : LateUnit) (hst : Steady s₀ s) :
    Steady s₀ (overrunUnit h s l) := by
  unfold overrunUnit
  repeat' (first
    | with_reducible assumption | with_reducible apply raise_steady | with_reducible apply modTick_steady
    | with_reducible apply suspect_steady | with_reducible apply setSvc_steady | split | extract_lets | dsimp only
    | with_reducible apply Steady.upd)

theorem releaseHold_steady {s₀ : State} (now : Nat) {s : State} (hst : Steady s₀ s) :
    Steady s₀ (releaseHold now s) := by
  unfold releaseHold
  repeat' (first
    | with_reducible assumption | with_reducible apply sendSync_steady | with_reducible apply modTick_steady | split
    | extract_lets | dsimp only | with_reducible apply Steady.upd)

theorem setVariant_steady {s₀ : State} (count : Nat) (i : Nat) {s : State} (hst : Steady s₀ s) :
    Steady s₀ (setVariant count i s) := by
  unfold setVariant
  repeat' (first
    | with_reducible assumption | with_reducible apply modTick_steady | split | extract_lets | dsimp only
    | with_reducible apply Steady.upd)

theorem setPoint_steady {s₀ : State} (now : Nat) (p : PowerInput) (c : Choice) {s : State} (hst : Steady s₀ s) :
    Steady s₀ (setPoint now p c s) := by
  unfold setPoint
  repeat' (first
    | with_reducible assumption | with_reducible apply modPower_steady | with_reducible apply modTick_steady | split
    | extract_lets | dsimp only | with_reducible apply Steady.upd)

theorem shortTick_steady {s₀ : State} (now : Nat) (count : Nat) (b : BoundaryInput) {s : State} (hst : Steady s₀ s) :
    Steady s₀ (shortTick now count b s) := by
  unfold shortTick
  repeat' (first
    | with_reducible assumption | with_reducible apply modTick_steady | with_reducible apply setVariant_steady
    | with_reducible apply setPoint_steady | with_reducible apply admitNone_steady | with_reducible apply admitAll_steady | split
    | extract_lets | dsimp only | with_reducible apply Steady.upd)

theorem runTick_steady {s₀ : State} (now : Nat) (b : BoundaryInput) (c : Choice) {s : State} (hst : Steady s₀ s) :
    Steady s₀ (runTick now b c s) := by
  unfold runTick
  repeat' (first
    | with_reducible assumption | with_reducible apply setPoint_steady | with_reducible apply modTick_steady
    | with_reducible apply admitAll_steady | with_reducible apply admitNone_steady | split | extract_lets | dsimp only
    | with_reducible apply Steady.upd)

theorem chooseTick_steady {s₀ : State} (now : Nat) (count : Nat) (b : BoundaryInput) {s : State} (hst : Steady s₀ s) :
    Steady s₀ (chooseTick now count b s) := by
  unfold chooseTick
  repeat' (first
    | with_reducible assumption | with_reducible apply modPower_steady | with_reducible apply admitNone_steady
    | with_reducible apply modTick_steady | with_reducible apply shortTick_steady | with_reducible apply setVariant_steady
    | with_reducible apply runTick_steady | split | extract_lets | dsimp only | with_reducible apply Steady.upd)

theorem planReplaced_steady {s₀ : State} {s : State} (hst : Steady s₀ s) :
    Steady s₀ (planReplaced s) := by
  unfold planReplaced
  repeat' (first
    | with_reducible assumption | with_reducible apply advanceJob_steady | with_reducible apply replacePlan_steady | split
    | extract_lets | dsimp only | with_reducible apply Steady.upd)

theorem lateWorkDone_steady {s₀ : State} (now : Nat) (railsReady : Bool) {s : State} (hst : Steady s₀ s) :
    Steady s₀ (lateWorkDone now railsReady s) := by
  unfold lateWorkDone
  repeat' (first
    | with_reducible assumption | with_reducible apply wake_steady | with_reducible apply modTick_steady
    | with_reducible apply atTime_steady | with_reducible apply releaseHold_steady | split | extract_lets | dsimp only
    | with_reducible apply Steady.upd)

theorem takeRequest_steady {s₀ : State} (src : Nat) (point : Nat) {s : State} (hst : Steady s₀ s) :
    Steady s₀ (takeRequest src point s) := by
  unfold takeRequest
  repeat' (first
    | with_reducible assumption | with_reducible apply modTick_steady | split | extract_lets | dsimp only
    | with_reducible apply Steady.upd)

theorem cultureDue_steady {s₀ : State} (count : Nat) {s : State} (hst : Steady s₀ s) :
    Steady s₀ (cultureDue count s) := by
  unfold cultureDue
  repeat' (first
    | with_reducible assumption | with_reducible apply commitCulture_steady | split | extract_lets | dsimp only
    | with_reducible apply Steady.upd)

theorem windowEnd_steady {s₀ : State} (late : List LateUnit) {s : State} (hst : Steady s₀ s) :
    Steady s₀ (windowEnd late s) := by
  unfold windowEnd
  repeat' (first
    | with_reducible assumption | with_reducible apply modTick_steady | with_reducible apply wake_steady
    | with_reducible apply startStep_steady | split | extract_lets | dsimp only | with_reducible apply Steady.upd)

theorem ownerReset_steady {s₀ : State} (q : Nat) {s : State} (hst : Steady s₀ s) :
    Steady s₀ (ownerReset q s) := by
  unfold ownerReset
  repeat' (first
    | with_reducible assumption | intro _ | with_reducible apply resetQueue_steady | with_reducible apply finishCmd_steady
    | with_reducible apply Steady.foldl | with_reducible apply Steady.foldl_fst | split | extract_lets | dsimp only
    | with_reducible apply Steady.upd)

theorem checkReplace_steady {s₀ : State} {s : State} (hst : Steady s₀ s) :
    Steady s₀ (checkReplace s) := by
  unfold checkReplace
  repeat' (first
    | with_reducible assumption | split | extract_lets | dsimp only | with_reducible apply Steady.upd)

theorem liveDue_steady {s₀ : State} (count : Nat) {s : State} (hst : Steady s₀ s) :
    Steady s₀ (liveDue count s) := by
  unfold liveDue
  repeat' (first
    | with_reducible assumption | with_reducible apply swapFirmware_steady | split | extract_lets | dsimp only
    | with_reducible apply Steady.upd)

theorem indexDue_steady {s₀ : State} (count : Nat) {s : State} (hst : Steady s₀ s) :
    Steady s₀ (indexDue count s) := by
  unfold indexDue
  repeat' (first
    | with_reducible assumption | with_reducible apply commitIndex_steady | split | extract_lets | dsimp only
    | with_reducible apply Steady.upd)

theorem restoreJoined_steady {s₀ : State} {s : State} (hst : Steady s₀ s) :
    Steady s₀ (restoreJoined s) := by
  unfold restoreJoined
  repeat' (first
    | with_reducible assumption | intro _ | with_reducible apply restoreRoutes_steady | with_reducible apply emit_steady
    | with_reducible apply Steady.foldl | with_reducible apply Steady.foldl_fst | split | extract_lets | dsimp only
    | with_reducible apply Steady.upd)

theorem changeAtBoundary_steady {s₀ : State} (count : Nat) {s : State} (hst : Steady s₀ s) :
    Steady s₀ (changeAtBoundary count s) := by
  unfold changeAtBoundary
  repeat' (first
    | with_reducible assumption | intro _ | with_reducible apply ownerReset_steady | with_reducible apply checkReplace_steady
    | with_reducible apply lowerVats_steady | with_reducible apply changeUnits_steady | with_reducible apply changeJob_steady
    | with_reducible apply rewriteTables_steady | with_reducible apply liveDue_steady | with_reducible apply indexDue_steady
    | with_reducible apply cultureDue_steady | with_reducible apply enterA2_steady | with_reducible apply restoreJoined_steady
    | with_reducible apply modPower_steady | with_reducible apply Steady.foldl | with_reducible apply Steady.foldl_fst | split
    | extract_lets | dsimp only | with_reducible apply Steady.upd)

theorem takeDefer_steady {s₀ : State} (src : Nat) (tick : Nat) (planSet : Nat) {s : State} (hst : Steady s₀ s) :
    Steady s₀ (takeDefer src tick planSet s) := by
  unfold takeDefer
  repeat' (first
    | with_reducible assumption | with_reducible apply deferAbsent_steady | split | extract_lets | dsimp only
    | with_reducible apply Steady.upd)

theorem takeHold_steady {s₀ : State} (src : Nat) (tick : Nat) {s : State} (hst : Steady s₀ s) :
    Steady s₀ (takeHold src tick s) := by
  unfold takeHold
  repeat' (first
    | with_reducible assumption | with_reducible apply modTick_steady | split | extract_lets | dsimp only
    | with_reducible apply Steady.upd)

theorem beginHold_steady {s₀ : State} (own : Bool) {s : State} (hst : Steady s₀ s) :
    Steady s₀ (beginHold own s) := by
  unfold beginHold
  repeat' (first
    | with_reducible assumption | with_reducible apply sendSync_steady | with_reducible apply modTick_steady | split
    | extract_lets | dsimp only | with_reducible apply Steady.upd)

theorem firstLock_steady {s₀ : State} {s : State} (hst : Steady s₀ s) :
    Steady s₀ (firstLock s) := by
  unfold firstLock
  repeat' (first
    | with_reducible assumption | with_reducible apply modTick_steady | split | extract_lets | dsimp only
    | with_reducible apply Steady.upd)

theorem noteOffset_steady {s₀ : State} (o : ℤ) {s : State} (hst : Steady s₀ s) :
    Steady s₀ (noteOffset o s) := by
  unfold noteOffset
  repeat' (first
    | with_reducible assumption | with_reducible apply modTick_steady | with_reducible apply raise_steady
    | with_reducible apply firstLock_steady | split | extract_lets | dsimp only | with_reducible apply Steady.upd)

theorem syncEdge_steady {s₀ : State} (edge : ℤ) {s : State} (hst : Steady s₀ s) :
    Steady s₀ (syncEdge edge s) := by
  unfold syncEdge
  repeat' (first
    | with_reducible assumption | with_reducible apply noteOffset_steady | with_reducible apply modTick_steady | split
    | extract_lets | dsimp only | with_reducible apply Steady.upd)

theorem takeSkipPattern_steady {s₀ : State} (src : Nat) (first : Nat) (pattern : U64) {s : State} (hst : Steady s₀ s) :
    Steady s₀ (takeSkipPattern src first pattern s) := by
  unfold takeSkipPattern
  repeat' (first
    | with_reducible assumption | with_reducible apply modTick_steady | split | extract_lets | dsimp only
    | with_reducible apply Steady.upd)

theorem planStart_steady {s₀ : State} {s : State} (hst : Steady s₀ s) :
    Steady s₀ (planStart s) := by
  unfold planStart
  repeat' (first
    | with_reducible assumption | with_reducible apply startJobs_steady | split | extract_lets | dsimp only
    | with_reducible apply Steady.upd)

theorem planPreempt_steady {s₀ : State} {s : State} (hst : Steady s₀ s) :
    Steady s₀ (planPreempt s) := by
  unfold planPreempt
  repeat' (first
    | with_reducible assumption | with_reducible apply advanceJob_steady | with_reducible apply preemptJob_steady | split
    | extract_lets | dsimp only | with_reducible apply Steady.upd)

theorem skipWindow_steady {s₀ : State} (windows : List Nat) (limit : Nat) {s : State} (hst : Steady s₀ s) :
    Steady s₀ (skipWindow windows limit s) := by
  unfold skipWindow
  repeat' (first
    | with_reducible assumption | with_reducible apply sendSync_steady | with_reducible apply modTick_steady | split
    | extract_lets | dsimp only | with_reducible apply Steady.upd)

theorem planComplete_steady {s₀ : State} {s : State} (hst : Steady s₀ s) :
    Steady s₀ (planComplete s) := by
  unfold planComplete
  repeat' (first
    | with_reducible assumption | with_reducible apply completeJob_steady | split | extract_lets | dsimp only
    | with_reducible apply Steady.upd)

theorem domainAbsent_steady {s₀ : State} {s : State} (hst : Steady s₀ s) :
    Steady s₀ (domainAbsent s) := by
  unfold domainAbsent
  repeat' (first
    | with_reducible assumption | intro _ | with_reducible apply finishOp_steady | with_reducible apply dropRequest_steady
    | with_reducible apply Steady.foldl | with_reducible apply Steady.foldl_fst | split | extract_lets | dsimp only
    | with_reducible apply Steady.upd)

theorem closeTick_steady {s₀ : State} (now : Nat) {s : State} (hst : Steady s₀ s) :
    Steady s₀ (closeTick now s) := by
  unfold closeTick
  repeat' (first
    | with_reducible assumption | intro _ | with_reducible apply addBelow_steady | with_reducible apply addLost_steady
    | with_reducible apply noteTick_steady | with_reducible apply modPower_steady | with_reducible apply raise_steady
    | with_reducible apply modTick_steady | with_reducible apply Steady.foldl | with_reducible apply Steady.foldl_fst | split
    | extract_lets | dsimp only | with_reducible apply Steady.upd)

theorem reportOverruns_steady {s₀ : State} {s : State} (hst : Steady s₀ s) :
    Steady s₀ (reportOverruns s) := by
  unfold reportOverruns
  repeat' (first
    | with_reducible assumption | intro _ | with_reducible apply overrunUnit_steady | with_reducible apply Steady.foldl
    | with_reducible apply Steady.foldl_fst | split | extract_lets | dsimp only | with_reducible apply Steady.upd)

theorem applyPeriod_steady {s₀ : State} (count : Nat) {s : State} (hst : Steady s₀ s) :
    Steady s₀ (applyPeriod count s) := by
  unfold applyPeriod
  repeat' (first
    | with_reducible assumption | with_reducible apply modTick_steady | split | extract_lets | dsimp only
    | with_reducible apply Steady.upd)

theorem applySplit_steady {s₀ : State} (count : Nat) {s : State} (hst : Steady s₀ s) :
    Steady s₀ (applySplit count s) := by
  unfold applySplit
  repeat' (first
    | with_reducible assumption | split | extract_lets | dsimp only | with_reducible apply Steady.upd)

theorem applyInputs_steady {s₀ : State} (count : Nat) (now : Nat) {s : State} (hst : Steady s₀ s) :
    Steady s₀ (applyInputs count now s) := by
  unfold applyInputs
  repeat' (first
    | with_reducible assumption | with_reducible apply applyPeriod_steady | with_reducible apply applySplit_steady
    | with_reducible apply applyGrant_steady | with_reducible apply applyLimits_steady | with_reducible apply restoreGrant_steady
    | split | extract_lets | dsimp only | with_reducible apply Steady.upd)

theorem tickPowerState_steady {s₀ : State} {s : State} (hst : Steady s₀ s) :
    Steady s₀ (tickPowerState s) := by
  unfold tickPowerState
  repeat' (first
    | with_reducible assumption | with_reducible apply setPowerState_steady | split | extract_lets | dsimp only
    | with_reducible apply Steady.upd)

theorem crossBoundary_steady {s₀ : State} (b : BoundaryInput) {s : State} (hst : Steady s₀ s) :
    Steady s₀ (crossBoundary b s) := by
  unfold crossBoundary
  repeat' (first
    | with_reducible assumption | with_reducible apply noteOffset_steady | with_reducible apply closeTick_steady
    | with_reducible apply splitStretches_steady | with_reducible apply reportOverruns_steady
    | with_reducible apply changeAtBoundary_steady | with_reducible apply applyInputs_steady
    | with_reducible apply chooseTick_steady | with_reducible apply tickPowerState_steady | with_reducible apply modPower_steady
    | with_reducible apply lateEventIrq_steady | with_reducible apply sendAlignment_steady | with_reducible apply modTick_steady
    | split | extract_lets | dsimp only | with_reducible apply Steady.upd)

theorem releasedHold_steady {s₀ : State} (b : BoundaryInput) {s : State} (hst : Steady s₀ s) :
    Steady s₀ (releasedHold b s) := by
  unfold releasedHold
  repeat' (first
    | with_reducible assumption | with_reducible apply crossBoundary_steady | split | extract_lets | dsimp only
    | with_reducible apply Steady.upd)

theorem tickBoundary_steady {s₀ : State} (b : BoundaryInput) {s : State} (hst : Steady s₀ s) :
    Steady s₀ (tickBoundary b s) := by
  unfold tickBoundary
  repeat' (first
    | with_reducible assumption | with_reducible apply atTime_steady | with_reducible apply crossBoundary_steady
    | with_reducible apply modTick_steady | with_reducible apply beginHold_steady | with_reducible apply releasedHold_steady
    | split | extract_lets | dsimp only | with_reducible apply Steady.upd)

theorem takeTickBase_steady {s₀ : State} (count : Nat) {s : State} (hst : Steady s₀ s) :
    Steady s₀ (takeTickBase count s) := by
  unfold takeTickBase
  repeat' (first
    | with_reducible assumption | with_reducible apply modTick_steady | split | extract_lets | dsimp only
    | with_reducible apply Steady.upd)

theorem takeRelease_steady {s₀ : State} (src : Nat) (tick : Nat) (now : Nat) {s : State} (hst : Steady s₀ s) :
    Steady s₀ (takeRelease src tick now s) := by
  unfold takeRelease
  repeat' (first
    | with_reducible assumption | with_reducible apply atTime_steady | with_reducible apply modTick_steady | split | extract_lets
    | dsimp only | with_reducible apply Steady.upd)

theorem holdLimit_steady {s₀ : State} (now : Nat) {s : State} (hst : Steady s₀ s) :
    Steady s₀ (holdLimit now s) := by
  unfold holdLimit
  repeat' (first
    | with_reducible assumption | with_reducible apply atTime_steady | with_reducible apply releaseHold_steady
    | with_reducible apply failJob_steady | split | extract_lets | dsimp only | with_reducible apply Steady.upd)

theorem answerTimestamp_steady {s₀ : State} (src : Nat) (t1 : Nat) (t2 : Nat) (t3 : Nat) {s : State} (hst : Steady s₀ s) :
    Steady s₀ (answerTimestamp src t1 t2 t3 s) := by
  unfold answerTimestamp
  repeat' (first
    | with_reducible assumption | with_reducible apply sendSync_steady | with_reducible apply atTime_steady | split
    | extract_lets | dsimp only | with_reducible apply Steady.upd)

theorem takeTimestamp_steady {s₀ : State} (src : Nat) (t1 : Nat) (t2 : Nat) (t3 : Nat) (t4 : Nat) {s : State} (hst : Steady s₀ s) :
    Steady s₀ (takeTimestamp src t1 t2 t3 t4 s) := by
  unfold takeTimestamp
  repeat' (first
    | with_reducible assumption | with_reducible apply atTime_steady | with_reducible apply noteOffset_steady
    | with_reducible apply modTick_steady | split | extract_lets | dsimp only | with_reducible apply Steady.upd)

end Sys2Proof.Machine
end

