-- ==== Sys2Proof/Laws/SteadyCommands.lean ====
section
/-!
SUPPORT. The operations of Machine/Commands.lean are steady: fuses go one way, the command queue stays, memory stays canonical.
-/

namespace Sys2Proof.Machine

open Sys2Proof.Safety

set_option linter.unusedTactic false
set_option linter.unreachableTactic false

theorem hCounterRelease_steady {s₀ : State} (a : Cmd) {s : State} (hst : Steady s₀ s) :
    Steady s₀ (hCounterRelease a s).state := by
  unfold hCounterRelease
  repeat' (first
    | with_reducible assumption | with_reducible apply forceRelease_steady | with_reducible apply releaseCounters_steady | split
    | extract_lets | dsimp only | dsimp only [deny, HRes.state] | refine Steady.of_fst (by with_reducible assumption) ?_
    | with_reducible apply Steady.upd)

theorem askImage_steady {s₀ : State} (dst : Nat) (address : Nat) (len : Nat) {s : State} (hst : Steady s₀ s) :
    Steady s₀ (askImage dst address len s) := by
  unfold askImage
  repeat' (first
    | with_reducible assumption | intro _ | with_reducible apply issue_steady | with_reducible apply Steady.foldl
    | with_reducible apply Steady.foldl_fst | split | extract_lets | dsimp only
    | refine Steady.of_fst (by with_reducible assumption) ?_ | with_reducible apply Steady.upd)

theorem retireReset_steady {s₀ : State} (before : State) {s : State} (hst : Steady s₀ s) :
    Steady s₀ (retireReset before s) := by
  unfold retireReset
  repeat' (first
    | with_reducible assumption | intro _ | with_reducible apply resetQueue_steady | with_reducible apply closeSession_steady
    | with_reducible apply resetAtOnce_steady | with_reducible apply dropLevel_steady | with_reducible apply Steady.foldl
    | with_reducible apply Steady.foldl_fst | split | extract_lets | dsimp only | with_reducible apply Steady.upd)

theorem stopIfReduced_steady {s₀ : State} (q : Nat) {s : State} (hst : Steady s₀ s) :
    Steady s₀ (stopIfReduced q s) := by
  unfold stopIfReduced
  repeat' (first
    | with_reducible assumption | with_reducible apply stopQueue_steady | split | extract_lets | dsimp only
    | with_reducible apply Steady.upd)

theorem hQueueSetup_steady {s₀ : State} (a : Cmd) {s : State} (hst : Steady s₀ s) :
    Steady s₀ (hQueueSetup a s).state := by
  unfold hQueueSetup
  repeat' (first
    | with_reducible assumption | with_reducible apply stopIfReduced_steady | with_reducible apply modQ_steady | split
    | extract_lets | dsimp only | dsimp only [deny, HRes.state] | with_reducible apply Steady.upd)

theorem hQueueControl_steady {s₀ : State} (a : Cmd) {s : State} (hst : Steady s₀ s) :
    Steady s₀ (hQueueControl a s).state := by
  unfold hQueueControl
  repeat' (first
    | with_reducible assumption | with_reducible apply stopIfReduced_steady | with_reducible apply modQ_steady | split
    | extract_lets | dsimp only | dsimp only [deny, HRes.state] | with_reducible apply Steady.upd)

theorem hSlotSetup_steady {s₀ : State} (a : Cmd) {s : State} (hst : Steady s₀ s) :
    Steady s₀ (hSlotSetup a s).state := by
  unfold hSlotSetup
  repeat' (first
    | with_reducible assumption | split | extract_lets | dsimp only | dsimp only [deny, HRes.state]
    | with_reducible apply Steady.upd)

theorem hCounterClaim_steady {s₀ : State} (a : Cmd) {s : State} (hst : Steady s₀ s) :
    Steady s₀ (hCounterClaim a s).state := by
  unfold hCounterClaim
  repeat' (first
    | with_reducible assumption | with_reducible apply claimCounters_steady | split | extract_lets | dsimp only
    | dsimp only [deny, HRes.state] | refine Steady.of_fst (by with_reducible assumption) ?_ | with_reducible apply Steady.upd)

theorem hCounterSet_steady {s₀ : State} (a : Cmd) {s : State} (hst : Steady s₀ s) :
    Steady s₀ (hCounterSet a s).state := by
  unfold hCounterSet
  repeat' (first
    | with_reducible assumption | with_reducible apply setCounter_steady | split | extract_lets | dsimp only
    | dsimp only [deny, HRes.state] | refine Steady.of_fst (by with_reducible assumption) ?_ | with_reducible apply Steady.upd)

theorem moveBytes_steady {s₀ : State} (n : Nat) {s : State} (hst : Steady s₀ s) :
    Steady s₀ (moveBytes n s).state := by
  unfold moveBytes
  repeat' (first
    | with_reducible assumption | split | extract_lets | dsimp only | dsimp only [deny, HRes.state]
    | with_reducible apply Steady.upd)

theorem hInstall_steady {s₀ : State} (a : Cmd) {s : State} (hst : Steady s₀ s) :
    Steady s₀ (hInstall a s).state := by
  unfold hInstall
  repeat' (first
    | with_reducible assumption | with_reducible apply moveBytes_steady | split | extract_lets | dsimp only
    | dsimp only [deny, HRes.state] | refine Steady.of_done (by with_reducible assumption) ?_
    | refine Steady.of_later (by with_reducible assumption) ?_ | with_reducible apply Steady.upd)

theorem hRemove_steady {s₀ : State} (a : Cmd) {s : State} (hst : Steady s₀ s) :
    Steady s₀ (hRemove a s).state := by
  unfold hRemove
  repeat' (first
    | with_reducible assumption | split | extract_lets | dsimp only | dsimp only [deny, HRes.state]
    | with_reducible apply Steady.upd)

theorem hCultureStage_steady {s₀ : State} (a : Cmd) {s : State} (hst : Steady s₀ s) :
    Steady s₀ (hCultureStage a s).state := by
  unfold hCultureStage
  repeat' (first
    | with_reducible assumption | with_reducible apply moveBytes_steady | split | extract_lets | dsimp only
    | dsimp only [deny, HRes.state] | refine Steady.of_done (by with_reducible assumption) ?_
    | refine Steady.of_later (by with_reducible assumption) ?_ | with_reducible apply Steady.upd)

theorem hCultureRemove_steady {s₀ : State} (a : Cmd) {s : State} (hst : Steady s₀ s) :
    Steady s₀ (hCultureRemove a s).state := by
  unfold hCultureRemove
  repeat' (first
    | with_reducible assumption | with_reducible apply setStaging_steady | split | extract_lets | dsimp only
    | dsimp only [deny, HRes.state] | with_reducible apply Steady.upd)

theorem hCultureCommit_steady {s₀ : State} (a : Cmd) {s : State} (hst : Steady s₀ s) :
    Steady s₀ (hCultureCommit a s).state := by
  unfold hCultureCommit
  repeat' (first
    | with_reducible assumption | split | extract_lets | dsimp only | dsimp only [deny, HRes.state]
    | with_reducible apply Steady.upd)

theorem hIndexLoad_steady {s₀ : State} (a : Cmd) {s : State} (hst : Steady s₀ s) :
    Steady s₀ (hIndexLoad a s).state := by
  unfold hIndexLoad
  repeat' (first
    | with_reducible assumption | with_reducible apply moveBytes_steady | split | extract_lets | dsimp only
    | dsimp only [deny, HRes.state] | refine Steady.of_done (by with_reducible assumption) ?_
    | refine Steady.of_later (by with_reducible assumption) ?_ | with_reducible apply Steady.upd)

theorem hIndexCommit_steady {s₀ : State} (a : Cmd) {s : State} (hst : Steady s₀ s) :
    Steady s₀ (hIndexCommit a s).state := by
  unfold hIndexCommit
  repeat' (first
    | with_reducible assumption | split | extract_lets | dsimp only | dsimp only [deny, HRes.state]
    | with_reducible apply Steady.upd)

theorem modSettings_steady {s₀ : State} (f : Settings → Settings) {s : State} (hst : Steady s₀ s) :
    Steady s₀ (modSettings f s) := by
  unfold modSettings
  repeat' (first
    | with_reducible assumption | split | extract_lets | dsimp only | with_reducible apply Steady.upd)

theorem hTickConfig_steady {s₀ : State} (a : Cmd) {s : State} (hst : Steady s₀ s) :
    Steady s₀ (hTickConfig a s).state := by
  unfold hTickConfig
  repeat' (first
    | with_reducible assumption | with_reducible apply modSettings_steady | with_reducible apply modTick_steady | split
    | extract_lets | dsimp only | dsimp only [deny, HRes.state] | with_reducible apply Steady.upd)

theorem hBwSplit_steady {s₀ : State} (a : Cmd) {s : State} (hst : Steady s₀ s) :
    Steady s₀ (hBwSplit a s).state := by
  unfold hBwSplit
  repeat' (first
    | with_reducible assumption | with_reducible apply modSettings_steady | split | extract_lets | dsimp only
    | dsimp only [deny, HRes.state] | with_reducible apply Steady.upd)

theorem hMgmtConfig_steady {s₀ : State} (a : Cmd) {s : State} (hst : Steady s₀ s) :
    Steady s₀ (hMgmtConfig a s).state := by
  unfold hMgmtConfig
  repeat' (first
    | with_reducible assumption | with_reducible apply modSettings_steady | split | extract_lets | dsimp only
    | dsimp only [deny, HRes.state] | with_reducible apply Steady.upd)

theorem eraseSettings_steady {s₀ : State} {s : State} (hst : Steady s₀ s) :
    Steady s₀ (eraseSettings s).state := by
  unfold eraseSettings
  repeat' (first
    | with_reducible assumption | split | extract_lets | dsimp only | dsimp only [deny, HRes.state]
    | with_reducible apply Steady.upd)

theorem commitSettings_steady {s₀ : State} {s : State} (hst : Steady s₀ s) :
    Steady s₀ (commitSettings s).state := by
  unfold commitSettings
  repeat' (first
    | with_reducible assumption | with_reducible apply raise_steady | split | extract_lets | dsimp only
    | dsimp only [deny, HRes.state] | with_reducible apply Steady.upd)

theorem hSettingsCommit_steady {s₀ : State} (a : Cmd) {s : State} (hst : Steady s₀ s) :
    Steady s₀ (hSettingsCommit a s).state := by
  unfold hSettingsCommit
  repeat' (first
    | with_reducible assumption | with_reducible apply eraseSettings_steady | with_reducible apply commitSettings_steady | split
    | extract_lets | dsimp only | dsimp only [deny, HRes.state] | refine Steady.of_done (by with_reducible assumption) ?_
    | refine Steady.of_later (by with_reducible assumption) ?_ | with_reducible apply Steady.upd)

theorem hModuleReset_steady {s₀ : State} (a : Cmd) {s : State} (hst : Steady s₀ s) :
    Steady s₀ (hModuleReset a s).state := by
  unfold hModuleReset
  repeat' (first
    | with_reducible assumption | split | extract_lets | dsimp only | dsimp only [deny, HRes.state]
    | with_reducible apply Steady.upd)

theorem hTopology_steady {s₀ : State} (a : Cmd) {s : State} (hst : Steady s₀ s) :
    Steady s₀ (hTopology a s).state := by
  unfold hTopology
  repeat' (first
    | with_reducible assumption | with_reducible apply modSettings_steady | split | extract_lets | dsimp only
    | dsimp only [deny, HRes.state] | with_reducible apply Steady.upd)

theorem handle_steady {s₀ : State} (a : Cmd) {s : State} (hst : Steady s₀ s) :
    Steady s₀ (handle a s).state := by
  unfold handle
  repeat' (first
    | with_reducible assumption | with_reducible apply hIdentify_steady | with_reducible apply hGetStatus_steady
    | with_reducible apply hSessionInit_steady | with_reducible apply hSessionFinish_steady
    | with_reducible apply hSessionClose_steady | with_reducible apply hQueueSetup_steady
    | with_reducible apply hQueueControl_steady | with_reducible apply hSlotSetup_steady
    | with_reducible apply hCounterClaim_steady | with_reducible apply hCounterRelease_steady
    | with_reducible apply hCounterSet_steady | with_reducible apply hInstall_steady | with_reducible apply hRemove_steady
    | with_reducible apply hCultureStage_steady | with_reducible apply hCultureRemove_steady
    | with_reducible apply hCultureCommit_steady | with_reducible apply hIndexLoad_steady
    | with_reducible apply hIndexCommit_steady | with_reducible apply hTickConfig_steady | with_reducible apply hBwSplit_steady
    | with_reducible apply hMgmtConfig_steady | with_reducible apply hSettingsCommit_steady
    | with_reducible apply hPowerLimits_steady | with_reducible apply hPowerState_steady | with_reducible apply hFwStage_steady
    | with_reducible apply hFwActivate_steady | with_reducible apply hFwStatus_steady | with_reducible apply hAttest_steady
    | with_reducible apply hCredentialSet_steady | with_reducible apply hDebugToken_steady
    | with_reducible apply hLifecycleSet_steady | with_reducible apply hUnitDrain_steady
    | with_reducible apply hUnitReturn_steady | with_reducible apply hRecalibrate_steady
    | with_reducible apply hPlanReplace_steady | with_reducible apply hModuleReset_steady | with_reducible apply hTopology_steady
    | split | extract_lets | dsimp only | dsimp only [deny, HRes.state] | refine Steady.of_done (by with_reducible assumption) ?_
    | refine Steady.of_later (by with_reducible assumption) ?_ | with_reducible apply Steady.upd)

theorem mailboxCommand_steady {s₀ : State} (op : Nat) (call : MbCall) {s : State} (hst : Steady s₀ s) :
    Steady s₀ (mailboxCommand op call s) := by
  unfold mailboxCommand
  repeat' (first
    | with_reducible assumption | intro _ | with_reducible apply retireReset_steady | with_reducible apply submit_steady
    | with_reducible apply handle_steady | split | extract_lets | dsimp only
    | refine Steady.of_done (by with_reducible assumption) ?_ | refine Steady.of_later (by with_reducible assumption) ?_
    | with_reducible apply Steady.upd)

theorem stageNow_steady {s₀ : State} (p : List Byte) {s : State} (hst : Steady s₀ s) :
    Steady s₀ (stageNow p s).1 := by
  unfold stageNow
  repeat' (first
    | with_reducible assumption | with_reducible apply stageModel_steady | split | extract_lets | dsimp only
    | refine Steady.of_fst (by with_reducible assumption) ?_ | with_reducible apply Steady.upd)

theorem installPackage_steady {s₀ : State} (p : List Byte) {s : State} (hst : Steady s₀ s) :
    Steady s₀ (installPackage p s).1 := by
  unfold installPackage
  repeat' (first
    | with_reducible assumption | intro _ | with_reducible apply readSpan_steady | with_reducible apply hostFailed_steady
    | with_reducible apply pokeClean_steady | with_reducible apply writeHbm_steady | with_reducible apply Steady.foldl
    | with_reducible apply Steady.foldl_fst | split | extract_lets | dsimp only
    | refine Steady.of_thd (by with_reducible assumption) ?_ | with_reducible apply Steady.upd)

theorem loadNow_steady {s₀ : State} (p : List Byte) (failed : Status) {s : State} (hst : Steady s₀ s) :
    Steady s₀ (loadNow p failed s).1 := by
  unfold loadNow
  repeat' (first
    | with_reducible assumption | with_reducible apply readSpan_steady | with_reducible apply hostFailed_steady
    | with_reducible apply beginStaging_steady | with_reducible apply loadRun_steady | split | extract_lets | dsimp only
    | refine Steady.of_thd (by with_reducible assumption) ?_ | with_reducible apply Steady.upd)

theorem endStepped_steady {s₀ : State} (r : Running) {s : State} (hst : Steady s₀ s) :
    Steady s₀ (endStepped r s) := by
  unfold endStepped
  repeat' (first
    | with_reducible assumption | with_reducible apply installPackage_steady | with_reducible apply stageNow_steady
    | with_reducible apply loadNow_steady | with_reducible apply finishCmd_steady | with_reducible apply endTurn_steady | split
    | extract_lets | dsimp only | refine Steady.of_fst (by with_reducible assumption) ?_ | with_reducible apply Steady.upd)

theorem serveParked_steady {s₀ : State} {s : State} (hst : Steady s₀ s) :
    Steady s₀ (serveParked s) := by
  unfold serveParked
  repeat' (first
    | with_reducible assumption | intro _ | with_reducible apply retireReset_steady | with_reducible apply unpark_steady
    | with_reducible apply handle_steady | with_reducible apply flushEvents_steady | split | extract_lets | dsimp only
    | refine Steady.of_done (by with_reducible assumption) ?_ | refine Steady.of_later (by with_reducible assumption) ?_
    | with_reducible apply Steady.upd)

theorem showSteps_steady {s₀ : State} (c : Cmd) (n : Nat) {s : State} (hst : Steady s₀ s) :
    Steady s₀ (showSteps c n s) := by
  unfold showSteps
  repeat' (first
    | with_reducible assumption | with_reducible apply modBox_steady | split | extract_lets | dsimp only
    | with_reducible apply Steady.upd)

theorem setRunning_steady {s₀ : State} (r : Running) {s : State} (hst : Steady s₀ s) :
    Steady s₀ (setRunning r s) := by
  unfold setRunning
  repeat' (first
    | with_reducible assumption | split | extract_lets | dsimp only | with_reducible apply Steady.upd)

theorem commandStep_steady {s₀ : State} {s : State} (hst : Steady s₀ s) :
    Steady s₀ (commandStep s) := by
  unfold commandStep
  repeat' (first
    | with_reducible assumption | with_reducible apply endRecalibrate_steady | with_reducible apply endStepped_steady
    | with_reducible apply showSteps_steady | with_reducible apply setRunning_steady | with_reducible apply askImage_steady
    | split | extract_lets | dsimp only | with_reducible apply Steady.upd)

theorem settingsStart_steady {s₀ : State} {s : State} (hst : Steady s₀ s) :
    Steady s₀ (settingsStart s) := by
  unfold settingsStart
  repeat' (first
    | with_reducible assumption | intro _ | with_reducible apply retireReset_steady | with_reducible apply nextSettings_steady
    | with_reducible apply handle_steady | with_reducible apply startSettings_steady | split | extract_lets | dsimp only
    | refine Steady.of_done (by with_reducible assumption) ?_ | refine Steady.of_later (by with_reducible assumption) ?_
    | with_reducible apply Steady.upd)

theorem takeForward_steady {s₀ : State} (a : MgmtAuth) (f : Forwarded) {s : State} (hst : Steady s₀ s) :
    Steady s₀ (takeForward a f s) := by
  unfold takeForward
  repeat' (first
    | with_reducible assumption | intro _ | with_reducible apply receiveMgmt_steady | with_reducible apply takeEffective_steady
    | with_reducible apply retireReset_steady | with_reducible apply targetRun_steady | with_reducible apply handle_steady
    | split | extract_lets | dsimp only | refine Steady.of_done (by with_reducible assumption) ?_
    | refine Steady.of_later (by with_reducible assumption) ?_ | with_reducible apply Steady.upd)

theorem takeResponse_steady {s₀ : State} (a : MgmtAuth) (src : Nat) (sequence : Nat) (st : Status) (payload : List Byte) {s : State} (hst : Steady s₀ s) :
    Steady s₀ (takeResponse a src sequence st payload s) := by
  unfold takeResponse
  repeat' (first
    | with_reducible assumption | intro _ | with_reducible apply receiveMgmt_steady | with_reducible apply settleForward_steady
    | split | extract_lets | dsimp only | with_reducible apply Steady.upd)

end Sys2Proof.Machine
end

