-- ==== Sys2Proof/Laws/SteadyStartup.lean ====
section
/-!
SUPPORT. The operations of Machine/Startup.lean are steady: fuses go one way, the command queue stays, memory stays canonical.
-/

namespace Sys2Proof.Machine

open Sys2Proof.Safety

set_option linter.unusedTactic false
set_option linter.unreachableTactic false

theorem tapAccepts_steady {s₀ : State} (f : State → State) {s : State} (hf : ∀ {s₀ s}, Steady s₀ s → Steady s₀ (f s)) (hst : Steady s₀ s) :
    Steady s₀ (tapAccepts f s) := by
  unfold tapAccepts
  repeat' (first
    | with_reducible assumption | intro _ | with_reducible apply hf | split | extract_lets | dsimp only
    | with_reducible apply Steady.upd)

theorem modStart_steady {s₀ : State} (f : Start → Start) {s : State} (hst : Steady s₀ s) :
    Steady s₀ (modStart f s) := by
  unfold modStart
  repeat' (first
    | with_reducible assumption | split | extract_lets | dsimp only | with_reducible apply Steady.upd)

theorem brownOutOver_steady {s₀ : State} {s : State} (hst : Steady s₀ s) :
    Steady s₀ (brownOutOver s) := by
  unfold brownOutOver
  repeat' (first
    | with_reducible assumption | with_reducible apply modStart_steady | with_reducible apply beginStart_steady | split
    | extract_lets | dsimp only | with_reducible apply Steady.upd)

theorem sessionExpired_steady {s₀ : State} (id : Nat) {s : State} (hst : Steady s₀ s) :
    Steady s₀ (sessionExpired id s) := by
  unfold sessionExpired
  repeat' (first
    | with_reducible assumption | with_reducible apply closeSession_steady | with_reducible apply raise_steady | split
    | extract_lets | dsimp only | with_reducible apply Steady.upd)

theorem tokenExpiry_steady {s₀ : State} {s : State} (hst : Steady s₀ s) :
    Steady s₀ (tokenExpiry s) := by
  unfold tokenExpiry
  repeat' (first
    | with_reducible assumption | with_reducible apply endToken_steady | split | extract_lets | dsimp only
    | with_reducible apply Steady.upd)

theorem brownOut_steady {s₀ : State} (rail : Nat) (kind : Nat) {s : State} (hst : Steady s₀ s) :
    Steady s₀ (brownOut rail kind s) := by
  unfold brownOut
  repeat' (first
    | with_reducible assumption | with_reducible apply modStart_steady | with_reducible apply resetModule_steady | split
    | extract_lets | dsimp only | with_reducible apply Steady.upd)

theorem advanceStart_steady {s₀ : State} {s : State} (hst : Steady s₀ s) :
    Steady s₀ (advanceStart s) := by
  unfold advanceStart
  repeat' (first
    | with_reducible assumption | with_reducible apply modStart_steady | split | extract_lets | dsimp only
    | with_reducible apply Steady.upd)

theorem hubCoresRun_steady {s₀ : State} {s : State} (hst : Steady s₀ s) :
    Steady s₀ (hubCoresRun s) := by
  unfold hubCoresRun
  repeat' (first
    | with_reducible assumption | with_reducible apply advanceStart_steady | with_reducible apply modStart_steady
    | with_reducible apply bootFallback_steady | split | extract_lets | dsimp only | with_reducible apply Steady.upd)

theorem perstReset_steady {s₀ : State} {s : State} (hst : Steady s₀ s) :
    Steady s₀ (perstReset s) := by
  unfold perstReset
  repeat' (first
    | with_reducible assumption | with_reducible apply modStart_steady | with_reducible apply resetModule_steady | split
    | extract_lets | dsimp only | with_reducible apply Steady.upd)

theorem pendingTimeout_steady {s₀ : State} (id : Nat) {s : State} (hst : Steady s₀ s) :
    Steady s₀ (pendingTimeout id s) := by
  unfold pendingTimeout
  repeat' (first
    | with_reducible assumption | split | extract_lets | dsimp only | with_reducible apply Steady.upd)

theorem linkReset_steady {s₀ : State} (cause : Nat) {s : State} (hst : Steady s₀ s) :
    Steady s₀ (linkReset cause s) := by
  unfold linkReset
  repeat' (first
    | with_reducible assumption | with_reducible apply resetAtOnce_steady | split | extract_lets | dsimp only
    | with_reducible apply Steady.upd)

theorem delayedReset_steady {s₀ : State} {s : State} (hst : Steady s₀ s) :
    Steady s₀ (delayedReset s) := by
  unfold delayedReset
  repeat' (first
    | with_reducible assumption | with_reducible apply resetAtOnce_steady | split | extract_lets | dsimp only
    | with_reducible apply Steady.upd)

theorem tapMemory_steady {s₀ : State} (a : Nat) (write : Option Byte) {s : State} (hst : Steady s₀ s) :
    Steady s₀ (tapMemory a write s) := by
  unfold tapMemory
  repeat' (first
    | with_reducible assumption | with_reducible apply writeHbm_steady | with_reducible apply readSpan_steady
    | with_reducible apply emit_steady | split | extract_lets | dsimp only
    | refine Steady.of_thd (by with_reducible assumption) ?_ | with_reducible apply Steady.upd
    | with_reducible apply Steady.upd_write | with_reducible apply Steady.upd_drop | with_reducible apply Steady.upd_over)

theorem startOrigin_steady {s₀ : State} {s : State} (hst : Steady s₀ s) :
    Steady s₀ (startOrigin s) := by
  unfold startOrigin
  repeat' (first
    | with_reducible assumption | with_reducible apply modStart_steady | with_reducible apply beginStart_steady | split
    | extract_lets | dsimp only | with_reducible apply Steady.upd)

theorem powerOn_steady {s₀ : State} {s : State} (hst : Steady s₀ s) :
    Steady s₀ (powerOn s) := by
  unfold powerOn
  repeat' (first
    | with_reducible assumption | with_reducible apply resetModule_steady | with_reducible apply modTick_steady
    | with_reducible apply modStart_steady | split | extract_lets | dsimp only | with_reducible apply Steady.upd)

theorem aonLoss_steady {s₀ : State} (rail : Nat) {s : State} (hst : Steady s₀ s) :
    Steady s₀ (aonLoss rail s) := by
  unfold aonLoss
  repeat' (first
    | with_reducible assumption | with_reducible apply powerOn_steady | split | extract_lets | dsimp only
    | with_reducible apply Steady.upd)

theorem tapBypass_steady {s₀ : State} (tdi : Bool) {s : State} (hst : Steady s₀ s) :
    Steady s₀ (tapBypass tdi s) := by
  unfold tapBypass
  repeat' (first
    | with_reducible assumption | with_reducible apply modStart_steady | with_reducible apply emit_steady | split | extract_lets
    | dsimp only | with_reducible apply Steady.upd)

theorem watchdog_steady {s₀ : State} {s : State} (hst : Steady s₀ s) :
    Steady s₀ (watchdog s) := by
  unfold watchdog
  repeat' (first
    | with_reducible assumption | with_reducible apply resetAtOnce_steady | split | extract_lets | dsimp only
    | with_reducible apply Steady.upd)

theorem vatFailsStart_steady {s₀ : State} {s : State} (v : Nat) (hst : Steady s₀ s) :
    Steady s₀ (vatFailsStart s v) := by
  unfold vatFailsStart
  repeat' (first
    | with_reducible assumption | with_reducible apply raise_steady | with_reducible apply setSvcState_steady | split
    | extract_lets | dsimp only | with_reducible apply Steady.upd)

theorem noteLinks_steady {s₀ : State} {s : State} (hst : Steady s₀ s) :
    Steady s₀ (noteLinks s) := by
  unfold noteLinks
  repeat' (first
    | with_reducible assumption | with_reducible apply raise_steady | with_reducible apply modStart_steady | split | extract_lets
    | dsimp only | with_reducible apply Steady.upd)

theorem firmwareReady_steady {s₀ : State} (ms : Nat) (vatFailures : List Nat) {s : State} (hst : Steady s₀ s) :
    Steady s₀ (firmwareReady ms vatFailures s) := by
  unfold firmwareReady
  repeat' (first
    | with_reducible assumption | intro _ | with_reducible apply vatFailsStart_steady | with_reducible apply modStart_steady
    | with_reducible apply flushEvents_steady | with_reducible apply modTick_steady | with_reducible apply noteLinks_steady
    | with_reducible apply Steady.foldl | with_reducible apply Steady.foldl_fst | split | extract_lets | dsimp only
    | with_reducible apply Steady.upd)

theorem startFailure_steady {s₀ : State} (step : Nat) (unit : Nat) (r : ErrRec) {s : State} (hst : Steady s₀ s) :
    Steady s₀ (startFailure step unit r s) := by
  unfold startFailure
  repeat' (first
    | with_reducible assumption | with_reducible apply errRecord_steady | with_reducible apply flushEvents_steady
    | with_reducible apply raise_steady | split | extract_lets | dsimp only | with_reducible apply Steady.upd)

theorem stackTrained_steady {s₀ : State} (stack : Nat) (ok : Bool) {s : State} (hst : Steady s₀ s) :
    Steady s₀ (stackTrained stack ok s) := by
  unfold stackTrained
  repeat' (first
    | with_reducible assumption | with_reducible apply advanceStart_steady | with_reducible apply modStart_steady
    | with_reducible apply startFailure_steady | split | extract_lets | dsimp only | with_reducible apply Steady.upd)

theorem tapScan_steady {s₀ : State} {s : State} (hst : Steady s₀ s) :
    Steady s₀ (tapScan s) := by
  unfold tapScan
  repeat' (first
    | with_reducible assumption | split | extract_lets | dsimp only | with_reducible apply Steady.upd)

theorem portGroupStart_steady {s₀ : State} {s : State} (hst : Steady s₀ s) :
    Steady s₀ (portGroupStart s) := by
  unfold portGroupStart
  repeat' (first
    | with_reducible assumption | intro _ | with_reducible apply emit_steady | with_reducible apply modPort_steady
    | with_reducible apply Steady.foldl | with_reducible apply Steady.foldl_fst | split | extract_lets | dsimp only
    | with_reducible apply Steady.upd)

theorem pinReset_steady {s₀ : State} {s : State} (hst : Steady s₀ s) :
    Steady s₀ (pinReset s) := by
  unfold pinReset
  repeat' (first
    | with_reducible assumption | with_reducible apply modStart_steady | with_reducible apply resetModule_steady | split
    | extract_lets | dsimp only | with_reducible apply Steady.upd)

theorem tapExtest_steady {s₀ : State} {s : State} (hst : Steady s₀ s) :
    Steady s₀ (tapExtest s) := by
  unfold tapExtest
  repeat' (first
    | with_reducible assumption | with_reducible apply emit_steady | split | extract_lets | dsimp only
    | with_reducible apply Steady.upd)

theorem tapSample_steady {s₀ : State} (preload : List Bool) {s : State} (hst : Steady s₀ s) :
    Steady s₀ (tapSample preload s) := by
  unfold tapSample
  repeat' (first
    | with_reducible assumption | with_reducible apply freeBytes_steady | with_reducible apply modStart_steady
    | with_reducible apply emit_steady | split | extract_lets | dsimp only
    | refine Steady.of_snd (by with_reducible assumption) ?_ | with_reducible apply Steady.upd)

theorem railTimeout_steady {s₀ : State} (rail : Nat) (statusWord : Nat) {s : State} (hst : Steady s₀ s) :
    Steady s₀ (railTimeout rail statusWord s) := by
  unfold railTimeout
  repeat' (first
    | with_reducible assumption | with_reducible apply startFailure_steady | split | extract_lets | dsimp only
    | with_reducible apply Steady.upd)

theorem stackInitialised_steady {s₀ : State} (stack : Nat) {s : State} (hst : Steady s₀ s) :
    Steady s₀ (stackInitialised stack s) := by
  unfold stackInitialised
  repeat' (first
    | with_reducible assumption | with_reducible apply advanceStart_steady | with_reducible apply modStart_steady | split
    | extract_lets | dsimp only | with_reducible apply Steady.upd | with_reducible apply Steady.upd_write
    | with_reducible apply Steady.upd_drop | with_reducible apply Steady.upd_over)

theorem lockoutEnd_steady {s₀ : State} {s : State} (hst : Steady s₀ s) :
    Steady s₀ (lockoutEnd s) := by
  unfold lockoutEnd
  repeat' (first
    | with_reducible assumption | split | extract_lets | dsimp only | with_reducible apply Steady.upd)

end Sys2Proof.Machine
end

