-- ==== Sys2Proof/Laws/SteadyHost.lean ====
section
/-!
SUPPORT. The operations of Machine/Host.lean are steady: fuses go one way, the command queue stays, memory stays canonical.
-/

namespace Sys2Proof.Machine

open Sys2Proof.Safety

set_option linter.unusedTactic false
set_option linter.unreachableTactic false

theorem modCxl_steady {s₀ : State} (f : Cxl → Cxl) {s : State} (hst : Steady s₀ s) :
    Steady s₀ (modCxl f s) := by
  unfold modCxl
  repeat' (first
    | with_reducible assumption | split | extract_lets | dsimp only | with_reducible apply Steady.upd)

theorem commitDecoder_steady {s₀ : State} (base : Nat) (size : Nat) (ways : Nat) (skip : Nat) {s : State} (hst : Steady s₀ s) :
    Steady s₀ (commitDecoder base size ways skip s) := by
  unfold commitDecoder
  repeat' (first
    | with_reducible assumption | with_reducible apply modCxl_steady | with_reducible apply emit_steady | split | extract_lets
    | dsimp only | with_reducible apply Steady.upd)

theorem linkTrained_steady {s₀ : State} (lanes : Nat) (gts : Nat) {s : State} (hst : Steady s₀ s) :
    Steady s₀ (linkTrained lanes gts s) := by
  unfold linkTrained
  repeat' (first
    | with_reducible assumption | with_reducible apply modCxl_steady | with_reducible apply raise_steady | split | extract_lets
    | dsimp only | with_reducible apply Steady.upd)

theorem enterReduced_steady {s₀ : State} {s : State} (hst : Steady s₀ s) :
    Steady s₀ (enterReduced s) := by
  unfold enterReduced
  repeat' (first
    | with_reducible assumption | intro _ | with_reducible apply modCxl_steady | with_reducible apply stopIfReduced_steady
    | with_reducible apply Steady.foldl | with_reducible apply Steady.foldl_fst | split | extract_lets | dsimp only
    | with_reducible apply Steady.upd)

theorem timeoutEvent_steady {s₀ : State} (hpa : Nat) {s : State} (hst : Steady s₀ s) :
    Steady s₀ (timeoutEvent hpa s) := by
  unfold timeoutEvent
  repeat' (first
    | with_reducible assumption | with_reducible apply raise_steady | with_reducible apply modCxl_steady | split | extract_lets
    | dsimp only | with_reducible apply Steady.upd)

theorem requestTimeout_steady {s₀ : State} (q : Nat) (idx : U32) (fetch : Bool) (hpa : Nat) (now : Nat) {s : State} (hst : Steady s₀ s) :
    Steady s₀ (requestTimeout q idx fetch hpa now s) := by
  unfold requestTimeout
  repeat' (first
    | with_reducible assumption | intro _ | with_reducible apply atTime_steady | with_reducible apply timeoutEvent_steady
    | with_reducible apply modCxl_steady | with_reducible apply stopQueue_steady | with_reducible apply modQ_steady
    | with_reducible apply scramble_steady | with_reducible apply freePress_steady | with_reducible apply finishOp_steady
    | with_reducible apply Steady.foldl | with_reducible apply Steady.foldl_fst | split | extract_lets | dsimp only
    | with_reducible apply Steady.upd)

theorem snoop_steady {s₀ : State} (address : Nat) {s : State} (hst : Steady s₀ s) :
    Steady s₀ (snoop address s) := by
  unfold snoop
  repeat' (first
    | with_reducible assumption | with_reducible apply emit_steady | split | extract_lets | dsimp only
    | with_reducible apply Steady.upd)

theorem sendPending_steady {s₀ : State} {s : State} (hst : Steady s₀ s) :
    Steady s₀ (sendPending s) := by
  unfold sendPending
  repeat' (first
    | with_reducible assumption | intro _ | with_reducible apply sendMsix_steady | with_reducible apply modCxl_steady
    | with_reducible apply Steady.foldl | with_reducible apply Steady.foldl_fst | split | extract_lets | dsimp only
    | with_reducible apply Steady.upd)

theorem configWrite_steady {s₀ : State} (offset : Nat) (v : U32) {s : State} (hst : Steady s₀ s) :
    Steady s₀ (configWrite offset v s) := by
  unfold configWrite
  repeat' (first
    | with_reducible assumption | with_reducible apply modCxl_steady | with_reducible apply sendPending_steady | split
    | extract_lets | dsimp only | with_reducible apply Steady.upd)

theorem memRead_steady {s₀ : State} (a : Nat) (len : Nat) {s : State} (hst : Steady s₀ s) :
    Steady s₀ (memRead a len s) := by
  unfold memRead
  repeat' (first
    | with_reducible assumption | with_reducible apply readSpan_steady | with_reducible apply emit_steady | split | extract_lets
    | dsimp only | refine Steady.of_thd (by with_reducible assumption) ?_ | with_reducible apply Steady.upd
    | with_reducible apply Steady.upd_write | with_reducible apply Steady.upd_drop | with_reducible apply Steady.upd_over)

theorem configRequest_steady {s₀ : State} (offset : Nat) (write : Option U32) {s : State} (hst : Steady s₀ s) :
    Steady s₀ (configRequest offset write s) := by
  unfold configRequest
  repeat' (first
    | with_reducible assumption | with_reducible apply emit_steady | with_reducible apply configWrite_steady | split
    | extract_lets | dsimp only | with_reducible apply Steady.upd)

theorem flrQueue_steady {s₀ : State} {s : State} (q : Nat) (hst : Steady s₀ s) :
    Steady s₀ (flrQueue s q) := by
  unfold flrQueue
  repeat' (first
    | with_reducible assumption | intro _ | with_reducible apply resetQueueBy_steady | with_reducible apply modJob_steady | split
    | extract_lets | dsimp only | with_reducible apply Steady.upd)

theorem functionReset_steady {s₀ : State} {s : State} (hst : Steady s₀ s) :
    Steady s₀ (functionReset s) := by
  unfold functionReset
  repeat' (first
    | with_reducible assumption | intro _ | with_reducible apply flrQueue_steady | with_reducible apply raise_steady
    | with_reducible apply Steady.foldl | with_reducible apply Steady.foldl_fst | split | extract_lets | dsimp only
    | with_reducible apply Steady.upd)

theorem unmask_steady {s₀ : State} (v : Nat) {s : State} (hst : Steady s₀ s) :
    Steady s₀ (unmask v s) := by
  unfold unmask
  repeat' (first
    | with_reducible assumption | with_reducible apply sendPending_steady | with_reducible apply modCxl_steady | split
    | extract_lets | dsimp only | with_reducible apply Steady.upd)

theorem memWrite_steady {s₀ : State} (a : Nat) (data : List Byte) (poison : Bool) {s : State} (hst : Steady s₀ s) :
    Steady s₀ (memWrite a data poison s) := by
  unfold memWrite
  repeat' (first
    | with_reducible assumption | with_reducible apply modCxl_steady | with_reducible apply emit_steady
    | with_reducible apply writeHbm_steady | split | extract_lets | dsimp only | with_reducible apply Steady.upd)

theorem linkDown_steady {s₀ : State} (cause : Nat) {s : State} (hst : Steady s₀ s) :
    Steady s₀ (linkDown cause s) := by
  unfold linkDown
  repeat' (first
    | with_reducible assumption | with_reducible apply raise_steady | with_reducible apply modCxl_steady | split | extract_lets
    | dsimp only | with_reducible apply Steady.upd)

end Sys2Proof.Machine
end

