-- ==== Sys2Proof/Laws/SteadyScrub.lean ====
section
/-!
SUPPORT. The operations of Machine/Scrub.lean are steady: fuses go one way, the command queue stays, memory stays canonical.
-/

namespace Sys2Proof.Machine

open Sys2Proof.Safety

set_option linter.unusedTactic false
set_option linter.unreachableTactic false

theorem modMem_steady {s₀ : State} (f : MemCtl → MemCtl) {s : State} (hst : Steady s₀ s) :
    Steady s₀ (modMem f s) := by
  unfold modMem
  repeat' (first
    | with_reducible assumption | split | extract_lets | dsimp only | with_reducible apply Steady.upd)

theorem injectWrite_steady {s₀ : State} (v : U32) {s : State} (hst : Steady s₀ s) :
    Steady s₀ (injectWrite v s) := by
  unfold injectWrite
  repeat' (first
    | with_reducible assumption | with_reducible apply modMem_steady | split | extract_lets | dsimp only
    | with_reducible apply Steady.upd)

theorem upsetHbm_steady {s₀ : State} (u : Option Upset) {s : State} (hst : Steady s₀ s) :
    Steady s₀ (upsetHbm u s) := by
  unfold upsetHbm
  repeat' (first
    | with_reducible assumption | with_reducible apply modMem_steady | split | extract_lets | dsimp only
    | with_reducible apply Steady.upd | with_reducible apply Steady.upd_write | with_reducible apply Steady.upd_drop
    | with_reducible apply Steady.upd_over)

theorem cacheWordLost_steady {s₀ : State} {s : State} (hst : Steady s₀ s) :
    Steady s₀ (cacheWordLost s) := by
  unfold cacheWordLost
  repeat' (first
    | with_reducible assumption | split | extract_lets | dsimp only | with_reducible apply Steady.upd
    | with_reducible apply Steady.upd_write | with_reducible apply Steady.upd_drop | with_reducible apply Steady.upd_over)

theorem sramFails_steady {s₀ : State} (source : Nat) (unit : Nat) (off : Nat) {s : State} (hst : Steady s₀ s) :
    Steady s₀ (sramFails source unit off s) := by
  unfold sramFails
  repeat' (first
    | with_reducible assumption | with_reducible apply unitUncorr_steady | with_reducible apply cacheWordLost_steady
    | with_reducible apply modEngine_steady | with_reducible apply modPress_steady | with_reducible apply poisonCounters_steady
    | split | extract_lets | dsimp only | with_reducible apply Steady.upd)

theorem scrubSramWord_steady {s₀ : State} (source : Nat) (unit : Nat) (off : Nat) (l : Latent) {s : State} (hst : Steady s₀ s) :
    Steady s₀ (scrubSramWord source unit off l s) := by
  unfold scrubSramWord
  repeat' (first
    | with_reducible assumption | with_reducible apply poisonCounters_steady | with_reducible apply correctSram_steady
    | with_reducible apply freeBytes_steady | with_reducible apply sramFails_steady | with_reducible apply uncorrectSram_steady
    | split | extract_lets | dsimp only | refine Steady.of_snd (by with_reducible assumption) ?_
    | with_reducible apply Steady.upd)

theorem sramScrub_steady {s₀ : State} (source unit offset symbols symbol : Nat) {s : State} (hst : Steady s₀ s) :
    Steady s₀ (sramScrub source unit offset symbols symbol s) := by
  unfold sramScrub
  split
  · exact hst
  extract_lets off a here lain made upset b all
  have ha : Steady s₀ a := by
    unfold a
    split
    · exact modMem_steady _ hst
    · exact hst
  clear_value a
  have hb : Steady s₀ b := modMem_steady _ ha
  clear_value b all
  split
  · exact hb
  · exact scrubSramWord_steady _ _ _ _ hb

theorem hbmScrub_steady {s₀ : State} (u : Option Upset) {s : State} (hst : Steady s₀ s) :
    Steady s₀ (hbmScrub u s) := by
  unfold hbmScrub
  repeat' (first
    | with_reducible assumption | with_reducible apply upsetHbm_steady | with_reducible apply touchWord_steady
    | with_reducible apply modMem_steady | split | extract_lets | dsimp only | with_reducible apply Steady.upd
    | with_reducible apply Steady.upd_write | with_reducible apply Steady.upd_drop | with_reducible apply Steady.upd_over)

end Sys2Proof.Machine
end

