-- ==== Sys2Proof/Laws/SteadyRegisters.lean ====
section
/-!
SUPPORT. The operations of Machine/Registers.lean are steady: fuses go one way, the command queue stays, memory stays canonical.
-/

namespace Sys2Proof.Machine

open Sys2Proof.Safety

set_option linter.unusedTactic false
set_option linter.unreachableTactic false

theorem boxWrite_steady {s₀ : State} (m : Nat) (off : Nat) (v : U32) {s : State} (hst : Steady s₀ s) :
    Steady s₀ (boxWrite m off v s) := by
  unfold boxWrite
  repeat' (first
    | with_reducible assumption | with_reducible apply mailboxCommand_steady | with_reducible apply modBox_steady | split
    | extract_lets | dsimp only | with_reducible apply Steady.upd)

theorem setSmbus_steady {s₀ : State} (off : Nat) {s : State} (hst : Steady s₀ s) :
    Steady s₀ (setSmbus off s) := by
  unfold setSmbus
  repeat' (first
    | with_reducible assumption | split | extract_lets | dsimp only | with_reducible apply Steady.upd)

theorem smbusWrite_steady {s₀ : State} (data : List Byte) (pecOk : Bool) {s : State} (hst : Steady s₀ s) :
    Steady s₀ (smbusWrite data pecOk s) := by
  unfold smbusWrite
  repeat' (first
    | with_reducible assumption | intro _ | with_reducible apply boxWrite_steady | with_reducible apply emit_steady
    | with_reducible apply setSmbus_steady | with_reducible apply Steady.foldl | with_reducible apply Steady.foldl_fst | split
    | extract_lets | dsimp only | with_reducible apply Steady.upd)

theorem readOut_steady {s₀ : State} (off : Nat) {s : State} (hst : Steady s₀ s) :
    Steady s₀ (readOut off s) := by
  unfold readOut
  repeat' (first
    | with_reducible assumption | with_reducible apply emit_steady | split | extract_lets | dsimp only
    | with_reducible apply Steady.upd)

theorem readQueueEnergy_steady {s₀ : State} (q : Nat) {s : State} (hst : Steady s₀ s) :
    Steady s₀ (readQueueEnergy q s) := by
  unfold readQueueEnergy
  repeat' (first
    | with_reducible assumption | with_reducible apply readOut_steady | with_reducible apply modQ_steady | split | extract_lets
    | dsimp only | with_reducible apply Steady.upd)

theorem dbgCoreWrite_steady {s₀ : State} (v : U32) {s : State} (hst : Steady s₀ s) :
    Steady s₀ (dbgCoreWrite v s) := by
  unfold dbgCoreWrite
  repeat' (first
    | with_reducible assumption | with_reducible apply serveParked_steady | with_reducible apply haltCores_steady
    | with_reducible apply stepCores_steady | split | extract_lets | dsimp only | with_reducible apply Steady.upd)

theorem memConfigWrite_steady {s₀ : State} (v : U32) {s : State} (hst : Steady s₀ s) :
    Steady s₀ (memConfigWrite v s) := by
  unfold memConfigWrite
  repeat' (first
    | with_reducible assumption | with_reducible apply modSettings_steady | with_reducible apply modMem_steady | split
    | extract_lets | dsimp only | with_reducible apply Steady.upd)

theorem statusWrite_steady {s₀ : State} (off : Nat) (v : U32) {s : State} (hst : Steady s₀ s) :
    Steady s₀ (statusWrite off v s) := by
  unfold statusWrite
  repeat' (first
    | with_reducible assumption | with_reducible apply memConfigWrite_steady | with_reducible apply injectWrite_steady
    | with_reducible apply modMem_steady | with_reducible apply dbgCoreWrite_steady | split | extract_lets | dsimp only
    | with_reducible apply Steady.upd)

theorem readTickBase_steady {s₀ : State} {s : State} (hst : Steady s₀ s) :
    Steady s₀ (readTickBase s) := by
  unfold readTickBase
  repeat' (first
    | with_reducible assumption | with_reducible apply readOut_steady | split | extract_lets | dsimp only
    | with_reducible apply Steady.upd)

theorem eventWrite_steady {s₀ : State} (off : Nat) (v : U32) {s : State} (hst : Steady s₀ s) :
    Steady s₀ (eventWrite off v s) := by
  unfold eventWrite
  repeat' (first
    | with_reducible assumption | split | extract_lets | dsimp only | with_reducible apply Steady.upd)

theorem counterWrite_steady {s₀ : State} (c : Nat) (off : Nat) (v : U32) {s : State} (hst : Steady s₀ s) :
    Steady s₀ (counterWrite c off v s) := by
  unfold counterWrite
  repeat' (first
    | with_reducible assumption | with_reducible apply windowWrite_steady | with_reducible apply modC_steady | split
    | extract_lets | dsimp only | with_reducible apply Steady.upd)

theorem msixWrite_steady {s₀ : State} (off : Nat) (v : U32) {s : State} (hst : Steady s₀ s) :
    Steady s₀ (msixWrite off v s) := by
  unfold msixWrite
  repeat' (first
    | with_reducible assumption | with_reducible apply modCxl_steady | with_reducible apply sendPending_steady | split
    | extract_lets | dsimp only | with_reducible apply Steady.upd)

theorem writeReg_steady {s₀ : State} (off : Nat) (v : U32) {s : State} (hst : Steady s₀ s) : Steady s₀ (writeReg off v s) := by
  unfold writeReg
  refine .ite hst (.ite (statusWrite_steady _ _ hst) (.ite (boxWrite_steady _ _ _ hst) (.ite (eventWrite_steady _ _ hst) (.ite hst
    (.ite (.ite (tailWrite_steady _ _ hst) hst) (.ite hst (.ite (.ite (slotHeadWrite_steady _ _ hst) hst) (.ite hst
    (.ite (counterWrite_steady _ _ _ hst) (.ite ?_ (.ite ?_ (.ite ?_ (.ite ?_ (.ite (msixWrite_steady _ _ hst) hst))))))))))))))
  all_goals exact .upd hst

theorem smbusOffset_steady {s₀ : State} (off : Nat) (pecOk : Bool) {s : State} (hst : Steady s₀ s) :
    Steady s₀ (smbusOffset off pecOk s) := by
  unfold smbusOffset
  repeat' (first
    | with_reducible assumption | with_reducible apply emit_steady | with_reducible apply setSmbus_steady | split | extract_lets
    | dsimp only | with_reducible apply Steady.upd)

theorem readTickCount_steady {s₀ : State} {s : State} (hst : Steady s₀ s) :
    Steady s₀ (readTickCount s) := by
  unfold readTickCount
  repeat' (first
    | with_reducible assumption | with_reducible apply readOut_steady | split | extract_lets | dsimp only
    | with_reducible apply Steady.upd)

theorem readEnergy_steady {s₀ : State} {s : State} (hst : Steady s₀ s) :
    Steady s₀ (readEnergy s) := by
  unfold readEnergy
  repeat' (first
    | with_reducible assumption | with_reducible apply readOut_steady | with_reducible apply modPower_steady | split
    | extract_lets | dsimp only | with_reducible apply Steady.upd)

theorem smbusRead_steady {s₀ : State} (pecOk : Bool) {s : State} (hst : Steady s₀ s) :
    Steady s₀ (smbusRead pecOk s) := by
  unfold smbusRead
  repeat' (first
    | with_reducible assumption | with_reducible apply emit_steady | with_reducible apply setSmbus_steady | split | extract_lets
    | dsimp only | with_reducible apply Steady.upd)

theorem readThrottle_steady {s₀ : State} (reason : Nat) (below : Bool) {s : State} (hst : Steady s₀ s) :
    Steady s₀ (readThrottle reason below s) := by
  unfold readThrottle
  repeat' (first
    | with_reducible assumption | with_reducible apply readOut_steady | with_reducible apply modPower_steady | split
    | extract_lets | dsimp only | with_reducible apply Steady.upd)

end Sys2Proof.Machine
end

