-- ==== Sys2Proof/Tests/Slice0.lean ====
section
/-!
SUPPORT. Tests: ill-formed commands that WellFormed refuses, the spec's worked examples, and for each statement states and operands that
meet its premises.
-/

namespace Sys2Proof.Tests

open Sys2Proof.Machine Sys2Proof.Safety

-- One theorem at a time: the kernel evaluates each, and theorems that wait for it hold a thread each.
set_option Elab.async false

/-! ### Ill-formed commands -/

def refused (l : List Instr) : Bool := l.all fun i => !i.wf

def goodCall : MbCall :=
  { mb := 4, flags := 0xFFFF, sequence := 0xFFFFFFFF, length := 0xFFFFFFFF, target := 0xFF, rsvd := 2 ^ 56 - 1, session := 0xFFFFFFFF,
    counter := 2 ^ 64 - 1, payload := [] }

theorem test_wf_accepts_the_largest_header : Instr.wf (.identify goodCall) = true := by decide +kernel

/-- One bad field of the header each (R388). -/
theorem test_wf_refuses_headers :
    refused ([{ goodCall with mb := 5 }, { goodCall with flags := 0x10000 }, { goodCall with sequence := 2 ^ 32 },
      { goodCall with length := 2 ^ 32 }, { goodCall with target := 0x100 }, { goodCall with rsvd := 2 ^ 56 },
      { goodCall with session := 2 ^ 32 }, { goodCall with counter := 2 ^ 64 },
      { goodCall with payload := List.replicate 4097 0 }].map .identify) = true := by decide +kernel

def bad : MbCall := { goodCall with mb := 5 }

theorem test_wf_refuses_mailbox_commands :
    refused ([Instr.counterClaim, .counterRelease, .counterReleaseForce, .counterSet, .identify, .getStatus, .sessionInit, .sessionFinish,
      .sessionClose, .queueSetup, .queueRestart, .queueReset, .queueDisable, .slotRingSetup, .packageInstall, .packageRemove,
      .cultureStage, .cultureRemove, .cultureCommit, .indexLoad, .indexCommit, .tickConfig, .bwSplit, .mgmtConfig, .settingsCommit,
      .settingsErase, .powerLimits, .powerStateA0, .powerStateA2, .powerStateA3, .fwStage, .fwActivateAtReset, .fwActivateLive, .fwStatus,
      .attestReport, .attestCertificate, .credentialSet, .debugTokenDrop, .debugTokenApply, .lifecycleProvision, .lifecycleDeploy,
      .lifecycleRetire, .lifecycleRevoke, .lifecycleAdvanceRollback, .unitDrain, .unitReturn, .recalibrateEstimator, .recalibrateVat,
      .recalibratePoints, .recalibratePort, .planSetReplace, .moduleReset, .topologySet].map fun f => f bad) = true := by decide +kernel

theorem test_wf_refuses_queues :
    refused [.qdbTailWrite 4096 0, .descriptorStart 4096 0, .operationStep 4096 0, .operationComplete 4096, .queueOwnerReset 4096,
      .runPlan 4096 0, .matmul 4096 0 none, .attention 4096 0 none, .conv 4096 0 none, .resample 4096 0 none, .func 4096 0 none,
      .norm 4096 0 none, .softmax 4096 0 none, .hint 4096 0, .transfer 4096 0, .gather 4096 0, .slotFree 4096 0, .decodeBegin 4096 0,
      .decodePass 4096 0 false, .decodeEnd 4096 0, .encodeWheel 4096 default, .compress 4096 0 none, .inflate 4096 0 none, .sample 4096 0,
      .sampleEntry 4096 0 false, .lookup 4096 0, .putEntry 4096 0, .deleteKey 4096 0, .signalCtr 4096 0, .subCtr 4096 0,
      .waitGe 4096 0, .acquire 4096 0, .hostRequestTimeout 4096 0 false 0 0, .qeLoRead 4096] = true := by decide +kernel

/-- A vat or an engine that does not exist. -/
theorem test_wf_refuses_units_of_operations :
    refused [.matmul 0 0 (some 160), .attention 0 0 (some 160), .conv 0 0 (some 160), .resample 0 0 (some 160), .func 0 0 (some 160),
      .norm 0 0 (some 160), .softmax 0 0 (some 160), .compress 0 0 (some 4), .inflate 0 0 (some 4), .tableSramRewrite 16,
      .vatAgeingCheck 160 0, .vatAgeingDeadline 160, .firmwareReady 0 [160], .firmwareReady (2 ^ 32) []] = true := by decide +kernel

theorem test_wf_refuses_ticks :
    refused [.tickBoundary { (default : BoundaryInput) with late := [{ unit := ⟨0, 0⟩, ns := 0 }] },
      .tickBoundary { (default : BoundaryInput) with idleCaps := [] }, .boundaryWindowEnd [{ unit := ⟨6, 0⟩, ns := 1 }],
      .skipWindow [] 65, .preparedPointFix { points := [], queueMemory := 0, queueLinks := 0, energyMj := 0 } true,
      .timestamp ⟨64, 0⟩ 0 0 0, .timestamp ⟨0, 65536⟩ 0 0 0, .timestampReply ⟨64, 0⟩ 0 0 0 0, .tickBaseMessage (2 ^ 64),
      .holdMsg ⟨64, 0⟩ 0, .holdMsg ⟨0, 65536⟩ 0, .releaseMsg ⟨64, 0⟩ 0 0, .variantRequest ⟨64, 0⟩ 0 0, .variantRequest ⟨0, 0⟩ 0 16,
      .startDefer ⟨64, 0⟩ 0 0, .startDefer ⟨0, 0⟩ 0 (2 ^ 32), .skipPattern ⟨64, 0⟩ 0 0, .planJobFailure .ok] = true := by decide +kernel

theorem test_wf_refuses_counters_sessions_rings :
    refused [.ctrAddWrite 0xFFFF 0, .ctrSubWrite 0xFFFF 0, .srHeadWrite 1024 0, .sessionPendingTimeout (2 ^ 32),
      .sessionExpired (2 ^ 32), .smbusWriteWord 0x10000 true, .smbusBlockWrite (List.replicate 256 0) true, .msixUnmask 2048,
      .registerWrite 2 0, .registerWrite (2 ^ 27) 0, .thrCountLoRead 0 false, .thrCountLoRead 9 false] = true := by decide +kernel

def auth0 : MgmtAuth := { port := 0, counter := 0, tag := List.replicate 16 0, message := [] }
def event0 : Event := { code := 0, severity := 0, module := 0, tick := 0, detail := [] }

theorem test_wf_refuses_management_messages :
    refused [.forwardedCommand { auth0 with port := 24 } default, .forwardedCommand auth0 { (default : Forwarded) with mailbox := 5 },
      .forwardedCommand auth0 { (default : Forwarded) with effective := some (2 ^ 64) },
      .forwardedCommand { auth0 with tag := [] } default, .forwardedResponse auth0 64 0 .ok [],
      .forwardedResponse auth0 0 0 .ok (List.replicate 4097 0), .eventMessage auth0 { event0 with code := 0x10000 },
      .eventMessage auth0 { event0 with detail := List.replicate 17 0 }, .eventMessage { auth0 with counter := 2 ^ 64 } event0,
      .reachabilityUpdate auth0 { (default : Reach) with module := 64 }, .budgetReport auth0 { (default : BudgetReport) with module := 64 },
      .grantMsg { auth0 with port := 24 } 0 0, .grantAcknowledge auth0 64] = true := by decide +kernel

def txn0 : Txn := { src := 0, txid := 0, reissue := false, cacheable := false, queue := 0, address := 0, length := 1, amount := 0 }

theorem test_wf_refuses_fabric :
    refused [.flit 24 [] 0 0, .flit 0 (List.replicate 255 0) 0 0, .linkNak 24 0, .linkNak 0 4096, .replayTimeout 24, .blockLockLoss 24,
      .portTrainingComplete 24 default, .portTrainingComplete 0 { (default : Training) with peerModule := 64 },
      .portTrainingComplete 0 { (default : Training) with peerPort := 24 }, .linkAuthOffer 24 default, .linkAuthReply 24 default,
      .writeRequest { txn0 with length := 2 } [0] [], .writeRequest { txn0 with length := 0 } [] [], .writeRequest txn0 [0] [1],
      .lightWrite { txn0 with length := 257 } (List.replicate 257 0) [], .readRequest { txn0 with length := 0 },
      .readRequest { txn0 with length := 4097 }, .lightRead { txn0 with length := 257 }, .counterRequest { txn0 with length := 0 } 0,
      .counterRequest { txn0 with length := 0 } 5, .counterRequest txn0 1, .readRequest { txn0 with src := 64 },
      .readRequest { txn0 with txid := 2 ^ 32 }, .readRequest { txn0 with address := 2 ^ 40 }, .completion 64 0 .ok,
      .completion 0 (2 ^ 32) .ok, .readData 64 0 .ok [] false, .readData 0 0 .ok (List.replicate 4097 0) false, .counterResult 64 0 .ok,
      .poisonMap 64 0 [], .poisonMap 0 0 (List.replicate 130 0), .noRouteTimeout 64, .recordExpiry 64 (.txn 0),
      .recordExpiry 0 (.txn (2 ^ 32)), .recordExpiry 0 (.sync 65536)] = true := by decide +kernel

theorem test_wf_refuses_units_memory_power :
    refused [.unitDrainEffect ⟨0, 160⟩, .unitDrained ⟨1, 16⟩, .unitTestComplete ⟨2, 8⟩ true 0, .unitTestComplete ⟨3, 71⟩ true 256,
      .unitReturnEffect ⟨5, 24⟩, .hbmScrub (some { word := 24000000000, symbols := 1, symbol := 0 }),
      .hbmScrub (some { word := 0, symbols := 0, symbol := 0 }), .sramScrub 0 0 0 0 0, .sramScrub 1 0 16 0 0, .sramScrub 1 0x10000 0 0 0,
      .sramScrub 1 0 0 256 0, .powerEstimate 0 0 0 [] [], .powerEstimate 0 0 0 [(4096, 0)] (List.replicate 16 0), .estimateCompare 0 [],
      .sensorRead [{ cls := 3, unit := 0, celsius := 0 }], .pwrAlertAssert 0 [some 0x10000], .droopTrip 19 0, .droopStretchEnd 19 0,
      .droopResponseEnd 19] = true := by decide +kernel

theorem test_wf_refuses_host_and_start :
    refused [.cxlMemRead (2 ^ 52) 1, .cxlMemRead 0 0, .cxlMemRead 0 65, .cxlMemWrite 0 [] false, .cxlMemWrite (2 ^ 52) [0] false,
      .cxlMemWrite 0 (List.replicate 65 0) false, .cxlSnoop (2 ^ 52), .configRequest 2 none, .configRequest 4096 none,
      .hdmDecoderCommit (2 ^ 52) 0 1 0, .hdmDecoderCommit 0 (2 ^ 52) 1 0, .cxlLinkTrained 2 32, .cxlLinkTrained 16 33,
      .hostRequestTimeout 0 0 false (2 ^ 52) 0, .tapMemoryAccess (2 ^ 40) none, .hbmStackTrained 12 true, .hbmStackInitialised 12,
      .railPowerGoodTimeout 14 0, .railPowerGoodTimeout 0 0x10000, .brownOut 14 0 0, .brownOut 0 2 0, .brownOut 0 0 0x10000,
      .alwaysOnRailLoss 14] = true := by decide +kernel

/-! ### Worked examples of the spec -/

/-- CDF 37 of the examples of 03_latent_codec and 04_range_coding. -/
def cdf37 : Cdf := { vmin := -2, cdf := [0, 40, 2800, 9000, 23800, 30000, 32728, 32768] }

/-- 03_latent_codec: element A. -/
theorem test_latent_element_a :
    rescale false 1234567 20000 20 (-32768) 32767 = 23547 ∧ roundMean false 23547 = 92 ∧ toIndex 3 cdf37 = (6, 0) := by decide +kernel

/-- 03_latent_codec: element B, and version 1 rounding. -/
theorem test_latent_element_b :
    roundMean false (-640) = -2 ∧ roundMean true (-640) = -3 ∧ toIndex (-1) cdf37 = (2, 0) ∧ findIndex 5431 cdf37 = 2 ∧
    fromIndex 2 0 cdf37 = -1 ∧ fromIndex 6 0 cdf37 = 3 := by decide +kernel

/-- 03_latent_codec: the scale index between thresholds 4,870 and 5,120. -/
theorem test_scale_index : scaleIndex false 5000 (List.replicate 36 0 ++ [4870, 5120]) 128 = 37 := by decide +kernel

/-- 04_range_coding: the encoder takes D, C, B, A. -/
theorem test_range_encoder :
    encElem cdf37 0 (65536, []) = (146408, []) ∧ encElem cdf37 3 (146408, []) = (491491, [0xC068]) ∧
    encElem cdf37 (-1) (491491, [0xC068]) = (2593163, [0xC068]) := by decide +kernel

/-- 04_range_coding: the decoder from the flushed state. -/
theorem test_range_decoder :
    let rd (_ : Nat) : Option Nat := some 0xC068
    decElem rd cdf37 2593163 0 = some (-1, 0, 491491, 0) ∧ decElem rd cdf37 491491 0 = some (3, 1, 146408, 1) ∧
    decElem rd cdf37 146408 1 = some (0, 0, 65536, 1) := by decide +kernel

/-- 05_wheels_and_tokens: the header of the two-frame wheel. -/
theorem test_wheel_header :
    let w : List Byte := [0x57, 0x48, 0x45, 0x4C, 2, 0, 0, 0, 0x31, 0x0A, 0, 0, 0x34, 0x6F, 0, 0, 0x3A, 0x91, 0x0C, 0x7E, 0xB2, 5, 0xD8, 0x44,
      0x61, 0xF0, 0x2B, 0x9C, 7, 0xE3, 0x58, 0xA6, 0x80, 7, 0x38, 4, 0, 1, 0x80, 0, 8, 2, 2, 0x20, 0xB0, 0x36, 0, 0, 0x50, 1, 1, 0, 0, 0, 0, 0,
      7, 0x4A, 0, 0, 0x12, 0, 0, 0]
    let h := wheelOf w
    wheelFieldsOk h = true ∧ h.magic = 0x4C454857 ∧ h.len = 28468 ∧ h.words = 14000 ∧ h.headerLen = 336 ∧ h.key = 0x0000001200004A07 ∧
    shapeOf h = ((68, 120), (17, 30)) ∧ passesOf h = 17 := by decide +kernel

/-- 05_wheels_and_tokens: the home bucket of clip key 1. -/
theorem test_home_bucket : home 1 = 162013 := by decide +kernel

/-- 06_number_formats: the words of the code lengths, the first segment bits, and the fifth weight 6 × 2^-8 as FP32. -/
theorem test_coded_fp4 :
    let ws := fp4Words [4, 2, 3, 4, 6, 7, 8, 8, 0, 2, 3, 4, 6, 7, 8, 8]
    fp4Syms ws 5 (msbBits [0x19, 0xDF, 0xA0]) = some ([1, 9, 2, 0xB, 7], List.replicate 5 false) ∧
    packCodes 0x07 [1, 9, 2, 0xB] = [0x91, 0xB2] ∧
    toF32 (scaledValue (decodeElem 0x07 7) (blockScale 3 0x30) (groupScale 0x3C000000)) = 0x3CC00000 := by decide +kernel

/-- 07_vat_matrix_engine: tiles and cycles of the E4M3 product. -/
theorem test_matmul_cost :
    let x : Mm := { (default : Mm) with m := 1000, n := 3000, k := 4096, batch := 1, fa := 3, fb := 3 }
    mmTiles x = 48 ∧ mmCycles x = 8256 := by decide +kernel

/-- 08_convolution_and_rind: output size and taps of the dilated kernel. -/
theorem test_conv_shape :
    let x : Cv := { (default : Cv) with
      n := 1, groups := 1, ci := 8, co := 8, kh := 3, kw := 3, h := 32, w := 32, sh := 1, sw := 1, dh := 64, dw := 64, pt := 64,
      pb := 64, pl := 64, pr := 64 }
    cvHo x = 32 ∧ cvWo x = 32 ∧ (cvTap x 0 31 1 1).isSome = true ∧ (cvTap x 0 31 0 1).isNone = true := by decide +kernel

/-- 09_special_functions: the mean of the four-element row, unshifted and shifted, 10,000.75 in FP32. -/
theorem test_norm_mean :
    let row : List Val := [.ofInt 10000, .fin false 20001 (-1), .ofInt 10001, .fin false 20003 (-1)]
    let c : Val := .ofInt 10000
    let n : Val := .ofInt 4
    toF32 (fdiv (laneSum row) n) = 0x461C4300 ∧
    toF32 (fadd c (fdiv (laneSum (row.map fun e => fsub e c)) n)) = 0x461C4300 := by decide +kernel

/-- 09_special_functions: V1EXP2. -/
theorem test_v1exp2 : v1exp2 1500 12 = 11307 := by decide +kernel

/-- 10_press: ten bytes of 0x61 at level 1 with fixed codes. -/
theorem test_press :
    packBits (jobBlocks 1 0 true [] (List.replicate 10 0x61) 0 []) = [0x4B, 0x84, 0x03, 0x00] ∧
    adler32 (List.replicate 10 0x61) = 0x14E103CB := by decide +kernel

/-- 11_memory: stack and granule of device address 0x0010_0000_1F40 in modes 0 and 1. -/
theorem test_interleave :
    stackOf 0 0x001000001F40 = 5 ∧ granuleIn 0 0x001000001F40 = 1398101 ∧ stackOf 1 0x001000001F40 = 5 ∧
    granuleIn 1 0x001000001F40 = 2796202 := by decide +kernel

/-- 15_nyverlink: port 20 of module 37, and the link from 37 to 35. -/
theorem test_topology :
    let t : Topology := { (default : Topology) with code := 2, modules := 64, module := 37 }
    peerOf t 37 20 = some (15, 20) ∧ portTo t 37 35 = some 13 ∧ peerOf t 37 13 = some (35, 1) ∧ peerOf t 35 20 = some (9, 20) := by
  decide +kernel

/-- FIPS 202, SHA3-256 of the empty message; CRC-32 and CRC-32C of "123456789". -/
theorem test_hashes :
    (sha3_256 []).take 4 = [0xA7, 0xFF, 0xC6, 0xF8] ∧ crc32 (ascii "123456789") = 0xCBF43926 ∧ crc32c (ascii "123456789") = 0xE3069283 := by
  decide +kernel

/-! ### A module at work -/

/-- A single module past its start-up. -/
def up : State :=
  { State.reset with start := { State.reset.start with
      inReset := false, resetLow := false, perstLow := false, seq := 9, trained := 12, initialised := 12, fwReady := true,
      memActive := true, vatsOn := true, railsOn := true } }

/-- A change of its tick. -/
def ticked (f : Tick → Tick) : State := modTick f up

/-- The next state of a command that answers one. -/
def after (i : Instr) (s : State) : State := match exec i s with
  | .next t => t
  | _ => s

/-- A free module that is not the head, in a configuration of four with topology 1. -/
def member : State :=
  { up with fabric := { up.fabric with
      topology := { code := 1, modules := 4, module := 1, head := 0, portMask := 7, configId := 9 }, usable := [0, 2, 3] } }

/-- 12_queues_and_ladles: queue 37 with TAIL 60, HEAD 60 and DONE 58. -/
def q37 : State := setQ 37 { Queue.off with mode := .running, entries := 64, tail := 60, head := 60, done := 58 } up

theorem test_doorbell :
    (getQ (after (.qdbTailWrite 37 68) q37) 37).tail = 68 ∧ (getQ (after (.qdbTailWrite 37 130) q37) 37).mode = .stopped := by
  decide +kernel

/-- 13_counters: counter 0x0310 with the waiters of queues 40, 41, 42 and 43. -/
def ctr310 : State :=
  let w (q n : Nat) (a : Bool) : Wait := { who := .signal q 0, acquire := a, amount := BitVec.ofNat 32 n }
  setC 0x310 { Ctr.free with mode := .claimed, owner := 40, waits := [w 40 3 true, w 41 3 true, w 42 4 false, w 43 1 true] } up

theorem test_counter_order :
    let left (s : State) := ((getC s 0x310).waits.map (·.who), (getC s 0x310).value.toNat)
    let a := after (.ctrAddWrite 0x310 4) ctr310
    let b := after (.ctrAddWrite 0x310 2) a
    left a = ([.signal 41 0, .signal 43 0], 1) ∧ left b = ([.signal 43 0], 0) ∧ left (after (.ctrAddWrite 0x310 1) b) = ([], 0) := by
  decide +kernel

/-- 15_nyverlink: with every link up, 37 reaches 9 through 35, and 9 reaches 37 through 15. -/
theorem test_routes :
    let at_ (m : Nat) : State := { up with fabric := { up.fabric with
      topology := { code := 2, modules := 64, module := m, head := 0, portMask := 0xFFFFFF, configId := 0 },
      ports := List.replicate 24 { Port.reset with state := 3 }, portsUp := (List.range 64).map fun k => (k, List.range 24) } }
    routeOf (at_ 37) 9 = some (13, some 35) ∧ routeOf (at_ 9) 37 = some (5, some 15) := by decide +kernel

/-- 16_cxl_host: HPA 0x40_1234_5680 is device address 0x0072_E292_5680. -/
theorem test_cxl_window :
    let s := { up with cxl := { up.cxl with protocols := 2, hdm := some (0x4000000000, 64 * 2 ^ 30) } }
    windowAddr s 0x4012345680 64 = some 0x0072E2925680 ∧ stackOf 0 0x0072E2925680 = 5 := by decide +kernel

/-- 14_mailbox_and_firmware: the effective tick of a TICK_CONFIG answered in tick 80,000. -/
theorem test_effective_tick : effTick (ticked fun t => { t with count := 80000 }) = 80003 := by decide +kernel

/-! ### The premises of the statements: the block and the mailboxes

Each theorem is a state and operands that meet the premises of the statement it is named for, one for each of its clauses. -/

/-- A call of host mailbox 0 for module 0. -/
def call0 (body : List Byte) : MbCall :=
  { mb := 0, flags := 0, sequence := 1, length := body.length, target := 0, rsvd := 0, session := 0, counter := 0, payload := body }

/-- A body of its fixed length: some bytes, the rest zero. -/
def body (n : Nat) (bs : List Byte) : List Byte := bs ++ List.replicate (n - bs.length) 0

/-- Open session 7 with last counter 41, as in the worked example of 14_mailbox_and_firmware. -/
def session7 : Session :=
  { id := 7, isOpen := true, offer := [], kemSeed := 0, cmdKey := [1, 2], rspKey := [3], lastCounter := 41, since := 0 }

/-- A module with that session. -/
def withSession (s : State) : State := { s with fmw := { s.fmw with sessions := [session7] } }

/-- A call in session 7 with counter 42. -/
def call7 : MbCall := { call0 [] with session := 7, counter := 42 }

theorem witness_ExecKeepsQueue : ∃ c s t, exec c s = .next t := ⟨.domainAbsent, State.reset, _, rfl⟩

theorem witness_ResetHoldsTheModule :
    (reachesReset .flr = false ∧ ¬ Awake State.reset) ∧
    (reachesReset .flr = false ∧ ¬ Awake { up with sec := { up.sec with scanned := true } }) := by decide +kernel

theorem witness_StepKeepsMemoryCanonical :
    ∃ s t, Canonical s ∧ s.hbm ≠ [] ∧ step s = .next t :=
  ⟨{ up with pending := [.domainAbsent], hbm := [(5, 1)] }, _, by decide +kernel, by decide +kernel, rfl⟩

theorem witness_FusesOneWay : ∃ s t, s.fuses.provisioned = true ∧ step s = .next t :=
  ⟨{ up with pending := [.domainAbsent], fuses := { up.fuses with provisioned := true } }, _, by decide, rfl⟩

theorem witness_ChecksPass_untagged :
    ∃ (op : Nat) (call : MbCall) (row : CatRow), catalogue op = some row ∧ call.length ≤ 4096 ∧ call.rsvd = 0 ∧ inConfig up call.target = true ∧ call.flags = 0 ∧
      row.critical = false := ⟨0x0001, call0 [], _, rfl, by decide +kernel⟩

theorem witness_ChecksPass_broadcast :
    ∃ (op : Nat) (call : MbCall) (row : CatRow), catalogue op = some row ∧ call.length ≤ 4096 ∧ call.rsvd = 0 ∧ call.target = 0xFF ∧ call.flags = 0 ∧
      row.critical = false := ⟨0x0001, { call0 [] with target := 0xFF }, _, rfl, by decide +kernel⟩

theorem witness_ChecksPass_tagged :
    ∃ (op : Nat) (call : MbCall) (x : Session), (∃ row, catalogue op = some row) ∧ call.length = 16 ∧ call.rsvd = 0 ∧ call.flags = 1 ∧
      ((withSession up).fmw.sessions.find? fun y => y.id == call.session && y.isOpen) = some x ∧
      (call.payload.drop (call.length - 16)).take 16 =
        cmdTag x.cmdKey (cmdHeaderBytes op call) (call.payload.take (call.length - 16)) ∧ x.lastCounter < call.counter :=
  ⟨0x0005, tag 5 [1, 2] [] call7, session7, ⟨_, rfl⟩, rfl, rfl, rfl, rfl, tag_valid 5 [1, 2] [] call7, by decide⟩

theorem witness_ChecksFailInOrder :
    (¬ (4097 : Nat) ≤ 4096 ∧ bit 1 0 = true ∧ ¬ (16 : Nat) ≤ 15) ∧ (3 / 2 ≠ 0 ∧ catalogue 0x0006 = none) ∧
    (∃ row, catalogue 0x0404 = some row ∧ row.critical = true) ∧ (∃ row, catalogue 0x0001 = some row ∧ row.critical = false) ∧
    inConfig up 1 = false ∧ (up.fmw.sessions.find? fun y => y.id == 7 && y.isOpen) = none ∧
    ((withSession up).fmw.sessions.find? fun y => y.id == 7 && y.isOpen) = some session7 ∧
    cmdTag session7.cmdKey (cmdHeaderBytes 5 call7) [] ≠ [] ∧ (41 : Nat) ≤ session7.lastCounter ∧ session7.lastCounter < 42 := by
  refine ⟨by decide, by decide, ⟨_, rfl, rfl⟩, ⟨_, rfl, rfl⟩, by decide +kernel, by decide +kernel, rfl, ?_, by decide, by decide⟩
  intro h
  have l := cmdTag_length session7.cmdKey (cmdHeaderBytes 5 call7) []
  rw [h] at l
  exact absurd l (by decide)

theorem witness_GoRejected :
    (boxServes up 3 = true ∧ (getBox (modBox 3 (fun b => { b with busy := true }) up) 3).busy = true ∧
      (getBox (modBox 3 (fun b => { b with done := true }) up) 3).done = true) ∧ boxServes State.reset 0 = false := by decide +kernel

theorem witness_CommandReachesItsHandler :
    (∃ call c t, Arrives 0x0401 call up c t) ∧
    (∃ call c t, Arrives 5 call (withSession up) c t ∧ c.tagged = true) ∧
    ¬ Turn { up with fmw := { up.fmw with running := some (keepsBusy default 0) } } :=
  ⟨⟨_, _, _, arrives_plain (call := call0 (body 8 [100])) rfl rfl (by decide +kernel) (by decide +kernel)⟩,
    ⟨_, _, _, arrives_tagged (body := []) (call := call7) rfl rfl (by decide +kernel) (by decide +kernel), rfl⟩, by decide +kernel⟩

theorem witness_AnsweredCommand :
    let c := plainCmd 1 (call0 [])
    c.src = .mailbox 0 ∧ 0 < up.fmw.boxes.length ∧ 4 < up.fmw.boxes.length ∧ c.target ≠ 0xFF ∧ c.opcode ≠ 4 := by decide +kernel

theorem witness_ReadCommandsComplete :
    (∃ call c t, Arrives 0x0001 call up c t) ∧ (∃ call c t, Arrives 0x0002 call up c t) ∧ (∃ call c t, Arrives 0x0603 call up c t) ∧
    (∃ call c t, Arrives 0x0701 call up c t ∧ u8 call.payload 32 = 0) ∧
    (∃ call c t g cert, Arrives 0x0701 call up c t ∧ u8 call.payload 32 = 1 ∧ t.cave.certificate = .ok g cert) :=
  ⟨⟨_, _, _, arrives_plain (call := call0 []) rfl rfl (by decide +kernel) (by decide +kernel)⟩,
    ⟨_, _, _, arrives_plain (call := call0 []) rfl rfl (by decide +kernel) (by decide +kernel)⟩,
    ⟨_, _, _, arrives_plain (call := call0 []) rfl rfl (by decide +kernel) (by decide +kernel)⟩,
    ⟨_, _, _, arrives_plain (call := call0 (body 40 [])) rfl rfl (by decide +kernel) (by decide +kernel), by decide +kernel⟩,
    ⟨_, _, _, _, _, arrives_plain (call := call0 (body 40 (List.replicate 32 0 ++ [1]))) rfl rfl (by decide +kernel) (by decide +kernel),
      by decide +kernel, rfl⟩⟩

/-- A module with a pending session 5. -/
def pending5 : State := { up with fmw := { up.fmw with sessions := [{ session7 with id := 5, isOpen := false }] } }

theorem witness_SessionCommandsComplete :
    (∃ call c t, Arrives 0x0003 call { up with fmw := { up.fmw with sessions := List.replicate 7 session7 } } c t ∧ t.fmw.sessions.length < 8) ∧
    (∃ call c t x, Arrives 0x0004 call pending5 c t ∧ t.fmw.lockout = false ∧
      (t.fmw.sessions.find? fun y => y.id == u32 c.payload 0 && !y.isOpen) = some x) ∧
    (∃ call c t, Arrives 0x0005 call (withSession up) c t ∧ c.tagged = true ∧ t.sec.token = none) :=
  ⟨⟨_, _, _, arrives_plain (call := call0 []) rfl rfl (by decide +kernel) (by decide +kernel), by decide +kernel⟩,
    ⟨_, _, _, { session7 with id := 5, isOpen := false }, arrives_plain (call := call0 (body 3548 [5])) rfl rfl (by decide +kernel)
      (by decide +kernel), by decide +kernel, by decide +kernel⟩,
    ⟨_, _, _, arrives_tagged (body := []) (call := call7) rfl rfl (by decide +kernel) (by decide +kernel), rfl, rfl⟩⟩

theorem witness_SessionIdFresh : (up.fmw.sessions.length < 8) ∧ (List.replicate 7 session7).length < 8 := by decide +kernel

/-- The payload of QUEUE_SETUP for queue 4,095, 64 entries, rings at the start of software's HBM. -/
def setup : List Byte :=
  body 64 [0xFF, 0x0F, 5, 7, 64, 0, 0, 0, 0, 0, 0, 0x80, 0, 0, 0, 0, 0, 0x10, 0, 0x80, 0, 0, 0, 0, 0xFF, 0xFF]

/-- A module whose queue 5 runs, or is stopped. -/
def queue5 (m : QMode) : State := setQ 5 { Queue.off with mode := m, entries := 64, ring := 0x80000000, comp := 0x80001000 } up

theorem witness_QueueCommandsComplete :
    (∃ call c t, Arrives 0x0101 call up c t ∧ (getQ t (u16 c.payload 0)).mode = .disabled ∧ t.cxl.reduced = false) ∧
    (∃ call c t, Arrives 0x0102 call (queue5 .stopped) c t ∧ u8 call.payload 2 = 0 ∧ (getQ t (u16 c.payload 0)).mode = .stopped ∧
      t.cxl.reduced = false) ∧
    (∃ call c t, Arrives 0x0102 call (queue5 .running) c t ∧ u8 call.payload 2 = 1 ∧ (getQ t (u16 c.payload 0)).mode ≠ .disabled) ∧
    (∃ call c t, Arrives 0x0102 call (queue5 .running) c t ∧ u8 call.payload 2 = 2 ∧ (getQ t (u16 c.payload 0)).mode ≠ .disabled) ∧
    (∃ call c t, Arrives 0x0103 call up c t ∧ (mget t.rings (u16 c.payload 0)).all (fun r => r.openFor.isNone) = true) :=
  ⟨⟨_, _, _, arrives_plain (call := call0 setup) rfl rfl (by decide +kernel) (by decide +kernel), by decide +kernel⟩,
    ⟨_, _, _, arrives_plain (call := call0 (body 8 [5])) rfl rfl (by decide +kernel) (by decide +kernel), by decide +kernel⟩,
    ⟨_, _, _, arrives_plain (call := call0 (body 8 [5, 0, 1])) rfl rfl (by decide +kernel) (by decide +kernel), by decide +kernel⟩,
    ⟨_, _, _, arrives_plain (call := call0 (body 8 [5, 0, 2])) rfl rfl (by decide +kernel) (by decide +kernel), by decide +kernel⟩,
    ⟨_, _, _, arrives_plain (call := call0 (body 32 [0xFF, 3, 3, 0, 0, 0x10, 0, 0, 0, 0, 0, 0x80])) rfl rfl (by decide +kernel)
      (by decide +kernel), by decide +kernel⟩⟩

theorem witness_CounterCommandsComplete :
    (∃ call c t, Arrives 0x0104 call up c t ∧ u16 c.payload 2 ≠ 0) ∧
    (∃ call c t, Arrives 0x0105 call up c t ∧ bit (u16 call.payload 4) 0 = false ∧ u16 c.payload 2 ≠ 0) ∧
    (∃ call c t, Arrives 0x0105 call up c t ∧ bit (u16 call.payload 4) 0 = true ∧ u16 c.payload 2 ≠ 0) ∧
    (∃ call c t, Arrives 0x0106 call up c t) :=
  ⟨⟨_, _, _, arrives_plain (call := call0 (body 32 [0xFE, 0xFF, 1, 0, 0xFF, 0x0F])) rfl rfl (by decide +kernel) (by decide +kernel),
      by decide +kernel⟩,
    ⟨_, _, _, arrives_plain (call := call0 (body 32 [0, 0, 0xFF, 0xFF])) rfl rfl (by decide +kernel) (by decide +kernel), by decide +kernel⟩,
    ⟨_, _, _, arrives_plain (call := call0 (body 32 [0, 0, 1, 0, 1])) rfl rfl (by decide +kernel) (by decide +kernel), by decide +kernel⟩,
    ⟨_, _, _, arrives_plain (call := call0 (body 32 [0xFE, 0xFF])) rfl rfl (by decide +kernel) (by decide +kernel)⟩⟩

/-- A module with a package of one model, whose set is staged. -/
def stocked : State :=
  { up with
    packages := [{ (default : Package) with id := 3, models := [{ (default : PkgModel) with id := 9 }] }]
    culture := { up.culture with shadowState := 2, shadow := [{ (default : ModelEntry) with id := 9, package := 4 }] }
    index := { up.index with shadowState := 2 } }

theorem witness_ModelCommandsComplete :
    (∃ call c t, Arrives 0x0201 call up c t ∧ Turn t ∧ libraryUsed t + u32 c.payload 4 ≤ libraryBytes) ∧
    (∃ call c t k, Arrives 0x0202 call stocked c t ∧ Turn t ∧ (t.packages.find? fun x => x.id == u32 c.payload 0) = some k ∧
      packageBusy t k = false) ∧
    (∃ call c t m, Arrives 0x0301 call stocked c t ∧ Turn t ∧ packageModel t (u32 c.payload 0) (u32 c.payload 4) = some m) ∧
    (∃ call c t, Arrives 0x0302 call stocked c t ∧ Turn t ∧ cultureWaits t = false ∧ ∃ m ∈ stagingBank t, m.id = u32 c.payload 0) ∧
    (∃ call c t, Arrives 0x0303 call stocked c t ∧ Turn t ∧ t.culture.shadowState = 2 ∧ t.culture.commitAt = none) ∧
    (∃ call c t, Arrives 0x0304 call up c t ∧ Turn t ∧ u32 c.payload 12 ≠ 0) ∧
    (∃ call c t, Arrives 0x0305 call stocked c t ∧ Turn t ∧ t.index.shadowState = 2 ∧ t.index.commitAt = none) :=
  ⟨⟨_, _, _, arrives_plain (call := call0 (body 32 [1, 0, 0, 0, 0, 0, 0, 0x30, 0, 0, 0, 0x80, 0, 0, 0, 0, 1])) rfl rfl (by decide +kernel)
      (by decide +kernel), by decide +kernel⟩,
    ⟨_, _, _, _, arrives_plain (call := call0 (body 8 [3])) rfl rfl (by decide +kernel) (by decide +kernel), by decide +kernel, rfl,
      by decide +kernel⟩,
    ⟨_, _, _, _, arrives_plain (call := call0 (body 8 [3, 0, 0, 0, 9])) rfl rfl (by decide +kernel) (by decide +kernel), by decide +kernel,
      rfl⟩,
    ⟨_, _, _, arrives_plain (call := call0 (body 8 [9])) rfl rfl (by decide +kernel) (by decide +kernel), by decide +kernel⟩,
    ⟨_, _, _, arrives_plain (call := call0 []) rfl rfl (by decide +kernel) (by decide +kernel), by decide +kernel⟩,
    ⟨_, _, _, arrives_plain (call := call0 (body 24 [0, 0, 0, 0x80, 0, 0, 0, 0, 0xFF, 0xFF, 3, 0, 1])) rfl rfl (by decide +kernel)
      (by decide +kernel), by decide +kernel⟩,
    ⟨_, _, _, arrives_plain (call := call0 []) rfl rfl (by decide +kernel) (by decide +kernel), by decide +kernel⟩⟩

theorem witness_InstallAddsOnePackage : ∃ p s, (installPackage p s).2.1 ≠ .ok := ⟨[], up, by decide +kernel⟩

/-- A settings command that still has so many bytes to move. -/
def moving (op n : Nat) : Running := { keepsBusy (plainCmd op (call0 [])) n with stepTick := 0 }

def movingState (op n : Nat) : State := { up with fmw := { up.fmw with running := some (moving op n) } }

theorem witness_SettingsQueueProceeds :
    (∀ n ∈ [16 * 2 ^ 20, 16 * 2 ^ 20 + 1], ∀ op ∈ [0x0201, 0x0301],
      let s := movingState op n
      Awake s ∧ s.fmw.running = some (moving op n) ∧ (moving op n).cmd.opcode = op ∧ op ≠ 0x0803 ∧ (moving op n).asked = false ∧
      stepWaits s op = false ∧ (moving op n).stepTick ≠ s.tick.count + 1) ∧
    (∃ s c r, Awake s ∧ s.fmw.running = none ∧ s.fmw.waiting = c :: r) :=
  ⟨by decide +kernel,
    ⟨{ up with fmw := { up.fmw with waiting := [plainCmd 0x0401 (call0 (body 8 [100]))] } }, _, _, by decide +kernel, rfl, rfl⟩⟩

/-- A tagged call of an opcode with a body arrives in session 7, on any module that serves it. -/
theorem arrives7 {op : Nat} {s : State} {row : CatRow} (b : List Byte) (cat : catalogue op = some row)
    (form : b.length ≤ 4080 ∧ inConfig (withSession s) 0 = true)
    (h : comesIn op call7 b (withSession s) (consumed session7 42 (opened op (tag op [1, 2] b call7) (withSession s))) = true) :
    Arrives op (tag op [1, 2] b call7) (withSession s) (taggedCmd op b [3] call7)
      (consumed session7 42 (opened op (tag op [1, 2] b call7) (withSession s))) :=
  arrives_tagged (x := session7) cat rfl ⟨rfl, form.1, by decide, form.2⟩ h

theorem witness_SettingsCommandsComplete :
    (∃ call c t, Arrives 0x0401 call up c t ∧ Turn t) ∧
    (∃ call c t, Arrives 0x0402 call up c t ∧ Turn t ∧ planInForce t = none) ∧
    (∃ call c t, Arrives 0x0403 call up c t ∧ Turn t) ∧
    (∃ call c t, Arrives 0x0404 call (withSession up) c t ∧ Turn t ∧ u8 call.payload 0 ≠ 1) ∧
    (∃ call c t, Arrives 0x0404 call (withSession up) c t ∧ Turn t ∧ u8 call.payload 0 = 1) ∧
    (∃ call c t, Arrives 0x0806 call (withSession up) c t ∧ Turn t) ∧
    (∃ call c t, Arrives 0x0805 call (withSession up) c t ∧ Turn t) ∧
    (∃ call c t, Arrives 0x0501 call (withSession up) c t ∧ Turn t) :=
  ⟨⟨_, _, _, arrives_plain (call := call0 (body 8 [10])) rfl rfl (by decide +kernel) (by decide +kernel), by decide +kernel⟩,
    ⟨_, _, _, arrives_plain (call := call0 (body 8 [40, 30, 30])) rfl rfl (by decide +kernel) (by decide +kernel), by decide +kernel, rfl⟩,
    ⟨_, _, _, arrives_plain (call := call0 (body 8 [0x77])) rfl rfl (by decide +kernel) (by decide +kernel), by decide +kernel⟩,
    ⟨_, _, _, arrives7 (body 8 []) rfl (by decide +kernel) (by decide +kernel), by decide +kernel⟩,
    ⟨_, _, _, arrives7 (body 8 [1]) rfl (by decide +kernel) (by decide +kernel), by decide +kernel⟩,
    ⟨_, _, _, arrives7 (body 32 [2, 64, 63, 63, 0xFF, 0xFF, 0xFF, 0, 1]) rfl (by decide +kernel) (by decide +kernel), by decide +kernel⟩,
    ⟨_, _, _, arrives7 (body 8 [0x10, 0x27]) rfl (by decide +kernel) (by decide +kernel), by decide +kernel⟩,
    ⟨_, _, _, arrives7 (body 8 [0x2C, 1, 0x2C, 1]) rfl (by decide +kernel) (by decide +kernel), by decide +kernel⟩⟩

/-- A module in a power state. -/
def inState (n : Nat) : State := { up with power := { up.power with state := n } }

/-- A call of the management mailbox. -/
def call4 (b : List Byte) : MbCall := { call0 b with mb := 4 }

theorem witness_PowerStateCommandsComplete :
    (∀ n ∈ [0, 1, 2, 3], ∃ call c t, Arrives 0x0502 call (inState n) c t ∧ Turn t ∧ u8 call.payload 0 = 0 ∧ t.power.state = n) ∧
    (∃ call c t, Arrives 0x0502 call (inState 1) c t ∧ Turn t ∧ u8 call.payload 0 = 2 ∧ t.power.state ≤ 1) ∧
    (∃ call c t, Arrives 0x0502 call (inState 2) c t ∧ Turn t ∧ u8 call.payload 0 = 3 ∧ t.power.state ≤ 2) := by
  refine ⟨?_,
    ⟨_, _, _, arrives_plain (call := call0 (body 8 [2])) rfl rfl (by decide +kernel) (by decide +kernel), by decide +kernel⟩,
    ⟨_, _, _, arrives_plain (call := call0 (body 8 [3])) rfl rfl (by decide +kernel) (by decide +kernel), by decide +kernel⟩⟩
  intro n hn
  simp only [List.mem_cons, List.not_mem_nil, or_false] at hn
  rcases hn with rfl | rfl | rfl | rfl <;>
    exact ⟨_, _, _, arrives_plain (call := call4 (body 8 [0])) rfl rfl (by decide +kernel) (by decide +kernel), by decide +kernel⟩

/-- A module whose slot B, the staged one, holds images that pass. -/
def staged : State := { up with cave := { up.cave with slotB := .ok 1 [] } }

/-- A module that has received the first 4,048 bytes of a bundle for slot B. -/
def receiving : State := { up with fw := { up.fw with staging := 1, stagedSlot := 1, received := List.replicate 4048 0 } }

theorem witness_FirmwareCommandsComplete :
    (∃ call c t, Arrives 0x0702 call (withSession up) c t ∧ Turn t) ∧
    (∀ flags ∈ [1, 3], ∃ call c t, Arrives 0x0601 call (withSession up) c t ∧ Turn t ∧ u8 c.payload 0 ≠ t.sec.bootSlot ∧
      bit (u8 c.payload 1) 0 = true ∧ bit (u8 c.payload 1) 1 = bit flags 1 ∧ u32 c.payload 4 = 0 ∧ u16 c.payload 2 ≤ bundleMax) ∧
    (∀ flags ∈ [0, 2], ∃ call c t, Arrives 0x0601 call (withSession receiving) c t ∧ Turn t ∧ t.sec.bootSlot = 0 ∧
      t.fw.staging = 1 ∧ t.fw.stagedSlot = 1 ∧ u8 c.payload 0 = 1 ∧ bit (u8 c.payload 1) 0 = false ∧
      bit (u8 c.payload 1) 1 = bit flags 1 ∧ u32 c.payload 4 = 4048 ∧ t.fw.received.length = 4048) ∧
    (∀ live ∈ [0, 1], ∃ call c t, Arrives 0x0602 call (withSession staged) c t ∧ Turn t ∧ u8 call.payload 0 = live ∧
      slotFails t t.fuses.rollback (slotRec t t.fw.stagedSlot) = none) ∧
    (∀ live ∈ [0, 1], ∃ call c t, Arrives 0x0602 call (withSession up) c t ∧ Turn t ∧ u8 call.payload 0 = live ∧
      slotFails t t.fuses.rollback (slotRec t t.fw.stagedSlot) ≠ none) := by
  refine ⟨⟨_, _, _, arrives7 (body 1320 []) rfl (by decide +kernel) (by decide +kernel), by decide +kernel⟩, ?_, ?_, ?_, ?_⟩ <;>
    intro n hn <;> simp only [List.mem_cons, List.not_mem_nil, or_false] at hn <;> rcases hn with rfl | rfl
  · exact ⟨_, _, _, arrives7 (body 4064 [1, 1, 0xD0, 0x0F]) rfl (by decide +kernel) (by decide +kernel), by decide +kernel⟩
  · exact ⟨_, _, _, arrives7 (body 4064 [1, 3, 0xD0, 0x0F]) rfl (by decide +kernel) (by decide +kernel), by decide +kernel⟩
  · exact ⟨_, _, _, arrives7 (s := receiving) (body 4064 [1, 0, 0xD0, 0x0F, 0xD0, 0x0F]) rfl (by decide +kernel) (by decide +kernel),
      by decide +kernel⟩
  · exact ⟨_, _, _, arrives7 (s := receiving) (body 4064 [1, 2, 0xD0, 0x0F, 0xD0, 0x0F]) rfl (by decide +kernel) (by decide +kernel),
      by decide +kernel⟩
  · exact ⟨_, _, _, arrives7 (s := staged) (body 8 []) rfl (by decide +kernel) (by decide +kernel), by decide +kernel⟩
  · exact ⟨_, _, _, arrives7 (s := staged) (body 8 [1]) rfl (by decide +kernel) (by decide +kernel), by decide +kernel⟩
  · exact ⟨_, _, _, arrives7 (body 8 []) rfl (by decide +kernel) (by decide +kernel), by decide +kernel⟩
  · exact ⟨_, _, _, arrives7 (body 8 [1]) rfl (by decide +kernel) (by decide +kernel), by decide +kernel⟩

/-- A provisioned module with owner slots 0 and 1 and two slots that pass any count. -/
def owned : State :=
  { up with
    fuses := { up.fuses with provisioned := true, hashes := [some [], some [], none, none] }
    cave := { up.cave with slotA := .ok 1 [], slotB := .ok 1 [] } }

theorem witness_SecurityCommandsComplete :
    (∃ call c t, Arrives 0x0703 call (withSession up) c t ∧ Turn t ∧ u8 call.payload 0 = 0) ∧
    (∃ call c t, Arrives 0x0703 call (withSession up) c t ∧ Turn t ∧ u8 call.payload 0 = 1) ∧
    (∃ call c t, Arrives 0x0704 call (withSession up) c t ∧ Turn t ∧ u8 call.payload 0 = 1 ∧ lifecycleAccepts t c.payload = true) ∧
    (∃ call c t, Arrives 0x0704 call (withSession owned) c t ∧ Turn t ∧ u8 call.payload 0 = 2 ∧ lifecycleAccepts t c.payload = true) ∧
    (∃ call c t, Arrives 0x0704 call (withSession owned) c t ∧ Turn t ∧ u8 call.payload 0 = 4 ∧ lifecycleAccepts t c.payload = true) ∧
    (∃ call c t, Arrives 0x0704 call (withSession owned) c t ∧ Turn t ∧ u8 call.payload 0 = 5 ∧ lifecycleAccepts t c.payload = true) ∧
    (∃ call c t, Arrives 0x0704 call (withSession up) c t ∧ Turn t ∧ lifecycleAccepts t c.payload = false) :=
  ⟨⟨_, _, _, arrives7 (body 3804 []) rfl (by decide +kernel) (by decide +kernel), by decide +kernel⟩,
    ⟨_, _, _, arrives7 (body 3804 [1]) rfl (by decide +kernel) (by decide +kernel), by decide +kernel⟩,
    ⟨_, _, _, arrives7 (body 104 [1, 0, 0, 2]) rfl (by decide +kernel) (by decide +kernel), by decide +kernel⟩,
    ⟨_, _, _, arrives7 (s := owned) (body 104 [2]) rfl (by decide +kernel) (by decide +kernel), by decide +kernel⟩,
    ⟨_, _, _, arrives7 (s := owned) (body 104 [4, 1]) rfl (by decide +kernel) (by decide +kernel), by decide +kernel⟩,
    ⟨_, _, _, arrives7 (s := owned) (body 104 [5, 0, 128]) rfl (by decide +kernel) (by decide +kernel), by decide +kernel⟩,
    ⟨_, _, _, arrives7 (body 104 [2]) rfl (by decide +kernel) (by decide +kernel), by decide +kernel⟩⟩

theorem witness_RetirementErasesAndResets :
    ∃ call c t, Arrives 0x0704 call (withSession owned) c t ∧ Turn t ∧ u8 call.payload 0 = 3 ∧ t.fuses.retired = false :=
  ⟨_, _, _, arrives7 (s := owned) (body 104 [3]) rfl (by decide +kernel) (by decide +kernel), by decide +kernel⟩

/-- A module with vat 159 and port 23 drained. -/
def drained : State :=
  { up with svc := [(⟨0, 159⟩, { Svc.inService with state := 2 }), (⟨5, 23⟩, { Svc.inService with state := 3 }),
      (⟨5, 22⟩, { Svc.inService with state := 2 })] }

/-- A plan set of one step for module 0, and a job that runs it. -/
def set1 : PlanSet := { (default : PlanSet) with stepCount := 1, domain := [0] }
def job1 : Job :=
  { queue := 5, index := 0, planSet := 1, step := 0, roundsLeft := 0, args := { tensors := [], rings := [], counters := [] },
    stopAtSwap := false, stopping := none, failing := none, units := [] }
def running : State :=
  { up with
    packages := [{ (default : Package) with id := 3, planSets := [(1, set1), (2, set1)] }]
    plan := { up.plan with job := some job1 } }

theorem witness_ServiceCommandsComplete :
    (∃ call c t, Arrives 0x0801 call up c t ∧ Turn t ∧ (getSvc t (unitOf c.payload)).state = 0 ∧ (getSvc t (unitOf c.payload)).pend = 0 ∧
      inPlan t (unitOf c.payload) = false) ∧
    (∃ call c t, Arrives 0x0802 call drained c t ∧ Turn t ∧ (getSvc t (unitOf c.payload)).state = 2 ∧ (unitOf c.payload).cls ≠ 5 ∧
      (getSvc t (unitOf c.payload)).pend = 0) ∧
    (∃ call c t, Arrives 0x0802 call drained c t ∧ Turn t ∧ (getSvc t (unitOf c.payload)).state = 3 ∧ (unitOf c.payload).cls = 5 ∧
      (getSvc t (unitOf c.payload)).pend = 0) ∧
    (∃ call c t, Arrives 0x0803 call up c t ∧ Turn t ∧ u8 call.payload 0 = 0) ∧
    (∃ call c t, Arrives 0x0803 call drained c t ∧ Turn t ∧ u8 call.payload 0 = 1 ∧
      (getSvc t { cls := 0, num := u16 c.payload 2 }).state = 2) ∧
    (∃ call c t, Arrives 0x0803 call up c t ∧ Turn t ∧ u8 call.payload 0 = 2 ∧ t.plan.job = none ∧ t.plan.waiting = []) ∧
    (∃ call c t, Arrives 0x0803 call drained c t ∧ Turn t ∧ u8 call.payload 0 = 3 ∧
      (getSvc t { cls := 5, num := u16 c.payload 2 }).state = 2) ∧
    (∃ call c t j a b, Arrives 0x0804 call running c t ∧ Turn t ∧ t.plan.job = some j ∧ j.queue = u16 c.payload 0 ∧
      j.planSet = u32 c.payload 4 ∧ planSetOf t j.planSet = some a ∧ planSetOf t (u32 c.payload 8) = some b ∧ sameShape a b = true ∧
      planUnfit t b = false ∧ a.domain.length ≤ 1) :=
  ⟨⟨_, _, _, arrives_plain (call := call0 (body 8 [0, 0, 159])) rfl rfl (by decide +kernel) (by decide +kernel), by decide +kernel⟩,
    ⟨_, _, _, arrives_plain (call := call0 (body 8 [0, 0, 159])) rfl rfl (by decide +kernel) (by decide +kernel), by decide +kernel⟩,
    ⟨_, _, _, arrives_plain (call := call0 (body 8 [5, 0, 23])) rfl rfl (by decide +kernel) (by decide +kernel), by decide +kernel⟩,
    ⟨_, _, _, arrives_plain (call := call0 (body 8 [])) rfl rfl (by decide +kernel) (by decide +kernel), by decide +kernel⟩,
    ⟨_, _, _, arrives_plain (call := call0 (body 8 [1, 0, 159])) rfl rfl (by decide +kernel) (by decide +kernel), by decide +kernel⟩,
    ⟨_, _, _, arrives_plain (call := call0 (body 8 [2])) rfl rfl (by decide +kernel) (by decide +kernel), by decide +kernel⟩,
    ⟨_, _, _, arrives_plain (call := call0 (body 8 [3, 0, 22])) rfl rfl (by decide +kernel) (by decide +kernel), by decide +kernel⟩,
    ⟨_, _, _, job1, set1, set1,
      arrives_plain (call := call0 (body 16 [5, 0, 0, 0, 1, 0, 0, 0, 2])) rfl rfl (by decide +kernel) (by decide +kernel),
      by decide +kernel⟩⟩

/-! ### The premises of the statements: ticks, plan jobs, due effects, messages -/

/-- A module whose ticks run, 1.000 ms from the first boundary. -/
def ticks : State := ticked fun t => { t with placed := true }

theorem witness_TickBoundaryCounts :
    let s := ticks
    let b : BoundaryInput := { (default : BoundaryInput) with now := 1000000 }
    Awake s ∧ ticking s = true ∧ s.tick.hold = none ∧ s.tick.heldPeers = [] ∧ lateUnits s = [] ∧ s.fmw.parked = [] ∧ b.late = [] ∧
    nextBoundary s ≤ b.now ∧ ¬ nextBoundary s ≤ b.now - 1 ∧ s.tick.released = none ∧
    (let s := modTick (fun t => { t with released := some (998000, 3) }) s;
      Awake s ∧ ticking s = true ∧ s.tick.hold = none ∧ s.tick.heldPeers = [] ∧ lateUnits s = [] ∧ s.tick.released = some (998000, 3) ∧
      998000 + 2000 ≤ b.now) := by decide +kernel

theorem witness_LateWorkHoldsTheBoundary :
    let s := ticks
    let b : BoundaryInput := { (default : BoundaryInput) with now := 1000000, late := [{ unit := ⟨0, 159⟩, ns := 1 }] }
    Awake s ∧ ticking s = true ∧ s.tick.hold = none ∧ s.fmw.parked = [] ∧ nextBoundary s ≤ b.now ∧
    s.tick.late ++ b.late ≠ [] := by decide +kernel

/-- A member in a hold of module 3. -/
def hold3 : Hold := { since := 0, own := true, peers := [3], cause := 3, units := [], planSet := 0, step := 0, lastRelease := 0, released := 0 }
def held : State := modTick (fun t => { t with hold := some hold3 }) member

theorem witness_TickMessagesComplete :
    (Awake member ∧ fromModule member 3 = true ∧ fromModule member 0 = true ∧ isHead member = false ∧ member.tick.hold = none ∧
      syncSeen member 3 0xFFFF = false ∧ syncSeen (noteSync 3 0xFFFF member) 3 0xFFFF = true ∧ fromModule member 4 = false ∧
      member.plan.waiting = [] ∧ member.plan.absent = []) ∧
    (Awake held ∧ fromModule held 3 = true ∧ syncSeen held 3 0 = false ∧ held.tick.hold = some hold3 ∧ hold3.peers.contains 3 = true) ∧
    (let s := modTick (fun t => { t with heldPeers := [2, 3] }) member;
      Awake s ∧ syncSeen s 3 0 = false ∧ s.tick.hold = none ∧ s.tick.heldPeers.contains 3 = true) := by decide +kernel

theorem witness_TickEventsComplete :
    (held.tick.hold = some hold3 ∧ hold3.own = true ∧ unitsDone held = true ∧ hold3.since + 4 * tickLength held < 4000001) ∧
    (let s := modTick (fun t => { t with windowOpen := true }) ticks; Awake s ∧ s.tick.windowOpen = true) ∧
    (let s := modTick (fun t => { t with skipping := true }) ticks; Awake s ∧ s.tick.skipping = true) ∧
    (Awake ticks ∧ ticking ticks = true ∧ ticks.power.fixed = false) := by decide +kernel

theorem witness_TailSnapshotComplete :
    let s := setQ 4095 { Queue.off with mode := .running, entries := 64, tail := 3 } ticks
    Awake s ∧ ticking s = true ∧ Sorted s.queues := by decide +kernel

theorem witness_OffsetsAlign :
    (let s := modTick (fun t => { t with align := 1 }) member;
      Awake s ∧ fromModule s 0 = true ∧ syncSeen s 0 7 = false ∧ s.tick.align = 1 ∧ alignParent s = some 0) ∧
    (let s := modTick (fun t => { t with align := 2, syncDelay := 40 }) member;
      Awake s ∧ s.tick.align = 2 ∧ isHead s = false ∧ (-540 + s.tick.syncDelay : Int).natAbs ≤ 500 ∧ s.tick.edge = none) ∧
    (200 < (-201 : Int).natAbs) ∧ (50 < (51 : Int).natAbs ∧ (200 : Int).natAbs ≤ 200) ∧
    ((-50 : Int).natAbs ≤ 50 ∧ member.tick.inBand + 1 < 100) ∧
    (let s := modTick (fun t => { t with inBand := 99 }) member;
      (50 : Int).natAbs ≤ 50 ∧ s.tick.aligned = false ∧ 100 ≤ s.tick.inBand + 1) := by decide +kernel

theorem witness_SkipPatternSpreads : (64 : Nat) ≤ 64 ∧ (63 : Nat) < 64 := by decide

/-- A RUN_PLAN of queue 5 that is due in the next tick. -/
def request1 : PlanReq :=
  { queue := 5, index := 0, planSet := 1, rounds := 1, start := 1, firstStep := 0, args := job1.args, stopAtSwap := false, deferrals := 0 }
def dueJob : State :=
  setQ 5 { Queue.off with mode := .running, entries := 64, ops := [{ (default : Op) with phase := .blocked }] }
    { ticks with
      packages := [{ (default : Package) with id := 3, planSets := [(1, { set1 with period := 100 })] }]
      plan := { ticks.plan with waiting := [request1] } }

theorem witness_StartDeferArrives :
    let s := { member with plan := { member.plan with waiting := [{ request1 with planSet := 1 }] } }
    Awake s ∧ syncSeen s 3 0 = false ∧ (∃ r ∈ s.plan.waiting, r.planSet = 1 ∧ r.start = ownTick s (headTick s 1)) ∧
    (∀ r ∈ s.plan.waiting, r.planSet ≠ 2) ∧ (∀ a ∈ s.plan.absent, a.1 ≠ 2) := by decide +kernel

/-- A job at a swap point of its plan set, which its request to stop, or a replacement, finds. -/
def swapping (stop : Option Status) : State :=
  { running with
    packages := [{ (default : Package) with id := 3, planSets := [(1, { set1 with swaps := [true] })] }]
    plan := { running.plan with job := some { job1 with stopping := stop }, replace := some { newSet := 2, earliest := 1 } } }

theorem witness_PlanJobEventsComplete :
    (Awake dueJob ∧ dueJob.plan.job = none ∧ dueRequest (dueJob.tick.count + 1) dueJob = some request1 ∧
      dueJob.fabric.lost.contains (headModule dueJob) = false ∧ startRefusal dueJob request1 = none) ∧
    (let s := modTick (fun t => { t with worked := true }) running;
      Awake s ∧ s.plan.job = some job1 ∧ lastStep s = true ∧ stepEnded s = true) ∧
    (let s := swapping (some .preempted); Awake s ∧ preemptDue (s.tick.count + 1) (advanceJob s) = some .preempted) ∧
    (Awake running ∧ running.plan.job = some job1) ∧
    (let s := swapping none;
      Awake s ∧ (advanceJob s).plan.job = some job1 ∧ (advanceJob s).plan.replace = some { newSet := 2, earliest := 1 } ∧
      preemptDue (s.tick.count + 1) (advanceJob s) = none ∧ replaceDue (s.tick.count + 1) (advanceJob s) = true) := by decide +kernel

theorem witness_DueEffectsComplete :
    let s : State := { up with
      culture := { up.culture with commitAt := some 1 }
      index := { up.index with commitAt := some 1 }
      tick := { up.tick with next := some (1, 10, 0, 0) }
      fmw := { up.fmw with bwNext := some (1, 40, 30, 30) }
      power := { up.power with limitsNext := some (1, 300, 300, 0, false), wantA2 := true }
      fw := { up.fw with live := some (1, 1) } }
    Awake s ∧ s.culture.commitAt = some 1 ∧ s.index.commitAt = some 1 ∧ s.tick.next = some (1, 10, 0, 0) ∧
    s.fmw.bwNext = some (1, 40, 30, 30) ∧ s.power.limitsNext = some (1, 300, 300, 0, false) ∧ 1 ≤ s.tick.count + 1 ∧
    s.power.wantA2 = true ∧ s.power.state ≤ 1 ∧ quietModule s = true ∧ s.fw.live = some (1, 1) ∧ s.fmw.parked = [] ∧
    s.fmw.unfixed.contains 0x0303 = false := by decide +kernel

/-- Changes of a broadcast that await their effective tick, and one that is not due yet. -/
theorem witness_EffectsAwaitTheirTick :
    let s : State := { up with
      culture := { up.culture with commitAt := some 1 }
      index := { up.index with commitAt := some 2 }
      tick := { up.tick with next := some (1, 10, 0, 0) }
      fmw := { up.fmw with bwNext := some (2, 40, 30, 30), unfixed := [0x0303, 0x0401, 0x0602] } }
    Awake s ∧ s.fmw.unfixed.contains 0x0303 = true ∧ s.tick.count + 1 < 2 ∧ s.fmw.unfixed.contains 0x0401 = true := by decide +kernel

def token0 : Token := { level := 3, signer := 0, session := 7, firstQueue := 0, queueCount := 4096, expires := 0 }

theorem witness_TimersComplete :
    (Awake (withSession up) ∧ (∃ x ∈ (withSession up).fmw.sessions, x.id = 7 ∧ x.isOpen = true) ∧ (withSession up).sec.token = none) ∧
    (let s := { up with sec := { up.sec with token := some token0, level := 3 } }; Awake s ∧ s.sec.token = some token0 ∧ s.sec.level = 3) ∧
    (let s := { up with sec := { up.sec with token := some token0, level := 1 } }; Awake s ∧ s.sec.token = some token0 ∧ s.sec.level ≠ 3) ∧
    (let s := { up with fmw := { up.fmw with resetDelay := some 10 } }; Awake s ∧ s.fmw.resetDelay = some 10) := by decide +kernel

theorem witness_OwnerResetComplete :
    ∀ disable ∈ [true, false],
      let s := modQ 5 (fun v => { v with reset := some (.ownerReset, disable), ops := [default] }) (queue5 .running)
      Awake s ∧ s.plan.job = none ∧ (getQ s 5).entries ≠ 0 ∧ (getQ s 5).reset = some (.ownerReset, disable) := by decide +kernel

/-- A single module, a pooled one, and one with a job between boundaries, each with port 2 authenticated under key [9] and counter 3. -/
def linked (s : State) : State :=
  { s with fabric := { s.fabric with ports := s.fabric.ports.set 2 { Port.reset with authed := true, keyRx := [9], mgmtRx := 3 } } }

/-- A message that module's peer has tagged. -/
def auth2 : MgmtAuth := { port := 2, counter := 4, tag := mgmtTag [9] [1, 2] 4, message := [1, 2] }

theorem authentic2 (s : State) (h : getPort (linked s) 2 = { Port.reset with authed := true, keyRx := [9], mgmtRx := 3 }) :
    Authentic (linked s) auth2 := by
  have hp : auth2.port = 2 := rfl
  have hc : auth2.counter = 4 := rfl
  have hm : auth2.message = [1, 2] := rfl
  constructor <;> rw [hp, h]
  · rw [hm, hc, auth2]
  · rw [hc]; decide

/-- A command that awaits module 1's response. -/
def forwarding : Forwarding := { cmd := plainCmd 1 (call0 []), awaited := [1], results := [], ownPayload := [], ownDone := true }

theorem witness_ManagementMessagesComplete :
    (Authentic (linked up) auth2 ∧ Awake (linked up) ∧ isHead (linked up) = true) ∧
    (let s := linked { up with fmw := { up.fmw with forwards := [forwarding] } };
      Awake s ∧ Authentic s auth2 ∧ (s.fmw.forwards.find? fun f => f.cmd.sequence == 1 && f.awaited.contains 1) = some forwarding) ∧
    (let s := linked { member with power := { member.power with pool := true } };
      Awake s ∧ Authentic s auth2 ∧ s.power.pool = true) := by
  refine ⟨⟨authentic2 _ (by decide +kernel), by decide +kernel⟩, ⟨by decide +kernel, authentic2 _ (by decide +kernel), by decide +kernel⟩,
    ⟨by decide +kernel, authentic2 _ (by decide +kernel), by decide +kernel⟩⟩

theorem witness_EffectiveTicksArrive :
    (∀ op ∈ [0x0303, 0x0305, 0x0401, 0x0402, 0x0602],
      let s := linked { up with fmw := { up.fmw with unfixed := [op] } }
      Awake s ∧ Authentic s auth2 ∧ s.fmw.unfixed.contains op = true) ∧
    (Awake (linked running) ∧ Authentic (linked running) auth2 ∧ (linked running).plan.job ≠ none) ∧
    ((0x0303 : Nat) ≠ 0x0804 ∧ (linked up).fmw.unfixed.contains 0x0303 = false) := by
  refine ⟨fun op h => ?_, ⟨by decide +kernel, authentic2 _ (by decide +kernel), by decide +kernel⟩, by decide +kernel⟩
  simp only [List.mem_cons, List.not_mem_nil, or_false] at h
  rcases h with rfl | rfl | rfl | rfl | rfl <;>
    exact ⟨by decide +kernel, authentic2 _ (by decide +kernel), by decide +kernel⟩

theorem witness_ForgedMessagesRefused :
    (Awake (linked up) ∧ (getPort (linked up) 2).authed = true ∧ (3 : Nat) ≤ (getPort (linked up) 2).mgmtRx ∧ (linked up).plan.job = none) ∧
    mgmtTag (getPort (linked up) 2).keyRx auth2.message auth2.counter ≠ [] ∧ (getPort up 2).authed = false ∧
    (let s := modTick (fun t => { t with windowOpen := true }) (linked running); s.tick.windowOpen = true ∧ s.plan.job ≠ none) := by
  refine ⟨by decide +kernel, ?_, by decide +kernel, by decide +kernel⟩
  intro h
  have l : (mgmtTag (getPort (linked up) 2).keyRx auth2.message auth2.counter).length = 16 := kmac128_length _ _ _
  rw [h] at l
  exact absurd l (by decide)


/-! ### The premises of the statements: registers, power, units, resets, the ports -/

theorem witness_LatchingReadsAndTails :
    let s := setQ 4095 { Queue.off with energy := 2 ^ 32 + 5 } up
    Awake s ∧ (4095 : Nat) < 4096 ∧ Sorted s.queues ∧ ((1 : Nat) ≤ 8 ∧ (8 : Nat) ≤ 8) := by decide +kernel

theorem witness_RegisterWritesComplete :
    (Awake up ∧ doorbellsOpen up = true ∧ (3 : Nat) ≤ 3 ∧ (0xFFFF : Nat) ≤ 0xFFFF) ∧
    ((0x13FF % 4 ≠ 0) ∧ ((0x13FC : Nat) < 0x1400) ∧ ((0x2000 : Nat) ≤ 0x2000 ∧ (0xFFFC : Nat) < 0x10000)) := by decide +kernel

theorem witness_SmbusComplete :
    let at_ (n : Nat) : State := { up with fmw := { up.fmw with smbusOffset := n } }
    (Awake up ∧ boxServes up 4 = true ∧ (0x3FFC : Nat) % 4 = 0) ∧
    smbusWritable (at_ 0x3FE0).fmw.smbusOffset 32 = true ∧ smbusWritable (at_ 0x1FFC).fmw.smbusOffset 4 = true ∧
    smbusWritable (at_ 0x3020).fmw.smbusOffset 32 = true ∧ (at_ 0x3FFC).fmw.smbusOffset ≤ 0x3FFC ∧ boxServes State.reset 4 = false := by
  decide +kernel

def reading (cls t : Nat) : Reading := { cls := cls, unit := 0, celsius := t }
def withPower (f : Power → Power) : State := { up with power := f up.power }

theorem witness_PowerEventsComplete :
    Awake up ∧ (∀ r ∈ [reading 0 92, reading 2 87], r.celsius + 3 ≤ (sensorLimits r.cls).1) ∧
    ((∀ x ∈ [reading 0 109, reading 2 91], x.celsius < (sensorLimits x.cls).2) ∧
      ([reading 0 95, reading 2 91].find? fun x => decide ((sensorLimits x.cls).1 < x.celsius)) = some (reading 2 91) ∧
      up.power.thermal = false) ∧
    (let s := withPower fun p => { p with readings := [reading 2 91], point := 14 };
      Awake s ∧ (∃ r ∈ s.power.readings, (sensorLimits r.cls).1 < r.celsius) ∧ s.power.point < 15) ∧
    (up.start.fwReady = true ∧ up.power.state ≠ 3 ∧ up.power.alert = false) ∧
    (withPower fun p => { p with alert := true }).power.alert = true ∧
    (let s := withPower fun p => { p with droops := p.droops.set 18 { (default : Droop) with since := some 7 } };
      Awake s ∧ ∃ d, s.power.droops[18]? = some d ∧ d.since = some 7) := by
  refine ⟨by decide +kernel, by decide, by decide, by decide +kernel, by decide +kernel, by decide +kernel, by decide +kernel, _, rfl, rfl⟩

theorem witness_EmergencyLowersPoint : 0 ≤ up.power.point ∧ (withPower fun p => { p with point := 14 }).power.point < 15 := by decide +kernel

theorem witness_BudgetEventsComplete :
    (let s := { member with power := { member.power with pool := true, lastGrant := 0 }, tick := { member.tick with count := 64 } };
      Awake s ∧ s.power.pool = true ∧ isHead s = false ∧ s.power.lastGrant + 64 ≤ s.tick.count) ∧
    (let s := { member with power := { member.power with pool := true }, fabric := { member.fabric with lost := [0] } };
      Awake s ∧ s.power.pool = true ∧ isHead s = false ∧ s.fabric.lost.contains (headModule s) = true) ∧
    (let s := withPower fun p => { p with pool := true, restoreDue := some 5 };
      Awake s ∧ s.power.pool = true ∧ isHead s = true ∧ s.power.restoreDue = some 5 ∧ s.power.state ≠ 3) := by decide +kernel

def unitAt (u : UnitId) (state pend : Nat) : State := setSvc u { Svc.inService with state := state, pend := pend } up

theorem witness_UnitEventsComplete :
    (∀ u ∈ [(⟨0, 159⟩ : UnitId), ⟨1, 15⟩, ⟨2, 7⟩, ⟨3, 70⟩, ⟨4, 3⟩],
      u.cls ≠ 5 ∧
      (Awake (unitAt u 0 1) ∧ (getSvc (unitAt u 0 1) u).pend = 1) ∧
      ((getSvc (unitAt u 1 0) u).state = 1 ∧ unitIdle (unitAt u 1 0) u = true) ∧
      (getSvc (unitAt u 2 3) u).pend = 3 ∧ (getSvc (unitAt u 2 2) u).pend = 2) ∧
    (getEngine (modEngine 15 (fun e => { e with offline := true }) up) 15).offline = true ∧
    (let s := { up with fmw := { up.fmw with settings := { up.fmw.settings with maxima := List.replicate 160 15 } } };
      Awake s ∧ (159 : Nat) < 160 ∧ 14 < vatMax s 159 ∧ plannedAbove s 159 14 = false) ∧
    (let s : State := { up with
        fmw := { up.fmw with settings := { up.fmw.settings with maxima := List.replicate 160 15 } }
        packages := [{ (default : Package) with planSets :=
          [(1, { set1 with variants := [{ (default : Variant) with planned := [(159, 100000)] }] })] }] };
      Awake s ∧ 14 < vatMax s 159 ∧ plannedAbove s 159 14 = true ∧ (s.ageing.find? fun a => a.vat == 159) = none) := by decide +kernel

theorem witness_ScrubsComplete :
    (∀ w ∈ [0, hbmWords - 2],
      let s : State := { up with memctl := { up.memctl with scrubNext := w } }
      Awake s ∧ scrubs s = true ∧ s.memctl.scrubNext + 1 < hbmWords ∧ s.poison.contains s.memctl.scrubNext = false ∧
      mget s.memctl.latent s.memctl.scrubNext = none ∧ Sorted s.memctl.latent) ∧
    (∀ source ∈ [1, 7], Awake up ∧ up.power.state ≤ 1 ∧ 1 ≤ source ∧ source ≤ 7 ∧ up.start.vatsOn = true ∧ (32 : Nat) ≤ 32 ∧
      up.memctl.sramLatent = [] ∧ armedFor up source 0 (32 / 32 * 32) = none) := by decide +kernel

theorem witness_ResetsClearTheModule :
    (up.start.inReset = false ∧ up.start.resetLow = false ∧ up.start.perstLow = false ∧ up.start.brownOut = false ∧ up.start.railsOn = true) ∧
    (State.reset.start.inReset = true ∧ State.reset.start.resetLow = true ∧ State.reset.start.perstLow = true) ∧
    (let s := { up with start := { up.start with inReset := true } };
      s.start.inReset = true ∧ s.start.resetLow = false ∧ s.start.perstLow = false) ∧
    (let s := { up with cxl := { up.cxl with protocols := 1 } }; s.start.inReset = false ∧ s.cxl.protocols ≠ 0) ∧
    (Awake up ∧ up.sec.halted = 0 ∧ 5 ≤ up.start.seq ∧ up.sec.recovery = false) := by decide +kernel

/-- A module in its start-up sequence. -/
def startAt (seq trained initialised attempts : Nat) : State :=
  { up with start := { up.start with seq := seq, trained := trained, initialised := initialised, attempts := attempts, fwReady := false } }

theorem witness_StartUpSteps :
    (State.reset.start.inReset = true ∧ State.reset.start.brownOut = false) ∧
    (let s := { up with start := { up.start with inReset := true, brownOut := true } };
      s.start.inReset = true ∧ s.start.brownOut = true ∧ s.start.resetLow = false ∧ s.start.perstLow = false) ∧
    (let s := { startAt 4 0 0 0 with cave := { up.cave with slotA := .ok 1 [], slotB := .ok 1 [] } };
      Awake s ∧ starting s = true ∧ s.start.seq = 4 ∧ slotFails s s.fuses.rollback (slotRec s s.sec.bootSlot) = none) ∧
    (let s := { startAt 4 0 0 0 with cave := { up.cave with slotA := .erased, slotB := .erased } };
      Awake s ∧ starting s = true ∧ (∃ f, slotFails s s.fuses.rollback (slotRec s s.sec.bootSlot) = some f) ∧
      slotFails s s.fuses.rollback (slotRec s (1 - s.sec.bootSlot)) ≠ none) ∧
    (let s := startAt 6 11 0 0; Awake s ∧ starting s = true ∧ s.start.trained < 12 ∧ s.start.attempts = 0) ∧
    (let s := startAt 6 0 0 1; Awake s ∧ starting s = true ∧ s.start.trained < 12 ∧ s.start.attempts ≠ 0) ∧
    (let s := startAt 6 12 11 0; Awake s ∧ starting s = true ∧ s.start.initialised < s.start.trained) ∧
    (let s := startAt 7 12 12 0; Awake s ∧ starting s = true ∧ s.start.seq = 7 ∧ isHead s = true ∧ s.sec.halted ≠ 7 ∧ s.fw.live = none ∧
      s.fmw.heldLost = 0) ∧
    (Awake member ∧ member.start.fwReady = true ∧ member.fabric.groupNext < 6 ∧ member.fabric.ports.length = 24 ∧
      bit member.fabric.topology.portMask 0 = true ∧ 0 / 4 = member.fabric.groupNext ∧ (getPort member 0).state = 0) ∧
    (let s := startAt 4 0 0 0; Awake s ∧ starting s = true ∧ (11 : Nat) ≤ 11 ∧ s.start.trained = 0) := by
  refine ⟨by decide +kernel, by decide +kernel, by decide +kernel, ⟨by decide +kernel, by decide +kernel, ⟨_, rfl⟩, by decide +kernel⟩,
    by decide +kernel, by decide +kernel, by decide +kernel, by decide +kernel, by decide +kernel, by decide +kernel⟩

def level (n : Nat) : State := { up with sec := { up.sec with level := n } }

theorem witness_TapAndCoreControl :
    (Awake (level 3) ∧ (level 3).sec.level = 3 ∧ (level 3).power.state ≠ 3) ∧
    (∀ a ∈ [0, 767999999999], a < 768000000000 ∧ (level 3).poison.contains (a / 32) = false ∧ mget (level 3).memctl.latent (a / 32) = none ∧
      Canonical (level 3)) ∧
    (up.sec.level ≠ 3 ∧ up.sec.level < 2) ∧ 2 ≤ (level 2).sec.level ∧ (inState 3).power.state = 3 := by decide +kernel

/-- A module whose CXL port carries both protocols, with a window of 256 MiB at 4 GiB. -/
def windowed : State := { up with cxl := { up.cxl with protocols := 2, hdm := some (2 ^ 32, 2 ^ 28), crs := false } }

theorem witness_Correctable :
    let s (l : Latent) : State := { up with memctl := { up.memctl with latent := [(5, l)] } }
    Correctable (s { symbols := 2, symbol := 0, mark := false, injected := false }) ∧ Correctable (s { symbols := 9, symbol := 0, mark := true, injected := false }) ∧
    ¬ Correctable (s { symbols := 3, symbol := 0, mark := false, injected := false }) := by
  refine ⟨fun w l h => ?_, fun w l h => ?_, fun h => absurd (h 5 _ rfl) (by decide)⟩ <;>
  · simp only [mget] at h
    split at h
    · cases h; decide
    · cases h

theorem witness_CxlMemoryAccess :
    (Awake windowed ∧ Canonical windowed ∧ windowed.cxl.hdm = some (2 ^ 32, 2 ^ 28) ∧ windowed.cxl.protocols = 2 ∧
      windowed.start.memActive = true ∧ (2 ^ 32 + 2 ^ 28 - 64) + 64 ≤ 2 ^ 32 + 2 ^ 28) ∧
    (∀ w, w ∈ wordsOf (0x0072D05E0000 + (2 ^ 28 - 64)) 64 → windowed.poison.contains w = false ∧ mget windowed.memctl.latent w = none) ∧
    (2 ^ 32 + 2 ^ 28 < (2 ^ 32 + 2 ^ 28 - 63) + 64) ∧ up.cxl.protocols = 0 := by decide +kernel

theorem witness_CxlPortEvents :
    (Awake up ∧ isHead up = true ∧ 2 ≤ up.start.seq ∧ up.power.state ≠ 3 ∧ up.sec.recovery = false ∧ (8 : Nat) ≤ 8 ∧ (4 : Nat) ≤ 4 ∧ (3 : Nat) < 4) ∧
    (let s := setQ 5 { Queue.off with mode := .running, ring := 2 ^ 63 } windowed;
      Awake s ∧ s.cxl.protocols ≠ 0 ∧ (getQ s 5).mode = .running ∧ (inHost (getQ s 5).ring || inHost (getQ s 5).comp) = true) ∧
    (let s := { windowed with cxl := { windowed.cxl with crs := true } }; Awake s ∧ s.cxl.protocols ≠ 0 ∧ s.cxl.crs = true) ∧
    windowed.cxl.crs = false ∧
    (let s := setQ 5 { Queue.off with mode := .running, ops := [{ (default : Op) with phase := .blocked }] } windowed;
      ∃ o, getOp s 5 0 = some o ∧ o.phase = .blocked) ∧
    (let s := { windowed with cxl := { windowed.cxl with pendingBits := [2047], table := [(2047, { MsixEntry.off with address := 0xFEE00000 })] } };
      let e := { mgetD s.cxl.table 2047 MsixEntry.off with masked := false };
      s.cxl.pendingBits = [2047] ∧ s.cxl.functionMask = false ∧ e.address ≠ 0) ∧ windowed.cxl.pendingBits = [] := by
  refine ⟨by decide +kernel, by decide +kernel, by decide +kernel, by decide +kernel, ⟨_, rfl, rfl⟩, by decide +kernel, by decide +kernel⟩

theorem witness_FunctionLevelReset :
    Awake windowed ∧ isHead windowed = true ∧ windowed.cxl.protocols ≠ 0 ∧ windowed.plan.job = none ∧
    ∀ q, (getQ windowed q).mode = .disabled := ⟨by decide +kernel, by decide +kernel, by decide +kernel, rfl, fun _ => rfl⟩

/-! ### The premises of the statements: the fabric -/

def txn (len addr amount : Nat) : Txn :=
  { src := 3, txid := 2 ^ 32 - 1, reissue := false, cacheable := false, queue := 0, address := addr, length := len, amount := amount }

/-- A member whose counter 7 holds 5. -/
def counted : State := setC 7 { Ctr.free with mode := .claimed, owner := 5, value := 5 } member

theorem witness_FabricRequestsServed :
    (Awake member ∧ Canonical member ∧ fromModule member 3 = true) ∧
    (requestOk (txn 4096 (hbmBytes - 4096) 0) 4096 = true ∧ requestOk (txn 1 reservedEnd 0) 256 = true ∧
      requestOk (txn 4096 (hbmBytes - 4095) 0) 4096 = false ∧ requestOk (txn 1 (reservedEnd - 1) 0) 256 = false) ∧
    (∀ w, w ∈ wordsOf (hbmBytes - 256) 256 → member.poison.contains w = false ∧ mget member.memctl.latent w = none) ∧
    (Awake counted ∧ fromModule counted 3 = true ∧ (getC counted 7).mode = .claimed ∧ (getC counted 7).waits = [] ∧
      (getC counted 7).value.toNat + (2 ^ 32 - 6) < 2 ^ 32 ∧ (5 : U32) ≤ (getC counted 7).value ∧ (getC counted 7).value < (6 : U32)) ∧
    (let s := { member with fabric := { member.fabric with records :=
        [{ (default : TxnRecord) with src := 3, txid := 2 ^ 32 - 1, done := true, kind := 8, status := .ok }] } };
      ∃ r, s.fabric.records.find? (fun x => x.src == 3 && x.txid == 2 ^ 32 - 1) = some r ∧ r.done = true) := by
  refine ⟨by decide +kernel, by decide +kernel, by decide +kernel, by decide +kernel, _, rfl, rfl⟩

/-- A member whose queue 4,095 has an operation that awaits module 3's answer to one request of a kind. -/
def asking (kind : Nat) : State :=
  setQ 4095 { Queue.off with mode := .running, cls := 1, entries := 64, ops := [{ (default : Op) with phase := .blocked, reqs := [(3, 9)] }] }
    { member with fabric := { member.fabric with outstanding :=
      [{ (default : OutReq) with kind := kind, dst := 3, txid := 9, queue := 4095, address := 0x80000000, length := 4 }] } }

theorem witness_FirstAnswersTaken :
    (∀ kinds ∈ [([1, 4], 1), ([1, 4], 4), ([3], 3), ([2, 5], 2), ([2, 5], 5), ([12, 15], 12), ([12, 15], 15)],
      let s := asking kinds.2
      Awake s ∧ (findReq s 3 9 kinds.1).any (fun r => r.queue == 4095 && r.dst == 3 && r.txid == 9 && r.length == 4 && r.index == 0) = true ∧
      (getOp s 4095 0).any (fun o => o.reqs == [(3, 9)] && o.status == .ok) = true ∧ (getQ s 4095).cls ≠ 4 ∧
      bwf s.fabric.view = true) ∧
    member.fabric.outstanding.all (fun r => !(r.dst == 3 && r.txid == 9)) = true := by decide +kernel

theorem witness_AwaitsAlone : ∀ kind ∈ [1, 3, 2, 12],
    ∃ r o, findReq (asking kind) 3 9 [kind] = some r ∧ AwaitsAlone (asking kind) r o := by
  intro kind h
  simp only [List.mem_cons, List.not_mem_nil, or_false] at h
  rcases h with rfl | rfl | rfl | rfl <;> exact ⟨_, _, rfl, ⟨rfl, by decide +kernel, rfl, by decide +kernel, by decide +kernel, rfl, rfl, rfl, rfl⟩⟩

/-- A member with a port changed. -/
def withPort (p : Nat) (f : Port → Port) : State := modPort p f member

/-- A flit of credits alone, class 2 and sequence number 5, under its CRC. -/
def flitBody : List Byte := leBytes 8 (5 * 2 ^ 52 + 2 * 2 ^ 22) ++ List.replicate 244 0
def flitOf (crc : U32) : List Byte := flitBody ++ leBytes 4 crc.toNat
def flit5 : List Byte := flitOf (crc32 flitBody)

theorem leNat_word (w : U32) : BitVec.ofNat 32 (leNat (leBytes 4 w.toNat)) = w := by
  apply BitVec.eq_of_toNat_eq
  simp only [leNat, leBytes, BitVec.toNat_ofNat]
  have := w.isLt
  omega

theorem flitOf_crc (crc : U32) : BitVec.ofNat 32 (u32 (flitOf crc) 252) = crc := leNat_word crc

theorem flitOf_body (crc : U32) : slice (flitOf crc) 0 252 = flitBody ∧ u64 (flitOf crc) 0 = 5 * 2 ^ 52 + 2 * 2 ^ 22 := by
  have n : flitBody.length = 252 := by decide +kernel
  have t : (flitOf crc).take 252 = flitBody := by rw [flitOf]; exact List.take_left' n
  refine ⟨by simp [slice, t, n], ?_⟩
  have e : (flitOf crc).take 8 = leBytes 8 (5 * 2 ^ 52 + 2 * 2 ^ 22) := by
    rw [flitOf, flitBody, List.append_assoc]
    exact List.take_left' rfl
  rw [u64, List.drop_zero, e]
  decide

/-- What the peer of port 23 of module 37 in topology 2 tells in its training. -/
def wired : State :=
  { member with fabric := { member.fabric with
      topology := { code := 2, modules := 64, module := 37, head := 0, portMask := 0xFFFFFF, configId := 9 }
      ports := member.fabric.ports.set 20 { Port.reset with state := 2 } } }
def peer20 : Training := { ok := true, configId := 9, peerModule := 15, peerPort := 20, incarnation := 4 }

theorem witness_FabricLinksComplete :
    (let s := withPort 23 fun p => { p with state := 3, rxSeq := 5 };
      Awake s ∧ (23 : Nat) < 24 ∧ s.fabric.ports.length = 24 ∧ (getPort s 23).state = 3 ∧
      (getPort s 23).rxSeq = 5) ∧
    (crc32 (slice flit5 0 252) = BitVec.ofNat 32 (u32 flit5 252) ∧ bits (u64 flit5 0) 25 22 = 2 ∧
      bits (u64 flit5 0) 9 8 = 0 ∧ bits (u64 flit5 0) 63 52 = 5) ∧
    (let s := withPort 0 fun p => { p with state := 3, txSeq := 0, ackSeq := 4095, replayed := 7 };
      Awake s ∧ (getPort s 0).state = 3 ∧ pump s = s ∧ unacked (getPort s 0) ≠ 0 ∧ (getPort s 0).replayed < 8 ∧
      (getPort s 0).ackSeq < 4096) ∧
    (Awake wired ∧ wired.fabric.ports.length = 24 ∧ (getPort wired 20).state = 2 ∧ peer20.ok = true ∧
      peer20.configId = wired.fabric.topology.configId ∧
      peerOf wired.fabric.topology (self wired) 20 = some (peer20.peerModule, peer20.peerPort) ∧
      mget wired.fabric.incarnations peer20.peerModule = none ∧ { peer20 with configId := 8 }.configId ≠ wired.fabric.topology.configId) ∧
    awaitsAuth (withPort 2 fun p => { p with state := 2, trained := true, peerModule := 0 }) 2 false = true ∧
    awaitsAuth (withPort 2 fun p => { p with state := 2, trained := true, peerModule := 3 }) 2 true = true ∧
    (routeOf member 3 = none ∧ fromModule member 3 = true ∧ member.fabric.lost.contains 3 = false) ∧
    routeOf { member with fabric := { member.fabric with
      ports := List.replicate 24 { Port.reset with state := 3 }, portsUp := (List.range 4).map fun k => (k, List.range 24) } } 3 ≠ none := by
  refine ⟨by decide +kernel, ?_, ⟨by decide +kernel, by decide +kernel, rfl, by decide +kernel⟩, by decide +kernel, by decide +kernel,
    by decide +kernel, by decide +kernel, by decide +kernel⟩
  rw [flit5, flitOf_crc, (flitOf_body _).1, (flitOf_body _).2]
  exact ⟨rfl, by decide⟩

/-! ### The premises of the statements: counters and queues -/

/-- Queue 4,095 of a class with one operation that may apply. -/
def opState (cls : Nat) (desc : List Byte) (s : State) : State :=
  setQ 4095 { Queue.off with mode := .running, cls := cls, entries := 64, comp := 0x80004000,
                             ops := [{ (default : Op) with desc := desc, phase := .running }] } s

/-- A descriptor: its opcode, then bytes from offset 16 on. -/
def desc (code : Nat) (bs : List Byte) : List Byte := body 64 (BitVec.ofNat 8 code :: List.replicate 15 0 ++ bs)

theorem unasked_of {q : Nat} {idx : U32} {s : State} (h : (getOp s q idx).all (fun o => o.reqs == []) = true) : Unasked q idx s := by
  intro o ho
  rw [ho] at h
  simpa using h

theorem witness_ZeroAmountCompletes :
    (7 : Nat) ≠ 0xFFFF ∧
    ∀ code ∈ [1, 2, 3, 4],
      let s := opState 5 (desc code [7, 0, 0xFF]) counted
      Awake s ∧ sgCounter (descOf s 4095 0) = 7 ∧ sgLocal s (descOf s 4095 0) = true ∧ sgAmount (descOf s 4095 0) = 0 ∧
      opReady s 4095 0 5 code = true ∧ storeTurn s 4095 0 7 = true := by decide +kernel

theorem witness_CounterOperations :
    (∀ code ∈ [1, 2, 3, 4],
      let s := opState 5 (desc code [7, 0, 1, 0, 5]) counted
      Awake s ∧ opReady s 4095 0 5 code = true ∧ sgLocal s (descOf s 4095 0) = true ∧ sgCounter (descOf s 4095 0) ≠ 0xFFFF ∧
      storeTurn s 4095 0 (sgCounter (descOf s 4095 0)) = true ∧
      (getC s (sgCounter (descOf s 4095 0))).mode = .claimed ∧ sgAmount (descOf s 4095 0) ≠ 0 ∧
      (getC s 7).value.toNat + (sgAmount (descOf s 4095 0)).toNat < 2 ^ 32 ∧ ∀ w ∈ (getC s 7).waits, w.acquire = false) ∧
    (∀ code ∈ [1, 2, 3, 4],
      let s := opState 5 (desc code [7, 0, 3, 0, 5]) counted
      (getOp s 4095 0).any (fun o => o.reqs == []) = true ∧ sgLocal s (descOf s 4095 0) = false ∧
      s.fabric.lost.contains (sgModule (descOf s 4095 0)) = false ∧ opReady s 4095 0 5 code = true) ∧
    (let s := opState 5 (desc 1 [7, 0, 1, 0, 5]) counted
     let t := modQ 4095 (fun v => { v with ops := v.ops.map fun o => { o with order := 1 } }) s
     let t := setQ 4094 { getQ s 4095 with ops := (getQ s 4095).ops } t
     Awake t ∧ sgLocal t (descOf t 4095 0) = true ∧ storeTurn t 4095 0 (sgCounter (descOf t 4095 0)) = false) ∧
    (Awake counted ∧ doorbellsOpen counted = true ∧ (getC counted 0xFFFE).mode = .free ∧ (getC counted 7).mode = .claimed ∧
      (getC counted 7).value.toNat + (0xFFFFFFFA : U32).toNat < 2 ^ 32 ∧
      2 ^ 32 ≤ (getC counted 7).value.toNat + (0xFFFFFFFB : U32).toNat) ∧ doorbellsOpen State.reset = false := by decide +kernel

/-- Slot ring 1,023 with two of its three slots full. -/
def ringed : State :=
  { up with rings := [(1023, { slots := 3, slotBytes := 4096, base := 0x80000000, readyCtr := 0xFFFF, freeCtr := 0xFFFF, tail := 1, head := 0xFFFFFFFF,
                               openFor := none })] }

theorem witness_QueueRowsComplete :
    (Awake q37 ∧ doorbellsOpen q37 = true ∧ (getQ q37 37).mode = .running ∧
      (122 : U32) - (getQ q37 37).tail ≤ BitVec.ofNat 32 (getQ q37 37).entries - ((getQ q37 37).tail - (getQ q37 37).done) ∧
      ¬ (123 : U32) - (getQ q37 37).tail ≤ BitVec.ofNat 32 (getQ q37 37).entries - ((getQ q37 37).tail - (getQ q37 37).done)) ∧
    ((mget ringed.rings 1023).any (fun v => decide ((1 : U32) - v.head ≤ v.tail - v.head) && !decide ((2 : U32) - v.head ≤ v.tail - v.head) &&
      (v.tail - v.head).toNat == 2) = true) ∧
    (∀ n ∈ [2, 3], let s := opState 1 (desc 3 [0xFF, 3, 0, 0, BitVec.ofNat 8 n]) ringed;
      Awake s ∧ opReady s 4095 0 1 3 = true ∧ (mget s.rings (u16 (descOf s 4095 0) 16)).isSome = true) ∧
    (let s := opState 1 (desc 0 []) up
     let s := modQ 4095 (fun v => { v with ops := v.ops.map fun o => { o with desc := o.desc.set 1 0x10 } }) s
     Awake s ∧ (getOp s 4095 0).any (fun o => hHint o.desc && o.phase == .running) = true) ∧
    opReady (opState 0 (desc 1 []) up) 4095 0 0 1 = true ∧
    (let s := modQ 4095 (fun v => { v with ops := v.ops.map fun o => { o with phase := .admitted, desc := o.desc.set 1 4 } })
      (opState 1 (desc 1 []) up)
     Awake s ∧ (getOp s 4095 0).any (fun o => o.phase == .admitted && !hWait o.desc && hFence o.desc) = true ∧ s.tick.windowOpen = false ∧
      (getQ s 4095).done = 0) ∧
    (let s := modQ 4095 (fun v => { v with ops := v.ops.map fun o =>
        { o with phase := .admitted, desc := o.desc.set 1 2 |>.set 2 7 |>.set 4 6 } }) (opState 1 (desc 1 []) counted)
     (getOp s 4095 0).any (fun o => o.phase == .admitted && hWait o.desc && hWaitCounter o.desc == 7 &&
       decide ((getC s 7).value < BitVec.ofNat 32 (hWaitValue o.desc))) = true ∧ (getC s 7).mode = .claimed ∧ s.tick.windowOpen = false ∧
      storeTurn s 4095 0 7 = true) ∧
    (let s := modQ 4095 (fun v => { v with ops := v.ops.map fun o => { o with work := { Work.zero with fixed := [256] }, stepTick := 9 } })
      { opState 2 (desc 1 []) up with tick := { up.tick with caps := List.replicate 6 { descs := 1, budget := 256 } } }
     Awake s ∧ (getOp s 4095 0).any (fun o => o.phase == .running && o.work.fixed == [256] && o.stepTick != s.tick.count) = true ∧
      s.tick.state ≠ 3 ∧ (capOf s 2).descs ≠ 0 ∧ 256 ≤ (capOf s 2).budget ∧ neverFits s 2 256 = false) ∧
    (let s := modQ 4095 (fun v => { v with ops := v.ops.map fun o => { o with phase := .done } }) (opState 1 (desc 1 []) up)
     Awake s ∧ Canonical s ∧ (getQ s 4095).mode ≠ .disabled ∧
      ((getQ s 4095).ops.find? (fun p => p.index == (getQ s 4095).done)).any
        (fun o => o.phase == .done && !hSignal o.desc && o.publish == none && !o.noTag) = true ∧ s.plan.waiting = [] ∧
      inHost (getQ s 4095).comp = false ∧ addrOf s ((getQ s 4095).comp + 16 * 0) = .hbm 0x80004000 ∧
      anyPoison s (.hbm 0x80004000) 16 = false) := by decide +kernel

/-! ### The premises of the statements: data operations -/

/-- The premises of RunsData for queue 4,095, with something to read. -/
abbrev Runs (cls code : Nat) (cacheable : State → Bool) (reads : State → List (LAddr × Nat)) (result : State → DataRes) (s : State) : Prop :=
  Awake s ∧ opReady s 4095 0 cls code = true ∧ (getOp s 4095 0).all (fun o => o.reqs == []) = true ∧ reads s ≠ [] ∧ Local (reads s) s ∧
  (let cache := cacheOf s 4095 0 (cacheable s)
   let u := afterReads 4095 0 cache (reads s) s
   let r := result (viewOf cache u)
   outSpans r ≠ [] ∧ Local (outSpans r) u)

/-- Software's HBM with a parameter block at 0x8000_2000. -/
def withBlock (bs : List (Nat × Byte)) : State := { up with hbm := bs.map fun b => (0x80002000 + b.1, b.2) }

/-- Three address fields: 0x8000_0000, 0x8000_0100, 0x8000_0200, then the block's. -/
def three : List Byte := leBytes 8 0x80000000 ++ leBytes 8 0x80000100 ++ leBytes 8 0x80000200 ++ leBytes 8 0x80002000
def plain (_ : State) : Bool := false

theorem witness_matmul :
    Runs 0 0x10 plain (fun s => mmReads s (mmAt s (descOf s 4095 0))) (fun u => mmResult u (mmAt u (descOf u 4095 0)))
      (opState 0 (desc 0x10 ([1, 0, 0, 0, 1, 0, 0, 0, 1, 0, 0, 0, 0, 0, 0, 0] ++ three))
        (withBlock [(0, 3), (4, 3), (8, 3), (80, 1), (84, 1), (88, 1), (96, 1)])) := by decide +kernel

theorem witness_attention :
    Runs 0 0x11 plain (fun s => attReads s (attAt s (descOf s 4095 0))) (fun u => attResult u (attAt u (descOf u 4095 0)))
      (opState 0 (desc 0x11 ([1, 0, 1, 0, 1, 0, 0, 0, 1, 0, 0, 0, 1, 0, 0, 0] ++ three))
        (withBlock [(0, 3), (4, 3), (8, 3), (12, 3), (25, 3), (27, 0x80)])) := by decide +kernel

theorem witness_conv :
    Runs 0 0x12 plain (fun s => cvReads s (cvAt s (descOf s 4095 0))) (fun u => cvResult u (cvAt u (descOf u 4095 0)))
      (opState 0 (desc 0x12 ([1, 0, 1, 0, 1, 0, 1, 0, 1, 0, 1, 0, 1, 1, 1, 1] ++ three))
        (withBlock [(0, 3), (4, 3), (8, 3), (16, 1), (18, 1)])) := by decide +kernel

theorem witness_resample :
    Runs 0 0x13 plain (fun s => rsReads s (rsOf (descOf s 4095 0))) (fun u => rsResult u (rsOf (descOf u 4095 0)))
      (opState 0 (desc 0x13 ([1, 0, 1, 0, 1, 0, 1, 0, 0, 1, 1, 0, 3, 0, 0, 0] ++ three)) up) := by decide +kernel

theorem witness_func :
    Runs 0 0x14 plain (fun s => fnReads s (fnOf (descOf s 4095 0))) (fun u => fnResult u (fnOf (descOf u 4095 0)))
      (opState 0 (desc 0x14 ([0, 0, 0, 0, 3, 0, 0, 0, 3, 0, 0, 0, 0, 0, 0, 0, 1, 0, 0, 0, 0, 0, 0, 0] ++ three)) up) := by decide +kernel

theorem witness_norm :
    Runs 0 0x15 plain (fun s => nmReads s (nmAt s (descOf s 4095 0))) (fun u => nmResult u (nmAt u (descOf u 4095 0)))
      (opState 0 (desc 0x15 ([1, 0, 0, 0, 1, 0, 0, 0] ++ leBytes 8 0x80000000 ++ leBytes 8 0x80000100 ++ List.replicate 16 0 ++
        leBytes 8 0x80002000)) (withBlock [(0, 3), (4, 3), (16, 1), (20, 1)])) := by decide +kernel

theorem witness_softmax :
    Runs 0 0x16 plain (fun s => smReads s (smAt s (descOf s 4095 0))) (fun u => smResult u (smAt u (descOf u 4095 0)))
      (opState 0 (desc 0x16 ([1, 0, 0, 0, 1, 0, 0, 0] ++ leBytes 8 0x80000000 ++ leBytes 8 0x80000100 ++ leBytes 8 0x80002000 ++
        List.replicate 8 0 ++ [3, 0, 0, 0, 3, 0, 0, 0])) up) := by decide +kernel

theorem witness_transfer :
    ∀ flags ∈ [0, 1], Runs 1 1 (fun s => bit (trOf (descOf s 4095 0)).flags 0) (fun s => trReads s (trOf (descOf s 4095 0)))
      (fun u => trResult u (trOf (descOf u 4095 0)) (slotOf u 4095 0))
      (opState 1 (desc 1 (leBytes 8 0x80000000 ++ leBytes 8 0x80000100 ++ leBytes 4 40 ++ leBytes 4 1 ++ leBytes 8 0 ++ [0, flags, 0xFF, 0xFF]))
        up) := by decide +kernel

theorem witness_gather :
    Runs 1 2 (fun s => bit (gaOf (descOf s 4095 0)).flags 1) (fun s => gaReads s (gaOf (descOf s 4095 0)))
      (fun u => gaResult u (gaOf (descOf u 4095 0)) (slotOf u 4095 0))
      (opState 1 (desc 2 (leBytes 8 0x80000000 ++ leBytes 8 0x80000100 ++ leBytes 4 1 ++ leBytes 4 4 ++ leBytes 8 0x80000200 ++
        [0, 0, 0xFF, 0xFF, 4, 0, 0, 0, 1])) up) := by decide +kernel

theorem witness_uncorrectable_vat : Awake up ∧ (159 : Nat) < 160 ∧ opReady (opState 0 (desc 0x10 []) up) 4095 0 0 0x10 = true := by
  decide +kernel

/-- A range coding queue's state: engine 0, context 0. -/
def coded (code : Nat) (bs : List Byte) : State := opState 2 (desc code bs) up

/-- What an encode of queue 4,095 computes at its first part. -/
abbrev firstPart (s : State) : State × DataRes :=
  let u := afterReads 4095 0 none (ewReads s (descOf s 4095 0)) s
  rcEncode false 4095 (opGen u 4095 0) false (descOf u 4095 0) u

/-- An encode of one frame at a check level, with its block at 0x8000_2000 and scratch at 0x8000_4000, for a model of no elements,
whose frame table lies at 0x8000_3100. -/
def encoding (check : Nat) : State :=
  opState 2 (desc 4 ([0, 0, BitVec.ofNat 8 check, 0, 0, 0, 0, 0] ++ leBytes 8 0x80002000 ++ leBytes 8 0x80005000 ++ leBytes 4 4096))
    { withBlock [(4, 1), (8, 64), (13, 0x10), (17, 0x30), (19, 0x80), (25, 0x31), (27, 0x80), (33, 0x40), (35, 0x80),
        (0x1101, 0x60), (0x1103, 0x80), (0x1109, 0x60), (0x110B, 0x80), (0x1111, 0x60), (0x1113, 0x80)] with
      culture := { up.culture with active := [default] } }

theorem witness_range_coding :
    (let s := coded 1 ([0, 0, 0xFF, 0xFF] ++ leBytes 4 64 ++ leBytes 8 0x80000000);
      Awake s ∧ rcReady s 4095 0 1 = true ∧ dbReads s 4095 (descOf s 4095 0) ≠ [] ∧ Local (dbReads s 4095 (descOf s 4095 0)) s) ∧
    (∀ code ∈ [2, 3], let s := coded code [0]; Awake s ∧ rcReady s 4095 0 code = true) ∧
    (let s := coded 2 [0];
      Local (dpReads s 4095 (descOf s 4095 0)) s ∧
      (let p := rcPass 4095 false (descOf s 4095 0) (afterReads 4095 0 none (dpReads s 4095 (descOf s 4095 0)) s)
       Local (outSpans p.2) p.1)) ∧
    (let s := coded 3 [0];
      (getOp s 4095 0).all (fun o => o.reqs == []) = true ∧
      (let p := rcEnd 4095 (descOf s 4095 0) s
       Local (outSpans p.2) p.1)) := by decide +kernel

theorem witness_encode :
    (∀ check ∈ [0, 1], let s := encoding check
      Awake s ∧ rcReady s 4095 0 4 = true ∧ (getOp s 4095 0).all (fun o => o.reqs == []) = true ∧ ownCheck s 4095 (descOf s 4095 0) = none ∧
      ewReads s (descOf s 4095 0) ≠ [] ∧ Local (ewReads s (descOf s 4095 0)) s ∧ (firstPart s).2.status = .ok ∧
      outSpans (firstPart s).2 ≠ [] ∧ Local (outSpans (firstPart s).2) (firstPart s).1 ∧
      (ownCheck (firstPart s).1 4095 (descOf s 4095 0)).isSome = (check == 1)) ∧
    (let s := (firstPart (encoding 1)).1
     let d := descOf s 4095 0
     Awake s ∧ rcReady s 4095 0 4 = true ∧ (getOp s 4095 0).all (fun o => o.reqs == []) = true ∧
      (ownCheck s 4095 d).any (fun k =>
        let p := rcCheck k false d (afterReads 4095 0 none (checkReads s k) s)
        decide (checkReads s k ≠ [] ∧ Local (checkReads s k) s ∧ Local (outSpans p.2) p.1)) = true) := by decide +kernel

/-- R127, R141: an ENCODE_WHEEL that runs holds its context, which RC_STATE of its engine counts and other queues find open. -/
theorem test_encode_opens :
    let s := modQ 4095 (fun v => { v with ops := v.ops.map fun o => { o with phase := .released } }) (encoding 0)
    let t := encoding 0
    rcState s 0 / 2 ^ 16 = 0 ∧ rcState t 0 / 2 ^ 16 = 1 ∧ encodesElsewhere t 4094 0 = true ∧ encodesElsewhere t 4095 0 = false := by
  decide +kernel

theorem witness_press :
    ∀ inflate ∈ [false, true],
      let s := opState 3 (desc (if inflate then 2 else 1) ([0, 1, 0, 1] ++ leBytes 4 4 ++ leBytes 8 0x80000000 ++ leBytes 8 0x80000100 ++
        leBytes 4 64 ++ leBytes 4 0 ++ leBytes 8 0 ++ leBytes 8 0x80000200)) up
      let x := prOf (descOf s 4095 0)
      Awake s ∧ opReady s 4095 0 3 (if inflate then 2 else 1) = true ∧ (getOp s 4095 0).all (fun o => o.reqs == []) = true ∧
      prReads s inflate x ≠ [] ∧ Local (prReads s inflate x) s ∧
      (let u := afterReads 4095 0 none (prReads s inflate x) s
       let r := if inflate then inflateResult u x else compressResult u x
       outSpans r ≠ [] ∧ Local (outSpans r) u) := by decide +kernel

/-- A SAMPLE of two keys for token output into ring 1,023, with a result record at 0x8000_3000, and its list at 0x8000_2000. -/
def sampleState (flags : Byte) (f : SampleRun → SampleRun) : State :=
  let s := opState 4 (desc 1 (leBytes 4 2 ++ [0xFF, 3, 0, 0x11] ++ leBytes 8 0x80002000 ++ [0, 0, 0, 0, 0, flags, 0, 0] ++ leBytes 8 0x80003000))
    { withBlock [(0, 5), (9, 1), (16, 6), (25, 1)] with rings := ringed.rings, index := { up.index with active := 0 } }
  modQ 4095 (fun v => { v with ops := v.ops.map fun o => { o with sample := f o.sample } }) s

/-- An entry of a SAMPLE that has ended. -/
def ended (k : Nat) (st : Status) (data : List Byte) : Flight :=
  { (default : Flight) with k := k, status := st, out := some ([], data) }

def hasOp (s : State) (p : Op → Bool) : Bool := (getOp s 4095 0).any p

theorem witness_sample_ends :
    let s := sampleState 0 fun r => { r with next := 2 }
    let x := saOf (descOf s 4095 0)
    Awake s ∧ Canonical s ∧ hasOp s (fun o => sampling s 4095 o && o.phase == .running && o.reqs == [] && o.sample.flights == [] &&
      decide (x.count ≤ o.sample.next)) = true ∧ x.count ≠ 0 ∧ x.result ≠ 0 ∧ Local [(addrOf s x.result, 32)] s ∧
    addrOf s x.result = .hbm 0x80003000 := by decide +kernel

theorem witness_sample_starts :
    let s := sampleState 0 fun r => { r with grants := [(0, 0, 2)] }
    Awake s ∧ hasOp s (fun o => sampling s 4095 o && sampleReady s 4095 o) = true ∧ (saEntry s (saOf (descOf s 4095 0)) 0).2.2 = 1 := by
  decide +kernel

theorem witness_sample_delivers :
    (∀ st ∈ [Status.ok, .clipAbsent],
      let s := sampleState 0 fun r => { r with next := 2, flights := [ended 1 st [7]] }
      let x := saOf (descOf s 4095 0)
      Awake s ∧ Canonical s ∧ hasOp s (fun o => sampling s 4095 o && o.phase == .running && o.status == .ok && o.reqs == [] &&
        o.sample.flights == [ended 1 st [7]] && decide (x.count ≤ o.sample.next)) = true ∧ bit x.flags 2 = false ∧
      slotReady s x.ring 4095 = true ∧
      (mget s.rings x.ring).any (fun v => v.readyCtr == 0xFFFF && addrOf s (slotAddr v 0) == .hbm 0x80001000) = true) ∧
    (let s := sampleState 4 fun r => { r with next := 1, flights := [ended 0 .clipAbsent []] }
     let x := saOf (descOf s 4095 0)
     Awake s ∧ hasOp s (fun o => sampling s 4095 o && o.phase == .running && o.status == .ok && o.reqs == [] &&
       o.sample.flights == [ended 0 .clipAbsent []] && decide (o.sample.next < x.count)) = true ∧ bit x.flags 2 = true ∧
     (saEntry s x 1).2.2 ≠ 0) := by decide +kernel

theorem witness_index :
    ∀ code ∈ [2, 3, 4],
      let s := opState 4 (desc code (leBytes 8 5 ++ leBytes 8 0x80000000)) up
      Awake s ∧ indexTurn s 4095 0 = true ∧ opReady s 4095 0 4 code = true ∧
      (getOp s 4095 0).all (fun o => o.reqs == []) = true ∧
      (let p := lookupKey (whoOf 4095 (descOf s 4095 0)) (opTable s 4095 0) 5 s
       Local [(addrOf s 0x80000000, 32)] p.1) := by decide +kernel

end Sys2Proof.Tests
end

namespace Sys2Proof.Safety

open Sys2Proof.Machine

/-! ### Which registers a write reaches (R455) -/

theorem exec_registerWrite {s : State} (h : Awake s) (off : Nat) (v : U32) :
    exec (.registerWrite off v) s = .next (wake (writeReg off v s)) := congrArg _ (live_awake h _)

theorem writeReg_misaligned {off : Nat} (h : off % 4 ≠ 0) (v : U32) (s : State) : writeReg off v s = s := by
  rw [writeReg, if_pos h]

theorem writeReg_status {off : Nat} (al : off % 4 = 0) (h : off < 0x10000) (v : U32) (s : State) :
    writeReg off v s = statusWrite off v s := by
  rw [writeReg, if_neg (not_not_intro al), if_pos h]

/-- A word of host mailbox m lies at the mailbox's base. -/
theorem writeReg_box {m off : Nat} (hm : m ≤ 3) (al : off % 4 = 0) (h : off < 0x4000) (v : U32) (s : State) :
    writeReg (0x10000 + 0x4000 * m + off) v s = boxWrite m off v s := by
  have box : (0x10000 + 0x4000 * m + off - 0x10000) / 0x4000 = m := by omega
  have word : (0x10000 + 0x4000 * m + off) % 0x4000 = off := by omega
  rw [writeReg, if_neg (by omega), if_neg (by omega), if_pos (by omega), box, word]

theorem writeReg_event {off : Nat} (al : off % 4 = 0) (h : off < 0x5000) (v : U32) (s : State) :
    writeReg (0x20000 + off) v s = eventWrite off v s := by
  rw [writeReg, if_neg (by omega), if_neg (by omega), if_neg (by omega), if_pos (by omega), Nat.add_sub_cancel_left]

/-- A word of a counter's page lies at the page's base. -/
theorem writeReg_counter {c off : Nat} (hc : c ≤ 0xFFFF) (al : off % 4 = 0) (h : off < 16) (v : U32) (s : State) :
    writeReg (0x200000 + 16 * c + off) v s = counterWrite c off v s := by
  have page : (0x200000 + 16 * c + off - 0x200000) / 16 = c := by omega
  have word : (0x200000 + 16 * c + off) % 16 = off := by omega
  rw [writeReg, if_neg (by omega), if_neg (by omega), if_neg (by omega), if_neg (by omega), if_neg (by omega), if_neg (by omega),
    if_neg (by omega), if_neg (by omega), if_neg (by omega), if_pos (by omega), page, word]

/-- The status region's writable registers lie from NUM_STICKY to DBG_CORE. -/
theorem statusWrite_readOnly {off : Nat} (h : off < 0x1400 ∨ 0x1F10 < off) (v : U32) (s : State) : statusWrite off v s = s := by
  rw [statusWrite, if_neg (by omega), if_neg (by omega), if_neg (by omega), if_neg (by omega), if_neg (by omega), if_neg (by omega)]

theorem writeReg_readOnly {off : Nat} (h : off % 4 ≠ 0 ∨ off < 0x1400 ∨ (0x2000 ≤ off ∧ off < 0x10000)) (v : U32) (s : State) :
    writeReg off v s = s := by
  by_cases al : off % 4 = 0
  · rw [writeReg_status al (by omega), statusWrite_readOnly (by omega)]
  · exact writeReg_misaligned al v s

/-! ### What the words of the status region take (R13, R324, R325) -/

theorem memConfigWrite_eq (v : U32) (s : State) : memConfigWrite v s =
    if s.memctl.locked then s
    else { s with
      memctl := { s.memctl with interleave := v.toNat % 4, scrubHours := bits v.toNat 15 8 }
      fmw := { s.fmw with settings := { s.fmw.settings with interleave := v.toNat % 4, scrubHours := bits v.toNat 15 8 } } } := rfl

theorem clearLost_eq (v : U32) (r : RecRing) : r.clearLost v = { r with lost := r.lost && !v.getLsbD 0 } := by
  have bit0 : v.getLsbD 0 = decide (v.toNat % 2 = 1) := by simp [BitVec.getLsbD, Nat.testBit_zero]
  rw [RecRing.clearLost, bit0]
  by_cases h : v.toNat % 2 = 1 <;> simp [h]

/-- A refused ARM leaves every field but DENIED. -/
theorem deny_keeps_fields (old : U32) : (old &&& 0xBFFFFFFF#32) ||| 0x40000000#32 = old ||| 0x40000000#32 := by
  ext i hi
  simp only [BitVec.getElem_or, BitVec.getElem_and]
  interval_cases i <;> simp

theorem injectWrite_eq (v : U32) (s : State) : injectWrite v s = { s with memctl := { s.memctl with
    inject :=
      if v.getLsbD 31 = true ∧ s.sec.level < 2 then s.memctl.inject ||| 0x40000000#32
      else (v &&& 0x8FFFFF03#32) ||| (if v.getLsbD 30 then 0 else s.memctl.inject &&& 0x40000000#32) } } := by
  simp only [injectWrite, Bool.and_eq_true, decide_eq_true_eq, deny_keeps_fields]
  by_cases refused : v.getLsbD 31 = true ∧ s.sec.level < 2
  · rw [if_pos refused, if_pos refused]; rfl
  · rw [if_neg refused, if_neg refused]; rfl

/-- Settles O40: each offset lies in its region, whose words act by their access codes. -/
theorem registerWritesComplete : Obligations.RegisterWritesComplete := by
  refine ⟨fun v s h => ?sticky, fun v s h => ?memConfig, fun v s h => ?injectLo, fun v s h => ?errLost, fun v s h => ?evtConfig,
    fun m v s h hm => ⟨?boxStatus, ?boxConfig⟩, fun c v s h hopen hc => ?ctrState, fun off v s h ro => ?readOnly, fun v s h => ?inject⟩
  case sticky => rw [exec_registerWrite h, writeReg_status rfl (by decide)]; rfl
  case memConfig => rw [exec_registerWrite h, writeReg_status rfl (by decide), ← memConfigWrite_eq]; rfl
  case injectLo => rw [exec_registerWrite h, writeReg_status rfl (by decide)]; rfl
  case errLost => rw [exec_registerWrite h, ← clearLost_eq]; rfl
  case evtConfig => rw [exec_registerWrite h]; rfl
  case boxStatus => rw [exec_registerWrite h, writeReg_box hm rfl (by decide)]; rfl
  case boxConfig => rw [exec_registerWrite h, writeReg_box hm rfl (by decide)]; rfl
  case ctrState =>
    rw [exec_registerWrite h, writeReg_counter hc rfl (by decide), counterWrite, hopen]
    rfl
  case readOnly => rw [exec_registerWrite h, writeReg_readOnly ro]
  case inject => exact congrArg _ ((live_awake h _).trans (injectWrite_eq v s))

end Sys2Proof.Safety

namespace Sys2Proof.Safety

open Sys2Proof.Machine

/-! ### What a module reset leaves (R563) -/

theorem satAdd_eq_min (top a b : Nat) : satAdd top a b = min top (a + b) := by
  unfold satAdd
  split <;> omega

theorem resetModule_cleared (cause : Nat) (s : State) : Cleared s (resetModule cause s) :=
  ⟨⟨rfl, rfl, rfl, rfl, rfl⟩, ⟨rfl, rfl, rfl, rfl⟩, ⟨rfl, rfl, rfl, rfl⟩, ⟨rfl, rfl⟩, ⟨rfl, rfl, rfl, rfl⟩, ⟨rfl, rfl⟩⟩

theorem resetModule_count (cause : Nat) (s : State) : (resetModule cause s).start.count = min 65535 (s.start.count + 1) :=
  satAdd_eq_min _ _ _

theorem resetModule_held (cause : Nat) (s : State) : HeldReset cause s (resetModule cause s) :=
  ⟨resetModule_cleared cause s, rfl, rfl, resetModule_count cause s⟩

/-- The parts that the start of the sequence may change. -/
abbrev startParts : List Part := [.start, .sec, .fw, .evt, .fmw, .cxl, .sent]

/-- What a reset has cleared and kept stays so while only the start of the sequence goes on. -/
theorem Cleared.of_keeps {s t u : State} (h : Cleared s t) (k : Keeps startParts t u) : Cleared s u := by
  obtain ⟨memory, work, engines, units, kept, ticks⟩ := h
  have hbm : u.hbm = t.hbm := k.part .hbm
  have poison : u.poison = t.poison := k.part .poison
  have sram : u.sram = t.sram := k.part .sram
  have sramPoison : u.sramPoison = t.sramPoison := k.part .sramPoison
  have lines : u.lines = t.lines := k.part .lines
  have queues : u.queues = t.queues := k.part .queues
  have rings : u.rings = t.rings := k.part .rings
  have ctrs : u.ctrs = t.ctrs := k.part .ctrs
  have plan : u.plan = t.plan := k.part .plan
  have rc : u.rc = t.rc := k.part .rc
  have press : u.press = t.press := k.part .press
  have culture : u.culture = t.culture := k.part .culture
  have index : u.index = t.index := k.part .index
  have svc : u.svc = t.svc := k.part .svc
  have packages : u.packages = t.packages := k.part .packages
  have fuses : u.fuses = t.fuses := k.part .fuses
  have host : u.host = t.host := k.part .host
  have hostPoison : u.hostPoison = t.hostPoison := k.part .hostPoison
  have pending : u.pending = t.pending := k.part .pending
  have tick : u.tick = t.tick := k.part .tick
  constructor <;> simp only [*, and_self]

theorem HeldReset.modStart {cause : Nat} {s t : State} (h : HeldReset cause s t) (f : Start → Start)
    (stays : (f t.start).inReset = t.start.inReset ∧ (f t.start).cause = t.start.cause ∧ (f t.start).count = t.start.count) :
    HeldReset cause s (modStart f t) := by
  obtain ⟨cleared, inReset, hcause, count⟩ := h
  obtain ⟨e1, e2, e3⟩ := stays
  exact ⟨cleared.of_keeps ((modStart_keeps f t).mono (by simp)), e1.trans inReset, e2.trans hcause, e3.trans count⟩

/-! ### The start of the sequence -/

theorem bootFrom_keeps (slot : Nat) (fallback : Bool) (s : State) : Keeps [.sec, .fw] s (bootFrom slot fallback s) := by
  intro p hp; cases p <;> simp_all [Same, bootFrom]

/-- The parts that the boot ROM may change. -/
abbrev bootParts : List Part := [.sec, .fw, .evt, .fmw, .cxl, .sent]

theorem bootFallback_keeps (failed stage reason : Nat) (s : State) : Keeps bootParts s (bootFallback failed stage reason s) :=
  ((bootFrom_keeps _ _ _).mono (by simp)).trans ((raise_keeps _ _ _ _).mono (by simp))

theorem bootRom_keeps (s : State) : Keeps bootParts s (bootRom s) := by
  simp only [bootRom]
  split
  · exact (bootFrom_keeps _ _ _).mono (by simp)
  · split_ifs
    · exact bootFallback_keeps _ _ _ _
    · intro p hp; cases p <;> simp_all [Same]

/-- The rails that the module has switched off come on. -/
def withRails (s : State) : State := if s.start.railsOn then s else emit .railsOn { s with start := { s.start with railsOn := true } }

theorem withRails_keeps (s : State) : Keeps [.start, .sent] s (withRails s) := by
  simp only [withRails]
  split_ifs
  · exact Keeps.refl _ s
  · intro p hp; cases p <;> simp_all [Same]

theorem withRails_start (s : State) : (withRails s).start = { s.start with railsOn := true } := by
  by_cases on : s.start.railsOn = true
  · rw [withRails, if_pos on, ← on]
  · rw [withRails, if_neg on]; rfl

/-- The module leaves reset at step 4, where configuration requests get CRS. -/
def leaveReset (s : State) : State := { s with start := { s.start with inReset := false, seq := 4 }, cxl := { s.cxl with crs := true } }

theorem leaveReset_keeps (s : State) : Keeps [.start, .cxl] s (leaveReset s) := by
  intro p hp; cases p <;> simp_all [Same, leaveReset]

theorem beginStart_eq (s : State) :
    let t := bootRom (leaveReset (withRails s))
    beginStart s = raise 0x0707 (caveSeverity t.cave.status) (leBytes 4 t.cave.status.toNat) t := rfl

theorem beginStart_keeps (s : State) : Keeps startParts s (beginStart s) :=
  ((withRails_keeps s).mono (by simp)).trans (((leaveReset_keeps _).mono (by simp)).trans
    (((bootRom_keeps _).mono (by simp)).trans ((raise_keeps _ _ _ _).mono (by simp))))

theorem beginStart_start (s : State) : (beginStart s).start = { s.start with railsOn := true, inReset := false, seq := 4 } := by
  have boot : (bootRom (leaveReset (withRails s))).start = (leaveReset (withRails s)).start := (bootRom_keeps _).part .start
  have report : (beginStart s).start = (bootRom (leaveReset (withRails s))).start := (raise_keeps _ _ _ _).part .start
  rw [report, boot, leaveReset, withRails_start]

/-- A reset whose sequence starts at once. -/
theorem resetAtOnce_restarts (cause : Nat) (s : State) : Restarts cause s (resetAtOnce cause s) := by
  refine ⟨(resetModule_cleared cause s).of_keeps (beginStart_keeps _), ?_⟩
  rw [resetAtOnce, beginStart_start]
  exact ⟨rfl, rfl, rfl, resetModule_count cause s⟩

/-! ### The resets -/

theorem powerOn_cleared (s : State) : Cleared s (powerOn s) :=
  ⟨⟨rfl, rfl, rfl, rfl, rfl⟩, ⟨rfl, rfl, rfl, rfl⟩, ⟨rfl, rfl, rfl, rfl⟩, ⟨rfl, rfl⟩, ⟨rfl, rfl, rfl, rfl⟩, ⟨rfl, rfl⟩⟩

theorem aonLoss_eq {rail : Nat} (h : rail = 12 ∨ rail = 13) (s : State) : aonLoss rail s = powerOn s := if_pos h

theorem pinReset_low {s : State} (low : s.start.resetLow = true) : pinReset s = s := if_pos low

theorem perstReset_low {s : State} (low : s.start.perstLow = true) : perstReset s = s := if_pos low

theorem pinReset_high {s : State} (high : s.start.resetLow = false) : pinReset s =
    modStart (fun x => { x with resetLow := true })
      (if s.start.inReset then modStart (fun x => { x with cause := 1 }) s else resetModule 1 s) := by
  rw [pinReset, if_neg (by simp [high])]

theorem perstReset_high {s : State} (high : s.start.perstLow = false) :
    perstReset s = modStart (fun x => { x with perstLow := true }) (if s.start.inReset then s else resetModule 2 s) := by
  rw [perstReset, if_neg (by simp [high])]

/-- The record of a rail's brown-out. -/
def noteBrownOut (rail kind : Nat) (x : Start) : Start :=
  { x with brownOut := true, railCount := satAdd 65535 x.railCount 1, railValid := true, railKind := kind, rail := rail }

theorem brownOut_running {rail kind : Nat} {s : State} (out : s.start.inReset = false) (first : s.start.brownOut = false)
    (on : s.start.railsOn = true) (switched : rail ≤ 11) (known : kind ≤ 1) :
    brownOut rail kind s = modStart (noteBrownOut rail kind) (resetModule 1 s) := by
  simp only [brownOut, out, first, on, switched, known]
  rfl

theorem linkReset_up {s : State} (up : s.cxl.protocols ≠ 0) (cause : Nat) : linkReset cause s = resetAtOnce cause s := if_neg up

theorem watchdog_running {s : State} (none : s.sec.halted = 0) (runs : 5 ≤ s.start.seq) (served : s.sec.recovery = false) :
    watchdog s = resetAtOnce 8 s := by
  simp [watchdog, none, runs, served]

/-- Settles O48: each reset is a module reset, held or started at once, with its pin or its rail recorded. -/
theorem resetsClearTheModule : Obligations.ResetsClearTheModule := by
  refine ⟨fun s rail hr => ?powerOn, fun s out high perst => ⟨?pinReset, ?perst⟩, fun s held => ⟨fun high => ?pinHeld, fun high => ?perstHeld⟩,
    fun s => ⟨fun low => ?pinLow, fun low => ?perstLow⟩, fun rail kind word s out first on switched known => ?brownOut,
    fun s out up => ⟨?hotReset, ?cxlReset⟩, fun s aw none runs served => ?watchdog⟩
  case powerOn =>
    exact ⟨powerOn s, rfl, congrArg Host.Outcome.next (aonLoss_eq hr s), powerOn_cleared s, rfl, rfl, rfl, rfl, rfl, rfl⟩
  case pinReset =>
    refine ⟨_, congrArg Host.Outcome.next (pinReset_high high), ?_⟩
    rw [out]
    exact ⟨(resetModule_held 1 s).modStart _ ⟨rfl, rfl, rfl⟩, rfl, perst⟩
  case perst =>
    refine ⟨_, congrArg Host.Outcome.next (perstReset_high perst), ?_⟩
    rw [out]
    exact ⟨(resetModule_held 2 s).modStart _ ⟨rfl, rfl, rfl⟩, high, rfl⟩
  case pinHeld => exact congrArg Host.Outcome.next ((pinReset_high high).trans (by rw [held]; rfl))
  case perstHeld => exact congrArg Host.Outcome.next ((perstReset_high high).trans (by rw [held]; rfl))
  case pinLow => exact congrArg Host.Outcome.next (pinReset_low low)
  case perstLow => exact congrArg Host.Outcome.next (perstReset_low low)
  case brownOut =>
    exact ⟨_, congrArg Host.Outcome.next (brownOut_running out first on switched known), (resetModule_held 1 s).modStart _ ⟨rfl, rfl, rfl⟩,
      rfl, rfl, rfl, rfl, satAdd_eq_min _ _ _⟩
  case hotReset =>
    exact ⟨_, congrArg Host.Outcome.next ((if_neg (Bool.eq_false_iff.mp out)).trans (linkReset_up up 3)), resetAtOnce_restarts 3 s⟩
  case cxlReset =>
    exact ⟨_, congrArg Host.Outcome.next ((if_neg (Bool.eq_false_iff.mp out)).trans (linkReset_up up 4)), resetAtOnce_restarts 4 s⟩
  case watchdog =>
    exact ⟨_, congrArg Host.Outcome.next ((live_awake aw _).trans (watchdog_running none runs served)), resetAtOnce_restarts 8 s⟩

end Sys2Proof.Safety

namespace Sys2Proof.Safety

open Sys2Proof.Machine

/-! ### TICK_BOUNDARY (R64): what the boundary settles of the tick

A boundary runs nearly the whole model: queues, plan jobs, variants, rails, routes. `beat` is the part of the state that O26 speaks of. Each
function below leaves it as it is, except `closeTick` and the opening of the window, so the equations compose by `simp`. -/

/-- The fields of the tick that its boundary closes and opens, and the commands parked. -/
@[ext] structure Beat where
  count : Nat
  last : Nat
  hold : Option Hold
  heldPeers : List Nat
  released : Option (Nat × Nat)
  late : List LateUnit
  windowOpen : Bool
  parked : List (Nat × MbCall)

def beatOf (t : Tick) (w : List (Nat × MbCall)) : Beat :=
  ⟨t.count, t.last, t.hold, t.heldPeers, t.released, t.late, t.windowOpen, w⟩

/-- What O26 says of a state, and what decides whether a command is served after the boundary. -/
def beat (s : State) : Beat := beatOf s.tick s.fmw.parked

@[simp] theorem beatOf_state (s : State) : beatOf s.tick s.fmw.parked = beat s := rfl

@[simp] theorem beat_mk {pending start tick plan queues rings ctrs hbm poison host hostPoison sram sramPoison memctl lines culture rc index press
    sticky err evt thr fmw cave fuses sec fw power fabric cxl svc ageing packages sent free} :
    beat ⟨pending, start, tick, plan, queues, rings, ctrs, hbm, poison, host, hostPoison, sram, sramPoison, memctl, lines, culture, rc, index, press,
      sticky, err, evt, thr, fmw, cave, fuses, sec, fw, power, fabric, cxl, svc, ageing, packages, sent, free⟩ = beatOf tick fmw.parked := rfl

@[simp] theorem beat_foldl {α : Type} (f : State → α → State) (h : ∀ s a, beat (f s a) = beat s) (l : List α) (s : State) :
    beat (l.foldl f s) = beat s := by
  induction l generalizing s with
  | nil => rfl
  | cons a r ih => exact (ih _).trans (h s a)

/-- A tick with other fields changed has the same beat. -/
@[simp] theorem beatOf_tick (t : Tick) {w timebase placed countHi base baseHi period align syncDelay next offset aligned inBand edge slew lock state stretch
    variant overruns allAdmitted lowReason lowest skipFirst skipPattern skipping requests stretchCause stretchReason shortfall caps served
    worked pulses admissions} :
    beatOf ⟨timebase, placed, t.last, t.count, countHi, base, baseHi, period, align, syncDelay, next, offset, aligned, inBand, edge, slew, lock,
      state, stretch, variant, overruns, t.hold, t.heldPeers, t.released, t.late, allAdmitted, lowReason, lowest, skipFirst, skipPattern, skipping,
      requests, stretchCause, stretchReason, shortfall, caps, served, t.windowOpen, worked, pulses, admissions⟩ w = beatOf t w := rfl

@[simp] theorem beat_ite (c : Prop) [Decidable c] (a b : State) :
    beat (if c then a else b) = if c then beat a else beat b := apply_ite _ _ _ _

/-- Clearing the late units of a tick that has none keeps its beat: a job that ends at a boundary does so (R64). -/
theorem beatOf_noLate (t : Tick) {w timebase placed countHi base baseHi period align syncDelay next offset aligned inBand edge slew lock state stretch
    variant overruns allAdmitted lowReason lowest skipFirst skipPattern skipping requests stretchCause stretchReason shortfall caps served
    worked pulses admissions} (h : t.late = []) :
    beatOf ⟨timebase, placed, t.last, t.count, countHi, base, baseHi, period, align, syncDelay, next, offset, aligned, inBand, edge, slew, lock,
      state, stretch, variant, overruns, t.hold, t.heldPeers, t.released, [], allAdmitted, lowReason, lowest, skipFirst, skipPattern, skipping,
      requests, stretchCause, stretchReason, shortfall, caps, served, t.windowOpen, worked, pulses, admissions⟩ w = beatOf t w := by rw [← h]; rfl

theorem beat_foldl_late {α : Type} (f : State → α → State) (hf : ∀ s a, (beat s).late = [] → beat (f s a) = beat s) (l : List α) (s : State)
    (h : (beat s).late = []) : beat (l.foldl f s) = beat s := by
  induction l generalizing s with
  | nil => rfl
  | cons a r ih => exact (ih _ (hf s a h ▸ h)).trans (hf s a h)

/-! #### Wires, events and memory -/

@[simp] theorem beat_emit (x : Sent) (s : State) : beat (emit x s) = beat s := by simp [emit]

@[simp] theorem beat_sendSync (dsts : List Nat) (m : Nat → Sent) (s : State) : beat (sendSync dsts m s) = beat s := by simp [sendSync]

@[simp] theorem beat_sendMsix (v : Nat) (s : State) : beat (sendMsix v s) = beat s := by simp [sendMsix]

@[simp] theorem beat_raiseMsix (v : Nat) (s : State) : beat (raiseMsix v s) = beat s := by simp [raiseMsix]

@[simp] theorem beat_writeEvent (e : Event) (s : State) : beat (writeEvent e s) = beat s := by simp [writeEvent]

@[simp] theorem beat_lateEventIrq (s : State) : beat (lateEventIrq s) = beat s := by simp [lateEventIrq]

@[simp] theorem beat_routeEvent (e : Event) (s : State) : beat (routeEvent e s) = beat s := by simp [routeEvent]

@[simp] theorem beat_raise (code severity : Nat) (detail : List Byte) (s : State) :
    beat (raise code severity detail s) = beat s := by simp [raise]

@[simp] theorem beat_flushEvents (s : State) : beat (flushEvents s) = beat s := by simp [flushEvents]

@[simp] theorem beat_errRecord (r : ErrRec) (s : State) : beat (errRecord r s) = beat s := by simp [errRecord]

@[simp] theorem beat_degrade (granule : Nat) (s : State) : beat (degrade granule s) = beat s := by simp [degrade]

@[simp] theorem beat_correctWord (who : Who) (w : Nat) (l : Latent) (s : State) :
    beat (correctWord who w l s) = beat s := by simp [correctWord]

@[simp] theorem beat_poisonWord (who : Who) (w : Nat) (l : Latent) (s : State) :
    beat (poisonWord who w l s) = beat s := by simp [poisonWord]

@[simp] theorem beat_consumeWord (who : Who) (w : Nat) (injected : Bool) (s : State) :
    beat (consumeWord who w injected s) = beat s := by simp [consumeWord]

@[simp] theorem beat_touchWord (who : Who) (s : State) (w : Nat) : beat (touchWord who s w) = beat s := by
  simp only [touchWord]
  split
  · simp
  · split <;> simp [freeBytes]

@[simp] theorem beat_touchHbm (who : Who) (a len : Nat) (s : State) : beat (touchHbm who a len s) = beat s := by simp [touchHbm]

@[simp] theorem beat_injectHbm (a len : Nat) (s : State) : beat (injectHbm a len s) = beat s := by simp [injectHbm]

@[simp] theorem beat_mergeWord (s : State) (w : Nat) : beat (mergeWord s w) = beat s := by
  simp only [mergeWord]
  split <;> simp

@[simp] theorem beat_writeHbm (a : Nat) (data : List Byte) (flags : List Bool) (s : State) :
    beat (writeHbm a data flags s) = beat s := by simp [writeHbm]

@[simp] theorem beat_sramRecord (type severity source unit off status : Nat) (who : Who) (l : Latent) (s : State) :
    beat (sramRecord type severity source unit off status who l s) = beat s := by simp [sramRecord]

@[simp] theorem beat_correctSram (source unit off : Nat) (who : Who) (l : Latent) (s : State) :
    beat (correctSram source unit off who l s) = beat s := by simp [correctSram]

@[simp] theorem beat_uncorrectSram (source unit off : Nat) (who : Who) (l : Latent) (s : State) :
    beat (uncorrectSram source unit off who l s) = beat s := by simp [uncorrectSram]

@[simp] theorem beat_injectSram (v off len : Nat) (s : State) : beat (injectSram v off len s) = beat s := by simp [injectSram]

@[simp] theorem beat_touchSramWord (who : Who) (s : State) (x : Nat × Nat × Nat × Latent) :
    beat (touchSramWord who s x) = beat s := by simp [touchSramWord]

@[simp] theorem beat_mergeSram (v : Nat) (ws : List Nat) (s : State) : beat (mergeSram v ws s) = beat s := by simp [mergeSram]

@[simp] theorem beat_touchSram (who : Who) (v off len : Nat) (s : State) : beat (touchSram who v off len s) = beat s := by simp [touchSram]

@[simp] theorem beat_hostPoisonIn (x len : Nat) (s : State) : beat (hostPoisonIn x len s) = beat s := by simp [hostPoisonIn]

@[simp] theorem beat_touch (who : Who) (a : LAddr) (len : Nat) (s : State) :
    beat (touch who a len s) = beat s := by cases a <;> simp [touch]

@[simp] theorem beat_gateVats (vs : List Nat) (s : State) : beat (gateVats vs s) = beat s := by simp [gateVats]

@[simp] theorem beat_poke (a : LAddr) (data : List Byte) (flags : List Bool) (s : State) :
    beat (poke a data flags s) = beat s := by cases a <;> simp [poke]

@[simp] theorem beat_pokeClean (a : LAddr) (data : List Byte) (s : State) : beat (pokeClean a data s) = beat s := by simp [pokeClean]

@[simp] theorem beat_scramble (a : LAddr) (len : Nat) (s : State) : beat (scramble a len s) = beat s := by simp [scramble, freeBytes]

/-! #### Queues, operations and counters -/

@[simp] theorem beat_setQ (q : Nat) (v : Queue) (s : State) : beat (setQ q v s) = beat s := by simp [setQ]

@[simp] theorem beat_modQ (q : Nat) (f : Queue → Queue) (s : State) : beat (modQ q f s) = beat s := by simp [modQ]

@[simp] theorem beat_setC (c : Nat) (v : Ctr) (s : State) : beat (setC c v s) = beat s := by simp [setC]

@[simp] theorem beat_modC (c : Nat) (f : Ctr → Ctr) (s : State) : beat (modC c f s) = beat s := by simp [modC]

@[simp] theorem beat_modOp (q : Nat) (i : U32) (f : Op → Op) (s : State) : beat (modOp q i f s) = beat s := by simp [modOp]

@[simp] theorem beat_finishOp (q : Nat) (i : U32) (st : Status) (detail : Nat) (s : State) :
    beat (finishOp q i st detail s) = beat s := by simp [finishOp]

@[simp] theorem beat_modPress (n : Nat) (f : PressEngine → PressEngine) (s : State) : beat (modPress n f s) = beat s := by simp [modPress]

@[simp] theorem beat_freePress (q : Nat) (idx : U32) (s : State) : beat (freePress q idx s) = beat s := by
  simp only [freePress]
  split <;> simp

@[simp] theorem beat_setSvc (u : UnitId) (v : Svc) (s : State) : beat (setSvc u v s) = beat s := by simp [setSvc]

@[simp] theorem beat_stopQueue (q : Nat) (st : Status) (s : State) : beat (stopQueue q st s) = beat s := by simp [stopQueue]

@[simp] theorem beat_suspect (u : UnitId) (cause : Nat) (s : State) : beat (suspect u cause s) = beat s := by simp [suspect]

@[simp] theorem beat_releaseWaiter (st : Status) (s : State) (w : Waiter) : beat (releaseWaiter st s w) = beat s := by
  cases w with
  | unit u => simp only [releaseWaiter]; split <;> simp
  | _ => simp [releaseWaiter]

@[simp] theorem beat_settle (c : Nat) (s : State) : beat (settle c s) = beat s := by simp [settle]

@[simp] theorem beat_signalCounter (c : Nat) (n : U32) (s : State) : beat (signalCounter c n s).1 = beat s := by
  simp only [signalCounter]
  split
  · rfl
  · split_ifs <;> simp

@[simp] theorem beat_withdraw (p : Waiter → Bool) (s : State) : beat (withdraw p s) = beat s := by simp [withdraw]

@[simp] theorem beat_poisonCounter (st : Status) (s : State) (c : Nat) : beat (poisonCounter st s c) = beat s := by simp [poisonCounter]

@[simp] theorem beat_poisonCounters (cause : Nat) (st : Status) (cs : List Nat) (s : State) :
    beat (poisonCounters cause st cs s) = beat s := by simp [poisonCounters]

@[simp] theorem beat_ringSignal (c : Nat) (s : State) : beat (ringSignal c s) = beat s := by
  simp only [ringSignal]
  split
  · rfl
  · split <;> simp

@[simp] theorem beat_hostFailed (s : State) : beat (hostFailed s) = beat s := by simp [hostFailed]

@[simp] theorem beat_publishSlot (r : Nat) (s : State) : beat (publishSlot r s) = beat s := by
  simp only [publishSlot]
  split <;> simp

@[simp] theorem beat_closeSlots (q : Nat) (s : State) : beat (closeSlots q s) = beat s := by simp [closeSlots]

@[simp] theorem beat_writeRecord (q : Nat) (o : Op) (s : State) : beat (writeRecord q o s) = beat s := by
  simp only [writeRecord]
  split
  · simp
  · split <;> cases o.publish <;> simp

@[simp] theorem beat_openSlot (r q : Nat) (s : State) : beat (openSlot r q s) = beat s := by
  simp only [openSlot]
  split <;> simp

@[simp] theorem beat_issue (kind dst address len amount : Nat) (data : List Byte) (bad : List Nat) (cache : Option Nat) (q : Nat)
    (idx : U32) (s : State) : beat (issue kind dst address len amount data bad cache q idx s).1 = beat s := by simp [issue]

@[simp] theorem beat_modBox (m : Nat) (f : Mailbox → Mailbox) (s : State) : beat (modBox m f s) = beat s := by simp [modBox]

@[simp] theorem beat_noteHistory (c : Cmd) (st : Status) (s : State) : beat (noteHistory c st s) = beat s := by simp [noteHistory]

@[simp] theorem beat_writeResponse (m : Nat) (c : Cmd) (st : Status) (flags steps : Nat) (payload : List Byte) (s : State) :
    beat (writeResponse m c st flags steps payload s) = beat s := by simp [writeResponse]

@[simp] theorem beat_noteFixed (c : Cmd) (payload : List Byte) (s : State) : beat (noteFixed c payload s) = beat s := by simp [noteFixed]

@[simp] theorem beat_fixEffect (op tick : Nat) (s : State) : beat (fixEffect op tick s) = beat s := by simp [fixEffect]

@[simp] theorem beat_fixBroadcast (f : Forwarding) (s : State) : beat (fixBroadcast f s) = beat s := by simp [fixBroadcast]

@[simp] theorem beat_settleForward (f : Forwarding) (s : State) : beat (settleForward f s) = beat s := by simp [settleForward]

@[simp] theorem beat_finishCmd (c : Cmd) (st : Status) (steps : Nat) (payload : List Byte) (s : State) :
    beat (finishCmd c st steps payload s) = beat s := by
  simp only [finishCmd]
  split
  · simp
  · split
    · split <;> simp
    · simp

/-! #### Banks, range coding engines, decode pools -/

@[simp] theorem beat_retireCulture (s : State) : beat (retireCulture s) = beat s := by simp [retireCulture]

@[simp] theorem beat_commitCulture (s : State) : beat (commitCulture s) = beat s := by
  simp only [commitCulture]
  split <;> simp

@[simp] theorem beat_tableWritten (engine : Nat → Bool) (word : Nat → Bool) (s : State) :
    beat (tableWritten engine word s) = beat s := by simp [tableWritten]

@[simp] theorem beat_retireIndex (s : State) : beat (retireIndex s) = beat s := by simp [retireIndex]

@[simp] theorem beat_commitIndex (s : State) : beat (commitIndex s) = beat s := by
  simp only [commitIndex]
  split <;> simp

@[simp] theorem beat_modEngine (n : Nat) (f : RcEngine → RcEngine) (s : State) : beat (modEngine n f s) = beat s := by simp [modEngine]

@[simp] theorem beat_setCtx (c : Nat) (x : Ctx) (s : State) : beat (setCtx c x s) = beat s := by simp [setCtx]

@[simp] theorem beat_closeCtx (c : Nat) (s : State) : beat (closeCtx c s) = beat s := by simp [closeCtx]

@[simp] theorem beat_closeContexts (q : Nat) (s : State) : beat (closeContexts q s) = beat s := by simp [closeContexts]

@[simp] theorem beat_noteCorrupt (n : Nat) (st : Status) (s : State) : beat (noteCorrupt n st s) = beat s := by simp [noteCorrupt]

@[simp] theorem beat_rewriteTables (n : Nat) (s : State) : beat (rewriteTables n s) = beat s := by simp [rewriteTables]

@[simp] theorem beat_modRun (q : Nat) (idx : U32) (f : SampleRun → SampleRun) (s : State) :
    beat (modRun q idx f s) = beat s := by simp [modRun]

@[simp] theorem beat_modFlight (q : Nat) (idx : U32) (k : Nat) (f : Flight → Flight) (s : State) :
    beat (modFlight q idx k f s) = beat s := by simp [modFlight]

@[simp] theorem beat_endFlight (q : Nat) (idx : U32) (fl : Flight) (st : Status) (header data : List Byte) (s : State) :
    beat (endFlight q idx fl st header data s) = beat s := by
  simp only [endFlight, beat_modFlight]
  split
  · rfl
  · simp

@[simp] theorem beat_poolStops (plan : Nat) (s : State) : beat (poolStops plan s) = beat s := by
  refine beat_foldl _ (fun s e => ?_) _ s
  split
  · rfl
  · refine beat_foldl _ (fun s o => ?_) _ s
    split
    · rfl
    · exact beat_foldl _ (fun s fl => by split <;> simp) _ s

@[simp] theorem beat_reserveCounters (a : ArgTable) (s : State) : beat (reserveCounters a s) = beat s := by simp [reserveCounters]

@[simp] theorem beat_returnCounters (a : ArgTable) (s : State) : beat (returnCounters a s) = beat s := by simp [returnCounters]

@[simp] theorem beat_spend (cls charge : Nat) (s : State) : beat (spend cls charge s) = beat s := by simp [spend]

@[simp] theorem beat_askHead (q : Nat) (idx : U32) (a : LAddr × Nat) (s : State) : beat (askHead q idx a s) = beat s := by
  simp only [askHead]
  split
  · exact beat_foldl _ (fun s p => by split <;> simp) _ s
  · rfl

@[simp] theorem beat_pushOp (q : Nat) (o : Op) (s : State) : beat (pushOp q o s) = beat s := by simp [pushOp]

@[simp] theorem beat_takePlaces (q : Nat) (o : Op) (s : State) : beat (takePlaces q o s) = beat s := by
  simp only [takePlaces]
  split
  · simp
  · split
    · simp
    · split <;> simp
    · simp
    · split <;> simp
    · simp
    · simp

@[simp] theorem beat_countAdmission (s : State) : beat (countAdmission s) = beat s := by simp [countAdmission]

/-! #### Admission -/

@[simp] theorem beat_readBlocks (q cls : Nat) (d : List Byte) (s : State) : beat (readBlocks q cls d s) = beat s := by simp [readBlocks]

@[simp] theorem beat_placeHead (full : List Cap) (q : Nat) (o : Op) (s : State) : beat (placeHead full q o s).1 = beat s := by
  simp only [placeHead]
  split
  · simp
  · split
    · rfl
    · split
      · simp
      · split <;> simp

theorem beat_headFetch {q : Nat} {idx : U32} {d : List Byte} {s t : State} (h : headFetch q idx d s = .waits t) : beat t = beat s := by
  simp only [headFetch] at h
  split_ifs at h
  · cases h; rfl
  · cases h; simp

@[simp] theorem beat_admitHead (full : List Cap) (q : Nat) (s : State) : beat (admitHead full q s).1 = beat s := by
  simp only [admitHead]
  split
  · rfl
  · split
    · rfl
    · split
      · simp
      · split
        · simp
        · rename_i hw; exact beat_headFetch hw
        · simp

@[simp] theorem beat_admitStep (full : List Cap) (q : Nat) (o : Op) (s : State) : beat (admitStep full q o s).1 = beat s := by
  simp only [admitStep]
  split
  · rfl
  · split <;> simp

@[simp] theorem beat_visitQueue (full : List Cap) (q : Nat) (n : Nat) (s : State) : beat (visitQueue full q n s).1 = beat s := by
  induction n generalizing s with
  | zero => rfl
  | succ n ih =>
    simp only [visitQueue]
    split
    · split <;> simp [ih]
    · split <;> simp [ih]

@[simp] theorem beat_noteServed (cls prio q : Nat) (s : State) : beat (noteServed cls prio q s) = beat s := by simp [noteServed]

@[simp] theorem beat_admitClass (full : List Cap) (cls : Nat) (s : State) : beat (admitClass full cls s) = beat s := by
  refine beat_foldl _ (fun s prio => beat_foldl _ (fun s q => ?_) _ s) _ s
  dsimp only
  split <;> simp

@[simp] theorem beat_admitNone (s : State) : beat (admitNone s) = beat s := by simp [admitNone]

@[simp] theorem beat_admitAll (caps : List Cap) (s : State) : beat (admitAll caps s) = beat s := by
  simp only [admitAll]
  rw [beat_foldl _ fun s c => beat_admitClass caps c s]
  simp

@[simp] theorem beat_dropRequest (q : Nat) (idx : U32) (s : State) : beat (dropRequest q idx s) = beat s := by
  simp only [dropRequest]
  split <;> simp

@[simp] theorem beat_completeOperation (q : Nat) (s : State) : beat (completeOperation q s) = beat s := by
  simp only [completeOperation]
  split
  · rfl
  · simp

/-! #### Plan jobs and resets of queues -/

@[simp] theorem beat_modJob (f : Job → Job) (s : State) : beat (modJob f s) = beat s := by simp [modJob]

@[simp] theorem beat_someSticky (bits_ : U32) (s : State) : beat (someSticky bits_ s) = beat s := by simp [someSticky]

@[simp] theorem beat_stopUnits (s : State) : beat (stopUnits s) = beat s := by
  simp only [stopUnits]
  split <;> simp

@[simp] theorem beat_endJob (st : Status) (s : State) (h : (beat s).late = []) : beat (endJob st s) = beat s := by
  simp only [endJob]
  split
  · rfl
  · rename_i j _
    have stopped : beat (poolStops j.planSet (stopUnits s)) = beat s := by simp
    generalize poolStops j.planSet (stopUnits s) = u at stopped ⊢
    have late : u.tick.late = [] := (congrArg Beat.late stopped).trans h
    simp [beatOf_noLate, late, stopped]

@[simp] theorem beat_completeJob (s : State) (h : (beat s).late = []) : beat (completeJob s) = beat s := by
  simp only [completeJob]
  split
  · rfl
  · simp [h]

@[simp] theorem beat_failJob (st : Status) (s : State) (h : (beat s).late = []) : beat (failJob st s) = beat s := by
  simp only [failJob]
  split
  · rfl
  · simp [h]

@[simp] theorem beat_stopOps (q : Nat) (st : Status) (s : State) : beat (stopOps q st s) = beat s := by simp [stopOps]

@[simp] theorem beat_flushRecords (q : Nat) (n : Nat) (s : State) : beat (flushRecords q n s) = beat s := by
  induction n generalizing s with
  | zero => rfl
  | succ n ih => simp [flushRecords, ih]

@[simp] theorem beat_resetQueueBy (stop : State → State) (q : Nat) (st : Status) (after : After) (s : State) (h : (beat s).late = [])
    (hs : ∀ s, (beat s).late = [] → beat (stop s) = beat s) : beat (resetQueueBy stop q st after s) = beat s := by
  simp only [resetQueueBy, beat_retireIndex, beat_retireCulture, beat_ite, beat_stopQueue, beat_modQ, beat_poisonCounters, beat_flushRecords,
    beat_closeSlots, beat_closeContexts, beat_stopOps, ite_self]
  split <;> simp [h, hs]

@[simp] theorem beat_resetQueue (q : Nat) (st : Status) (after : After) (s : State) (h : (beat s).late = []) :
    beat (resetQueue q st after s) = beat s :=
  beat_resetQueueBy _ _ _ _ _ h fun s h => beat_endJob st s h

@[simp] theorem beat_advanceJob (s : State) (h : (beat s).late = []) : beat (advanceJob s) = beat s := by
  simp only [advanceJob]
  split <;> simp [h]

@[simp] theorem beat_preemptJob (st : Status) (s : State) (h : (beat s).late = []) : beat (preemptJob st s) = beat s := by
  simp only [preemptJob]
  split <;> simp [h]

@[simp] theorem beat_replacePlan (s : State) : beat (replacePlan s) = beat s := by
  simp only [replacePlan]
  split <;> simp

@[simp] theorem beat_startJob (count : Nat) (s : State) : beat (startJob count s) = beat s := by
  simp only [startJob]
  split
  · split
    · rfl
    · split <;> simp
  · rfl

@[simp] theorem beat_startJobs (count : Nat) (n : Nat) (s : State) : beat (startJobs count n s) = beat s := by
  induction n generalizing s with
  | zero => rfl
  | succ n ih => simp [startJobs, ih]

@[simp] theorem beat_deferAbsent (planSet start : Nat) (s : State) : beat (deferAbsent planSet start s) = beat s := by simp [deferAbsent]

@[simp] theorem beat_deferUnadmitted (count : Nat) (s : State) : beat (deferUnadmitted count s) = beat s := by simp [deferUnadmitted]

@[simp] theorem beat_deferStarts (count : Nat) (s : State) : beat (deferStarts count s) = beat s := by simp [deferStarts]

@[simp] theorem beat_changeJob (count : Nat) (s : State) (h : (beat s).late = []) : beat (changeJob count s) = beat s := by
  unfold changeJob
  extract_lets failed advanced outdated preempted replaced
  have failed_beat : beat failed = beat s := by
    dsimp only [failed]
    split <;> simp [h]
  have advanced_beat : beat advanced = beat s := by simp [advanced, failed_beat, h]
  have outdated_beat : beat outdated = beat s := by
    dsimp only [outdated]
    split <;> simp [advanced_beat]
  have preempted_beat : beat preempted = beat s := by
    dsimp only [preempted]
    split <;> simp [outdated_beat, h]
  simp [replaced, preempted_beat]

@[simp] theorem beat_swapFirmware (s : State) : beat (swapFirmware s) = beat s := by
  simp only [swapFirmware]
  split <;> simp

/-! #### Power, fabric and service -/

@[simp] theorem beat_modPower (f : Power → Power) (s : State) : beat (modPower f s) = beat s := by simp [modPower]

@[simp] theorem beat_addBelow (now : Nat) (s : State) : beat (addBelow now s) = beat s := by simp [addBelow]

@[simp] theorem beat_addLost (reason ns : Nat) (s : State) : beat (addLost reason ns s) = beat s := by simp [addLost]

@[simp] theorem beat_throttleRecord (r : ThrRun) (s : State) : beat (throttleRecord r s) = beat s := by simp [throttleRecord]

@[simp] theorem beat_noteTick (t : ThrRun) (s : State) : beat (noteTick t s) = beat s := by
  simp only [noteTick]
  split <;> simp

@[simp] theorem beat_setPowerState (n : Nat) (s : State) : beat (setPowerState n s) = beat s := by simp [setPowerState]

@[simp] theorem beat_enterA2 (s : State) : beat (enterA2 s) = beat s := by simp [enterA2]

@[simp] theorem beat_splitStretches (now : Nat) (s : State) : beat (splitStretches now s) = beat s := by simp [splitStretches]

@[simp] theorem beat_applyLimits (count : Nat) (s : State) : beat (applyLimits count s) = beat s := by
  simp only [applyLimits]
  split <;> simp

@[simp] theorem beat_applyGrant (count : Nat) (s : State) : beat (applyGrant count s) = beat s := by
  simp only [applyGrant]
  split <;> simp

@[simp] theorem beat_restoreGrant (s : State) : beat (restoreGrant s) = beat s := by simp [restoreGrant]

@[simp] theorem beat_modPort (p : Nat) (f : Port → Port) (s : State) : beat (modPort p f s) = beat s := by simp [modPort]

@[simp] theorem beat_postOne (s : State) (m : Nat × Nat × Nat) : beat (postOne s m) = beat s := by
  simp only [postOne]
  split <;> simp

@[simp] theorem beat_pump (s : State) : beat (pump s) = beat s := by simp [pump]

@[simp] theorem beat_reissue (d : Nat) (s : State) : beat (reissue d s) = beat s := by simp [reissue]

@[simp] theorem beat_reroute (back : Bool) (change : State → State) (s : State) (h : ∀ s, beat (change s) = beat s) :
    beat (reroute back change s) = beat s := by
  simp only [reroute]
  rw [beat_foldl]
  · simp [h]
  · intro s d
    split <;> simp

@[simp] theorem beat_sendReach (removed : Bool) (s : State) : beat (sendReach removed s) = beat s := by simp [sendReach]

@[simp] theorem beat_restoreRoutes (s : State) : beat (restoreRoutes s) = beat s := by
  simp only [restoreRoutes]
  split
  · rfl
  · rw [beat_flushEvents, beat_reroute _ _ _ fun s => by simp]

@[simp] theorem beat_setSvcState (u : UnitId) (st : Nat) (s : State) : beat (setSvcState u st s) = beat s := by simp [setSvcState]

@[simp] theorem beat_drainUnit (u : UnitId) (s : State) : beat (drainUnit u s) = beat s := by simp [drainUnit]

@[simp] theorem beat_returnUnit (u : UnitId) (s : State) : beat (returnUnit u s) = beat s := by simp [returnUnit]

@[simp] theorem beat_changeUnits (s : State) : beat (changeUnits s) = beat s := by simp [changeUnits]

@[simp] theorem beat_ageingEvent (vat step severity hours : Nat) (s : State) :
    beat (ageingEvent vat step severity hours s) = beat s := by simp [ageingEvent]

@[simp] theorem beat_lowerVat (a : Ageing) (s : State) : beat (lowerVat a s) = beat s := by simp [lowerVat]

@[simp] theorem beat_lowerVats (s : State) : beat (lowerVats s) = beat s := by simp [lowerVats]

@[simp] theorem beat_modTick (f : Tick → Tick) (s : State) : beat (modTick f s) = beatOf (f s.tick) s.fmw.parked := by
  simp [modTick]

/-! #### The steps of the boundary (R64) -/

@[simp] theorem beat_overrunUnit (h : Hold) (s : State) (l : LateUnit) : beat (overrunUnit h s l) = beat s := by
  simp [overrunUnit]

@[simp] theorem beat_applyPeriod (count : Nat) (s : State) : beat (applyPeriod count s) = beat s := by
  simp only [applyPeriod]
  split <;> simp

@[simp] theorem beat_applySplit (count : Nat) (s : State) : beat (applySplit count s) = beat s := by
  simp only [applySplit]
  split <;> simp

@[simp] theorem beat_applyInputs (count now : Nat) (s : State) : beat (applyInputs count now s) = beat s := by simp [applyInputs]

@[simp] theorem beat_ownerReset (q : Nat) (s : State) (h : (beat s).late = []) : beat (ownerReset q s) = beat s := by
  simp only [ownerReset]
  split <;> simp [h]

@[simp] theorem beat_cultureDue (count : Nat) (s : State) : beat (cultureDue count s) = beat s := by simp [cultureDue]

@[simp] theorem beat_indexDue (count : Nat) (s : State) : beat (indexDue count s) = beat s := by simp [indexDue]

@[simp] theorem beat_liveDue (count : Nat) (s : State) : beat (liveDue count s) = beat s := by simp [liveDue]

@[simp] theorem beat_checkReplace (s : State) : beat (checkReplace s) = beat s := by
  simp only [checkReplace]
  split <;> simp

@[simp] theorem beat_restoreJoined (s : State) : beat (restoreJoined s) = beat s := by simp [restoreJoined]

@[simp] theorem beat_changeAtBoundary (count : Nat) (s : State) (h : (beat s).late = []) : beat (changeAtBoundary count s) = beat s := by
  unfold changeAtBoundary
  extract_lets reset checked moved tables due joined
  have reset_beat : beat reset = beat s := beat_foldl_late _ (fun s q => beat_ownerReset q s) _ _ h
  have checked_beat : beat checked = beat s := by simp [checked, reset_beat]
  have moved_beat : beat moved = beat s := by simp [moved, checked_beat, h]
  simp [joined, due, tables, moved_beat]

@[simp] theorem beat_setVariant (count i : Nat) (s : State) : beat (setVariant count i s) = beat s := by simp [setVariant]

@[simp] theorem beat_setPoint (now : Nat) (p : PowerInput) (c : Choice) (s : State) :
    beat (setPoint now p c s) = beat s := by simp [setPoint]

@[simp] theorem beat_tickPowerState (s : State) : beat (tickPowerState s) = beat s := by simp [tickPowerState]

@[simp] theorem beat_runTick (now : Nat) (b : BoundaryInput) (c : Choice) (s : State) :
    beat (runTick now b c s) = beat s := by simp [runTick]

@[simp] theorem beat_shortTick (now count : Nat) (b : BoundaryInput) (s : State) :
    beat (shortTick now count b s) = beat s := by simp [shortTick]

@[simp] theorem beat_chooseTick (now count : Nat) (b : BoundaryInput) (s : State) : beat (chooseTick now count b s) = beat s := by
  simp only [chooseTick]
  split
  · simp
  · split
    · simp
    · split <;> simp

@[simp] theorem beat_noteOffset (o : Int) (s : State) (h : 200 < o.natAbs) : beat (noteOffset o s) = beat s := by
  simp only [noteOffset, if_pos h]
  split <;> simp

@[simp] theorem beat_sendAlignment (now : Nat) (s : State) : beat (sendAlignment now s) = beat s := by
  unfold sendAlignment
  extract_lets pulsed
  have pulsed_beat : beat pulsed = beat s := by simp [pulsed]
  split
  · split <;> simp [pulsed_beat]
  · exact pulsed_beat

@[simp] theorem beat_reportOverruns (s : State) : beat (reportOverruns s) = beat s := by
  simp only [reportOverruns]
  split <;> simp

/-- Step 2 of R64. -/
def Beat.closed (now : Nat) (b : Beat) : Beat :=
  { b with count := b.count + 1, last := now, hold := none, heldPeers := [], released := none, late := [] }

@[simp] theorem beat_close (now : Nat) (s : State) :
    beat (modTick (fun t => { t with
      count := t.count + 1, last := now, hold := none, heldPeers := [], released := none, late := [], edge := none, slew := 0 }) s) =
    (beat s).closed now := rfl

@[simp] theorem Beat.closed_late (now : Nat) (b : Beat) : (b.closed now).late = [] := rfl

theorem beat_closeTick (now : Nat) (s : State) : beat (closeTick now s) = (beat s).closed now := by
  unfold closeTick
  extract_lets t skipped elapsed heldFor base droop below own stretched charged lost reasons noted powered told skippedTold
  have stretched_beat : beat stretched = beat s := by
    dsimp only [stretched]
    split
    · simp [below]
    · cases t.hold with
      | none => simp [own, below]
      | some h => dsimp only; split <;> simp [own, below]
  have powered_beat : beat powered = beat s := by simp [powered, noted, charged, stretched_beat]
  have told_beat : beat told = beat s := by
    dsimp only [told]
    cases t.hold with
    | none => exact powered_beat
    | some h => dsimp only; split <;> simp [powered_beat]
  have skipped_beat : beat skippedTold = beat s := by simp [skippedTold, told_beat]
  rw [beat_close, beat_mk, beatOf_state, skipped_beat]

/-- Step 7 of R64. -/
def Beat.opened (b : Beat) : Beat := { b with windowOpen := true }

theorem beat_openWindow (s : State) : beat (modTick (fun t => { t with windowOpen := true }) s) = (beat s).opened := rfl

theorem beat_crossBoundary (b : BoundaryInput) (s : State) : beat (crossBoundary b s) = ((beat s).closed b.now).opened := by
  unfold crossBoundary
  extract_lets missed edge closed count changed chosen ticked fixed
  have edge_beat : beat edge = beat s := by simp [edge]
  have closed_beat : beat closed = (beat s).closed b.now := by simp [closed, beat_closeTick, edge_beat]
  have changed_beat : beat changed = (beat s).closed b.now := by simp [changed, closed_beat]
  have fixed_beat : beat fixed = (beat s).closed b.now := by simp [fixed, ticked, chosen, changed_beat]
  rw [beat_lateEventIrq, beat_sendAlignment, beat_openWindow, fixed_beat]

theorem unpark_idle (s : State) (h : s.fmw.parked = []) : unpark handle payloadCheck s = s := by
  have same : { s with fmw := { s.fmw with parked := [] } } = s := by rw [← h]
  simp only [unpark, h, List.foldl_nil, same, ite_self]

theorem retireReset_same (before s : State) (h : s.fuses = before.fuses) : retireReset before s = s := by
  simp [retireReset, h]

theorem beat_parked (s : State) : (beat s).parked = s.fmw.parked := rfl

theorem parked_of_beat {s t : State} (h : beat t = beat s) : t.fmw.parked = s.fmw.parked := congrArg Beat.parked h

theorem serveParked_idle (s : State) (h : s.fmw.parked = []) : serveParked s = flushEvents s := by
  have parked : (flushEvents s).fmw.parked = [] := (parked_of_beat (beat_flushEvents s)).trans h
  rw [serveParked, unpark_idle _ parked]
  exact retireReset_same _ _ (flushEvents_keeps s .fuses (by decide))

/-- A boundary whose time has come, with no work late and no peer holding, is crossed at once, or out of a hold that is over as it begins:
peers held and released before this module's own boundary came (R59). -/
theorem tickBoundary_crosses (b : BoundaryInput) (s : State) (run : ticking s = true) (free : s.tick.hold = none)
    (peers : s.tick.heldPeers = []) (done : lateUnits s = []) (onTime : b.late = []) (due : nextBoundary s ≤ b.now)
    (after : ∀ r, s.tick.released = some r → r.1 + 2000 ≤ b.now) :
    ∃ u, tickBoundary b s = crossBoundary b u ∧ u.tick.count = s.tick.count ∧ u.fmw.parked = s.fmw.parked := by
  have same : modTick (fun t => { t with late := t.late ++ b.late }) (atTime b.now s) = atTime b.now s := by simp [modTick, onTime]
  have late : lateUnits (atTime b.now s) = [] := done
  have notEarly : ¬ b.now < nextBoundary (atTime b.now s) := Nat.not_lt.2 due
  have step : tickBoundary b s =
      if s.tick.released.any (fun r => decide (nextBoundary s < r.1 + 2000)) then releasedHold b (beginHold false (atTime b.now s))
      else crossBoundary b (atTime b.now s) := by
    simp only [tickBoundary, run, notEarly, same, late]
    simp [atTime, free, peers, nextBoundary, tickLength]
  rw [step]
  cases released : s.tick.released with
  | none => exact ⟨atTime b.now s, by rw [Option.any_none, if_neg Bool.false_ne_true], rfl, rfl⟩
  | some r =>
    have ended : (beginHold false (atTime b.now s)).tick.hold.any (holdOver b.now) = true := by
      simp [beginHold, modTick, atTime, holdOver, peers, released, after r released]
    simp only [Option.any_some]
    split
    · exact ⟨beginHold false (atTime b.now s), by rw [releasedHold, if_pos ended], rfl, rfl⟩
    · exact ⟨atTime b.now s, rfl, rfl, rfl⟩

/-- Settles O26: nothing but `closeTick` and the window's opening touches what the boundary keeps of the tick. -/
theorem tickBoundaryCounts : Obligations.TickBoundaryCounts := by
  unfold Obligations.TickBoundaryCounts
  intro b s awake run free peers done idle onTime due after
  obtain ⟨u, crosses, count, parked⟩ := tickBoundary_crosses b s run free peers done onTime due after
  have crossed := beat_crossBoundary b u
  have noneParked : (crossBoundary b u).fmw.parked = [] := by
    have kept : (beat (crossBoundary b u)).parked = (beat u).parked := by rw [crossed]; rfl
    rw [← beat_parked, kept, beat_parked, parked, idle]
  have next : exec (.tickBoundary b) s = .next (flushEvents (crossBoundary b u)) := by
    change Host.Outcome.next (live _ s) = _
    rw [live_awake awake, crosses, serveParked_idle _ noneParked]
  have final : beat (flushEvents (crossBoundary b u)) = ((beat u).closed b.now).opened := (beat_flushEvents _).trans crossed
  generalize flushEvents (crossBoundary b u) = t at next final
  rw [Beat.ext_iff] at final
  obtain ⟨counted, last, hold, heldPeers, released, late, opened, -⟩ := final
  exact ⟨t, next, counted.trans (congrArg (· + 1) count), last, opened, hold, late, heldPeers, released⟩

end Sys2Proof.Safety

namespace Sys2Proof.Safety

open Sys2Proof.Machine

theorem lateUnits_ne_nil (s : State) (h : s.tick.late ≠ []) : (lateUnits s).isEmpty = false := by
  cases late : s.tick.late with
  | nil => exact absurd late h
  | cons l r => simp [lateUnits, late]

/-- Settles O27: late work begins the module's own hold, and with no command parked only the held events of lost ones follow. -/
theorem lateWorkHoldsTheBoundary : Obligations.LateWorkHoldsTheBoundary := by
  unfold Obligations.LateWorkHoldsTheBoundary
  intro b s awake run free idle due late found told
  have notEarly : ¬ b.now < nextBoundary s := Nat.not_lt.2 due
  have notDone : (lateUnits found).isEmpty = false := lateUnits_ne_nil found late
  have step : tickBoundary b s = beginHold true found := by
    have placed : modTick (fun t => { t with late := t.late ++ b.late }) (atTime b.now s) = found := rfl
    have early : ¬ b.now < nextBoundary (atTime b.now s) := notEarly
    have hold : (atTime b.now s).tick.hold = none := free
    simp only [tickBoundary, run, hold, placed, notDone, if_neg early, Bool.not_true, Bool.not_false, if_true, if_false, Bool.false_eq_true]
  have parked : (beginHold true found).fmw.parked = [] := idle
  change Host.Outcome.next (live _ s) = _
  rw [live_awake awake, step, serveParked_idle _ parked]
  have units : (if s.tick.heldPeers.isEmpty = true then lateUnits found else []) = if s.tick.heldPeers = [] then lateUnits found else [] :=
    if_congr List.isEmpty_iff rfl rfl
  rw [← units]
  rfl

end Sys2Proof.Safety

namespace Sys2Proof.Safety

open Sys2Proof.Machine

/-! ### TAIL_SNAPSHOT (R67, R332) -/

/-- Where a queue's ring stands. -/
def Queue.marks (v : Queue) : U32 × U32 × U32 × U32 := (v.snap, v.tail, v.head, v.done)

/-- The queues stay in order and every ring stands where it stood. -/
def SameMarks (s t : State) : Prop :=
  Sorted s.queues → Sorted t.queues ∧ ∀ q, Queue.marks (getQ t q) = Queue.marks (getQ s q)

theorem SameMarks.trans {s t u : State} (h : SameMarks s t) (h' : SameMarks t u) : SameMarks s u := fun sorted => by
  obtain ⟨sorted', marks⟩ := h sorted
  obtain ⟨sorted'', marks'⟩ := h' sorted'
  exact ⟨sorted'', fun q => (marks' q).trans (marks q)⟩

theorem Keeps.sameMarks {ps : List Part} {s t : State} (h : Keeps ps s t) (hp : Part.queues ∉ ps := by decide) : SameMarks s t := by
  have queues : t.queues = s.queues := h .queues hp
  exact fun sorted => ⟨queues ▸ sorted, fun q => by rw [h.getQ q hp]⟩

theorem SameMarks.foldl {α : Type} (f : State → α → State) (h : ∀ s a, SameMarks s (f s a)) (l : List α) (s : State) :
    SameMarks s (l.foldl f s) := by
  induction l generalizing s with
  | nil => exact fun sorted => ⟨sorted, fun _ => rfl⟩
  | cons a r ih => exact (h s a).trans (ih _)

theorem sorted_setQ (q : Nat) (v : Queue) (s : State) (h : Sorted s.queues) : Sorted (setQ q v s).queues := by
  rw [setQ_queues]
  split
  · exact rising_mdel _ _ h
  · exact rising_mput _ _ _ h

theorem modQ_sameMarks (q : Nat) (f : Queue → Queue) (s : State) (h : ∀ v, Queue.marks (f v) = Queue.marks v) : SameMarks s (modQ q f s) := by
  refine fun sorted => ⟨sorted_setQ q _ s sorted, fun r => ?_⟩
  by_cases hr : r = q
  · rw [hr, getQ_modQ_same q f s (.inr sorted), h]
  · rw [getQ_modQ_other q r f s hr]

theorem stopQueue_sameMarks (q : Nat) (st : Status) (s : State) : SameMarks s (stopQueue q st s) := by
  simp only [stopQueue]
  split
  · exact (modQ_sameMarks q (fun v => { v with mode := .stopped, lastStop := st }) s fun _ => rfl).trans (raise_keeps _ _ _ _).sameMarks
  · exact (Keeps.refl [] s).sameMarks

theorem hostFailed_sameMarks (s : State) : SameMarks s (hostFailed s) := by
  simp only [hostFailed]
  split
  · exact (Keeps.refl [] s).sameMarks
  · exact fun sorted => ⟨sorted, fun _ => rfl⟩

theorem fetchQueue_sameMarks (q : Nat) (s : State) : SameMarks s (fetchQueue q s) := by
  unfold fetchQueue
  extract_lets v at_ n touched got
  have emptied (u : State) : SameMarks u (modQ q (fun v => { v with fetched := [] }) u) := modQ_sameMarks q _ u fun _ => rfl
  split
  · exact emptied s
  · split
    · exact ((hostFailed_sameMarks s).trans (emptied _)).trans (stopQueue_sameMarks q _ _)
    · have reads : SameMarks s touched := SameMarks.foldl _ (fun s k => (touch_keeps _ (at_ k) 64 s).sameMarks) _ s
      exact reads.trans (modQ_sameMarks q (fun v => { v with fetched := got }) touched fun _ => rfl)

theorem mget_mmap {α : Type} (f : α → α) (m : Sparse α) (k : Nat) : mget (mmap f m) k = (mget m k).map f := by
  induction m with
  | nil => rfl
  | cons p r ih =>
    simp only [mmap, List.map_cons, mget]
    split
    · rfl
    · exact ih

/-- The state with the snapshots taken and nothing fetched. -/
def snapped (s : State) : State := { s with queues := mmap (fun v => { v with snap := v.tail }) s.queues }

theorem sorted_snapped (s : State) (h : Sorted s.queues) : Sorted (snapped s).queues := List.pairwise_map.2 h

/-- A queue that is not listed has all its marks at 0. -/
theorem getQ_snapped (s : State) (q : Nat) :
    Queue.marks (getQ (snapped s) q) = ((getQ s q).tail, (getQ s q).tail, (getQ s q).head, (getQ s q).done) := by
  simp only [snapped, getQ, mgetD, mget_mmap]
  cases mget s.queues q <;> rfl

theorem snapshotTails_marks (s : State) (sorted : Sorted s.queues) (q : Nat) :
    Queue.marks (getQ (snapshotTails s) q) = ((getQ s q).tail, (getQ s q).tail, (getQ s q).head, (getQ s q).done) := by
  have fetched := SameMarks.foldl (fun s q => fetchQueue q s) (fun s q => fetchQueue_sameMarks q s) ((snapped s).queues.map (·.1)) (snapped s)
  exact ((fetched (sorted_snapped s sorted)).2 q).trans (getQ_snapped s q)

/-- Settles O30: the fetches that follow the snapshot move no mark of any ring. -/
theorem tailSnapshotComplete : Obligations.TailSnapshotComplete := by
  unfold Obligations.TailSnapshotComplete
  intro s awake run sorted
  refine ⟨snapshotTails s, congrArg Host.Outcome.next ((live_awake awake _).trans (if_pos run)), fun q => ?_⟩
  have marks := snapshotTails_marks s sorted q
  simp only [Queue.marks, Prod.mk.injEq] at marks
  exact marks

end Sys2Proof.Safety

namespace Sys2Proof.Safety

open Sys2Proof.Machine

/-! ### The skip pattern (R63) -/

theorem getLsbD_one_shift (n i : Nat) (h : i < 64) : (BitVec.ofNat 64 (1 <<< n)).getLsbD i = decide (n = i) := by
  rw [BitVec.getLsbD_ofNat, Nat.one_shiftLeft, Nat.testBit_two_pow, decide_eq_true h, Bool.true_and]

/-- A bit of a pattern gathered bit by bit is set where one of the numbers gathered sets it. -/
theorem getLsbD_gather (p : Nat → Prop) [DecidablePred p] (ns : List Nat) (w : U64) (i : Nat) (h : i < 64) :
    (ns.foldl (fun (w : U64) n => if p n then w ||| ((1 <<< n : Nat) : U64) else w) w).getLsbD i = (w.getLsbD i || decide (i ∈ ns ∧ p i)) := by
  induction ns generalizing w with
  | nil => simp
  | cons n ns ih =>
    rw [List.foldl_cons, ih]
    by_cases hi : n = i
    · subst hi
      by_cases hp : p n <;> simp [hp, getLsbD_one_shift n n h]
    · have other : (BitVec.ofNat 64 (1 <<< n)).getLsbD i = false := by rw [getLsbD_one_shift n i h]; simpa using hi
      split <;> simp [other, Ne.symm hi]

/-- Settles O32: for every count, not only up to 64. -/
theorem skipPatternSpreads : Obligations.SkipPatternSpreads := by
  unfold Obligations.SkipPatternSpreads
  intro k _ n hn
  rw [skipBits, getLsbD_gather _ _ _ _ hn]
  simp [hn]

end Sys2Proof.Safety

namespace Sys2Proof.Safety

open Sys2Proof.Machine

/-! ### Plan job events (R56, R57, R379, R540)

`seat` is the part of the plan state that only the start, the end and the replacement of a job change: which queue's job runs, and which
replacement is pending. -/

def seat (s : State) : Option Nat × Option Replace := (s.plan.job.map (·.queue), s.plan.replace)

@[simp] theorem seat_mk {pending start tick plan queues rings ctrs hbm poison host hostPoison sram sramPoison memctl lines culture rc index
    press sticky err evt thr fmw cave fuses sec fw power fabric cxl svc ageing packages sent free} :
    seat ⟨pending, start, tick, plan, queues, rings, ctrs, hbm, poison, host, hostPoison, sram, sramPoison, memctl, lines, culture, rc, index,
      press, sticky, err, evt, thr, fmw, cave, fuses, sec, fw, power, fabric, cxl, svc, ageing, packages, sent, free⟩ =
        (plan.job.map (·.queue), plan.replace) := rfl

@[simp] theorem seat_plan (s : State) : (s.plan.job.map (·.queue), s.plan.replace) = seat s := rfl

theorem Keeps.seat {ps : List Part} {s t : State} (h : Keeps ps s t) (hp : Part.plan ∉ ps := by decide) : seat t = seat s := by
  have plan : t.plan = s.plan := h .plan hp
  simp only [Safety.seat, plan]

@[simp] theorem seat_foldl {α : Type} (f : State → α → State) (h : ∀ s a, seat (f s a) = seat s) (l : List α) (s : State) :
    seat (l.foldl f s) = seat s := by
  induction l generalizing s with
  | nil => rfl
  | cons a r ih => exact (ih _).trans (h s a)

@[simp] theorem seat_ite (c : Prop) [Decidable c] (a b : State) : seat (if c then a else b) = if c then seat a else seat b :=
  apply_ite _ _ _ _

@[simp] theorem seat_emit (x : Sent) (s : State) : seat (emit x s) = seat s := by simp [emit]

@[simp] theorem seat_raise (code severity : Nat) (detail : List Byte) (s : State) : seat (raise code severity detail s) = seat s :=
  (raise_keeps code severity detail s).seat

@[simp] theorem seat_modQ (q : Nat) (f : Queue → Queue) (s : State) : seat (modQ q f s) = seat s := (modQ_keeps q f s).seat

@[simp] theorem seat_setC (c : Nat) (v : Ctr) (s : State) : seat (setC c v s) = seat s := (setC_keeps c v s).seat

@[simp] theorem seat_modC (c : Nat) (f : Ctr → Ctr) (s : State) : seat (modC c f s) = seat s := (modC_keeps c f s).seat

@[simp] theorem seat_stopQueue (q : Nat) (st : Status) (s : State) : seat (stopQueue q st s) = seat s := (stopQueue_keeps q st s).seat

@[simp] theorem seat_finishOp (q : Nat) (i : U32) (st : Status) (cell : Nat) (s : State) : seat (finishOp q i st cell s) = seat s :=
  (finishOp_keeps q i st cell s).seat

@[simp] theorem seat_freePress (q : Nat) (i : U32) (s : State) : seat (freePress q i s) = seat s := (freePress_keeps q i s).seat

@[simp] theorem seat_scramble (a : LAddr) (len : Nat) (s : State) : seat (scramble a len s) = seat s := (scramble_keeps a len s).seat

@[simp] theorem seat_pokeClean (a : LAddr) (data : List Byte) (s : State) : seat (pokeClean a data s) = seat s := (pokeClean_keeps a data s).seat

@[simp] theorem seat_hostFailed (s : State) : seat (hostFailed s) = seat s := by simp [hostFailed]

@[simp] theorem seat_raiseMsix (v : Nat) (s : State) : seat (raiseMsix v s) = seat s := (raiseMsix_keeps v s).seat

@[simp] theorem seat_someSticky (bits_ : U32) (s : State) : seat (someSticky bits_ s) = seat s := by simp [someSticky]

@[simp] theorem seat_closeSlots (q : Nat) (s : State) : seat (closeSlots q s) = seat s := by simp [closeSlots]

@[simp] theorem seat_retireCulture (s : State) : seat (retireCulture s) = seat s := by simp [retireCulture]

@[simp] theorem seat_retireIndex (s : State) : seat (retireIndex s) = seat s := by simp [retireIndex]

@[simp] theorem seat_closeContexts (q : Nat) (s : State) : seat (closeContexts q s) = seat s := by simp [closeContexts]

@[simp] theorem seat_returnCounters (a : ArgTable) (s : State) : seat (returnCounters a s) = seat s := by simp [returnCounters]

@[simp] theorem seat_modJob (f : Job → Job) (s : State) (h : ∀ j, (f j).queue = j.queue) : seat (modJob f s) = seat s := by
  cases job : s.plan.job <;> simp [modJob, seat, job, h]

/-- A waiter that is released may change its unit's work, not whose job runs. -/
@[simp] theorem seat_releaseWaiter (st : Status) (s : State) (w : Waiter) : seat (releaseWaiter st s w) = seat s := by
  cases w with
  | header q i => simp only [releaseWaiter]; split <;> simp [modOp]
  | signal q i => simp only [releaseWaiter]; split <;> simp
  | unit u =>
    simp only [releaseWaiter]
    split
    · rfl
    · rename_i j job
      simp [seat, job]
  | remote m t => simp [releaseWaiter]

@[simp] theorem seat_settle (c : Nat) (s : State) : seat (settle c s) = seat s := by simp [settle]

@[simp] theorem seat_withdraw (p : Waiter → Bool) (s : State) : seat (withdraw p s) = seat s := by simp [withdraw]

@[simp] theorem seat_poisonCounter (st : Status) (s : State) (c : Nat) : seat (poisonCounter st s c) = seat s := by
  simp [poisonCounter, Function.comp_def]

@[simp] theorem seat_poisonCounters (cause : Nat) (st : Status) (cs : List Nat) (s : State) :
    seat (poisonCounters cause st cs s) = seat s := by simp [poisonCounters]

@[simp] theorem seat_signalCounter (c : Nat) (n : U32) (s : State) : seat (signalCounter c n s).1 = seat s := by
  simp only [signalCounter]
  split
  · rfl
  · split_ifs <;> simp

@[simp] theorem seat_ringSignal (c : Nat) (s : State) : seat (ringSignal c s) = seat s := by
  simp only [ringSignal]
  split
  · rfl
  · split <;> simp

@[simp] theorem seat_publishSlot (r : Nat) (s : State) : seat (publishSlot r s) = seat s := by
  simp only [publishSlot]
  split <;> simp

@[simp] theorem seat_writeRecord (q : Nat) (o : Op) (s : State) : seat (writeRecord q o s) = seat s := by
  simp only [writeRecord]
  split
  · simp
  · split <;> cases o.publish <;> simp

@[simp] theorem seat_dropRequest (q : Nat) (i : U32) (s : State) : seat (dropRequest q i s) = seat s := by
  simp only [dropRequest]
  split <;> simp

@[simp] theorem seat_completeOperation (q : Nat) (s : State) : seat (completeOperation q s) = seat s := by
  simp only [completeOperation]
  split <;> simp

@[simp] theorem seat_flushRecords (q n : Nat) (s : State) : seat (flushRecords q n s) = seat s := by
  induction n generalizing s with
  | zero => rfl
  | succ n ih => simp [flushRecords, ih]

@[simp] theorem seat_stopOps (q : Nat) (st : Status) (s : State) : seat (stopOps q st s) = seat s := by simp [stopOps]

@[simp] theorem seat_stopUnits (s : State) : seat (stopUnits s) = seat s := by
  simp only [stopUnits]
  split <;> simp

/-- A job that ends takes its pending replacement with it. -/
theorem seat_endJob (st : Status) (s : State) (h : s.plan.job.isSome = true) : seat (endJob st s) = (none, none) := by
  obtain ⟨j, job⟩ := Option.isSome_iff_exists.1 h
  simp [endJob, job]

theorem isSome_of_seat {s t : State} (h : seat t = seat s) : t.plan.job.isSome = s.plan.job.isSome := by
  have queues : t.plan.job.map (·.queue) = s.plan.job.map (·.queue) := congrArg Prod.fst h
  rw [← Option.isSome_map (f := fun j : Job => j.queue), queues, Option.isSome_map]

theorem seat_completeJob (s : State) (h : s.plan.job.isSome = true) : seat (completeJob s) = (none, none) := by
  obtain ⟨j, job⟩ := Option.isSome_iff_exists.1 h
  simp only [completeJob, job]
  exact seat_endJob _ _ ((isSome_of_seat (seat_foldl _ (fun s c => by simp) _ s)).trans h)

theorem seat_failJob (st : Status) (s : State) (h : s.plan.job.isSome = true) : seat (failJob st s) = (none, none) := by
  obtain ⟨j, job⟩ := Option.isSome_iff_exists.1 h
  simp only [failJob, job, seat_retireCulture]
  exact seat_endJob _ _ ((isSome_of_seat (by simp)).trans h)

theorem noJob_of_seat {s : State} (h : seat s = (none, none)) : s.plan.job = none ∧ s.plan.replace = none :=
  ⟨Option.map_eq_none_iff.1 (congrArg Prod.fst h), congrArg Prod.snd h⟩
/-- A reset of the job's own queue ends the job. -/
theorem seat_resetQueue (st : Status) (after : After) (s : State) (j : Job) (h : s.plan.job = some j) :
    seat (resetQueue j.queue st after s) = (none, none) := by
  have withdrawn := seat_withdraw (waiterOf j.queue) s
  obtain ⟨k, job⟩ := Option.isSome_iff_exists.1 ((isSome_of_seat withdrawn).trans (by simp [h]))
  have queue : k.queue = j.queue := by simpa [seat, job, h] using congrArg Prod.fst withdrawn
  have ended := seat_endJob st _ ((isSome_of_seat withdrawn).trans (by simp [h]))
  simp [resetQueue, resetQueueBy, job, queue, ended]

theorem seat_preemptJob (st : Status) (s : State) (h : s.plan.job.isSome = true) : seat (preemptJob st s) = (none, none) := by
  obtain ⟨j, job⟩ := Option.isSome_iff_exists.1 h
  simp only [preemptJob, job]
  split
  · exact seat_resetQueue _ _ s j job
  · exact seat_endJob _ _ ((isSome_of_seat (by simp)).trans h)

theorem job_of_preemptDue {count : Nat} {s : State} {st : Status} (h : preemptDue count s = some st) : s.plan.job.isSome = true := by
  cases job : s.plan.job with
  | none => simp [preemptDue, job] at h
  | some j => rfl

/-- While a job runs, no request starts. -/
theorem startJobs_busy (count n : Nat) (s : State) (h : s.plan.job.isSome = true) : startJobs count n s = s := by
  obtain ⟨j, job⟩ := Option.isSome_iff_exists.1 h
  induction n with
  | zero => rfl
  | succ n ih => simp only [startJobs, startJob, job, ih]

theorem waiting_of_due {count : Nat} {s : State} {r : PlanReq} (h : dueRequest count s = some r) : r ∈ s.plan.waiting := by
  simp only [dueRequest, Option.bind_eq_some_iff] at h
  obtain ⟨r', found, due⟩ := h
  split at due
  · cases due; exact List.mem_of_find?_eq_some found
  · cases due

/-- The job that a request starts. -/
def startedJob (r : PlanReq) : Job :=
  { queue := r.queue, index := r.index, planSet := r.planSet, step := r.firstStep, roundsLeft := r.rounds, args := r.args,
    stopAtSwap := r.stopAtSwap, stopping := none, failing := none, units := [] }

theorem startJob_starts (count : Nat) (s : State) (r : PlanReq) (idle : s.plan.job = none) (due : dueRequest count s = some r)
    (head : s.fabric.lost.contains (headModule s) = false) (fit : startRefusal s r = none) :
    (startJob count s).plan.job = some (startedJob r) ∧
      (startJob count s).plan.waiting = (s.plan.waiting.filter fun x => !(x.queue == r.queue && x.index == r.index)) ∧
      Keeps [.plan, .tick, .ctrs] s (startJob count s) := by
  simp only [startJob, idle, due, head, fit]
  have noted := Keeps.foldl (fun s c => modC c (fun k => { k with jobStart := k.value }) s) (fun s c => modC_keeps c _ s) (localCounters s r.args) s
  generalize List.foldl (fun s c => modC c (fun k => { k with jobStart := k.value }) s) s (localCounters s r.args) = u at noted ⊢
  have waiting : u.plan.waiting = s.plan.waiting := congrArg Plan.waiting (noted .plan (by decide))
  refine ⟨rfl, congrArg (List.filter _) waiting, (noted.mono (by simp)).trans fun p hp => ?_⟩
  cases p <;> simp_all [Same]

/-- Settles O33: `seat` says what ends a job, and a job that has started keeps later requests waiting. -/
theorem planJobEventsComplete : Obligations.PlanJobEventsComplete := by
  unfold Obligations.PlanJobEventsComplete
  refine ⟨?starts, ?completes, ?preempts, ?fails, ?replaced⟩
  case starts =>
    intro s r awake idle due head fit
    obtain ⟨job, waiting, kept⟩ := startJob_starts (s.tick.count + 1) s r idle due head fit
    obtain ⟨n, count⟩ := Nat.exists_eq_succ_of_ne_zero (List.length_pos_of_mem (waiting_of_due due)).ne'
    have started : planStart s = startJob (s.tick.count + 1) s := by
      rw [planStart, count, startJobs, startJobs_busy _ _ _ (by rw [job]; rfl)]
    exact ⟨_, congrArg Host.Outcome.next ((live_awake awake _).trans started), job, waiting, kept⟩
  case completes =>
    intro s j awake job last ended
    have completed : planComplete s = completeJob s := by simp [planComplete, last, ended]
    obtain ⟨noJob, noReplace⟩ := noJob_of_seat (seat_completeJob s (by rw [job]; rfl))
    exact ⟨_, congrArg Host.Outcome.next ((live_awake awake _).trans completed), noJob, noReplace⟩
  case preempts =>
    intro s st awake due
    have preempted : planPreempt s = preemptJob st (advanceJob s) := by simp only [planPreempt, due]
    obtain ⟨noJob, -⟩ := noJob_of_seat (seat_preemptJob st (advanceJob s) (job_of_preemptDue due))
    exact ⟨_, congrArg Host.Outcome.next ((live_awake awake _).trans preempted), noJob⟩
  case fails =>
    intro cause s j awake job
    have failed : planFails cause s = failJob (j.failing.getD cause) s := by simp only [planFails, job]
    obtain ⟨noJob, noReplace⟩ := noJob_of_seat (seat_failJob (j.failing.getD cause) s (by rw [job]; rfl))
    exact ⟨_, congrArg Host.Outcome.next ((live_awake awake _).trans failed), noJob, noReplace⟩
  case replaced =>
    intro s j r awake job replace noStop due
    have replaced : planReplaced s = replacePlan (advanceJob s) := by simp [planReplaced, noStop, due]
    have plan : (replacePlan (advanceJob s)).plan = { (advanceJob s).plan with job := some { j with planSet := r.newSet }, replace := none } := by
      simp only [replacePlan, job, replace]
      rw [(raise_keeps _ _ _ _).part .plan]
      simp [modJob]
    exact ⟨_, congrArg Host.Outcome.next ((live_awake awake _).trans replaced), by rw [plan], by rw [plan]⟩

end Sys2Proof.Safety

namespace Sys2Proof.Safety

open Sys2Proof.Machine

/-! ### Alignment (R47, R48, R49, R439, R579) -/

/-- A sync message of another module is taken the first time (R438). -/
theorem receiveSync_new (src id : Nat) (k : State → State) (s : State) (from_ : fromModule s src = true) (new : syncSeen s src id = false) :
    receiveSync src id k s = k (noteSync src id s) := by simp [receiveSync, from_, new]

theorem raise_tick (code severity : Nat) (detail : List Byte) (s : State) : (raise code severity detail s).tick = s.tick :=
  (raise_keeps code severity detail s).part .tick

/-- An offset beyond 200 ns. -/
theorem noteOffset_far_tick (o : Int) (s : State) (far : 200 < o.natAbs) :
    (noteOffset o s).tick = { s.tick with offset := o, inBand := 0, aligned := false } := by
  simp only [noteOffset, if_pos far]
  split
  · exact raise_tick _ _ _ _
  · rfl

/-- An offset between the bands. -/
theorem noteOffset_between (o : Int) (s : State) (near : o.natAbs ≤ 200) (out : 50 < o.natAbs) :
    noteOffset o s = { s with tick := { s.tick with offset := o, inBand := 0 } } := by
  simp only [noteOffset, if_neg (Nat.not_lt.2 near), if_pos out]
  rfl

/-- An offset in the band that does not complete a lock. -/
theorem noteOffset_band (o : Int) (s : State) (near : o.natAbs ≤ 50) (noLock : s.tick.aligned = true ∨ s.tick.inBand + 1 < 100) :
    noteOffset o s = { s with tick := { s.tick with offset := o, inBand := s.tick.inBand + 1 } } := by
  have near' : ¬ 200 < o.natAbs := by omega
  have unlocked : (!s.tick.aligned && decide (100 ≤ s.tick.inBand + 1)) = false := by
    rcases noLock with aligned | few
    · simp [aligned]
    · simp [Nat.not_le.2 few]
  simp only [noteOffset, if_neg near', if_neg (Nat.not_lt.2 near)]
  exact if_neg (by rw [Bool.not_eq_true]; exact unlocked)

theorem firstLock_tick (s : State) : (firstLock s).tick.aligned = s.tick.aligned ∧ (firstLock s).tick.placed = true ∧
    (firstLock s).tick.count = s.tick.count := by
  simp only [firstLock]
  split
  case isTrue placed => exact ⟨rfl, placed, rfl⟩
  case isFalse => exact ⟨rfl, rfl, rfl⟩

/-- A lock leaves the count, sets ALIGNED and has a boundary placed. -/
theorem noteOffset_lock_tick (o : Int) (s : State) (near : o.natAbs ≤ 50) (apart : s.tick.aligned = false) (enough : 100 ≤ s.tick.inBand + 1) :
    (noteOffset o s).tick.aligned = true ∧ (noteOffset o s).tick.placed = true ∧ (noteOffset o s).tick.count = s.tick.count := by
  have near' : ¬ 200 < o.natAbs := by omega
  have lock : (!s.tick.aligned && decide (100 ≤ s.tick.inBand + 1)) = true := by simp [apart, enough]
  have locked : noteOffset o s = firstLock (raise 0x0105 0 (leBytes 4 (wrapInt 32 o))
      { s with tick := { s.tick with offset := o, inBand := s.tick.inBand + 1, aligned := true } }) := by
    simp only [noteOffset, if_neg near', if_neg (Nat.not_lt.2 near)]
    exact if_pos lock
  rw [locked]
  obtain ⟨aligned, placed, count⟩ := firstLock_tick (raise 0x0105 0 (leBytes 4 (wrapInt 32 o))
    { s with tick := { s.tick with offset := o, inBand := s.tick.inBand + 1, aligned := true } })
  exact ⟨by rw [aligned, raise_tick], placed, by rw [count, raise_tick]⟩

/-- Settles O31, the bands of `noteOffset` one by one. -/
theorem offsetsAlign : Obligations.OffsetsAlign := by
  unfold Obligations.OffsetsAlign
  refine ⟨?reply, ?edge, fun o s => ⟨noteOffset_far_tick o s, fun out near => noteOffset_between o s near out, noteOffset_band o s,
    noteOffset_lock_tick o s⟩⟩
  case reply =>
    intro src id t1 t2 t3 t4 s awake from_ new align parent offset most u
    have taken : u.tick.align = 1 ∧ alignParent u = some src := ⟨align, parent⟩
    refine congrArg Host.Outcome.next ((live_awake awake _).trans ((receiveSync_new src id _ s from_ new).trans ?_))
    exact if_pos taken
  case edge =>
    intro o s awake align member window first
    refine congrArg Host.Outcome.next ((live_awake awake _).trans ?_)
    exact if_pos ⟨align, member, window, first⟩

end Sys2Proof.Safety

namespace Sys2Proof.Safety

open Sys2Proof.Machine

/-! ### Tick messages (R438, R439, R441) -/

/-- A sync message that is from outside the configuration, or that the record holds, has no effect. -/
theorem receiveSync_known (src id : Nat) (k : State → State) (s : State) (h : fromModule s src = false ∨ syncSeen s src id = true) :
    receiveSync src id k s = s := by
  rcases h with outside | seen
  · simp [receiveSync, outside]
  · simp [receiveSync, seen]

theorem live_of_same {f : State → State} {s : State} (h : f s = s) : live f s = s := by
  simp only [live, h, ite_self]

section
variable {src id : Nat} {s : State}

theorem takeHold_free (from_ : fromModule s src = true) (free : s.tick.hold = none) :
    takeHold src (headTick s s.tick.count) s = { s with tick := { s.tick with heldPeers := sadd s.tick.heldPeers src } } := by
  simp [takeHold, from_, free, modTick]

theorem takeHold_held {h : Hold} (from_ : fromModule s src = true) (held : s.tick.hold = some h) :
    takeHold src (headTick s s.tick.count) s = { s with tick := { s.tick with hold := some { h with peers := sadd h.peers src } } } := by
  simp [takeHold, from_, held, modTick]

theorem takeRelease_free (now : Nat) (from_ : fromModule s src = true) (free : s.tick.hold = none)
    (holds : s.tick.heldPeers.contains src = true) :
    takeRelease src (headTick s s.tick.count) now s = { s with tick := { s.tick with
      timebase := max s.tick.timebase now, heldPeers := s.tick.heldPeers.filter (· != src), released := some (now, src) } } := by
  simp only [takeRelease, atTime, from_, free, holds, modTick, Bool.not_true, bne_self_eq_false, Bool.or_self, Bool.false_eq_true, if_false,
    if_true]

theorem takeRelease_held {h : Hold} (now : Nat) (from_ : fromModule s src = true) (held : s.tick.hold = some h)
    (holds : h.peers.contains src = true) :
    takeRelease src (headTick s s.tick.count) now s = { s with tick := { s.tick with
      timebase := max s.tick.timebase now
      hold := some { h with peers := h.peers.filter (· != src), lastRelease := max h.lastRelease now } } } := by
  simp only [takeRelease, atTime, from_, held, holds, modTick, Bool.not_true, bne_self_eq_false, Bool.or_self, Bool.false_eq_true, if_false,
    if_true]

theorem takeRequest_free (point : Nat) (from_ : fromModule s src = true) (free : s.tick.hold = none) :
    let counts := s.tick.count + (if s.power.deadline then 2 else 1)
    takeRequest src point s = { s with tick := { s.tick with
      requests := (s.tick.requests.filter fun r => !(r.module == src && r.tick == counts)) ++
        [{ module := src, point := point, tick := counts }] } } := by
  cases deadline : s.power.deadline <;> simp [takeRequest, from_, free, modTick, deadline]

theorem takeDefer_waiting (tick planSet : Nat) (from_ : fromModule s src = true) (waits : ∃ r ∈ s.plan.waiting, r.planSet = planSet) :
    takeDefer src tick planSet s = { s with plan := { s.plan with
      waiting := s.plan.waiting.map fun r =>
        if r.planSet = planSet ∧ r.start = ownTick s tick then { r with start := r.start + 1, deferrals := r.deferrals + 1 } else r } } := by
  have waits' : (s.plan.waiting.any fun r => r.planSet == planSet) = true := by simpa using waits
  simp [takeDefer, from_, waits']

theorem takeDefer_absent (tick planSet : Nat) (from_ : fromModule s src = true) (noRequest : ∀ r ∈ s.plan.waiting, r.planSet ≠ planSet)
    (noRecord : ∀ a ∈ s.plan.absent, a.1 ≠ planSet) :
    takeDefer src tick planSet s = { s with plan := { s.plan with absent := (planSet, ownTick s tick, 1) :: s.plan.absent } } := by
  have noRequest' : (s.plan.waiting.any fun r => r.planSet == planSet) = false := by simpa using noRequest
  have noRecord' : (s.plan.absent.any fun a => a.1 == planSet) = false := by simpa using noRecord
  have unfound (p : Nat × Nat × Nat → Bool) : (s.plan.absent.find? fun a => a.1 == planSet && p a) = none :=
    List.find?_eq_none.2 fun a ha => by simp [noRecord a ha]
  have kept (p : Nat × Nat × Nat → Bool) : (s.plan.absent.filter fun a => !(a.1 == planSet && p a)) = s.plan.absent :=
    List.filter_eq_self.2 fun a ha => by simp [noRecord a ha]
  simp only [takeDefer, from_, noRequest', noRecord', unfound, deferAbsent, deferredBy, kept]
  simp

theorem takeSkipPattern_from (first : Nat) (pattern : U64) (from_ : fromModule s src = true) :
    takeSkipPattern src first pattern s = { s with tick := { s.tick with skipFirst := ownTick s first, skipPattern := pattern } } := by
  simp [takeSkipPattern, from_, modTick]

theorem takeTickBase_member (count : Nat) (member : isHead s = false) :
    takeTickBase count s = { s with tick := { s.tick with base := (count + (2 ^ 64 - s.tick.lock)) % 2 ^ 64 } } := by
  simp [takeTickBase, member, modTick]

end

/-- Settles O28: what each message does once it is taken, and `receiveSync` for those that are not. -/
theorem tickMessagesComplete : Obligations.TickMessagesComplete := by
  unfold Obligations.TickMessagesComplete
  refine ⟨?taken, ?base, ?dropped⟩
  case taken =>
    intro src id s awake from_ new m u
    have takes (k : State → State) {t : State} (h : k u = t) : Host.Outcome.next (live (receiveSync src id k) s) =
        (.next t : Host.Outcome State Fault Refusal) :=
      congrArg _ ((live_awake awake _).trans ((receiveSync_new src id k s from_ new).trans h))
    exact ⟨fun t1 t2 t3 => takes _ (if_pos from_),
      fun free => takes _ (takeHold_free (s := u) from_ free),
      fun h held => takes _ (takeHold_held (s := u) from_ held),
      fun now free holds => takes _ (takeRelease_free (s := u) now from_ free holds),
      fun now h held holds => takes _ (takeRelease_held (s := u) now from_ held holds),
      fun tick point free => takes _ (takeRequest_free (s := u) point from_ free),
      fun tick planSet waits => takes _ (takeDefer_waiting (s := u) tick planSet from_ waits),
      fun tick planSet noRequest noRecord => takes _ (takeDefer_absent (s := u) tick planSet from_ noRequest noRecord),
      fun first pattern => takes _ (takeSkipPattern_from (s := u) first pattern from_)⟩
  case base =>
    intro count s awake member
    exact congrArg _ ((live_awake awake _).trans (takeTickBase_member count member))
  case dropped =>
    intro m s known t1 t2 t3 t4 tick now point planSet first pattern c hc
    have drops (k : State → State) : Host.Outcome.next (live (receiveSync m.src m.id k) s) =
        (.next s : Host.Outcome State Fault Refusal) := congrArg _ (live_of_same (receiveSync_known m.src m.id k s known))
    simp only [List.mem_cons, List.not_mem_nil, or_false] at hc
    rcases hc with rfl | rfl | rfl | rfl | rfl | rfl | rfl <;> exact drops _

end Sys2Proof.Safety

namespace Sys2Proof.Safety

open Sys2Proof.Machine

/-! ### The tick's own events (R59, R61, R63, R64, R470) -/

theorem unitPass_done (s : State) (h : unitsDone s = true) : unitPass s = s := by
  cases job : s.plan.job with
  | none => simp only [unitPass, job]
  | some j =>
    have done : ∀ r ∈ j.units, r.ops = [] := by simpa [unitsDone, job] using h
    simp only [unitPass, job]
    refine List.foldl_fixed' (fun r0 => ?_) _
    simp only [job, Option.bind_some]
    cases found : j.units.find? fun r => r.unit == r0.unit with
    | none => rfl
    | some r => simp only [done r (List.mem_of_find?_eq_some found)]

/-- Units that have finished their work have nothing to go on with. -/
theorem wake_done (s : State) (h : unitsDone s = true) : wake s = s := by
  have passes (n : Nat) : unitPasses n s = s := by
    induction n with
    | zero => rfl
    | succ n ih => rw [unitPasses, unitPass_done s h, ih]
  rw [wake, passes, ite_self]

theorem lateWorkDone_releases (now : Nat) (s : State) (h : Hold) (held : s.tick.hold = some h) (own : h.own = true)
    (done : unitsDone s = true) :
    lateWorkDone now true s = sendSync (jobPeers s) (.release · (headTick s s.tick.count)) { s with tick := { s.tick with
      timebase := max s.tick.timebase now
      late := []
      hold := some { h with own := false, lastRelease := max h.lastRelease now, released := now } } } := by
  have woken := wake_done (modTick (fun t => { t with late := [] }) (atTime now s)) done
  have done' : unitsDone (modTick (fun t => { t with late := [] }) (atTime now s)) = true := done
  simp only [lateWorkDone, woken, done', Bool.true_or, Bool.and_self, if_true]
  simp only [releaseHold, modTick, atTime, held, own, if_true]
  rfl

theorem holdLimit_beyond (now : Nat) (s : State) (h : Hold) (held : s.tick.hold = some h) (long : h.since + 4 * tickLength s < now) :
    holdLimit now s = releaseHold now (failJob .tickOverrun { s with tick := { s.tick with timebase := max s.tick.timebase now } }) := by
  have held' : (atTime now s).tick.hold = some h := held
  simp only [holdLimit, held']
  exact if_pos long

theorem windowEnd_open (late : List LateUnit) (s : State) (opened : s.tick.windowOpen = true) :
    let closed := { s with tick := { s.tick with windowOpen := false, late := late } }
    windowEnd late s = if s.tick.state = 3 then wake closed else wake (startStep closed) := by
  simp only [windowEnd, opened]
  rfl

theorem skipWindow_skipping (windows : List Nat) (limit : Nat) (s : State) (skipping : s.tick.skipping = true) :
    let next := s.tick.count + 1
    let first := if s.tick.skipFirst ≤ next ∧ next < s.tick.skipFirst + 64 ∧ s.tick.skipPattern ≠ 0 then s.tick.skipFirst + 64 else next
    let pattern := skipBits (skipCount s windows limit)
    skipWindow windows limit s = sendSync (jobPeers s) (.skipPattern · (headTick s first) pattern)
      { s with tick := { s.tick with skipFirst := first, skipPattern := pattern } } := by
  simp only [skipWindow, modTick, skipping, Bool.not_true, Bool.false_eq_true, if_false, Bool.and_eq_true, decide_eq_true_eq, bne_iff_ne,
    and_assoc]

theorem fixPoint_ok (p : PowerInput) (s : State) (run : ticking s = true) (unfixed : s.power.fixed = false) :
    let clear := { s with power := { s.power with avsFault := false } }
    let request := preparedPoint p clear
    let fixed : State := { s with
      sent := .avs request.1 :: s.sent
      power := { s.power with avsFault := false, prepared := request.1, requestReason := request.2, fixed := !causeActive clear,
                              deadline := true } }
    fixPoint p true s = if (jobPeers s).isEmpty then fixed
      else sendSync (jobPeers s) (.variantRequest · (headTick s s.tick.count) request.1) fixed := by
  intro clear request fixed
  simp only [fixPoint, run, unfixed]
  rfl

/-- Settles O29, event by event. -/
theorem tickEventsComplete : Obligations.TickEventsComplete := by
  unfold Obligations.TickEventsComplete
  refine ⟨?lateWork, ?limit, ?window, ?skips, ?point, ?absent⟩
  case lateWork =>
    intro now s h awake held own done
    exact congrArg _ ((live_awake awake _).trans (lateWorkDone_releases now s h held own done))
  case limit =>
    intro now s h awake held long
    exact congrArg _ ((live_awake awake _).trans (holdLimit_beyond now s h held long))
  case window =>
    intro late s awake opened closed
    exact congrArg _ ((live_awake awake _).trans (windowEnd_open late s opened))
  case skips =>
    intro windows limit s awake skipping next first pattern
    exact congrArg _ ((live_awake awake _).trans (skipWindow_skipping windows limit s skipping))
  case point =>
    intro p s awake run unfixed clear request fixed
    exact congrArg _ ((live_awake awake _).trans (fixPoint_ok p s run unfixed))
  case absent =>
    intro s awake
    exact congrArg _ (live_awake awake _)

end Sys2Proof.Safety

namespace Sys2Proof.Safety

open Sys2Proof.Machine

/-! ### Effects that are due at the next boundary (R44, R101, R158, R351, R412, R476, R490, R546) -/

section
variable {s : State} {op eff count : Nat}

theorem effectDue_due (fixed : s.fmw.unfixed.contains op = false) (due : eff ≤ count) : effectDue s op eff count = true := by
  simp only [effectDue, fixed, decide_eq_true due, Bool.not_false, Bool.and_self]

/-- A change of a broadcast that awaits the effective tick of its entry module, or whose tick is later, is not due. -/
theorem effectDue_pending (h : s.fmw.unfixed.contains op = true ∨ count < eff) : effectDue s op eff count = false := by
  rcases h with unfixed | later
  · simp only [effectDue, unfixed, Bool.not_true, Bool.and_false]
  · simp only [effectDue, decide_eq_false (Nat.not_le.2 later), Bool.false_and]

theorem cultureDue_due {n : Nat} (at_ : s.culture.commitAt = some n) (due : effectDue s 0x0303 n count = true) :
    cultureDue count s = retireCulture { s with culture := { s.culture with
      activeBank := 1 - s.culture.activeBank, generation := (s.culture.generation + 1) % 256, active := s.culture.shadow,
      shadow := s.culture.active, shadowState := 1, commitAt := none } } := by
  simp [cultureDue, commitCulture, at_, due]

theorem cultureDue_pending {n : Nat} (at_ : s.culture.commitAt = some n) (due : effectDue s 0x0303 n count = false) :
    cultureDue count s = s := by simp [cultureDue, at_, due]

theorem indexDue_due {n : Nat} (at_ : s.index.commitAt = some n) (due : effectDue s 0x0305 n count = true) :
    indexDue count s = retireIndex { s with index := { s.index with
      epoch := (s.index.epoch + 1) % 2 ^ 32, active := 1 - s.index.active, shadowState := 1, fill := s.index.shadowFill,
      shadowFill := s.index.fill, inserts := 0, commitAt := none } } := by
  simp [indexDue, commitIndex, at_, due]

theorem indexDue_pending {n : Nat} (at_ : s.index.commitAt = some n) (due : effectDue s 0x0305 n count = false) :
    indexDue count s = s := by simp [indexDue, at_, due]

theorem applyPeriod_due {n period align delay : Nat} (next : s.tick.next = some (n, period, align, delay))
    (due : effectDue s 0x0401 n count = true) :
    applyPeriod count s = { s with tick := { s.tick with
      next := none, period := period, align := align, syncDelay := delay, aligned := s.tick.aligned && align == s.tick.align } } := by
  simp [applyPeriod, modTick, next, due]

theorem applyPeriod_pending {n : Nat} {p : Nat × Nat × Nat} (next : s.tick.next = some (n, p)) (due : effectDue s 0x0401 n count = false) :
    applyPeriod count s = s := by simp [applyPeriod, next, due]

theorem applySplit_due {n r w m : Nat} (next : s.fmw.bwNext = some (n, r, w, m)) (due : effectDue s 0x0402 n count = true) :
    applySplit count s = { s with fmw := { s.fmw with bw := (r, w, m), bwNext := none } } := by
  simp [applySplit, next, due]

theorem applySplit_pending {n : Nat} {p : Nat × Nat × Nat} (next : s.fmw.bwNext = some (n, p)) (due : effectDue s 0x0402 n count = false) :
    applySplit count s = s := by simp [applySplit, next, due]

theorem enterA2_quiet (wants : s.power.wantA2 = true ∨ s.power.d3 = true) (state : s.power.state ≤ 1) (quiet : quietModule s = true) :
    enterA2 s = setPowerState 2 (gateVats (upFrom 0 160)
      { s with power := { s.power with wantA2 := false, point := 15, prepared := 15 } }) := by
  have enters : ((s.power.wantA2 || s.power.d3) && decide (s.power.state ≤ 1) && quietModule s) = true := by simp [wants, state, quiet]
  exact if_pos enters

theorem liveDue_due {slot n : Nat} (staged : s.fw.live = some (slot, n)) (due : effectDue s 0x0602 n count = true) :
    liveDue count s = swapFirmware s := by simp [liveDue, staged, due]

/-- A live swap ends the activation and runs the staged images; its event and the held events of lost ones touch neither. -/
theorem swapFirmware_security {slot n : Nat} (staged : s.fw.live = some (slot, n)) :
    (flushEvents (swapFirmware s)).fw = { s.fw with live := none } ∧
      (flushEvents (swapFirmware s)).sec = { s.sec with stages := stagesOf (slotImages s slot) } := by
  simp only [swapFirmware, staged]
  exact ⟨by rw [(flushEvents_keeps _).part .fw, (flushEvents_keeps _).part .fw, (raise_keeps _ _ _ _).part .fw],
    by rw [(flushEvents_keeps _).part .sec, (flushEvents_keeps _).part .sec, (raise_keeps _ _ _ _).part .sec]⟩

end

/-- Settles O34: each effect by its own equation, due or pending. -/
theorem dueEffectsComplete : Obligations.DueEffectsComplete := by
  unfold Obligations.DueEffectsComplete
  refine ⟨?culture, ?index, ?period, ?split, ?pending, ?limits, ?a2, ?swap⟩
  case culture =>
    exact fun s n awake at_ fixed due => congrArg _ ((live_awake awake _).trans (cultureDue_due at_ (effectDue_due fixed due)))
  case index =>
    exact fun s n awake at_ fixed due => congrArg _ ((live_awake awake _).trans (indexDue_due at_ (effectDue_due fixed due)))
  case period =>
    exact fun s n _ _ _ awake next fixed due => congrArg _ ((live_awake awake _).trans (applyPeriod_due next (effectDue_due fixed due)))
  case split =>
    exact fun s n _ _ _ awake next fixed due => congrArg _ ((live_awake awake _).trans (applySplit_due next (effectDue_due fixed due)))
  case pending =>
    exact fun s _ => ⟨fun n at_ h => congrArg _ (live_of_same (cultureDue_pending at_ (effectDue_pending h))),
      fun n at_ h => congrArg _ (live_of_same (indexDue_pending at_ (effectDue_pending h))),
      fun n p next h => congrArg _ (live_of_same (applyPeriod_pending next (effectDue_pending h))),
      fun n p next h => congrArg _ (live_of_same (applySplit_pending next (effectDue_pending h)))⟩
  case limits =>
    intro s n cap peak order pool awake next due
    refine congrArg _ ((live_awake awake _).trans ?_)
    simp only [applyLimits, modPower, next, if_pos due]
  case a2 =>
    exact fun s awake wants state quiet => congrArg _ ((live_awake awake _).trans (enterA2_quiet wants state quiet))
  case swap =>
    intro s slot n awake staged fixed due idle
    have parked : (swapFirmware s).fmw.parked = [] := (parked_of_beat (beat_swapFirmware s)).trans idle
    obtain ⟨fw, sec⟩ := swapFirmware_security staged
    refine ⟨flushEvents (swapFirmware s), congrArg _ ((live_awake awake _).trans ?_), fw, sec⟩
    rw [liveDue_due staged (effectDue_due fixed due), serveParked_idle _ parked]

end Sys2Proof.Safety

namespace Sys2Proof.Safety

open Sys2Proof.Machine

/-! ### Latching reads and ring tails (R46, R321, R413, R492, R493, R561) -/

theorem readReg_power (s : State) (off : Nat) (aligned : off % 4 = 0) (lo : 0x300000 ≤ off) (hi : off < 0x310000) :
    readReg s off = BitVec.ofNat 32 (powerWord s (off - 0x300000)) := by
  rw [readReg, if_neg (by omega), if_neg (by omega), if_neg (by omega), if_neg (by omega),
    if_neg (by omega), if_neg (by omega), if_neg (by omega), if_neg (by omega),
    if_neg (by omega), if_neg (by omega), if_pos hi]

theorem readReg_lost (s : State) (reason : Nat) (lo : 1 ≤ reason) (hi : reason ≤ 8) :
    readReg s (0x300100 + 16 * reason) = BitVec.ofNat 32 (lo32 (s.power.lost.getD (reason - 1) 0)) := by
  have row : (0x300100 + 16 * reason - 0x300000 - 0x110) / 16 = reason - 1 := by omega
  have word : (0x300100 + 16 * reason - 0x300000) % 16 = 0 := by omega
  rw [readReg_power s _ (by omega) (by omega) (by omega), powerWord, if_neg (by omega), if_neg (by omega), if_neg (by omega),
    if_neg (by omega), if_neg (by omega), if_neg (by omega), if_neg (by omega),
    if_neg (by omega), if_pos (by omega), row, word]
  rfl

theorem readReg_below (s : State) (reason : Nat) (lo : 1 ≤ reason) (hi : reason ≤ 8) :
    readReg s (0x300100 + 16 * reason + 8) = BitVec.ofNat 32 (lo32 (belowTime s (reason - 1))) := by
  have row : (0x300100 + 16 * reason + 8 - 0x300000 - 0x110) / 16 = reason - 1 := by omega
  have word : (0x300100 + 16 * reason + 8 - 0x300000) % 16 = 8 := by omega
  rw [readReg_power s _ (by omega) (by omega) (by omega), powerWord, if_neg (by omega), if_neg (by omega), if_neg (by omega),
    if_neg (by omega), if_neg (by omega), if_neg (by omega), if_neg (by omega),
    if_neg (by omega), if_pos (by omega), row, word]
  rfl

theorem readReg_queueEnergyLo (s : State) (q : Nat) (h : q < 4096) :
    readReg s (0x310000 + 8 * q) = BitVec.ofNat 32 (lo32 (getQ s q).energy) := by
  have index : (0x310000 + 8 * q - 0x310000) / 8 = q := by omega
  rw [readReg, if_neg (by omega), if_neg (by omega), if_neg (by omega), if_neg (by omega),
    if_neg (by omega), if_neg (by omega), if_neg (by omega), if_neg (by omega),
    if_neg (by omega), if_neg (by omega), if_neg (by omega), if_pos (by omega), index, if_pos (by omega)]

theorem RecRing.setTail_eq (t : U32) (r : RecRing) :
    r.setTail t = { r with tail := if t - r.tail ≤ r.head - r.tail then t else r.tail } := by
  simp only [RecRing.setTail]
  split <;> rfl

/-- The below time of a reason: what it was charged, and while it is in force the time since, up to the largest count. -/
theorem belowTime_eq (s : State) (reason : Nat) (lo : 1 ≤ reason) :
    belowTime s (reason - 1) = if s.power.point ≠ 0 ∧ s.power.belowReason = reason then
      min (2 ^ 64 - 1) (s.power.below.getD (reason - 1) 0 + (s.tick.timebase - s.power.belowSince))
    else s.power.below.getD (reason - 1) 0 := by
  simp only [belowTime, sat64, satAdd_eq_min, Nat.sub_add_cancel lo]

theorem readThrottle_lost (s : State) (reason : Nat) (lo : 1 ≤ reason) (hi : reason ≤ 8) :
    readThrottle reason false s = { s with
      sent := .regRead (BitVec.ofNat 32 (lo32 (s.power.lost.getD (reason - 1) 0))) :: s.sent
      power := { s.power with lostHi := s.power.lostHi.set (reason - 1) (hiWord (s.power.lost.getD (reason - 1) 0)) } } := by
  rw [readThrottle, if_neg (by omega)]
  simp only [Bool.false_eq_true, if_false, readOut, readReg_lost _ reason lo hi]
  rfl

theorem readThrottle_below (s : State) (reason : Nat) (lo : 1 ≤ reason) (hi : reason ≤ 8) :
    readThrottle reason true s = { s with
      sent := .regRead (BitVec.ofNat 32 (lo32 (belowTime s (reason - 1)))) :: s.sent
      power := { s.power with belowHi := s.power.belowHi.set (reason - 1) (hiWord (belowTime s (reason - 1))) } } := by
  rw [readThrottle, if_neg (by omega)]
  simp only [if_true, readOut, readReg_below _ reason lo hi]
  rfl

theorem readQueueEnergy_eq (q : Nat) (s : State) (h : q < 4096) (sorted : Sorted s.queues) :
    readQueueEnergy q s = emit (.regRead (BitVec.ofNat 32 (lo32 (getQ s q).energy)))
      (setQ q { getQ s q with energyHi := hiWord (getQ s q).energy } s) := by
  have same := getQ_setQ_same q { getQ s q with energyHi := hiWord (getQ s q).energy } s (.inr sorted)
  rw [readQueueEnergy, if_neg (Nat.not_le.2 h), readOut, readReg_queueEnergyLo _ q h, modQ, same]

/-- Settles O39: each latching read by what its word shows. -/
theorem latchingReadsAndTails : Obligations.LatchingReadsAndTails := by
  unfold Obligations.LatchingReadsAndTails
  intro lo hi
  refine ⟨?count, ?base, ?energy, ?throttle, ?queue, ?tails⟩
  case count => exact fun s awake => congrArg _ (live_awake awake _)
  case base => exact fun s awake => congrArg _ (live_awake awake _)
  case energy => exact fun s awake => congrArg _ (live_awake awake _)
  case throttle =>
    intro reason s awake first last lost charged below
    have time : belowTime s (reason - 1) = below := belowTime_eq s reason first
    refine ⟨congrArg _ ((live_awake awake _).trans (readThrottle_lost s reason first last)),
      congrArg _ ((live_awake awake _).trans ((readThrottle_below s reason first last).trans ?_))⟩
    rw [time]
    rfl
  case queue =>
    exact fun q s awake inRange sorted => congrArg _ ((live_awake awake _).trans (readQueueEnergy_eq q s inRange sorted))
  case tails =>
    intro v s awake moved
    have moves (r : RecRing) : r.setTail v = moved r := RecRing.setTail_eq v r
    exact ⟨congrArg _ ((live_awake awake _).trans (by rw [moves])), congrArg _ ((live_awake awake _).trans (by rw [moves])),
      congrArg _ ((live_awake awake _).trans (by rw [moves]))⟩

end Sys2Proof.Safety

namespace Sys2Proof.Safety

open Sys2Proof.Machine

/-! ### Settings commands (R44, R351, R406-R408, R431, R476, R564) -/

/-- The state with its turn of settings commands changed: the one part in which `atTurn` and `endTurn` differ. -/
def withRunning (r : Option Running) (s : State) : State := { s with fmw := { s.fmw with running := r } }

theorem sendMsix_withRunning (r : Option Running) (v : Nat) (s : State) : sendMsix v (withRunning r s) = withRunning r (sendMsix v s) := by
  simp only [sendMsix, apply_ite (withRunning r)]
  rfl

theorem raiseMsix_withRunning (r : Option Running) (v : Nat) (s : State) :
    raiseMsix v (withRunning r s) = withRunning r (raiseMsix v s) := by
  simp only [raiseMsix, apply_ite (withRunning r), ← sendMsix_withRunning]
  rfl

theorem writeEvent_withRunning (r : Option Running) (e : Event) (s : State) :
    writeEvent e (withRunning r s) = withRunning r (writeEvent e s) := by
  simp only [writeEvent, apply_ite (withRunning r), ← raiseMsix_withRunning]
  rfl

/-- An event does not look at the settings command whose turn it is. -/
theorem raise_withRunning (r : Option Running) (code severity : Nat) (detail : List Byte) (s : State) :
    raise code severity detail (withRunning r s) = withRunning r (raise code severity detail s) := by
  simp only [raise, routeEvent, apply_ite (withRunning r), ← writeEvent_withRunning]
  rfl

theorem endTurn_atTurn {t : State} (c : Cmd) (turn : Turn t) : endTurn (atTurn c t) = t := by
  obtain ⟨idle, -⟩ := turn
  simp only [endTurn, atTurn, ← idle]

/-- A settings command at its turn whose handler is done, with a change of the state that does not look at the turn. -/
theorem settings_changes {op : Nat} {call : MbCall} {s t : State} {c : Cmd} (h : Arrives op call s c t) (turn : Turn t) (named : op ≠ 5)
    (settings : ((catalogue op).map (·.settings)).getD false = true) {st : Status} {pl : List Byte} (change : State → State)
    (run : handle c (atTurn c t) = .done st pl (change (atTurn c t))) (commutes : ∀ u, endTurn (change u) = change (endTurn u))
    (fuses : (change t).fuses = t.fuses) : live (mailboxCommand op call) s = finishCmd c st 0 pl (change t) :=
  (arrives_live h _).trans (settings_done h turn (fun five => absurd five named) settings run
    ((commutes _).trans (congrArg change (endTurn_atTurn c turn))) fuses)

/-- A payload that passes check 10 is that of its row's length. -/
theorem arrives_length {op : Nat} {call : MbCall} {s t : State} {c : Cmd} {row : CatRow} (h : Arrives op call s c t)
    (cat : catalogue op = some row) : c.payload.length = row.payload := by
  have passed := h.payload
  simp only [payloadCheck, cat, Option.any_some] at passed
  split at passed
  case isTrue same => exact (beq_iff_eq.1 same).symm
  case isFalse => cases passed

/-- The flag byte of SETTINGS_COMMIT as the command has it is the call's. -/
theorem commit_flag {call : MbCall} {s t : State} {c : Cmd} (h : Arrives 0x0404 call s c t) : u8 c.payload 0 = u8 call.payload 0 := by
  obtain ⟨-, -, -, n, payload⟩ := entryChecks_pass _ _ _ _ _ h.checks
  have length : c.payload.length = 8 := arrives_length h rfl
  have some_ : 1 ≤ n := by
    rw [payload, List.length_take] at length
    omega
  simp only [u8, payload, List.drop_zero, List.take_take, Nat.min_eq_left some_]

theorem commitSettings_held (s : State) (held : (retained s).map (·.2) = some s.fmw.settings) :
    commitSettings s = .done .ok (leBytes 4 (((retained s).map (·.1)).getD 0) ++ leBytes 4 0)
      { s with memctl := { s.memctl with locked := true } } := if_pos held

theorem commitSettings_fails (s : State) (changed : (retained s).map (·.2) ≠ some s.fmw.settings)
    (fails : Config.readBackFails s.free = true) : commitSettings s = .done .uncorrectable [] { s with free := s.free + 1 } :=
  (if_neg changed).trans (if_pos fails)

/-- The state with a record written, the RWL fields locked and SETTINGS_COMMITTED raised. -/
def committed (s : State) : State :=
  raise 0x0002 0 (leBytes 4 (((retained s).map (·.1)).getD 0 + 1)) { s with
    cave := { s.cave with
      settingsA := (writeCopy s.cave.settingsA s.cave.settingsB s.fmw.settings).1
      settingsB := (writeCopy s.cave.settingsA s.cave.settingsB s.fmw.settings).2 }
    memctl := { s.memctl with locked := true }
    free := s.free + 1 }

theorem commitSettings_writes (s : State) (changed : (retained s).map (·.2) ≠ some s.fmw.settings)
    (writes : ¬ Config.readBackFails s.free = true) :
    commitSettings s = .done .ok (leBytes 4 (((retained s).map (·.1)).getD 0 + 1) ++ leBytes 4 (Config.freeNat s.free)) (committed s) :=
  (if_neg changed).trans (if_neg writes)

theorem endTurn_committed (s : State) : endTurn (committed s) = committed (endTurn s) :=
  (raise_withRunning none _ _ _ _).symm

theorem committed_fuses (s : State) : (committed s).fuses = s.fuses := (raise_keeps _ _ _ _).part .fuses

/-- SETTINGS_COMMIT without the erase flag, at its turn. -/
theorem settingsCommit_outcome {call : MbCall} {s t : State} {c : Cmd} (h : Arrives 0x0404 call s c t) (turn : Turn t)
    (noErase : u8 call.payload 0 ≠ 1) :
    live (mailboxCommand 0x0404 call) s =
      if (retained t).map (·.2) = some t.fmw.settings then
        finishCmd c .ok 0 (leBytes 4 (((retained t).map (·.1)).getD 0) ++ leBytes 4 0) { t with memctl := { t.memctl with locked := true } }
      else if Config.readBackFails t.free then finishCmd c .uncorrectable 0 [] { t with free := t.free + 1 }
      else finishCmd c .ok 0 (leBytes 4 (((retained t).map (·.1)).getD 0 + 1) ++ leBytes 4 (Config.freeNat t.free)) (committed t) := by
  have run : handle c (atTurn c t) = commitSettings (atTurn c t) := by
    simp only [handle, arrives_opcode h, hSettingsCommit, commit_flag h, if_neg noErase]
  split
  case isTrue held =>
    exact settings_changes h turn (by decide) rfl (fun u => { u with memctl := { u.memctl with locked := true } })
      (run.trans (commitSettings_held (atTurn c t) held)) (fun _ => rfl) rfl
  case isFalse changed =>
    split
    case isTrue fails =>
      exact settings_changes h turn (by decide) rfl (fun u => { u with free := u.free + 1 })
        (run.trans (commitSettings_fails (atTurn c t) changed fails)) (fun _ => rfl) rfl
    case isFalse writes =>
      exact settings_changes h turn (by decide) rfl committed (run.trans (commitSettings_writes (atTurn c t) changed writes))
        endTurn_committed (committed_fuses t)

theorem exec_settingsCommit (call : MbCall) (s : State) (noErase : u8 call.payload 0 ≠ 1) :
    exec (.settingsCommit call) s = .next (live (mailboxCommand 0x0404 call) s) := by
  have form : (u8 call.payload 0 != 1) = true := bne_iff_ne.2 noErase
  change Host.Outcome.next (live _ s) = _
  simp only [form, if_true]

theorem exec_settingsErase (call : MbCall) (s : State) (erase : u8 call.payload 0 = 1) :
    exec (.settingsErase call) s = .next (live (mailboxCommand 0x0404 call) s) := by
  change Host.Outcome.next (live _ s) = _
  simp only [erase, beq_self_eq_true, if_true]

/-- Settles O20: each command changes its own settings, and its turn ends in that change of the state it came to. -/
theorem settingsCommandsComplete : Obligations.SettingsCommandsComplete := by
  unfold Obligations.SettingsCommandsComplete
  refine ⟨?tick, ?split, ?mgmt, ?commit, ?erase, ?topology, ?reset, ?limits⟩
  case tick =>
    intro call s c t h turn next
    have run : handle c (atTurn c t) = hTickConfig c (atTurn c t) := by simp only [handle, arrives_opcode h]
    exact congrArg _ (settings_changes h turn (by decide) rfl (fun u =>
      modSettings (fun x => { x with period := u16 c.payload 0, align := u8 c.payload 2, syncDelay := u16 c.payload 4 })
        (modTick (fun x => { x with next := some next }) u)) run (fun _ => rfl) rfl)
  case split =>
    intro call s c t h turn fits
    have admitted : ((planInForce t).any fun x =>
        decide (u8 c.payload 0 < x.bwMin.1 ∨ u8 c.payload 1 < x.bwMin.2.1 ∨ u8 c.payload 2 < x.bwMin.2.2)) = false := by
      cases plan : planInForce t with
      | none => rfl
      | some x =>
        obtain ⟨reads, writes, remote⟩ := fits x plan
        simp [reads, writes, remote]
    have run : handle c (atTurn c t) = hBwSplit c (atTurn c t) := by simp only [handle, arrives_opcode h]
    exact congrArg _ (settings_changes h turn (by decide) rfl (fun u => { u with fmw := { u.fmw with
        bwNext := some (effTick t, u8 c.payload 0, u8 c.payload 1, u8 c.payload 2)
        settings := { u.fmw.settings with bwRead := u8 c.payload 0, bwWrite := u8 c.payload 1, bwRemote := u8 c.payload 2 } } })
      (run.trans (if_neg (Bool.eq_false_iff.1 admitted))) (fun _ => rfl) rfl)
  case mgmt =>
    intro call s c t h turn
    have run : handle c (atTurn c t) = hMgmtConfig c (atTurn c t) := by simp only [handle, arrives_opcode h]
    exact congrArg _ (settings_changes h turn (by decide) rfl (modSettings fun x => { x with smbus := u8 c.payload 0 }) run (fun _ => rfl) rfl)
  case commit =>
    intro call s c t h turn noErase generation copies
    exact (exec_settingsCommit call s noErase).trans (congrArg Host.Outcome.next (settingsCommit_outcome h turn noErase))
  case erase =>
    intro call s c t h turn erase
    have run : handle c (atTurn c t) = eraseSettings (atTurn c t) := by
      simp only [handle, arrives_opcode h, hSettingsCommit, commit_flag h, if_pos erase]
    exact (exec_settingsErase call s erase).trans (congrArg Host.Outcome.next (settings_changes h turn (by decide) rfl (fun u => { u with
      cave := { u.cave with settingsA := .erased, settingsB := .erased } }) run (fun _ => rfl) rfl))
  case topology =>
    intro call s c t h turn
    have run : handle c (atTurn c t) = hTopology c (atTurn c t) := by simp only [handle, arrives_opcode h]
    exact congrArg _ (settings_changes h turn (by decide) rfl (modSettings fun x => { x with topology := topologyOf c.payload }) run
      (fun _ => rfl) rfl)
  case reset =>
    intro call s c t h turn
    have run : handle c (atTurn c t) = hModuleReset c (atTurn c t) := by simp only [handle, arrives_opcode h]
    exact congrArg _ (settings_changes h turn (by decide) rfl (fun u => { u with fmw := { u.fmw with
      resetDelay := some (10 + u16 c.payload 0) } }) run (fun _ => rfl) rfl)
  case limits =>
    intro call s c t h turn limits
    have run : handle c (atTurn c t) = hPowerLimits c (atTurn c t) := by simp only [handle, arrives_opcode h]
    exact congrArg _ (settings_changes h turn (by decide) rfl (fun u => { u with
      power := { u.power with limitsNext := some limits }
      fmw := { u.fmw with settings := { u.fmw.settings with
        sustained := u16 c.payload 0, peak := u16 c.payload 2, order := u8 c.payload 4, pool := bit (u8 c.payload 5) 0 } } })
      run (fun _ => rfl) rfl)

end Sys2Proof.Safety

namespace Sys2Proof.Safety

open Sys2Proof.Machine

/-! ### Doorbells and slot rings (R330, R347, R348) -/

/-- What a SIGNAL that succeeds may touch: the waiters that it releases go on, none of their queues stops. -/
abbrev signalParts : List Part := [.ctrs, .queues, .plan, .fabric, .sent]

theorem releaseWaiter_ok_keeps (s : State) (w : Waiter) : Keeps signalParts s (releaseWaiter .ok s w) := by
  cases w with
  | header q i => exact (modOp_keeps q i _ s).mono (by simp)
  | signal q i => exact (finishOp_keeps q i .ok 0 s).mono (by simp)
  | unit u =>
    simp only [releaseWaiter]
    split
    · exact Keeps.refl _ s
    · intro p hp; cases p <;> simp_all [Same]
  | remote m t =>
    simp only [releaseWaiter]
    intro p hp; cases p <;> simp_all [Same]

theorem settle_signal_keeps (c : Nat) (s : State) : Keeps signalParts s (settle c s) :=
  ((setC_keeps c _ s).mono (by simp)).trans (Keeps.foldl _ (fun s (w : Wait) => releaseWaiter_ok_keeps s w.who) _ _)

theorem signalCounter_signal_keeps (c : Nat) (n : U32) (s : State) : Keeps signalParts s (signalCounter c n s).1 := by
  simp only [signalCounter]
  split
  · exact Keeps.refl _ s
  · split_ifs
    · exact Keeps.refl _ s
    · exact Keeps.refl _ s
    · exact ((modC_keeps c _ s).mono (by simp)).trans (settle_signal_keeps c _)

theorem ringSignal_signal_keeps (c : Nat) (s : State) : Keeps signalParts s (ringSignal c s) := by
  simp only [ringSignal]
  split
  · exact Keeps.refl _ s
  · split
    · exact signalCounter_signal_keeps c 1 s
    · exact (modC_keeps c _ s).mono (by simp)
    · exact (modC_keeps c _ s).mono (by simp)

/-- Slots that are freed advance HEAD once each, and no other ring changes. -/
theorem freeSlots_rings (r n : Nat) (s : State) (v : SlotRing) (h : mget s.rings r = some v) :
    mget (freeSlots r n s).rings r = some { v with head := v.head + BitVec.ofNat 32 n } ∧
      ∀ r', r' ≠ r → mget (freeSlots r n s).rings r' = mget s.rings r' := by
  induction n generalizing s v with
  | zero => exact ⟨by simp [freeSlots, h], fun _ _ => rfl⟩
  | succ n ih =>
    simp only [freeSlots, h]
    have rings : (ringSignal v.freeCtr { s with rings := mput s.rings r { v with head := v.head + 1 } }).rings =
        mput s.rings r { v with head := v.head + 1 } := (ringSignal_signal_keeps v.freeCtr _).part .rings
    obtain ⟨own, other⟩ := ih _ { v with head := v.head + 1 } (by rw [rings, mget_mput_same])
    have head : v.head + 1 + BitVec.ofNat 32 n = v.head + BitVec.ofNat 32 (n + 1) := by
      rw [BitVec.ofNat_add, BitVec.add_assoc, BitVec.add_comm (BitVec.ofNat 32 n)]
      rfl
    exact ⟨by rw [own, head], fun r' hr => by rw [other r' hr, rings, mget_mput_other _ _ _ _ hr]⟩

theorem freeSlots_keeps (r n : Nat) (s : State) : Keeps [.rings, .ctrs, .queues, .plan, .fabric, .sent] s (freeSlots r n s) := by
  induction n generalizing s with
  | zero => exact Keeps.refl _ s
  | succ n ih =>
    simp only [freeSlots]
    split
    · exact Keeps.refl _ s
    · rename_i v _
      refine Keeps.trans ?_ ((ringSignal_signal_keeps v.freeCtr _).mono (by simp) |>.trans (ih _))
      intro p hp; cases p <;> simp_all [Same]

/-! ### Operations stay listed -/

/-- Whether an operation is listed. -/
def Listed (q : Nat) (i : U32) (s : State) : Prop := ∃ o, getOp s q i = some o

theorem listed_iff (q : Nat) (i : U32) (s : State) : Listed q i s ↔ ∃ o ∈ (getQ s q).ops, o.index = i := by
  simp only [Listed, getOp, ← Option.isSome_iff_exists, List.find?_isSome, beq_iff_eq]

theorem Keeps.listed {ps : List Part} {s t : State} (h : Keeps ps s t) {q : Nat} {i : U32} (l : Listed q i s)
    (hp : Part.queues ∉ ps := by decide) : Listed q i t := by
  rw [listed_iff] at l ⊢
  rwa [h.getQ q hp]

theorem Listed.modOp {q : Nat} {i : U32} {s : State} (l : Listed q i s) (r : Nat) (j : U32) (f : Op → Op) (hf : ∀ o, (f o).index = o.index) :
    Listed q i (modOp r j f s) := by
  rw [listed_iff] at l ⊢
  obtain ⟨o, mem, index⟩ := l
  by_cases hr : q = r
  · subst hr
    have ops : (getQ s q).ops.map (fun o => if o.index == j then f o else o) ≠ [] := by
      simpa using List.ne_nil_of_mem mem
    refine ⟨if o.index == j then f o else o, ?_, ?_⟩
    · rw [Machine.modOp, getQ_modQ_same _ _ _ (.inl (Queue.ne_off_of_ops ops))]
      exact List.mem_map_of_mem mem
    · split
      · rw [hf, index]
      · exact index
  · rw [Machine.modOp, getQ_modQ_other _ _ _ _ hr]
    exact ⟨o, mem, index⟩

theorem Listed.foldl {α : Type} {q : Nat} {i : U32} (f : State → α → State) (h : ∀ s a, Listed q i s → Listed q i (f s a)) (l : List α)
    (s : State) (hs : Listed q i s) : Listed q i (l.foldl f s) := by
  induction l generalizing s with
  | nil => exact hs
  | cons a r ih => exact ih _ (h s a hs)

theorem Listed.releaseWaiter {q : Nat} {i : U32} {s : State} (l : Listed q i s) (w : Waiter) : Listed q i (releaseWaiter .ok s w) := by
  cases w with
  | header r j => exact l.modOp r j _ fun _ => rfl
  | signal r j => exact l.modOp r j _ fun _ => rfl
  | unit u =>
    simp only [Machine.releaseWaiter]
    split
    · exact l
    · exact l
  | remote m t => exact (emit_keeps _ _).listed l

theorem Listed.ringSignal {q : Nat} {i : U32} {s : State} (l : Listed q i s) (c : Nat) : Listed q i (ringSignal c s) := by
  simp only [Machine.ringSignal]
  split
  · exact l
  · split
    · simp only [signalCounter]
      split
      · exact l
      · split_ifs
        · exact l
        · exact l
        · refine Listed.foldl _ (fun s (w : Wait) l => l.releaseWaiter w.who) _ _ ?_
          exact (setC_keeps _ _ _).listed ((modC_keeps _ _ _).listed l)
    · exact (modC_keeps _ _ _).listed l
    · exact (modC_keeps _ _ _).listed l

theorem Listed.freeSlots {q : Nat} {i : U32} {s : State} (l : Listed q i s) (r n : Nat) : Listed q i (freeSlots r n s) := by
  induction n generalizing s with
  | zero => exact l
  | succ n ih =>
    simp only [Machine.freeSlots]
    split
    · exact l
    · rename_i v _
      have moved : Listed q i { s with rings := mput s.rings r { v with head := v.head + 1 } } := l
      exact ih (moved.ringSignal _)

end Sys2Proof.Safety

namespace Sys2Proof.Safety

open Sys2Proof.Machine

/-! ### Writes of HBM (R311, R317, R335)

A write reads the words that it covers in part. `cells` is what such a read may change of the memory and of what the statement frames. -/

def cells (s : State) : Sparse Byte × List Nat × Sparse Latent := (s.hbm, s.sramPoison, s.memctl.latent)

theorem cells_errRecord (r : ErrRec) (s : State) : cells (errRecord r s) = cells s := by
  have kept := errRecord_keeps r s
  have hbm : (errRecord r s).hbm = s.hbm := kept .hbm (by decide)
  have sram : (errRecord r s).sramPoison = s.sramPoison := kept .sramPoison (by decide)
  have memctl : (errRecord r s).memctl = s.memctl := kept .memctl (by decide)
  simp only [cells, hbm, sram, memctl]

theorem cells_degrade (g : Nat) (s : State) : cells (degrade g s) = cells s := by
  simp only [degrade]
  split
  · rfl
  · exact cells_errRecord _ _

theorem cells_correctWord (who : Who) (w : Nat) (l : Latent) (s : State) :
    cells (correctWord who w l s) = (s.hbm, s.sramPoison, mdel s.memctl.latent w) := by
  simp only [correctWord, apply_ite cells, cells_degrade, cells_errRecord, ite_self]
  rfl

theorem cells_poisonWord (who : Who) (w : Nat) (l : Latent) (s : State) :
    cells (poisonWord who w l s) = (s.hbm, s.sramPoison, mdel s.memctl.latent w) :=
  (cells_degrade _ _).trans (cells_errRecord _ _)

/-- The code corrects or detects the word's latent error (R310). -/
def SafeWord (s : State) (w : Nat) : Prop := ∀ l, mget s.memctl.latent w = some l → l.mark = true ∨ l.symbols ≤ 2

/-- What the merge of one word in part may do: only its own latent error goes, and only one that the code may miscorrect changes bytes. -/
structure Merged (w : Nat) (s t : State) : Prop where
  canonical : bwf s.hbm = true → bwf t.hbm = true
  sramPoison : t.sramPoison = s.sramPoison
  others : ∀ j, j ≠ w → mget t.memctl.latent j = mget s.memctl.latent j
  hbm : SafeWord s w → t.hbm = s.hbm

theorem Merged.refl (w : Nat) (s : State) : Merged w s s := ⟨id, rfl, fun _ _ => rfl, fun _ => rfl⟩

theorem Merged.of_cells {w : Nat} {s t : State} (h : cells t = (s.hbm, s.sramPoison, mdel s.memctl.latent w)) : Merged w s t := by
  simp only [cells, Prod.mk.injEq] at h
  obtain ⟨hbm, sram, latent⟩ := h
  exact ⟨fun wf => hbm ▸ wf, sram, fun j hj => by rw [latent, mget_mdel_other _ _ _ hj], fun _ => hbm⟩

theorem mergeWord_merged (s : State) (w : Nat) : Merged w s (mergeWord s w) := by
  cases found : mget s.memctl.latent w with
  | none => simp only [mergeWord, found]; exact Merged.refl w s
  | some l =>
    simp only [mergeWord, found]
    split
    · exact Merged.of_cells rfl
    · rename_i clean
      obtain ⟨noMark, noPoison⟩ : l.mark = false ∧ s.poison.contains w = false := by simpa using clean
      simp only [touchWord, noPoison, found, noMark, Bool.false_eq_true, if_false]
      split
      · exact Merged.of_cells (cells_correctWord _ _ _ _)
      · split
        · rename_i miscorrected
          have many : 3 ≤ l.symbols := by simp at miscorrected; exact miscorrected.1
          refine ⟨bwf_bwrite _ _ _, rfl, fun j hj => mget_mdel_other _ _ _ hj, fun safe => ?_⟩
          rcases safe l found with mark | few
          · rw [noMark] at mark; cases mark
          · omega
        · exact Merged.of_cells (cells_poisonWord _ _ _ _)

/-- The merges of several words, each once. -/
structure MergedAll (ws : List Nat) (s t : State) : Prop where
  canonical : bwf s.hbm = true → bwf t.hbm = true
  sramPoison : t.sramPoison = s.sramPoison
  hbm : (∀ w ∈ ws, SafeWord s w) → t.hbm = s.hbm

theorem mergeWords_merged (ws : List Nat) (distinct : ws.Nodup) (s : State) : MergedAll ws s (ws.foldl mergeWord s) := by
  induction ws generalizing s with
  | nil => exact ⟨id, rfl, fun _ => rfl⟩
  | cons w r ih =>
    obtain ⟨fresh, distinct'⟩ := List.nodup_cons.1 distinct
    have first := mergeWord_merged s w
    have rest := ih distinct' (mergeWord s w)
    refine ⟨fun wf => rest.canonical (first.canonical wf), rest.sramPoison.trans first.sramPoison, fun safe => ?_⟩
    have later : ∀ j ∈ r, SafeWord (mergeWord s w) j := by
      intro j hj l hl
      rw [first.others j fun e => fresh (e ▸ hj)] at hl
      exact safe j (List.mem_cons_of_mem _ hj) l hl
    exact (rest.hbm later).trans (first.hbm (safe w List.mem_cons_self))

theorem nodup_wordsOf (a len : Nat) : (wordsOf a len).Nodup := by
  simp only [wordsOf, upFrom]
  split
  · exact List.nodup_nil
  · exact List.nodup_range.map fun x y h => Nat.add_left_cancel h

/-- The words that a write covers in part. -/
def partWords (a len : Nat) : List Nat := (wordsOf a len).filter fun w => !decide (a ≤ w * 32 ∧ w * 32 + 32 ≤ a + len)

theorem partWords_merged (a len : Nat) (s : State) : MergedAll (partWords a len) s ((partWords a len).foldl mergeWord s) :=
  mergeWords_merged _ ((nodup_wordsOf a len).filter _) s

theorem writeHbm_hbm (a : Nat) (data : List Byte) (flags : List Bool) (s : State) :
    (writeHbm a data flags s).hbm = bwrite ((partWords a data.length).foldl mergeWord s).hbm a data :=
  (injectHbm_keeps _ _ _).part .hbm

theorem writeHbm_sramPoison (a : Nat) (data : List Byte) (flags : List Bool) (s : State) :
    (writeHbm a data flags s).sramPoison = s.sramPoison :=
  ((injectHbm_keeps _ _ _).part .sramPoison).trans (partWords_merged a data.length s).sramPoison

theorem bget_writeHbm_inside (a : Nat) (data : List Byte) (flags : List Bool) (s : State) (wf : bwf s.hbm = true) (i : Nat)
    (h : i < data.length) : bget (writeHbm a data flags s).hbm (a + i) = data.getD i 0 := by
  rw [writeHbm_hbm]
  exact bget_bwrite_inside _ _ _ _ ((partWords_merged a data.length s).canonical wf) h

theorem bget_writeHbm_outside (a : Nat) (data : List Byte) (flags : List Bool) (s : State) (safe : Correctable s) (j : Nat)
    (h : j < a ∨ a + data.length ≤ j) : bget (writeHbm a data flags s).hbm j = bget s.hbm j := by
  rw [writeHbm_hbm, bget_bwrite_outside _ _ _ _ h, (partWords_merged a data.length s).hbm fun w _ => safe w]

end Sys2Proof.Safety

namespace Sys2Proof.Safety

open Sys2Proof.Machine

/-! ### The rows of a queue (R68, R330, R334-R336, R347, R348, R361, R376, R485) -/

theorem index_of_getOp {q : Nat} {i : U32} {s : State} {o : Op} (h : getOp s q i = some o) : o.index = i := by
  simpa using List.find?_some h

theorem tailWrite_accepted (q : Nat) (t : U32) (s : State) (opened : doorbellsOpen s = true) (inRange : q < 4096)
    (enabled : (getQ s q).mode ≠ .disabled)
    (room : t - (getQ s q).tail ≤ BitVec.ofNat 32 (getQ s q).entries - ((getQ s q).tail - (getQ s q).done)) :
    tailWrite q t s = setQ q { getQ s q with tail := t } s := by
  simp [tailWrite, opened, enabled, Nat.not_le.2 inRange, room, modQ]

theorem tailWrite_refused (q : Nat) (t : U32) (s : State) (opened : doorbellsOpen s = true) (inRange : q < 4096)
    (enabled : (getQ s q).mode ≠ .disabled)
    (noRoom : ¬ t - (getQ s q).tail ≤ BitVec.ofNat 32 (getQ s q).entries - ((getQ s q).tail - (getQ s q).done)) :
    tailWrite q t s = stopQueue q .invalidArgument s := by
  simp [tailWrite, opened, enabled, Nat.not_le.2 inRange, noRoom]

theorem getQ_stopQueue (q : Nat) (st : Status) (s : State) (running : (getQ s q).mode = .running) :
    getQ (stopQueue q st s) q = { getQ s q with mode := .stopped, lastStop := st } := by
  rw [stopQueue, if_pos running, (raise_keeps _ _ _ _).getQ q, getQ_modQ_same _ _ _ (.inl (Queue.ne_off_of_mode (by simp)))]

theorem tailWrite_closed (q : Nat) (t : U32) (s : State) (closed : doorbellsOpen s = false) : tailWrite q t s = s := by
  simp [tailWrite, closed]

theorem slotHeadWrite_accepted (r : Nat) (h : U32) (s : State) (v : SlotRing) (ring : mget s.rings r = some v)
    (upTo : h - v.head ≤ v.tail - v.head) : slotHeadWrite r h s = freeSlots r (h - v.head).toNat s := by
  simp [slotHeadWrite, ring, upTo]

theorem slotHeadWrite_ignored (r : Nat) (h : U32) (s : State) (v : SlotRing) (ring : mget s.rings r = some v)
    (beyond : ¬ h - v.head ≤ v.tail - v.head) : slotHeadWrite r h s = s := by
  simp [slotHeadWrite, ring, beyond]

theorem listed_of_opReady {q : Nat} {idx : U32} {s : State} {cls opcode : Nat} (ready : opReady s q idx cls opcode = true) : Listed q idx s := by
  cases listed : getOp s q idx with
  | none => simp [opReady, listed] at ready
  | some o => exact ⟨o, listed⟩

theorem execSlotFreeOp_frees (q : Nat) (idx : U32) (s : State) (v : SlotRing) (ready : opReady s q idx 1 3 = true)
    (ring : mget s.rings (u16 (descOf s q idx) 16) = some v) (enough : u32 (descOf s q idx) 20 ≤ (v.tail - v.head).toNat) :
    execSlotFreeOp q idx s = finishOp q idx .ok 0 (freeSlots (u16 (descOf s q idx) 16) (u32 (descOf s q idx) 20) s) := by
  simp only [execSlotFreeOp, ready, ring, if_true, if_neg (Nat.not_lt.2 enough)]

theorem execSlotFreeOp_refuses (q : Nat) (idx : U32) (s : State) (v : SlotRing) (ready : opReady s q idx 1 3 = true)
    (ring : mget s.rings (u16 (descOf s q idx) 16) = some v) (few : (v.tail - v.head).toNat < u32 (descOf s q idx) 20) :
    execSlotFreeOp q idx s = finishOp q idx .invalidArgument 0 s := by
  simp only [execSlotFreeOp, ready, ring, if_true, if_pos few]

theorem execHintOp_running (q : Nat) (idx : U32) (o : Op) (s : State) (listed : getOp s q idx = some o) (hint : hHint o.desc = true)
    (runs : o.phase = .running) :
    execHintOp q idx s = finishOp q idx .ok 0 (if (hintPhase (s.tick.count + 1) s o.desc).2 = 0 then s else { s with
      power := { s.power with hints := s.power.hints ++ [{ start := (hintPhase (s.tick.count + 1) s o.desc).1
                                                           ticks := (hintPhase (s.tick.count + 1) s o.desc).2
                                                           watts := u16 o.desc 28, cls := u8 o.desc 30 }] } }) := by
  simp [execHintOp, listed, hint, runs]

theorem execRunPlanOp_ready (q : Nat) (idx : U32) (s : State) (ready : opReady s q idx 0 1 = true) :
    execRunPlanOp q idx s = if u32 (descOf s q idx) 20 = 0 then finishOp q idx .ok 0 s else modOp q idx (fun o => { o with phase := .blocked }) s :=
  if_pos ready

theorem startDescriptor_noWait (q : Nat) (idx : U32) (o : Op) (s : State) (listed : getOp s q idx = some o) (admitted : o.phase = .admitted)
    (closed : s.tick.windowOpen = false) (noWait : hWait o.desc = false) :
    startDescriptor q idx s = if hFence o.desc = true ∧ (getQ s q).done ≠ o.index then s
      else modOp q idx (fun p => { p with phase := .running }) s := by
  simp [startDescriptor, listed, admitted, closed, noWait, tryStart, index_of_getOp listed]

/-- A WAIT_GE that its counter does not meet joins the counter's waiters. -/
theorem arriveWait_joins (c : Nat) (w : Wait) (s : State) (claimed : ctrRefusal s c = none) (ge : w.acquire = false)
    (unmet : (getC s c).value < w.amount) :
    arriveWait c w s = (setC c { getC s c with waits := (getC s c).waits ++ [w] } s, none) := by
  have positive : w.amount ≠ 0#32 := by
    intro e
    rw [e] at unmet
    exact absurd unmet BitVec.not_lt_zero
  have unmet' : ¬ w.amount ≤ (getC s c).value := BitVec.not_le.2 unmet
  simp [arriveWait, claimed, ge, positive, unmet']

theorem startDescriptor_waits (q : Nat) (idx : U32) (o : Op) (s : State) (listed : getOp s q idx = some o) (admitted : o.phase = .admitted)
    (closed : s.tick.windowOpen = false) (wait : hWait o.desc = true) (turn : storeTurn s q idx (hWaitCounter o.desc) = true)
    (counter : hWaitCounter o.desc ≠ 0xFFFF) (claimed : (getC s (hWaitCounter o.desc)).mode = .claimed)
    (unmet : (getC s (hWaitCounter o.desc)).value < BitVec.ofNat 32 (hWaitValue o.desc)) :
    startDescriptor q idx s = modOp q idx (fun o => { o with phase := .waiting })
      (setC (hWaitCounter o.desc) { getC s (hWaitCounter o.desc) with waits := (getC s (hWaitCounter o.desc)).waits ++
        [{ who := .header q idx, acquire := false, amount := BitVec.ofNat 32 (hWaitValue o.desc) }] } s) := by
  have joins := arriveWait_joins (hWaitCounter o.desc)
    { who := .header q idx, acquire := false, amount := BitVec.ofNat 32 (hWaitValue o.desc) } s (ctrRefusal_claimed _ _ counter claimed) rfl unmet
  simp only [startDescriptor, listed, admitted, closed, wait, turn, joins]
  rfl

/-! ### One step of an operation (R68) -/

/-- An indivisible step of a range or Press operation that the tick's capacity takes is admitted whole. -/
theorem nextStep_fixed (s : State) (cls : Nat) (d : List Byte) (w : Work) (c full : Nat) (class_ : cls = 2 ∨ cls = 3) (fixed : w.fixed = [c])
    (descs : (capOf s cls).descs ≠ 0) (fits : c ≤ (capOf s cls).budget) (ever : neverFits s cls c = false) :
    nextStep s cls d w false full = .fits { charge := c, desc := true, rest := { w with fixed := [] }, unit := none } := by
  rcases class_ with rfl | rfl <;> simp [nextStep, isVat, descs, fixed, takeFixed, fits, ever]

/-- The step that `nextStep_fixed` admits. -/
def wholeStep (o : Op) (c : Nat) : StepTake := { charge := c, desc := true, rest := { o.work with fixed := [] }, unit := none }

theorem stepOperation_fixed (q : Nat) (idx : U32) (o : Op) (c : Nat) (s : State) (listed : getOp s q idx = some o) (runs : o.phase = .running)
    (class_ : (getQ s q).cls = 2 ∨ (getQ s q).cls = 3) (fixed : o.work.fixed = [c]) (once : o.stepTick ≠ s.tick.count)
    (unskipped : s.tick.state ≠ 3) (descs : (capOf s (getQ s q).cls).descs ≠ 0) (fits : c ≤ (capOf s (getQ s q).cls).budget)
    (ever : neverFits s (getQ s q).cls c = false) :
    let u := modOp q idx (fun p => p) s
    stepOperation q idx s = spend (getQ s q).cls c (modOp q idx (stepped u (getQ s q).cls o.work (wholeStep o c)) (countAdmission u)) := by
  intro u
  have started : unstarted o = false := by simp [unstarted, runs]
  have left : o.work.allDone = false := by simp [Work.allDone, fixed]
  have noVat : isVat (getQ s q).cls o.desc = false := by rcases class_ with h | h <;> simp [isVat, h]
  have admits : nextStep u (getQ s q).cls o.desc o.work false (s.tick.caps.getD (getQ s q).cls { descs := 0, budget := 0 }).budget =
      .fits (wholeStep o c) := nextStep_fixed u _ _ _ _ _ class_ fixed descs fits ever
  have goes : ¬ (o.stepTick = s.tick.count ∨ (unstarted o && hWait o.desc && o.charge != 0) = false ∧
      (o.work.allDone = true ∨ unstarted o = true)) := by simp [once, left, started]
  have here : (unstarted o || o.phase == .done || s.tick.state == 3) = false := by simp [started, runs, unskipped]
  simp only [stepOperation, listed, here, admitStep, if_neg goes]
  simp only [started, noVat, Bool.false_and, Bool.false_eq_true, if_false, index_of_getOp listed]
  rw [admits]
  rfl

theorem countAdmission_keeps (s : State) : Keeps [.tick] s (countAdmission s) := by
  intro p hp; cases p <;> simp_all [Same, countAdmission]

theorem spend_keeps (cls charge : Nat) (s : State) : Keeps [.tick] s (spend cls charge s) := by
  intro p hp; cases p <;> simp_all [Same, spend]

theorem stepOperation_fixed_result (q : Nat) (idx : U32) (o : Op) (c : Nat) (s : State) (listed : getOp s q idx = some o)
    (class_ : (getQ s q).cls = 2 ∨ (getQ s q).cls = 3) :
    let u := modOp q idx (fun p => p) s
    let t := spend (getQ s q).cls c (modOp q idx (stepped u (getQ s q).cls o.work (wholeStep o c)) (countAdmission u))
    getOp t q idx = some { o with
        work := { o.work with fixed := [] }, before := o.work, stepTick := s.tick.count, charge := c, order := s.tick.admissions } ∧
      t.tick = { s.tick with
        admissions := s.tick.admissions + 1
        caps := s.tick.caps.modify (getQ s q).cls fun x => { descs := x.descs - 1, budget := x.budget - c } } ∧
      Keeps [.queues, .tick] s t := by
  intro u t
  have listed' : getOp (countAdmission u) q idx = some o := getOp_modOp_same q idx _ s o (fun _ => rfl) listed
  have noKeys : (getQ s q).cls ≠ 4 := by omega
  have result : stepped u (getQ s q).cls o.work (wholeStep o c) o = { o with
      work := { o.work with fixed := [] }, before := o.work, stepTick := s.tick.count, charge := c, order := s.tick.admissions } := by
    have tick : u.tick = s.tick := rfl
    simp [stepped, wholeStep, noKeys, tick]
  refine ⟨?_, rfl, ?_⟩
  · rw [← result]
    exact getOp_modOp_same q idx _ (countAdmission u) o (fun _ => rfl) listed'
  · have noted : Keeps [.queues, .tick] s (countAdmission u) :=
      ((modOp_keeps q idx _ s).mono (by simp)).trans ((countAdmission_keeps u).mono (by simp))
    exact (noted.trans ((modOp_keeps q idx _ _).mono (by simp))).trans ((spend_keeps _ _ _).mono (by simp))

/-! ### The completion record (R335, R336) -/

theorem completionBytes_length (entries : Nat) (o : Op) (st : Status) (left : Bool) : (completionBytes entries o st left).length = 16 := by
  simp [completionBytes, leBytes]

theorem retireCulture_keeps (s : State) : Keeps [.culture, .evt, .fmw, .cxl, .sent] s (retireCulture s) := by
  simp only [retireCulture]
  split
  · refine Keeps.trans ?_ ((raise_keeps _ _ _ _).mono (by simp))
    intro p hp; cases p <;> simp_all [Same]
  · exact Keeps.refl _ s

theorem retireIndex_keeps (s : State) : Keeps [.index, .evt, .fmw, .cxl, .sent] s (retireIndex s) := by
  simp only [retireIndex]
  split
  · refine Keeps.trans ?_ ((raise_keeps _ _ _ _).mono (by simp))
    intro p hp; cases p <;> simp_all [Same]
  · exact Keeps.refl _ s

/-- A queue once the record of its oldest operation is written. -/
def Queue.recorded (o : Op) (v : Queue) : Queue := { v with done := v.done + 1, ops := v.ops.filter fun p => p.index != o.index }

/-- The record of an operation without signal or slot, in HBM whose words are not poisoned. -/
theorem writeRecord_plain (q : Nat) (o : Op) (a : Nat) (s : State) (noSignal : hSignal o.desc = false) (noSlot : o.publish = none)
    (tagged : o.noTag = false) (home : inHost (getQ s q).comp = false)
    (place : addrOf s ((getQ s q).comp + 16 * (o.index.toNat % (getQ s q).entries)) = .hbm a) (clean : anyPoison s (.hbm a) 16 = false) :
    let written := modQ q (Queue.recorded o) (writeHbm a (completionBytes (getQ s q).entries o o.status false) [] s)
    writeRecord q o s = if hInterrupt o.desc && (getQ s q).msix != 0xFFFF then raiseMsix (getQ s q).msix written else written := by
  simp only [writeRecord, home, place, clean, signalOutcome, noSignal, noSlot, tagged, Bool.false_and, Bool.false_eq_true, if_false,
    Bool.not_false, Bool.or_true, Bool.true_or, Bool.true_and, if_true]
  rfl

theorem writeHbm_record_keeps (a : Nat) (data : List Byte) (s : State) :
    Keeps [.hbm, .poison, .memctl, .free, .err, .evt, .fmw, .cxl, .sent] s (writeHbm a data [] s) := by
  intro p hp
  by_cases sram : p = .sramPoison
  · subst sram; exact writeHbm_sramPoison a data [] s
  · exact writeHbm_keeps a data [] s p (by cases p <;> simp_all)

theorem dropRequest_none (q : Nat) (idx : U32) (s : State) (idle : s.plan.waiting = []) : dropRequest q idx s = s := by
  simp [dropRequest, idle]

/-- What follows the record's bytes: a vector may be raised, a former generation or epoch may retire. -/
theorem completeOperation_keeps_written (q : Nat) (o : Op) (a : Nat) (s : State)
    (oldest : (getQ s q).ops.find? (fun p => p.index == (getQ s q).done) = some o) (done : o.phase = .done)
    (noSignal : hSignal o.desc = false) (noSlot : o.publish = none) (tagged : o.noTag = false) (idle : s.plan.waiting = [])
    (home : inHost (getQ s q).comp = false)
    (place : addrOf s ((getQ s q).comp + 16 * (o.index.toNat % (getQ s q).entries)) = .hbm a) (clean : anyPoison s (.hbm a) 16 = false) :
    Keeps [.culture, .index, .evt, .fmw, .cxl, .sent]
      (modQ q (Queue.recorded o) (writeHbm a (completionBytes (getQ s q).entries o o.status false) [] s)) (completeOperation q s) := by
  simp only [completeOperation, oldest, done, if_true, dropRequest_none q o.index s idle,
    writeRecord_plain q o a s noSignal noSlot tagged home place clean]
  refine Keeps.trans ?_ (((retireCulture_keeps _).mono (by simp)).trans ((retireIndex_keeps _).mono (by simp)))
  split
  · exact (raiseMsix_keeps _ _).mono (by simp)
  · exact Keeps.refl _ _

theorem ofNat_sub_toNat (a b : U32) : b + BitVec.ofNat 32 (a - b).toNat = a := by
  rw [BitVec.ofNat_toNat, BitVec.setWidth_eq, BitVec.add_comm, BitVec.sub_add_cancel]

/-- Settles O59: each row by its own equation, the record's bytes by `bget_writeHbm_inside` and `bget_writeHbm_outside`. -/
theorem queueRowsComplete : Obligations.QueueRowsComplete := by
  unfold Obligations.QueueRowsComplete
  refine ⟨?doorbell, ?closed, ?head, ?slots, ?hint, ?plan, ?start, ?step, ?record⟩
  case doorbell =>
    intro q t s awake opened inRange enabled v
    refine ⟨fun room => congrArg _ ((live_awake awake _).trans (tailWrite_accepted q t s opened inRange enabled room)),
      fun noRoom running => ⟨stopQueue q .invalidArgument s, ?_, getQ_stopQueue q _ s running, stopQueue_keeps q _ s⟩⟩
    exact congrArg _ ((live_awake awake _).trans (tailWrite_refused q t s opened inRange enabled noRoom))
  case closed => exact fun q t s closed => congrArg _ (live_of_same (tailWrite_closed q t s closed))
  case head =>
    intro r h v s awake opened ring
    have written {u : State} (e : slotHeadWrite r h s = u) : exec (.srHeadWrite r h) s = .next (wake u) := by
      change Host.Outcome.next (live _ s) = _
      rw [live_awake awake, if_pos opened, e]
    obtain ⟨own, other⟩ := freeSlots_rings r (h - v.head).toNat s v ring
    rw [ofNat_sub_toNat] at own
    exact ⟨fun upTo => ⟨_, written (slotHeadWrite_accepted r h s v ring upTo), own, other, freeSlots_keeps r _ s⟩,
      fun beyond => written (slotHeadWrite_ignored r h s v ring beyond)⟩
  case slots =>
    intro q idx v s awake ready ring n
    have wakes {u : State} (e : execSlotFreeOp q idx s = u) : exec (.slotFree q idx) s = .next (wake u) := by
      change Host.Outcome.next (live _ s) = _
      rw [live_awake awake, e]
    refine ⟨fun enough => ?_, fun few => wakes (execSlotFreeOp_refuses q idx s v ready ring few)⟩
    obtain ⟨o, listed⟩ := (listed_of_opReady ready).freeSlots (u16 (descOf s q idx) 16) n
    have finished := finishOp_keeps q idx .ok 0 (freeSlots (u16 (descOf s q idx) 16) n s)
    have rings := finished.part .rings
    refine ⟨_, wakes (execSlotFreeOp_frees q idx s v ready ring enough), ended_finishOp q idx .ok 0 _ o listed, ?_,
      (freeSlots_keeps _ n s).trans (finished.mono (by simp))⟩
    exact (congrArg (mget · _) rings).trans (freeSlots_rings _ n s v ring).1
  case hint =>
    exact fun q idx o s awake listed hint runs => congrArg _ ((live_awake awake _).trans (execHintOp_running q idx o s listed hint runs))
  case plan => exact fun q idx s awake ready => congrArg _ ((live_awake awake _).trans (execRunPlanOp_ready q idx s ready))
  case start =>
    intro q idx o s awake listed admitted closed
    refine ⟨fun noWait => congrArg _ ((live_awake awake _).trans (startDescriptor_noWait q idx o s listed admitted closed noWait)), ?_⟩
    intro wait turn counter claimed k unmet
    exact congrArg _ ((live_awake awake _).trans (startDescriptor_waits q idx o s listed admitted closed wait turn counter claimed unmet))
  case step =>
    intro q idx o c s awake listed runs class_ fixed once unskipped descs fits ever
    have steps := stepOperation_fixed q idx o c s listed runs class_ fixed once unskipped descs fits ever
    exact ⟨_, congrArg Host.Outcome.next ((live_awake awake _).trans steps), stepOperation_fixed_result q idx o c s listed class_⟩
  case record =>
    intro q o a s awake canonical enabled oldest done noSignal noSlot tagged idle home place clean
    have wrote := writeHbm_record_keeps a (completionBytes (getQ s q).entries o o.status false) s
    have kept := completeOperation_keeps_written q o a s oldest done noSignal noSlot tagged idle home place clean
    have queue : getQ (completeOperation q s) q = Queue.recorded o (getQ s q) := by
      have enabled' : (Queue.recorded o (getQ s q)).mode ≠ .disabled := enabled
      rw [kept.getQ q, getQ_modQ_same _ _ _ (.inl (by rw [wrote.getQ q]; exact Queue.ne_off_of_mode enabled')), wrote.getQ q]
    have bytes : (completeOperation q s).hbm = (writeHbm a (completionBytes (getQ s q).entries o o.status false) [] s).hbm := kept.part .hbm
    have length := completionBytes_length (getQ s q).entries o o.status false
    refine ⟨_, congrArg Host.Outcome.next (live_awake awake _), by rw [queue]; rfl, by rw [queue]; rfl, fun i hi => ?_, fun safe j hj => ?_, ?_⟩
    · rw [bytes]
      exact bget_writeHbm_inside a _ [] s canonical.1 i (by rw [length]; exact hi)
    · rw [bytes]
      exact bget_writeHbm_outside a _ [] s safe j (by rw [length]; exact hj)
    · exact ((wrote.mono (by simp)).trans ((modQ_keeps q _ _).mono (by simp))).trans (kept.mono (by simp))

end Sys2Proof.Safety

namespace Sys2Proof.Safety

open Sys2Proof.Machine

/-! ### Packages, culture banks and index tables (R100, R101, R158, R400, R401, R410, R411) -/

theorem commitTick_single {c : Cmd} (single : c.target ≠ 0xFF) (s : State) : commitTick c s = s.tick.count + 1 := if_neg single

/-- `moveBytes` sets the bytes of the running command itself: at its turn that is `keepsBusy` with those bytes. -/
theorem moveBytes_atTurn (n : Nat) (c : Cmd) (t : State) : moveBytes n (atTurn c t) = .later (withRunning (some (keepsBusy c n)) t) := rfl

/-- A settings command at its turn whose handler moves bytes: its mailbox stays BUSY, and nothing else changes. -/
theorem settings_moves {op : Nat} {call : MbCall} {s t : State} {c : Cmd} (h : Arrives op call s c t) (turn : Turn t) (named : op ≠ 5)
    (settings : ((catalogue op).map (·.settings)).getD false = true) {n : Nat} (run : handle c (atTurn c t) = moveBytes n (atTurn c t)) :
    live (mailboxCommand op call) s = withRunning (some (keepsBusy c n)) t :=
  (arrives_live h _).trans
    (settings_later h turn (fun five => absurd five named) settings (run.trans (moveBytes_atTurn n c t)) rfl)

theorem hInstall_fits (c : Cmd) (s : State) (fits : libraryUsed s + u32 c.payload 4 ≤ libraryBytes) :
    hInstall c s = moveBytes (u32 c.payload 4) s := if_neg (Nat.not_lt.2 fits)

theorem hRemove_unused (c : Cmd) (s : State) (k : Package) (installed : (s.packages.find? fun x => x.id == u32 c.payload 0) = some k)
    (unused : packageBusy s k = false) :
    hRemove c s = .done .ok [] { s with packages := s.packages.filter fun x => x.id != k.id } := by
  simp only [hRemove, installed, unused, Bool.false_eq_true, if_false]

theorem hCultureStage_model (c : Cmd) (s : State) (m : PkgModel) (named : packageModel s (u32 c.payload 0) (u32 c.payload 4) = some m) :
    hCultureStage c s = moveBytes (modelSize m) s := by
  simp only [hCultureStage, named]

theorem hCultureRemove_registered (c : Cmd) (s : State) (free : cultureWaits s = false)
    (registered : ∃ m ∈ stagingBank s, m.id = u32 c.payload 0) :
    hCultureRemove c s = .done .ok [] (setStaging ((stagingBank s).filter fun m => m.id != u32 c.payload 0) [] s) := by
  have found : ((stagingBank s).any fun m => m.id == u32 c.payload 0) = true := by
    simpa only [List.any_eq_true, beq_iff_eq] using registered
  simp only [hCultureRemove, free, found, Bool.false_eq_true, if_false, if_true]

theorem hCultureCommit_staged (c : Cmd) (s : State) (single : c.target ≠ 0xFF) (staged : s.culture.shadowState = 2)
    (uncommitted : s.culture.commitAt = none) :
    hCultureCommit c s = .done .ok
      (leBytes 1 ((s.culture.generation + 1) % 256) ++ List.replicate 7 0 ++ leBytes 8 (headTick s (s.tick.count + 1)))
      { s with culture := { s.culture with commitAt := some (s.tick.count + 1) } } := by
  rw [← commitTick_single single s]
  exact if_pos ⟨staged, uncommitted⟩

theorem hIndexLoad_buckets (c : Cmd) (s : State) (nonzero : u32 c.payload 12 ≠ 0) :
    hIndexLoad c s = moveBytes (256 * u32 c.payload 12) s := if_neg nonzero

theorem hIndexCommit_staged (c : Cmd) (s : State) (single : c.target ≠ 0xFF) (staged : s.index.shadowState = 2)
    (uncommitted : s.index.commitAt = none) :
    hIndexCommit c s = .done .ok
      (leBytes 4 ((s.index.epoch + 1) % 2 ^ 32) ++ leBytes 4 0 ++ leBytes 8 (headTick s (s.tick.count + 1)))
      { s with index := { s.index with commitAt := some (s.tick.count + 1) } } := by
  rw [← commitTick_single single s]
  exact if_pos ⟨staged, uncommitted⟩

/-- Settles O17: what each handler does in its case; three keep their turn with bytes to move, four end it with their change. -/
theorem modelCommandsComplete : Obligations.ModelCommandsComplete := by
  unfold Obligations.ModelCommandsComplete
  refine ⟨?install, ?remove, ?stage, ?cultureRemove, ?cultureCommit, ?load, ?indexCommit⟩
  case install =>
    intro call s c t h turn fits
    have run : handle c (atTurn c t) = hInstall c (atTurn c t) := by simp only [handle, arrives_opcode h]
    exact congrArg _ (settings_moves h turn (by decide) rfl (run.trans (hInstall_fits c (atTurn c t) fits)))
  case remove =>
    intro call s c t k h turn installed unused
    have run : handle c (atTurn c t) = hRemove c (atTurn c t) := by simp only [handle, arrives_opcode h]
    exact congrArg _ (settings_changes h turn (by decide) rfl (fun u => { u with packages := u.packages.filter fun x => x.id != k.id })
      (run.trans (hRemove_unused c (atTurn c t) k installed unused)) (fun _ => rfl) rfl)
  case stage =>
    intro call s c t m h turn named
    have run : handle c (atTurn c t) = hCultureStage c (atTurn c t) := by simp only [handle, arrives_opcode h]
    exact congrArg _ (settings_moves h turn (by decide) rfl (run.trans (hCultureStage_model c (atTurn c t) m named)))
  case cultureRemove =>
    intro call s c t h turn free registered
    have run : handle c (atTurn c t) = hCultureRemove c (atTurn c t) := by simp only [handle, arrives_opcode h]
    exact congrArg _ (settings_changes h turn (by decide) rfl
      (fun u => setStaging ((stagingBank u).filter fun m => m.id != u32 c.payload 0) [] u)
      (run.trans (hCultureRemove_registered c (atTurn c t) free registered)) (fun _ => rfl) rfl)
  case cultureCommit =>
    intro call s c t h turn staged uncommitted
    have run : handle c (atTurn c t) = hCultureCommit c (atTurn c t) := by simp only [handle, arrives_opcode h]
    exact congrArg _ (settings_changes h turn (by decide) rfl
      (fun u => { u with culture := { u.culture with commitAt := some (u.tick.count + 1) } })
      (run.trans (hCultureCommit_staged c (atTurn c t) h.single staged uncommitted)) (fun _ => rfl) rfl)
  case load =>
    intro call s c t h turn nonzero
    have run : handle c (atTurn c t) = hIndexLoad c (atTurn c t) := by simp only [handle, arrives_opcode h]
    exact congrArg _ (settings_moves h turn (by decide) rfl (run.trans (hIndexLoad_buckets c (atTurn c t) nonzero)))
  case indexCommit =>
    intro call s c t h turn staged uncommitted
    have run : handle c (atTurn c t) = hIndexCommit c (atTurn c t) := by simp only [handle, arrives_opcode h]
    exact congrArg _ (settings_changes h turn (by decide) rfl
      (fun u => { u with index := { u.index with commitAt := some (u.tick.count + 1) } })
      (run.trans (hIndexCommit_staged c (atTurn c t) h.single staged uncommitted)) (fun _ => rfl) rfl)

end Sys2Proof.Safety

namespace Sys2Proof.Safety

open Sys2Proof.Machine

/-! ### The rewrite of an engine's table SRAM (R139) -/

theorem rewriteTables_offline {n : Nat} {s : State} (offline : (getEngine s n).offline = true) :
    rewriteTables n s = tableWritten (· == n) (fun _ => true) (modEngine n (fun e => { e with offline := false }) s) :=
  if_pos offline

theorem exec_tableSramRewrite {n : Nat} {s : State} (awake : Awake s) (offline : (getEngine s n).offline = true) :
    exec (.tableSramRewrite n) s = .next (wake (tableWritten (· == n) (fun _ => true)
      (modEngine n (fun e => { e with offline := false }) s))) := by
  rw [← rewriteTables_offline offline]
  exact congrArg _ (live_awake awake _)

theorem tableWritten_sramLatent {s : State} (unarmed : bit s.memctl.inject.toNat 31 = false) (engine word : Nat → Bool) :
    (tableWritten engine word s).memctl.sramLatent =
      s.memctl.sramLatent.filter fun x => !(x.1 == 3 && engine x.2.1 && word x.2.2.1) := by
  simp only [tableWritten, unarmed, Bool.false_and, Bool.false_eq_true, if_false]

/-- Engine 15 is offline, and a second word of its table SRAM holds a two-symbol error that nothing has read yet. -/
def offlineWithLatentError : State :=
  { State.reset with
    start := { State.reset.start with inReset := false }
    rc := State.reset.rc.set 15 { RcEngine.idle with offline := true }
    memctl := { State.reset.memctl with
      sramLatent := [(3, 15, 32, { symbols := 2, symbol := 0, mark := false, injected := false })] } }

/-- Refutes O46: TABLE_SRAM_REWRITE writes both banks of the engine, which ends the errors that lie in its words (R139), where the
statement has it put the engine back and change nothing else. -/
theorem not_unitEventsComplete : ¬ Obligations.UnitEventsComplete := by
  unfold Obligations.UnitEventsComplete
  rintro ⟨-, -, -, -, rewrite, -, -⟩
  let s := offlineWithLatentError
  let back := modEngine 15 (fun e => { e with offline := false }) s
  let written := tableWritten (· == 15) (fun _ => true) back
  have awake : Awake s := ⟨rfl, rfl⟩
  have offline : (getEngine s 15).offline = true := rfl
  have same : wake written = wake back :=
    Host.Outcome.next.inj ((exec_tableSramRewrite awake offline).symm.trans (rewrite 15 s awake offline))
  rw [wake_done written rfl, wake_done back rfl] at same
  have cleared : written.memctl.sramLatent = [] := tableWritten_sramLatent (by decide) _ _
  have kept : back.memctl.sramLatent ≠ [] := List.cons_ne_nil _ _
  exact kept (same ▸ cleared)

end Sys2Proof.Safety

namespace Sys2Proof.Machine

open Sys2Proof.Safety

/-! ### Every command is steady

Each command's meaning is built of operations that the laws show to be steady, most of them run by `live`. -/

/-- A next state that the outcome answers is steady; a fault answers none. -/
def SteadyOutcome (s : State) (o : Host.Outcome State Fault Refusal) : Prop := ∀ t, o = .next t → Steady s t

namespace SteadyOutcome

variable {s : State}

theorem next {t : State} (h : Steady s t) : SteadyOutcome s (.next t) := fun _ e => Host.Outcome.next.inj e ▸ h

theorem fault (f : Fault) : SteadyOutcome s (.fault f) := fun _ e => by cases e

theorem live {f : State → State} (h : ∀ {s₀ s}, Steady s₀ s → Steady s₀ (f s)) : SteadyOutcome s (.next (live f s)) :=
  next (live_steady f h (.refl s))

theorem accepts {f : State → State} (h : ∀ {s₀ s}, Steady s₀ s → Steady s₀ (f s)) : SteadyOutcome s (.next (tapAccepts f s)) :=
  next (tapAccepts_steady f h (.refl s))

end SteadyOutcome

theorem execCxlMemRead_steady (hpa len : Nat) (s : State) : SteadyOutcome s (execCxlMemRead hpa len s) := by
  unfold execCxlMemRead
  split
  · split
    · exact .next (memRead_steady _ _ (.refl s))
    · exact .fault _
  · exact .next (.refl s)

theorem execCxlMemWrite_steady (hpa : Nat) (data : List Byte) (poison : Bool) (s : State) :
    SteadyOutcome s (execCxlMemWrite hpa data poison s) := by
  unfold execCxlMemWrite
  split
  · split
    · exact .next (memWrite_steady _ _ _ (.refl s))
    · exact .fault _
  · exact .next (.refl s)

theorem execTapMemoryAccess_steady (address : Nat) (write : Option Byte) (s : State) :
    SteadyOutcome s (execTapMemoryAccess address write s) := by
  unfold execTapMemoryAccess
  split
  · split
    · exact .next (tapMemory_steady _ _ (.refl s))
    · exact .fault _
  · exact .next (.refl s)

/-- Command by command: fuses go one way, the waiting commands stay, memory stays canonical. -/
theorem exec_steady (i : Instr) (s : State) : SteadyOutcome s (exec i s) := by
  cases i with
  -- ticks, alignment and plans
  | tickBoundary _ => exact .live fun h => serveParked_steady (tickBoundary_steady _ h)
  | tailSnapshot => exact .live fun h => .ite (snapshotTails_steady h) h
  | boundaryWindowEnd _ => exact .live (windowEnd_steady _)
  | lateWorkComplete _ _ => exact .live (lateWorkDone_steady _ _)
  | holdLimit _ => exact .live (holdLimit_steady _)
  | skipWindow _ _ => exact .live (skipWindow_steady _ _)
  | preparedPointFix _ _ => exact .live (fixPoint_steady _ _)
  | tickSyncInEdge _ => exact .live (syncEdge_steady _)
  | timestamp _ _ _ _ => exact .live (receiveSync_steady _ _ _ (answerTimestamp_steady _ _ _ _))
  | timestampReply _ _ _ _ _ => exact .live (receiveSync_steady _ _ _ (takeTimestamp_steady _ _ _ _ _))
  | tickBaseMessage _ => exact .live (takeTickBase_steady _)
  | holdMsg _ _ => exact .live (receiveSync_steady _ _ _ (takeHold_steady _ _))
  | releaseMsg _ _ _ => exact .live (receiveSync_steady _ _ _ (takeRelease_steady _ _ _))
  | variantRequest _ _ _ => exact .live (receiveSync_steady _ _ _ (takeRequest_steady _ _))
  | startDefer _ _ _ => exact .live (receiveSync_steady _ _ _ (takeDefer_steady _ _ _))
  | domainAbsent => exact .live domainAbsent_steady
  | skipPattern _ _ _ => exact .live (receiveSync_steady _ _ _ (takeSkipPattern_steady _ _ _))
  | planJobStart => exact .live planStart_steady
  | planJobComplete => exact .live planComplete_steady
  | planJobPreempt => exact .live planPreempt_steady
  | planJobFailure _ => exact .live (planFails_steady _)
  | runPlan _ _ => exact .live (execRunPlanOp_steady _ _)
  | planReplaceEffect => exact .live planReplaced_steady
  -- doorbells, descriptors and operations
  | qdbTailWrite _ _ => exact .live (tailWrite_steady _ _)
  | descriptorStart _ _ => exact .live (startDescriptor_steady _ _)
  | operationStep _ _ => exact .live (stepOperation_steady _ _)
  | operationComplete _ => exact .live fun h => wake_steady (completeOperation_steady _ h)
  | queueOwnerReset _ => exact .live fun h => wake_steady (ownerReset_steady _ h)
  | matmul _ _ _ => exact .live (execMatmulOp_steady _ _ _)
  | attention _ _ _ => exact .live (execAttentionOp_steady _ _ _)
  | conv _ _ _ => exact .live (execConvOp_steady _ _ _)
  | resample _ _ _ => exact .live (execResampleOp_steady _ _ _)
  | func _ _ _ => exact .live (execFuncOp_steady _ _ _)
  | norm _ _ _ => exact .live (execNormOp_steady _ _ _)
  | softmax _ _ _ => exact .live (execSoftmaxOp_steady _ _ _)
  | hint _ _ => exact .live (execHintOp_steady _ _)
  | transfer _ _ => exact .live (execTransferOp_steady _ _)
  | gather _ _ => exact .live (execGatherOp_steady _ _)
  | slotFree _ _ => exact .live fun h => wake_steady (execSlotFreeOp_steady _ _ h)
  | srHeadWrite _ _ => exact .live fun h => wake_steady (.ite (slotHeadWrite_steady _ _ h) h)
  | decodeBegin _ _ => exact .live (execDecodeBeginOp_steady _ _)
  | decodePass _ _ _ => exact .live (execDecodePassOp_steady _ _ _)
  | decodeEnd _ _ => exact .live (execDecodeEndOp_steady _ _)
  | encodeWheel _ _ => exact .live (execEncodeWheelOp_steady _ _ _)
  | tableSramRewrite _ => exact .live fun h => wake_steady (rewriteTables_steady _ h)
  | compress _ _ _ => exact .live (execCompressOp_steady _ _ _)
  | inflate _ _ _ => exact .live (execInflateOp_steady _ _ _)
  | sample _ _ => exact .live fun h => wake_steady (execSampleOp_steady _ _ h)
  | sampleEntry _ _ _ => exact .live fun h => wake_steady (execSampleEntryOp_steady _ _ _ h)
  | lookup _ _ => exact .live (execLookupOp_steady _ _)
  | putEntry _ _ => exact .live (execPutOp_steady _ _)
  | deleteKey _ _ => exact .live (execDeleteOp_steady _ _)
  | signalCtr _ _ => exact .live fun h => wake_steady (execSignalOp_steady _ _ h)
  | subCtr _ _ => exact .live (execSubOp_steady _ _)
  | waitGe _ _ => exact .live (execWaitGeOp_steady _ _)
  | acquire _ _ => exact .live (execAcquireOp_steady _ _)
  | ctrAddWrite _ _ => exact .live fun h => wake_steady (.ite (windowWrite_steady _ _ _ h) h)
  | ctrSubWrite _ _ => exact .live fun h => .ite (windowWrite_steady _ _ _ h) h
  -- what follows mailbox commands
  | sessionPendingTimeout _ => exact .live (pendingTimeout_steady _)
  | sessionExpired _ => exact .live fun h => serveParked_steady (sessionExpired_steady _ h)
  | authLockoutEnd => exact .live lockoutEnd_steady
  | cultureCommitEffect => exact .live (cultureDue_steady _)
  | indexCommitEffect => exact .live (indexDue_steady _)
  | tickPeriodEffect => exact .live (applyPeriod_steady _)
  | bwSplitEffect => exact .live (applySplit_steady _)
  | settingsCommandStart => exact .live settingsStart_steady
  | mailboxCommandStep => exact .live commandStep_steady
  | forwardedCommand _ _ => exact .live fun h => wake_steady (takeForward_steady _ _ h)
  | forwardedResponse _ _ _ _ _ => exact .live (takeResponse_steady _ _ _ _ _)
  | powerLimitsEffect => exact .live (applyLimits_steady _)
  | a2Entry => exact .live enterA2_steady
  | fwLiveSwap => exact .live fun h => serveParked_steady (liveDue_steady _ h)
  | debugTokenExpiry => exact .live fun h => serveParked_steady (tokenExpiry_steady h)
  | moduleResetDelay => exact .live delayedReset_steady
  | eventMessage _ _ => exact .live (receiveMgmt_steady _ _ fun h => .ite (routeEvent_steady _ h) h)
  -- mailbox commands
  | counterClaim _ | identify _ | getStatus _ | sessionInit _ | sessionFinish _ | sessionClose _ | queueSetup _ | slotRingSetup _
  | packageInstall _ | packageRemove _ | cultureStage _ | cultureRemove _ | cultureCommit _ | indexLoad _ | indexCommit _
  | tickConfig _ | bwSplit _ | mgmtConfig _ | powerLimits _ | fwStage _ | fwStatus _ | credentialSet _ | unitDrain _ | unitReturn _
  | planSetReplace _ | moduleReset _ | topologySet _ =>
    exact .live (mailboxCommand_steady _ _)
  | counterRelease _ | queueRestart _ | queueReset _ | queueDisable _ | settingsCommit _ | settingsErase _ | powerStateA0 _
  | powerStateA2 _ | powerStateA3 _ | fwActivateAtReset _ | fwActivateLive _ | attestReport _ | attestCertificate _
  | debugTokenDrop _ | debugTokenApply _ | lifecycleProvision _ | lifecycleDeploy _ | lifecycleRetire _ | lifecycleRevoke _
  | lifecycleAdvanceRollback _ | recalibrateEstimator _ | recalibrateVat _ | recalibratePoints _ | recalibratePort _ =>
    exact .live fun h => .ite (mailboxCommand_steady _ _ h) h
  | counterReleaseForce _ => exact .live fun h => wake_steady (.ite (mailboxCommand_steady _ _ h) h)
  | counterSet _ => exact .live fun h => wake_steady (mailboxCommand_steady _ _ h)
  -- the Nyverlink fabric
  | flit _ _ _ _ => exact .live fun h => noteLinks_steady (takeFlit_steady _ _ _ _ h)
  | linkNak _ _ => exact .live fun h => noteLinks_steady (takeNak_steady _ _ h)
  | replayTimeout _ => exact .live fun h => noteLinks_steady (replayTimedOut_steady _ h)
  | blockLockLoss _ => exact .live fun h => noteLinks_steady (portDown_steady _ _ h)
  | portTrainingComplete _ _ => exact .live fun h => noteLinks_steady (portTrained_steady _ _ h)
  | linkAuthOffer _ _ => exact .live fun h => noteLinks_steady (linkOffered_steady _ _ h)
  | linkAuthReply _ _ => exact .live fun h => noteLinks_steady (linkReplied_steady _ _ h)
  | writeRequest _ _ _ | lightWrite _ _ _ => exact .live (serveWrite_steady _ _ _ _)
  | readRequest _ | lightRead _ => exact .live (serveRead_steady _ _)
  | counterRequest _ _ => exact .live (serveCounter_steady _ _)
  | completion _ _ _ => exact .live (takeCompletion_steady _ _ _)
  | readData _ _ _ _ _ => exact .live (takeReadData_steady _ _ _ _ _)
  | counterResult _ _ _ => exact .live (takeCounterResult_steady _ _ _)
  | poisonMap _ _ _ => exact .live (takePoisonMap_steady _ _ _)
  | reachabilityUpdate _ _ => exact .live (receiveMgmt_steady _ _ (takeReach_steady _))
  | routeRestore => exact .live restoreRoutes_steady
  | noRouteTimeout _ => exact .live (noRouteFor_steady _)
  | recordExpiry _ _ => exact .live (dropRecord_steady _ _)
  | budgetRound _ _ _ => exact .live (budgetRound_steady _ _ _)
  | budgetReport _ _ => exact .live (receiveMgmt_steady _ _ (noteReport_steady _))
  | grantMsg _ _ _ => exact .live (receiveMgmt_steady _ _ (takeGrant_steady _ _))
  | grantAcknowledge _ _ => exact .live (receiveMgmt_steady _ _ (takeAck_steady _))
  | budgetLeadLost => exact .live loseLead_steady
  | grantRestore => exact .live restoreGrant_steady
  -- the CXL port
  | cxlSnoop _ => exact .live (snoop_steady _)
  | configRequest _ _ => exact .live (configRequest_steady _ _)
  | hdmDecoderCommit _ _ _ _ => exact .live (commitDecoder_steady _ _ _ _)
  | cxlLinkTrained _ _ => exact .live (linkTrained_steady _ _)
  | reducedModeEntry => exact .live enterReduced_steady
  | cxlLinkDown _ => exact .live (linkDown_steady _)
  | hostRequestTimeout _ _ _ _ _ => exact .live (requestTimeout_steady _ _ _ _ _)
  | msixUnmask _ => exact .live (unmask_steady _)
  | flr => exact .live fun h => wake_steady (functionReset_steady h)
  | d3hotEntry => exact .live enterD3_steady
  | d0Return => exact .live leaveD3_steady
  | cxlMemRead _ _ => exact execCxlMemRead_steady _ _ s
  | cxlMemWrite _ _ _ => exact execCxlMemWrite_steady _ _ _ s
  | cxlHotReset | cxlReset => exact .next (.ite (.refl s) (linkReset_steady _ (.refl s)))
  -- the power controller
  | powerEstimate _ _ _ _ _ => exact .live (notePower_steady _ _ _ _ _)
  | estimateCompare _ _ => exact .live (compareEstimate_steady _ _)
  | sensorRead _ => exact .live (readSensors_steady _)
  | thermalStep => exact .live thermalStep_steady
  | pwrAlertAssert _ _ => exact .live (assertAlert_steady _ _)
  | pwrAlertDeassert _ => exact .live (deassertAlert_steady _)
  | alertHoldEnd => exact .live endAlertHold_steady
  | droopTrip _ _ => exact .live (tripDroop_steady _ _)
  | droopStretchEnd _ _ => exact .live (endStretch_steady _ _)
  | droopResponseEnd _ => exact .live (endDroop_steady _)
  -- registers, record rings and SMBus
  | smbusWriteWord _ _ => exact .live (smbusOffset_steady _ _)
  | smbusBlockWrite _ _ => exact .live fun h => wake_steady (smbusWrite_steady _ _ h)
  | smbusBlockRead _ => exact .live (smbusRead_steady _)
  | evtTailWrite _ | errTailWrite _ | thrTailWrite _ => exact .live fun h => .upd h
  | errInjectWrite _ => exact .live (injectWrite_steady _)
  | tickCountLoRead => exact .live readTickCount_steady
  | tickBaseLoRead => exact .live readTickBase_steady
  | pwrEnergyLoRead => exact .live readEnergy_steady
  | thrCountLoRead _ _ => exact .live (readThrottle_steady _ _)
  | qeLoRead _ => exact .live (readQueueEnergy_steady _)
  | registerWrite _ _ => exact .live fun h => wake_steady (writeReg_steady _ _ h)
  -- units, scrubbing and ageing
  | unitDrainEffect _ => exact .live (drainUnit_steady _)
  | unitDrained _ => exact .live (unitDrained_steady _)
  | unitTestComplete _ _ _ => exact .live (unitTested_steady _ _ _)
  | unitReturnEffect _ => exact .live (returnUnit_steady _)
  | hbmScrub _ => exact .live (hbmScrub_steady _)
  | sramScrub _ _ _ _ _ => exact .live fun h => wake_steady (sramScrub_steady _ _ _ _ _ h)
  | vatAgeingCheck _ _ => exact .live (checkAgeing_steady _ _)
  | vatAgeingDeadline _ => exact .live (ageingDeadline_steady _)
  -- resets, start-up, debug and the TAP
  | watchdogTimeout => exact .live watchdog_steady
  | dbgCoreHalt _ => exact .live fun h => serveParked_steady (haltCores_steady _ h)
  | dbgCoreStep _ => exact .live (stepCores_steady _)
  | tapScan => exact .live tapScan_steady
  | hbmStackTrained _ _ => exact .live (stackTrained_steady _ _)
  | hbmStackInitialised _ => exact .live (stackInitialised_steady _)
  | firmwareReady _ _ => exact .live (firmwareReady_steady _ _)
  | portGroupStart => exact .live portGroupStart_steady
  | hubCoresRunMehrore => exact .live hubCoresRun_steady
  | tapBypass _ => exact .accepts (tapBypass_steady _)
  | tapIdcode => exact .accepts (emit_steady _)
  | tapSamplePreload _ => exact .accepts (tapSample_steady _)
  | tapExtest => exact .accepts tapExtest_steady
  | tapMemoryAccess _ _ => exact execTapMemoryAccess_steady _ _ s
  | powerOn => exact .next (powerOn_steady (.refl s))
  | pinReset => exact .next (pinReset_steady (.refl s))
  | conventionalReset => exact .next (perstReset_steady (.refl s))
  | startOrigin => exact .next (startOrigin_steady (.refl s))
  | railPowerGoodTimeout _ _ => exact .next (railTimeout_steady _ _ (.refl s))
  | brownOut _ _ _ => exact .next (brownOut_steady _ _ (.refl s))
  | brownOutRecovery => exact .next (brownOutOver_steady (.refl s))
  | alwaysOnRailLoss _ => exact .next (aonLoss_steady _ (.refl s))

end Sys2Proof.Machine

namespace Sys2Proof.Safety

open Sys2Proof.Machine

/-- Settles O4: an idle step changes nothing, and the front command is steady on the state with the queue's rest. -/
theorem stepKeepsMemoryCanonical : Obligations.StepKeepsMemoryCanonical := by
  unfold Obligations.StepKeepsMemoryCanonical
  rintro s t ⟨hbm, host⟩ ran
  unfold step at ran
  split at ran
  next => cases ran; exact ⟨hbm, host⟩
  next c rest _ =>
    have steady := exec_steady c { s with pending := rest } t ran
    exact ⟨steady.hbm hbm, steady.host host⟩

end Sys2Proof.Safety

namespace Sys2Proof.Safety

open Sys2Proof.Machine

/-! ### The scrubber's counts (R312, R316, R317)

An error record and a degraded granule leave alone what the statement reads: `cells` says so of the memory, `tallies` of the poison
marks, the scrubber's place and the counts of the stacks. -/

def tallies (s : State) : List Nat × Nat × Sparse Nat × Sparse Nat :=
  (s.poison, s.memctl.scrubNext, s.memctl.ce, s.memctl.uncorr)

theorem tallies_errRecord (r : ErrRec) (s : State) : tallies (errRecord r s) = tallies s := by
  have kept := errRecord_keeps r s
  have poison : (errRecord r s).poison = s.poison := kept .poison (by decide)
  have memctl : (errRecord r s).memctl = s.memctl := kept .memctl (by decide)
  simp only [tallies, poison, memctl]

theorem tallies_degrade (g : Nat) (s : State) : tallies (degrade g s) = tallies s := by
  simp only [degrade]
  split
  · rfl
  · exact tallies_errRecord _ _

theorem tallies_correctWord (who : Who) (w : Nat) (l : Latent) (s : State) :
    let stack := stackOf s.memctl.active (w * 32)
    tallies (correctWord who w l s) = (s.poison, s.memctl.scrubNext,
      mput s.memctl.ce stack (satAdd (2 ^ 32 - 1) (mgetD s.memctl.ce stack 0) 1), s.memctl.uncorr) := by
  simp only [correctWord, apply_ite tallies, tallies_degrade, tallies_errRecord, ite_self]
  rfl

theorem tallies_poisonWord (who : Who) (w : Nat) (l : Latent) (s : State) :
    let stack := stackOf s.memctl.active (w * 32)
    tallies (poisonWord who w l s) = (sadd s.poison w, s.memctl.scrubNext, s.memctl.ce,
      mput s.memctl.uncorr stack (satAdd 0xFFFF (mgetD s.memctl.uncorr stack 0) 1)) :=
  (tallies_degrade _ _).trans (tallies_errRecord _ _)

theorem mgetD_mput_same {α : Type} (m : Sparse α) (k : Nat) (v d : α) : mgetD (mput m k v) k d = v := by
  rw [mgetD, mget_mput_same]; rfl

theorem correctWord_ce (who : Who) (w : Nat) (l : Latent) (s : State) :
    let stack := stackOf s.memctl.active (w * 32)
    mgetD (correctWord who w l s).memctl.ce stack 0 = satAdd (2 ^ 32 - 1) (mgetD s.memctl.ce stack 0) 1 := by
  have ce : (correctWord who w l s).memctl.ce = _ := congrArg (·.2.2.1) (tallies_correctWord who w l s)
  rw [ce]
  exact mgetD_mput_same _ _ _ _

theorem correctWord_poison (who : Who) (w : Nat) (l : Latent) (s : State) : (correctWord who w l s).poison = s.poison :=
  congrArg (·.1) (tallies_correctWord who w l s)

theorem correctWord_hbm (who : Who) (w : Nat) (l : Latent) (s : State) : (correctWord who w l s).hbm = s.hbm :=
  congrArg (·.1) (cells_correctWord who w l s)

theorem correctWord_latent (who : Who) (w : Nat) (l : Latent) {s : State} (sorted : Sorted s.memctl.latent) :
    mget (correctWord who w l s).memctl.latent w = none := by
  have latent : (correctWord who w l s).memctl.latent = _ := congrArg (·.2.2) (cells_correctWord who w l s)
  rw [latent]
  exact mget_mdel_same _ _ sorted

theorem poisonWord_uncorr (who : Who) (w : Nat) (l : Latent) (s : State) :
    let stack := stackOf s.memctl.active (w * 32)
    mgetD (poisonWord who w l s).memctl.uncorr stack 0 = satAdd 0xFFFF (mgetD s.memctl.uncorr stack 0) 1 := by
  have uncorr : (poisonWord who w l s).memctl.uncorr = _ := congrArg (·.2.2.2) (tallies_poisonWord who w l s)
  rw [uncorr]
  exact mgetD_mput_same _ _ _ _

theorem poisonWord_poison (who : Who) (w : Nat) (l : Latent) (s : State) : (poisonWord who w l s).poison = sadd s.poison w :=
  congrArg (·.1) (tallies_poisonWord who w l s)

theorem poisonWord_hbm (who : Who) (w : Nat) (l : Latent) (s : State) : (poisonWord who w l s).hbm = s.hbm :=
  congrArg (·.1) (cells_poisonWord who w l s)

theorem poisonWord_latent (who : Who) (w : Nat) (l : Latent) {s : State} (sorted : Sorted s.memctl.latent) :
    mget (poisonWord who w l s).memctl.latent w = none := by
  have latent : (poisonWord who w l s).memctl.latent = _ := congrArg (·.2.2) (cells_poisonWord who w l s)
  rw [latent]
  exact mget_mdel_same _ _ sorted

/-! ### What a read of one word finds (R310) -/

theorem touchWord_clean {s : State} {w : Nat} (who : Who) (unpoisoned : s.poison.contains w = false)
    (clean : mget s.memctl.latent w = none) : touchWord who s w = s := by
  simp only [touchWord, unpoisoned, clean, Bool.false_eq_true, if_false]

theorem touchWord_single {s : State} {w : Nat} {l : Latent} (who : Who) (unpoisoned : s.poison.contains w = false)
    (found : mget s.memctl.latent w = some l) (unmarked : l.mark = false) (one : l.symbols = 1) :
    touchWord who s w = correctWord who w l s := by
  simp only [touchWord, unpoisoned, found, unmarked, one, Bool.false_eq_true, if_false, le_refl, if_true]

theorem touchWord_double {s : State} {w : Nat} {l : Latent} (who : Who) (unpoisoned : s.poison.contains w = false)
    (found : mget s.memctl.latent w = some l) (unmarked : l.mark = false) (two : l.symbols = 2) :
    touchWord who s w = poisonWord who w l s := by
  have few : ¬ l.symbols ≤ 1 ∧ ¬ 3 ≤ l.symbols := by omega
  simp only [touchWord, unpoisoned, found, unmarked, few, decide_false, Bool.false_and, Bool.false_eq_true, if_false]

/-! ### One word of a pass (R313, R315) -/

abbrev scrubber : Who := { Who.none with scrub := true }

/-- The scrubber has moved on to the word after `w`. -/
def movedOn (w : Nat) (s : State) : State := modMem (fun m => { m with scrubNext := w + 1 }) s

/-- An upset of so many symbols, as it lies in a word that held no error. -/
def upsetAt (symbols symbol : Nat) : Latent := { symbols := symbols, symbol := symbol, mark := false, injected := false }

/-- An error lies in a word of HBM. -/
def lying (w : Nat) (l : Latent) (s : State) : State := modMem (fun m => { m with latent := mput m.latent w l }) s

theorem upsetHbm_fresh {s : State} {w symbols : Nat} (symbol : Nat) (inside : w < hbmWords) (wrong : symbols ≠ 0)
    (fresh : mget s.memctl.latent w = none) :
    upsetHbm (some { word := w, symbols := symbols, symbol := symbol }) s = lying w (upsetAt symbols symbol) s := by
  simp only [upsetHbm, modMem, joinLatent, fresh, inside, wrong, ne_eq, not_false_eq_true, and_self, if_true]
  rfl

/-- The scrubber runs and comes to a word, not the last of its pass, that is neither poisoned nor holding an error. -/
structure AtCleanWord (s : State) (w : Nat) : Prop where
  awake : Awake s
  runs : scrubs s = true
  next : s.memctl.scrubNext = w
  midPass : w + 1 < hbmWords
  unpoisoned : s.poison.contains w = false
  clean : mget s.memctl.latent w = none
  sorted : Sorted s.memctl.latent

section

variable {s : State} {w : Nat}

theorem hbmScrub_midPass {u : Option Upset} {t : State} (lies : upsetHbm u s = t) (runs : scrubs t = true)
    (next : t.memctl.scrubNext = w) (midPass : w + 1 < hbmWords) : hbmScrub u s = movedOn w (touchWord scrubber t w) := by
  simp only [hbmScrub, lies, runs, next, midPass, Bool.not_true, Bool.false_eq_true, if_false, if_true]
  rfl

/-- The scrub of a word that holds no error (R313). -/
theorem AtCleanWord.scrub_none (h : AtCleanWord s w) : exec (.hbmScrub none) s = .next (movedOn w s) := by
  have scrubbed : hbmScrub none s = movedOn w (touchWord scrubber s w) := hbmScrub_midPass rfl h.runs h.next h.midPass
  rw [touchWord_clean _ h.unpoisoned h.clean] at scrubbed
  exact congrArg _ ((live_awake h.awake _).trans scrubbed)

theorem AtCleanWord.scrub_upset (h : AtCleanWord s w) {symbols symbol : Nat} (wrong : symbols ≠ 0) {t : State}
    (read : touchWord scrubber (lying w (upsetAt symbols symbol) s) w = t) :
    exec (.hbmScrub (some { word := w, symbols := symbols, symbol := symbol })) s = .next (movedOn w t) := by
  have fresh := upsetHbm_fresh symbol (Nat.lt_of_succ_lt h.midPass) wrong h.clean
  have scrubbed := hbmScrub_midPass fresh h.runs h.next h.midPass
  rw [read] at scrubbed
  exact congrArg _ ((live_awake h.awake _).trans scrubbed)

theorem mget_lying (w : Nat) (l : Latent) (s : State) : mget (lying w l s).memctl.latent w = some l := mget_mput_same _ _ _

theorem AtCleanWord.lying_sorted (h : AtCleanWord s w) (l : Latent) : Sorted (lying w l s).memctl.latent :=
  rising_mput _ _ _ h.sorted

/-- The scrub of a word with one wrong symbol corrects it (R312). -/
theorem AtCleanWord.scrub_single (h : AtCleanWord s w) (symbol : Nat) :
    exec (.hbmScrub (some { word := w, symbols := 1, symbol := symbol })) s =
      .next (movedOn w (correctWord scrubber w (upsetAt 1 symbol) (lying w (upsetAt 1 symbol) s))) :=
  h.scrub_upset one_ne_zero (touchWord_single _ h.unpoisoned (mget_lying _ _ _) rfl rfl)

/-- The scrub of a word with two wrong symbols poisons it (R317). -/
theorem AtCleanWord.scrub_double (h : AtCleanWord s w) (symbol : Nat) :
    exec (.hbmScrub (some { word := w, symbols := 2, symbol := symbol })) s =
      .next (movedOn w (poisonWord scrubber w (upsetAt 2 symbol) (lying w (upsetAt 2 symbol) s))) :=
  h.scrub_upset two_ne_zero (touchWord_double _ h.unpoisoned (mget_lying _ _ _) rfl rfl)

end

/-! ### Words of the other arrays (R313, R315) -/

/-- A word that is not the first of its array, in which no error lies, is armed or arrives. -/
theorem sramScrub_clean {s : State} {source unit offset : Nat} (power : s.power.state ≤ 1) (array : 1 ≤ source ∧ source ≤ 7)
    (vats : source = 1 → s.start.vatsOn = true) (notFirst : 32 ≤ offset) (lain : s.memctl.sramLatent = [])
    (unarmed : armedFor s source unit (offset / 32 * 32) = none) : sramScrub source unit offset 0 0 s = s := by
  have runs : (decide (s.power.state > 1) || source == 0 || decide (7 < source) || (source == 1 && !s.start.vatsOn)) = false := by
    obtain ⟨first, last⟩ := array
    have on : source ≠ 1 ∨ s.start.vatsOn = true := (em (source = 1)).symm.imp_right vats
    simpa [Nat.not_lt.2 power, Nat.not_lt.2 last, Nat.ne_of_gt first, imp_iff_not_or] using on
  have inner : offset / 32 * 32 ≠ 0 := by omega
  have same (p) : modMem (fun m => { m with sramLatent := m.sramLatent.filter p }) s = s := by
    rw [modMem, lain, List.filter_nil, ← lain]
  simp [sramScrub, runs, inner, lain, unarmed, same]

/-- Settles O47: each scrub by its own equation, and what a corrected and a poisoned word show. -/
theorem scrubsComplete : Obligations.ScrubsComplete := by
  unfold Obligations.ScrubsComplete
  refine ⟨fun s awake runs midPass unpoisoned clean sorted => ?hbm, ?sram⟩
  case hbm =>
    have h : AtCleanWord s s.memctl.scrubNext := ⟨awake, runs, rfl, midPass, unpoisoned, clean, sorted⟩
    exact ⟨h.scrub_none,
      fun symbol => ⟨_, h.scrub_single symbol, rfl, correctWord_ce _ _ _ _, correctWord_latent _ _ _ (h.lying_sorted _),
        correctWord_poison _ _ _ _, correctWord_hbm _ _ _ _⟩,
      fun symbol => ⟨_, h.scrub_double symbol, rfl, poisonWord_uncorr _ _ _ _, poisonWord_latent _ _ _ (h.lying_sorted _),
        poisonWord_poison _ _ _ _, poisonWord_hbm _ _ _ _⟩⟩
  case sram =>
    intro source unit offset s awake power first last vats notFirst lain unarmed
    have kept := sramScrub_clean power ⟨first, last⟩ vats notFirst lain unarmed
    have acts := live_awake awake fun u => wake (sramScrub source unit offset 0 0 u)
    exact congrArg _ (acts.trans (congrArg wake kept))

end Sys2Proof.Safety

namespace Sys2Proof.Safety

open Sys2Proof.Machine

/-! ### Queue and slot ring commands (R328, R346, R405) -/

/-- A command that is no settings command and whose handler is done, on the awake module that it arrives at. -/
theorem plain_done {op : Nat} {call : MbCall} {s t u : State} {c : Cmd} (h : Arrives op call s c t) (named : op ≠ 5)
    (plain : ((catalogue op).map (·.settings)).getD false = false) {st : Status} {pl : List Byte} (run : handle c t = .done st pl u)
    (fuses : u.fuses = t.fuses) : live (mailboxCommand op call) s = finishCmd c st 0 pl u :=
  (arrives_live h _).trans (command_done h (fun five => absurd five named) plain run fuses)

/-- A byte of the payload as the command has it is the call's. -/
theorem arrives_u8 {op : Nat} {call : MbCall} {s t : State} {c : Cmd} {row : CatRow} (h : Arrives op call s c t)
    (cat : catalogue op = some row) (i : Nat) (inside : i < row.payload) : u8 c.payload i = u8 call.payload i := by
  obtain ⟨-, -, -, n, payload⟩ := entryChecks_pass _ _ _ _ _ h.checks
  have length : c.payload.length = row.payload := arrives_length h cat
  have taken : 1 ≤ n - i := by
    rw [payload, List.length_take] at length
    omega
  simp only [u8, payload, List.drop_take, List.take_take, Nat.min_eq_left taken]

theorem stopIfReduced_full (q : Nat) (s : State) (full : s.cxl.reduced = false) : stopIfReduced q s = s := by
  simp [stopIfReduced, full]

theorem hQueueSetup_disabled (c : Cmd) (s : State) (disabled : (getQ s (u16 c.payload 0)).mode = .disabled) (full : s.cxl.reduced = false) :
    hQueueSetup c s = .done .ok [] (setQ (u16 c.payload 0) { getQ s (u16 c.payload 0) with
      mode := .running, cls := u8 c.payload 2, prio := u8 c.payload 3, entries := u32 c.payload 4, ring := u64 c.payload 8,
      comp := u64 c.payload 16, msix := u16 c.payload 24, ladleSet := u8 c.payload 26,
      tail := 0, head := 0, done := 0, snap := 0, fetched := [], ops := [], reset := none, blk := none, energy := 0 } s) := by
  rw [hQueueSetup, if_neg (not_not_intro disabled), stopIfReduced_full _ (modQ _ _ s) full]
  rfl

theorem hQueueControl_restart (c : Cmd) (s : State) (action : u8 c.payload 2 = 0) (stopped : (getQ s (u16 c.payload 0)).mode = .stopped)
    (full : s.cxl.reduced = false) :
    hQueueControl c s = .done .ok [] (setQ (u16 c.payload 0) { getQ s (u16 c.payload 0) with mode := .running } s) := by
  rw [hQueueControl, if_neg (by simp [stopped]), if_pos action, if_pos stopped, stopIfReduced_full _ (modQ _ _ s) full]
  rfl

/-- Reset and Disable make an owner reset due, which disables where this or an earlier request says so. -/
theorem hQueueControl_resets (c : Cmd) (s : State) (action : u8 c.payload 2 ≠ 0) (enabled : (getQ s (u16 c.payload 0)).mode ≠ .disabled) :
    hQueueControl c s = .later (setQ (u16 c.payload 0)
      { getQ s (u16 c.payload 0) with
        reset := some (.ownerReset, u8 c.payload 2 == 2 || (getQ s (u16 c.payload 0)).reset.any fun r => r.2) }
      { s with fmw := { s.fmw with resets := s.fmw.resets ++ [(u16 c.payload 0, c)] } }) := by
  rw [hQueueControl, if_neg enabled, if_neg action]
  rfl

theorem hSlotSetup_closed (c : Cmd) (s : State) (closed : (mget s.rings (u16 c.payload 0)).all (fun r => r.openFor.isNone) = true) :
    hSlotSetup c s = .done .ok [] { s with
      rings := mput s.rings (u16 c.payload 0)
        { slots := u8 c.payload 2, slotBytes := u32 c.payload 4, base := u64 c.payload 8, readyCtr := u16 c.payload 16,
          freeCtr := u16 c.payload 18, tail := 0, head := 0, openFor := none } } := by
  have noSlot : ¬ ((mget s.rings (u16 c.payload 0)).any fun r => r.openFor.isSome) = true := by
    cases ring : mget s.rings (u16 c.payload 0) with
    | none => simp
    | some r => simpa [ring] using closed
  exact if_neg noSlot

/-- QUEUE_CONTROL with the action of one of its rows. -/
theorem exec_queueRestart (call : MbCall) (s : State) (action : u8 call.payload 2 = 0) :
    exec (.queueRestart call) s = .next (live (mailboxCommand 0x0102 call) s) := by
  change Host.Outcome.next (live _ s) = _
  simp [action]

theorem exec_queueReset (call : MbCall) (s : State) (action : u8 call.payload 2 = 1) :
    exec (.queueReset call) s = .next (live (mailboxCommand 0x0102 call) s) := by
  change Host.Outcome.next (live _ s) = _
  simp [action]

theorem exec_queueDisable (call : MbCall) (s : State) (action : u8 call.payload 2 = 2) :
    exec (.queueDisable call) s = .next (live (mailboxCommand 0x0102 call) s) := by
  change Host.Outcome.next (live _ s) = _
  simp [action]

/-- QUEUE_CONTROL Reset or Disable of a queue that is set up keeps its mailbox BUSY until the queue is reset. -/
theorem queueControl_resets {call : MbCall} {s t : State} {c : Cmd} (h : Arrives 0x0102 call s c t) (action : u8 call.payload 2 ≠ 0)
    (enabled : (getQ t (u16 c.payload 0)).mode ≠ .disabled) :
    live (mailboxCommand 0x0102 call) s = setQ (u16 c.payload 0)
      { getQ t (u16 c.payload 0) with
        reset := some (.ownerReset, u8 call.payload 2 == 2 || (getQ t (u16 c.payload 0)).reset.any fun r => r.2) }
      { t with fmw := { t.fmw with resets := t.fmw.resets ++ [(u16 c.payload 0, c)] } } := by
  have flag := arrives_u8 h rfl 2 (by decide)
  have run : handle c t = hQueueControl c t := by simp only [handle, arrives_opcode h]
  rw [hQueueControl_resets c t (flag ▸ action) enabled, flag] at run
  exact (arrives_live h _).trans (command_later h (fun five => absurd five (by decide)) rfl run rfl)

/-- Settles O15: what each handler does in its case; Reset and Disable answer later. -/
theorem queueCommandsComplete : Obligations.QueueCommandsComplete := by
  unfold Obligations.QueueCommandsComplete
  refine ⟨?setup, ?restart, ?reset, ?disable, ?slots⟩
  case setup =>
    intro call s c t h disabled full
    have run : handle c t = hQueueSetup c t := by simp only [handle, arrives_opcode h]
    exact congrArg _ (plain_done h (by decide) rfl (run.trans (hQueueSetup_disabled c t disabled full)) rfl)
  case restart =>
    intro call s c t h action stopped full
    have flag := (arrives_u8 h rfl 2 (by decide)).trans action
    have run : handle c t = hQueueControl c t := by simp only [handle, arrives_opcode h]
    exact (exec_queueRestart call s action).trans
      (congrArg _ (plain_done h (by decide) rfl (run.trans (hQueueControl_restart c t flag stopped full)) rfl))
  case reset =>
    intro call s c t h action enabled
    rw [exec_queueReset call s action, queueControl_resets h (by omega) enabled, action]
    rfl
  case disable =>
    intro call s c t h action enabled
    rw [exec_queueDisable call s action, queueControl_resets h (by omega) enabled, action]
    rfl
  case slots =>
    intro call s c t h closed
    have run : handle c t = hSlotSetup c t := by simp only [handle, arrives_opcode h]
    exact congrArg _ (plain_done h (by decide) rfl (run.trans (hSlotSetup_closed c t closed)) rfl)

end Sys2Proof.Safety

namespace Sys2Proof.Safety

open Sys2Proof.Machine

/-! ### Queues stay set up

A queue that is set up has a ring with entries. Only a reset of the module and QUEUE_SETUP write `entries`, so what stops a queue's
operations leaves the queue listed, whatever the order of the list. -/

def SetUp (q : Nat) (s : State) : Prop := (getQ s q).entries ≠ 0

theorem Queue.ne_off_of_entries {v : Queue} (h : v.entries ≠ 0) : v ≠ Queue.off := fun e => h (by rw [e]; rfl)

theorem Keeps.setUp {ps : List Part} {s t : State} (k : Keeps ps s t) {q : Nat} (h : SetUp q s) (hp : Part.queues ∉ ps := by decide) :
    SetUp q t := by
  rwa [SetUp, k.getQ q hp]

namespace SetUp

variable {q : Nat} {s : State}

theorem foldl {α : Type} (f : State → α → State) (hf : ∀ s a, SetUp q s → SetUp q (f s a)) (l : List α) (h : SetUp q s) :
    SetUp q (l.foldl f s) := by
  induction l generalizing s with
  | nil => exact h
  | cons a r ih => exact ih (hf s a h)

theorem modQ (h : SetUp q s) (r : Nat) (f : Queue → Queue) (hf : ∀ v, (f v).entries = v.entries) : SetUp q (modQ r f s) := by
  by_cases same : q = r
  · subst same
    have sized : (f (getQ s q)).entries ≠ 0 := (hf _).trans_ne h
    rwa [SetUp, getQ_modQ_same q f s (.inl (Queue.ne_off_of_entries sized))]
  · rwa [SetUp, getQ_modQ_other r q f s same]

theorem modOp (h : SetUp q s) (r : Nat) (i : U32) (f : Op → Op) : SetUp q (modOp r i f s) := h.modQ r _ fun _ => rfl

theorem finishOp (h : SetUp q s) (r : Nat) (i : U32) (st : Status) (d : Nat) : SetUp q (finishOp r i st d s) := h.modOp r i _

theorem stopQueue (h : SetUp q s) (r : Nat) (st : Status) : SetUp q (stopQueue r st s) := by
  simp only [Machine.stopQueue]
  split
  · exact (raise_keeps _ _ _ _).setUp (h.modQ r _ fun _ => rfl)
  · exact h

theorem retireCulture (h : SetUp q s) : SetUp q (retireCulture s) := (retireCulture_keeps s).setUp h

theorem retireIndex (h : SetUp q s) : SetUp q (retireIndex s) := (retireIndex_keeps s).setUp h

theorem releaseWaiter (h : SetUp q s) (st : Status) (w : Waiter) : SetUp q (releaseWaiter st s w) := by
  cases w with
  | header r i =>
    simp only [Machine.releaseWaiter]
    split
    · exact h.modOp r i _
    · exact ((freePress_keeps r i _).setUp (h.finishOp r i st 0)).stopQueue r st
  | signal r i =>
    simp only [Machine.releaseWaiter]
    split
    · exact h.finishOp r i _ _
    · exact (h.finishOp r i st 0).stopQueue r st
  | unit u =>
    simp only [Machine.releaseWaiter]
    split
    · exact h
    · exact h
  | remote m t => exact (emit_keeps _ _).setUp h

theorem settle (h : SetUp q s) (c : Nat) : SetUp q (settle c s) :=
  foldl _ (fun _ (w : Wait) h => h.releaseWaiter .ok w.who) _ ((setC_keeps _ _ _).setUp h)

theorem withdraw (h : SetUp q s) (p : Waiter → Bool) : SetUp q (withdraw p s) := by
  refine foldl _ (fun s e h => ?_) _ h
  dsimp only
  split
  · exact ((setC_keeps _ _ _).setUp h).settle e.1
  · exact h

theorem poisonCounter (h : SetUp q s) (st : Status) (c : Nat) : SetUp q (poisonCounter st s c) := by
  simp only [Machine.poisonCounter]
  refine foldl _ (fun _ (w : Wait) h => h.releaseWaiter st w.who) _ ?_
  have written := (setC_keeps c { getC s c with mode := .poisoned, poison := st, waits := [], inJob := false } s).setUp h
  split
  · exact written
  · exact written

theorem poisonCounters (h : SetUp q s) (cause : Nat) (st : Status) (cs : List Nat) : SetUp q (poisonCounters cause st cs s) :=
  foldl _ (fun _ _ h => (raise_keeps _ _ _ _).setUp h) _ (foldl _ (fun _ c h => h.poisonCounter st c) _ h)

theorem signalCounter (h : SetUp q s) (c : Nat) (n : U32) : SetUp q (signalCounter c n s).1 := by
  simp only [Machine.signalCounter]
  split
  · exact h
  · split_ifs
    · exact h
    · exact h
    · exact ((modC_keeps _ _ _).setUp h).settle c

theorem ringSignal (h : SetUp q s) (c : Nat) : SetUp q (ringSignal c s) := by
  simp only [Machine.ringSignal]
  split
  · exact h
  · split
    · exact h.signalCounter c 1
    · exact (modC_keeps _ _ _).setUp h
    · exact (modC_keeps _ _ _).setUp h

theorem publishSlot (h : SetUp q s) (r : Nat) : SetUp q (publishSlot r s) := by
  simp only [Machine.publishSlot]
  split
  · exact h
  · rename_i v _
    have moved : SetUp q { s with rings := mput s.rings r { v with tail := v.tail + 1, openFor := none } } := h
    exact moved.ringSignal _

theorem ite {c : Prop} [Decidable c] {t u : State} (ht : SetUp q t) (hu : SetUp q u) : SetUp q (if c then t else u) := by
  split
  · exact ht
  · exact hu

/-- The record of an operation of any queue: its bytes, then its signal, its slot and its interrupt. -/
theorem writeRecord (h : SetUp q s) (r : Nat) (o : Op) : SetUp q (writeRecord r o s) := by
  unfold Machine.writeRecord
  extract_lets v compAddr
  split
  · have failed : SetUp q (hostFailed s) := by
      unfold hostFailed
      exact ite h h
    exact ite h (failed.stopQueue r _)
  · split
    extract_lets poked recorded signalled published raised
    have recorded_setUp : SetUp q recorded := ((pokeClean_keeps _ _ s).setUp h).modQ r _ fun _ => rfl
    have signalled_setUp : SetUp q signalled := ite recorded_setUp (recorded_setUp.signalCounter _ _)
    have published_setUp : SetUp q published := by
      dsimp only [published]
      split
      · exact ite (signalled_setUp.publishSlot _) signalled_setUp
      · exact signalled_setUp
    have raised_setUp : SetUp q raised := ite ((raiseMsix_keeps _ _).setUp published_setUp) published_setUp
    exact ite (raised_setUp.stopQueue r _) raised_setUp

theorem dropRequest (h : SetUp q s) (r : Nat) (i : U32) : SetUp q (dropRequest r i s) := by
  simp only [Machine.dropRequest]
  split
  · exact foldl _ (fun _ _ h => (modC_keeps _ _ _).setUp h) _ h
  · exact h

theorem completeOperation (h : SetUp q s) (r : Nat) : SetUp q (completeOperation r s) := by
  simp only [Machine.completeOperation]
  split
  · exact h
  · exact ite ((h.dropRequest r _).writeRecord r _).retireCulture.retireIndex h

theorem flushRecords (h : SetUp q s) (r n : Nat) : SetUp q (flushRecords r n s) := by
  induction n generalizing s with
  | zero => exact h
  | succ n ih => exact ih (h.completeOperation r)

/-- Spans that each follow from the state so far become undefined. -/
theorem scrambles {α : Type} (h : SetUp q s) (at_ : State → α → LAddr) (len : State → α → Nat) (l : List α) :
    SetUp q (l.foldl (fun s x => scramble (at_ s x) (len s x) s) s) :=
  foldl _ (fun _ _ h => (scramble_keeps _ _ _).setUp h) l h

theorem someSticky (h : SetUp q s) (bits_ : U32) : SetUp q (someSticky bits_ s) := h

theorem stopOps (h : SetUp q s) (r : Nat) (st : Status) : SetUp q (stopOps r st s) := by
  refine foldl _ (fun s o h => ite h ?_) _ h
  refine (freePress_keeps r o.index _).setUp (SetUp.finishOp (ite (someSticky ?_ _) h) r o.index st 0)
  exact h.scrambles (fun _ x => x.1) (fun _ x => x.2) (opOutputs s r o)

theorem closeContexts (h : SetUp q s) (r : Nat) : SetUp q (closeContexts r s) := by
  have undefined (l : List (List Byte)) := h.scrambles (fun s d => (scratchOf s d).1) (fun s d => (scratchOf s d).2) l
  exact retireCulture (undefined _)

theorem closeSlots (h : SetUp q s) (r : Nat) : SetUp q (closeSlots r s) := h

end SetUp

/-! ### The owner reset of a queue (R339, R378, R405) -/

/-- A queue as an owner reset leaves it: its operations gone, its indices met, disabled or running. -/
def Queue.cleared (after : After) (v : Queue) : Queue :=
  { v with tail := v.done, head := v.done, snap := v.done, fetched := [], ops := [], blk := none, reset := none,
           mode := if after = .disabled then .disabled else .running }

/-- The state in which a queue's operations have stopped and their records are written. -/
def drained (q : Nat) (st : Status) (s : State) : State :=
  flushRecords q (getQ s q).ops.length (closeSlots q (closeContexts q (stopOps q st (withdraw (waiterOf q) s))))

/-- The drained state with the queue's counters poisoned. -/
def disowned (q : Nat) (st : Status) (s : State) : State :=
  poisonCounters 0 .ownerReset (countersOf (drained q st s) q) (drained q st s)

theorem setUp_disowned {q : Nat} {s : State} (st : Status) (h : SetUp q s) : SetUp q (disowned q st s) :=
  (((((h.withdraw _).stopOps q st).closeContexts q).closeSlots q).flushRecords q _).poisonCounters 0 .ownerReset _

theorem seat_disowned (q : Nat) (st : Status) (s : State) : seat (disowned q st s) = seat s := by simp [disowned, drained]

theorem idle_of_seat {s t : State} (h : seat t = seat s) (idle : s.plan.job = none) : t.plan.job = none := by
  rw [← Option.isNone_iff_eq_none, ← Option.not_isSome, isSome_of_seat h, idle]
  rfl

/-- Without a plan job, an owner reset clears the queue of the disowned state. -/
theorem resetQueue_idle (q : Nat) (st : Status) (after : After) (s : State) (idle : s.plan.job = none) (owner : after ≠ .stopped) :
    resetQueue q st after s = retireIndex (retireCulture (modQ q (Queue.cleared after) (disowned q st s))) := by
  have idle' := idle_of_seat (seat_withdraw (waiterOf q) s) idle
  simp only [resetQueue, resetQueueBy, idle', if_neg owner]
  rfl

theorem getQ_resetQueue (q : Nat) (st : Status) (after : After) (s : State) (idle : s.plan.job = none) (owner : after ≠ .stopped)
    (setUp : SetUp q s) : getQ (resetQueue q st after s) q = Queue.cleared after (getQ (disowned q st s) q) := by
  have sized : (Queue.cleared after (getQ (disowned q st s) q)).entries ≠ 0 := setUp_disowned st setUp
  rw [resetQueue_idle q st after s idle owner, (retireIndex_keeps _).getQ q, (retireCulture_keeps _).getQ q,
    getQ_modQ_same q _ _ (.inl (Queue.ne_off_of_entries sized))]

theorem seat_resetQueue_idle (q : Nat) (st : Status) (after : After) (s : State) (idle : s.plan.job = none) (owner : after ≠ .stopped) :
    seat (resetQueue q st after s) = seat s := by
  rw [resetQueue_idle q st after s idle owner, seat_retireIndex, seat_retireCulture, seat_modQ, seat_disowned]

/-- What follows the reset of a queue answers the commands that asked for it. -/
theorem ownerReset_keeps_reset (q : Nat) (s : State) (st : Status) (disable : Bool) (due : (getQ s q).reset = some (st, disable)) :
    Keeps effectParts (resetQueue q st (if disable then .disabled else .running) s) (ownerReset q s) := by
  simp only [ownerReset, due]
  generalize resetQueue q st _ s = t
  split
  · exact Keeps.refl _ t
  · refine Keeps.trans (fun p hp => ?_) (Keeps.foldl _ (fun s (r : Nat × Cmd) => finishCmd_keeps r.2 .ok 0 [] s) _ _)
    cases p <;> simp_all [Same]

theorem wake_idle (s : State) (idle : s.plan.job = none) : wake s = s := wake_done s (by simp only [unitsDone, idle])

/-- Settles O36: the queue is the cleared one, which the answers of the commands that asked for the reset leave as it is. -/
theorem ownerResetComplete : Obligations.OwnerResetComplete := by
  unfold Obligations.OwnerResetComplete
  intro q s st disable awake idle setUp due
  have owner : (if disable then After.disabled else .running) ≠ .stopped := by cases disable <;> decide
  have answers := ownerReset_keeps_reset q s st disable due
  have noJob := idle_of_seat (answers.seat.trans (seat_resetQueue_idle q st _ s idle owner)) idle
  have queue := (answers.getQ q).trans (getQ_resetQueue q st _ s idle owner setUp)
  refine ⟨ownerReset q s, congrArg Host.Outcome.next ((live_awake awake _).trans (wake_idle _ noJob)), ?_⟩
  rw [queue]
  refine ⟨rfl, rfl, rfl, rfl, rfl, ?_⟩
  cases disable <;> rfl

end Sys2Proof.Safety

namespace Sys2Proof.Safety

open Sys2Proof.Machine

/-! ### Counter operations (R356-R363) -/

theorem signalCounter_refused {c : Nat} {s : State} {st : Status} (refused : ctrRefusal s c = some st) (n : U32) :
    signalCounter c n s = (s, st) := by
  simp only [signalCounter, refused]

theorem signalCounter_overflows {c : Nat} {n : U32} {s : State} (claimed : ctrRefusal s c = none) (positive : n ≠ 0)
    (overflows : 2 ^ 32 ≤ (getC s c).value.toNat + n.toNat) : signalCounter c n s = (s, .counterOverflow) := by
  have beyond : ctrMax < (getC s c).value.toNat + n.toNat := by rw [ctrMax]; omega
  simp only [signalCounter, claimed, if_neg positive, if_pos beyond]

theorem signalCounter_adds {c : Nat} {n : U32} {s : State} (claimed : ctrRefusal s c = none) (positive : n ≠ 0)
    (fits : (getC s c).value.toNat + n.toNat < 2 ^ 32) :
    signalCounter c n s = (settle c (setC c { getC s c with value := (getC s c).value + n } s), .ok) := by
  have within : ¬ ctrMax < (getC s c).value.toNat + n.toNat := by rw [ctrMax]; omega
  simp only [signalCounter, claimed, if_neg positive, if_neg within]
  rfl

theorem subCounter_refused {c : Nat} {s : State} {st : Status} (refused : ctrRefusal s c = some st) (n : U32) :
    subCounter c n s = (s, st) := by
  simp only [subCounter, refused]

theorem subCounter_claimed {c : Nat} {n : U32} {s : State} (claimed : ctrRefusal s c = none) (positive : n ≠ 0) :
    subCounter c n s = if (getC s c).value < n then (s, .counterUnderflow)
      else (setC c { getC s c with value := (getC s c).value - n } s, .ok) := by
  simp only [subCounter, claimed, if_neg positive]
  rfl

theorem arriveWait_refused {c : Nat} {s : State} {st : Status} (refused : ctrRefusal s c = some st) (w : Wait) :
    arriveWait c w s = (s, some st) := by
  simp only [arriveWait, refused]

/-- A wait that its counter meets is served at once: a WAIT_GE always, an ACQUIRE where none waits before it (R363). -/
theorem arriveWait_claimed {c : Nat} {w : Wait} {s : State} (claimed : ctrRefusal s c = none) (positive : w.amount ≠ 0) :
    arriveWait c w s =
      if w.amount ≤ (getC s c).value ∧ (w.acquire = true → ∀ x ∈ (getC s c).waits, x.acquire = false) then
        (if w.acquire then setC c { getC s c with value := (getC s c).value - w.amount } s else s, some .ok)
      else (setC c { getC s c with waits := (getC s c).waits ++ [w] } s, none) := by
  simp only [arriveWait, claimed, if_neg positive]
  cases kind : w.acquire with
  | true => simp
  | false => simp

/-! #### Amount 0 (R360) -/

/-- An operation of amount 0 asks only whether the counter is claimed. -/
theorem signalCounter_zero (c : Nat) (s : State) : signalCounter c 0 s = (s, (ctrRefusal s c).getD .ok) := by
  cases refusal : ctrRefusal s c with
  | some st => exact signalCounter_refused refusal 0
  | none => simp only [signalCounter, refusal, if_true, Option.getD_none]

theorem subCounter_zero (c : Nat) (s : State) : subCounter c 0 s = (s, (ctrRefusal s c).getD .ok) := by
  cases refusal : ctrRefusal s c with
  | some st => exact subCounter_refused refusal 0
  | none => simp only [subCounter, refusal, if_true, Option.getD_none]

theorem arriveWait_zero (c : Nat) {w : Wait} (s : State) (zero : w.amount = 0) :
    arriveWait c w s = (s, some ((ctrRefusal s c).getD .ok)) := by
  cases refusal : ctrRefusal s c with
  | some st => exact arriveWait_refused refusal w
  | none => simp only [arriveWait, refusal, zero, if_true, Option.getD_none]

/-! #### Settling without an ACQUIRE that waits (R362) -/

theorem serveWaits_noAcquire (ws : List Wait) (v : U32) (ge : ∀ w ∈ ws, w.acquire = false) : serveWaits ws v = ([], ws, v) := by
  induction ws with
  | nil => rfl
  | cons w r ih =>
    obtain ⟨first, rest⟩ := List.forall_mem_cons.1 ge
    simp only [serveWaits, first, ih rest, Bool.false_eq_true, if_false]

/-- A wait that is released writes no counter. -/
theorem releaseWaiter_ok_ctrs (s : State) (w : Waiter) : (releaseWaiter .ok s w).ctrs = s.ctrs := by
  cases w with
  | header q i => rfl
  | signal q i => rfl
  | unit u =>
    simp only [releaseWaiter]
    split <;> rfl
  | remote m t => rfl

theorem releaseAll_ctrs (ws : List Wait) (s : State) : (ws.foldl (fun s w => releaseWaiter .ok s w.who) s).ctrs = s.ctrs := by
  induction ws generalizing s with
  | nil => rfl
  | cons w r ih => exact (ih _).trans (releaseWaiter_ok_ctrs s w.who)

/-- The counter as settling leaves it. -/
def settled (k : Ctr) : Ctr :=
  let r := serveWaits (k.waits.filter fun w => w.acquire || !decide (w.amount ≤ k.value)) k.value
  { k with value := r.2.2, waits := r.2.1 }

theorem settle_ctrs (c : Nat) (s : State) : (settle c s).ctrs = (setC c (settled (getC s c)) s).ctrs := releaseAll_ctrs _ _

theorem getC_settle_other {c d : Nat} (s : State) (other : d ≠ c) : getC (settle c s) d = getC s d := by
  rw [← getC_setC_other c d (settled (getC s c)) s other]
  simp only [getC, settle_ctrs]

theorem getC_settle_same {c : Nat} {s : State} (claimed : (getC s c).mode = .claimed) : getC (settle c s) c = settled (getC s c) := by
  have listed : settled (getC s c) ≠ Ctr.free := Ctr.ne_free_of_mode (by simp [settled, claimed])
  rw [← getC_setC_same c (settled (getC s c)) s (.inl listed)]
  simp only [getC, settle_ctrs]

theorem settled_noAcquire {k : Ctr} (ge : ∀ w ∈ k.waits, w.acquire = false) :
    settled k = { k with waits := k.waits.filter fun w => decide (k.value < w.amount) } := by
  have others : k.waits.filter (fun w => w.acquire || !decide (w.amount ≤ k.value)) =
      k.waits.filter fun w => decide (k.value < w.amount) :=
    List.filter_congr fun w mem => by
      rw [ge w mem, Bool.false_or, ← decide_not]
      exact decide_eq_decide.2 BitVec.not_le
  have none_ : ∀ w ∈ k.waits.filter (fun w => decide (k.value < w.amount)), w.acquire = false :=
    fun w mem => ge w (List.mem_filter.1 mem).1
  simp only [settled, others, serveWaits_noAcquire _ _ none_]

/-- Without waiters, settling is a write of the counter. -/
theorem settle_noWaits {c : Nat} {s : State} (alone : (getC s c).waits = []) : settle c s = setC c (getC s c) s := by
  have same : { getC s c with waits := [] } = getC s c := by rw [← alone]
  simp only [settle, alone, List.filter_nil, serveWaits, List.append_nil, List.foldl_nil, same]

/-! #### A SIGNAL that fits (R358, R362) -/

/-- What a SIGNAL that fits leaves: the other counters, and the counter with its new value and the waiters that it does not reach. -/
structure Signalled (c : Nat) (n : U32) (s t : State) : Prop where
  others : ∀ d, d ≠ c → getC t d = getC s d
  own : (∀ w ∈ (getC s c).waits, w.acquire = false) → getC t c = { getC s c with
    value := (getC s c).value + n, waits := (getC s c).waits.filter fun w => decide ((getC s c).value + n < w.amount) }
  frame : Keeps signalParts s t
  listed : ∀ q i, Listed q i s → Listed q i t

theorem Listed.settle {q : Nat} {i : U32} {s : State} (l : Listed q i s) (c : Nat) : Listed q i (settle c s) :=
  Listed.foldl _ (fun _ w l => l.releaseWaiter w.who) _ _ ((setC_keeps _ _ _).listed l)

theorem signalled_settle {c : Nat} (n : U32) {s : State} (claimed : (getC s c).mode = .claimed) :
    Signalled c n s (settle c (setC c { getC s c with value := (getC s c).value + n } s)) := by
  have added : getC (setC c { getC s c with value := (getC s c).value + n } s) c = { getC s c with value := (getC s c).value + n } :=
    getC_setC_same c _ s (.inl (Ctr.ne_free_of_mode (by simp [claimed])))
  refine ⟨fun d other => ?_, fun ge => ?_, ?_, fun q i l => ?_⟩
  · rw [getC_settle_other _ other, getC_setC_other _ _ _ _ other]
  · rw [getC_settle_same (by rw [added]; exact claimed), added]
    exact settled_noAcquire ge
  · exact ((setC_keeps c _ s).mono (by simp)).trans (settle_signal_keeps c _)
  · exact ((setC_keeps c _ s).listed l).settle c

/-- A SIGNAL that fits, on a claimed counter. -/
theorem signalCounter_fits {c : Nat} {n : U32} {s : State} (named : c ≠ 0xFFFF) (claimed : (getC s c).mode = .claimed) (positive : n ≠ 0)
    (fits : (getC s c).value.toNat + n.toNat < 2 ^ 32) : ∃ t, signalCounter c n s = (t, .ok) ∧ Signalled c n s t :=
  ⟨_, signalCounter_adds (ctrRefusal_claimed s c named claimed) positive fits, signalled_settle n claimed⟩

/-! ### The rows of the host signal class (R358-R363, R368) -/

theorem exec_signalCtr {s : State} (awake : Awake s) (q : Nat) (idx : U32) :
    exec (.signalCtr q idx) s = .next (wake (execSignalOp q idx s)) := congrArg _ (live_awake awake _)

theorem exec_subCtr {s : State} (awake : Awake s) (q : Nat) (idx : U32) :
    exec (.subCtr q idx) s = .next (execSubOp q idx s) := congrArg _ (live_awake awake _)

theorem exec_waitGe {s : State} (awake : Awake s) (q : Nat) (idx : U32) :
    exec (.waitGe q idx) s = .next (execWaitGeOp q idx s) := congrArg _ (live_awake awake _)

theorem exec_acquire {s : State} (awake : Awake s) (q : Nat) (idx : U32) :
    exec (.acquire q idx) s = .next (execAcquireOp q idx s) := congrArg _ (live_awake awake _)

/-- An arrival's result applied to its operation. -/
def arrived (q : Nat) (idx : U32) (r : State × Option Status) : State :=
  match r.2 with
  | some st => finishOp q idx st 0 r.1
  | none => modOp q idx (fun o => { o with phase := .blocked }) r.1

/-- The wait of a host signal descriptor. -/
def signalWait (acquire : Bool) (q : Nat) (idx : U32) (s : State) : Wait :=
  { who := .signal q idx, acquire := acquire, amount := sgAmount (descOf s q idx) }

section Local

variable {q : Nat} {idx : U32} {s : State}

/-- An operation on a local counter whose turn it is not at the store does nothing (R361). -/
theorem execSignalOp_early (here : sgLocal s (descOf s q idx) = true) (early : storeTurn s q idx (sgCounter (descOf s q idx)) = false) :
    execSignalOp q idx s = s := by
  simp only [execSignalOp, here, early, Bool.not_false, if_true, ite_self]

theorem execSubOp_early (here : sgLocal s (descOf s q idx) = true) (early : storeTurn s q idx (sgCounter (descOf s q idx)) = false) :
    execSubOp q idx s = s := by
  simp only [execSubOp, here, early, Bool.not_false, if_true, ite_self]

theorem execWaitGeOp_early (here : sgLocal s (descOf s q idx) = true) (early : storeTurn s q idx (sgCounter (descOf s q idx)) = false) :
    execWaitGeOp q idx s = s := by
  simp only [execWaitGeOp, sgArrive, here, early, Bool.not_false, if_true, ite_self]

theorem execAcquireOp_early (here : sgLocal s (descOf s q idx) = true) (early : storeTurn s q idx (sgCounter (descOf s q idx)) = false) :
    execAcquireOp q idx s = s := by
  simp only [execAcquireOp, sgArrive, here, early, Bool.not_false, if_true, ite_self]

variable (here : sgLocal s (descOf s q idx) = true) (turn : storeTurn s q idx (sgCounter (descOf s q idx)) = true)

include here turn

/-- In its turn, an operation on a local counter does what the counter's operation does and ends with its status, or waits. -/
theorem execSignalOp_turn (ready : opReady s q idx 5 1 = true) {t : State} {st : Status}
    (run : signalCounter (sgCounter (descOf s q idx)) (sgAmount (descOf s q idx)) s = (t, st)) :
    execSignalOp q idx s = finishOp q idx st 0 t := by
  simp only [execSignalOp, ready, here, turn, run, Bool.not_true, Bool.false_eq_true, if_false, if_true]

theorem execSubOp_turn (ready : opReady s q idx 5 2 = true) {t : State} {st : Status}
    (run : subCounter (sgCounter (descOf s q idx)) (sgAmount (descOf s q idx)) s = (t, st)) :
    execSubOp q idx s = finishOp q idx st 0 t := by
  simp only [execSubOp, ready, here, turn, run, Bool.not_true, Bool.false_eq_true, if_false, if_true]

theorem execWaitGeOp_turn (ready : opReady s q idx 5 3 = true) :
    execWaitGeOp q idx s = arrived q idx (arriveWait (sgCounter (descOf s q idx)) (signalWait false q idx s) s) := by
  simp only [execWaitGeOp, sgArrive, ready, here, turn, Bool.not_true, Bool.false_eq_true, if_false, if_true]
  rfl

theorem execAcquireOp_turn (ready : opReady s q idx 5 4 = true) :
    execAcquireOp q idx s = arrived q idx (arriveWait (sgCounter (descOf s q idx)) (signalWait true q idx s) s) := by
  simp only [execAcquireOp, sgArrive, ready, here, turn, Bool.not_true, Bool.false_eq_true, if_false, if_true]
  rfl

end Local

/-- Settles O57: an operation of amount 0 answers before it looks at the counter's value and waiters. -/
theorem zeroAmountCompletes : Obligations.ZeroAmountCompletes := by
  unfold Obligations.ZeroAmountCompletes
  intro c s named st
  have status : (ctrRefusal s c).getD .ok = st := by
    simp only [ctrRefusal, if_neg named, st]
    cases (getC s c).mode <;> rfl
  have signal : signalCounter c 0 s = (s, st) := status ▸ signalCounter_zero c s
  have sub : subCounter c 0 s = (s, st) := status ▸ subCounter_zero c s
  have wait (w : Wait) (zero : w.amount = 0) : arriveWait c w s = (s, some st) := status ▸ arriveWait_zero c s zero
  refine ⟨signal, sub, wait, ?_⟩
  rintro q idx awake rfl here zero turn
  have arrival (acquire : Bool) : arriveWait (sgCounter (descOf s q idx)) (signalWait acquire q idx s) s = (s, some st) := wait _ zero
  refine ⟨fun ready => ?_, fun ready => ?_, fun ready => ?_, fun ready => ?_⟩
  · rw [exec_signalCtr awake, execSignalOp_turn here turn ready (zero ▸ signal)]
  · rw [exec_subCtr awake, execSubOp_turn here turn ready (zero ▸ sub)]
  · rw [exec_waitGe awake, execWaitGeOp_turn here turn ready, arrival]
    rfl
  · rw [exec_acquire awake, execAcquireOp_turn here turn ready, arrival]
    rfl

end Sys2Proof.Safety

namespace Sys2Proof.Safety

open Sys2Proof.Machine

/-! ### Requests to other modules (R369, R434) -/

theorem descOf_listed {q : Nat} {idx : U32} {s : State} {o : Op} (listed : getOp s q idx = some o) : descOf s q idx = o.desc := by
  simp only [descOf, listed, Option.map_some, Option.getD_some]

/-- Writes that follow stay behind while an answer is awaited. -/
theorem writeAfter_awaiting {q : Nat} {idx : U32} {s : State} {o : Op} (listed : getOp s q idx = some o) (awaits : o.reqs ≠ [])
    (cs : List Chunk) : writeAfter q idx cs s = s := by
  cases cs with
  | nil => rfl
  | cons c r => simp only [writeAfter, listed, awaits, and_false, if_false]

theorem awaitOrEnd_awaiting {q : Nat} {idx : U32} {s : State} {o : Op} (listed : getOp s q idx = some o) (awaits : o.reqs ≠ []) :
    awaitOrEnd q idx s = modOp q idx (fun o => { o with phase := .blocked }) s := by
  have some_ : ¬ o.reqs.isEmpty = true := fun e => awaits (List.isEmpty_iff.1 e)
  simp only [awaitOrEnd, listed, writeAfter_awaiting listed awaits, if_neg some_]

theorem issue_keeps (kind m address len amount : Nat) (data : List Byte) (bad : List Nat) (cache : Option Nat) (q : Nat) (idx : U32)
    (s : State) : Keeps [.fabric, .sent] s (issue kind m address len amount data bad cache q idx s).1 := by
  simp only [issue]
  split <;> intro p hp <;> cases p <;> simp_all [Same]

/-- A request for an operation to a module that is not lost joins what the operation awaits. -/
theorem issueFor_asks {q : Nat} {idx : U32} {m : Nat} {o : Op} {s : State} (listed : getOp s q idx = some o)
    (reachable : s.fabric.lost.contains m = false) (kind address len amount : Nat) (data : List Byte) (bad : List Nat) (cache : Option Nat) :
    getOp (issueFor q idx kind m address len amount data bad cache s) q idx =
      some { o with reqs := o.reqs ++ [(m, mgetD s.fabric.txids m 0)] } := by
  have kept := issue_keeps kind m address len amount data bad cache q idx s
  have listed' : getOp (issue kind m address len amount data bad cache q idx s).1 q idx = some o := by
    rw [getOp, kept.getQ q, ← getOp, listed]
  simp only [issueFor, lostStatus, reachable, Bool.false_eq_true, if_false]
  exact getOp_modOp_same q idx _ _ o (fun _ => rfl) listed'

theorem issueFor_keeps (q : Nat) (idx : U32) (kind m address len amount : Nat) (data : List Byte) (bad : List Nat) (cache : Option Nat)
    (s : State) : Keeps [.queues, .fabric, .sent] s (issueFor q idx kind m address len amount data bad cache s) := by
  simp only [issueFor]
  split
  · exact (modOp_keeps q idx _ s).mono (by simp)
  · exact ((issue_keeps kind m address len amount data bad cache q idx s).mono (by simp)).trans ((modOp_keeps q idx _ _).mono (by simp))

/-- The message of a request whose source words are good. -/
theorem issueFor_sent {m : Nat} {s : State} (reachable : s.fabric.lost.contains m = false) (q : Nat) (idx : U32)
    (kind address len amount : Nat) (data : List Byte) (cache : Option Nat) :
    (issueFor q idx kind m address len amount data [] cache s).sent =
      .request kind m (mgetD s.fabric.txids m 0) false cache.isSome address len amount data :: s.sent := by
  simp only [issueFor, lostStatus, reachable, Bool.false_eq_true, if_false]
  rfl

/-- A counter operation on another module's counter is one request, and its operation is blocked. -/
structure Requested (op q : Nat) (idx : U32) (o : Op) (s t : State) : Prop where
  sent : t.sent = .request 3 (sgModule o.desc) (mgetD s.fabric.txids (sgModule o.desc) 0) false false (sgCounter o.desc + 2 ^ 16 * op) 0
    (sgAmount o.desc).toNat [] :: s.sent
  op : getOp t q idx = some { o with phase := .blocked, reqs := [(sgModule o.desc, mgetD s.fabric.txids (sgModule o.desc) 0)] }
  frame : Keeps [.queues, .fabric, .sent] s t

theorem sgRemote_requests (op : Nat) {q : Nat} {idx : U32} {o : Op} {s : State} (listed : getOp s q idx = some o) (fresh : o.reqs = [])
    (reachable : s.fabric.lost.contains (sgModule o.desc) = false) : Requested op q idx o s (sgRemote op q idx o.desc s) := by
  have asked := issueFor_asks listed reachable 3 (sgCounter o.desc + 2 ^ 16 * op) 0 (sgAmount o.desc).toNat [] [] none
  rw [fresh, List.nil_append] at asked
  have blocks : sgRemote op q idx o.desc s = _ := awaitOrEnd_awaiting asked (by simp)
  rw [blocks]
  refine ⟨?_, getOp_modOp_same q idx (fun o => { o with phase := .blocked }) _ _ (fun _ => rfl) asked, ?_⟩
  · exact (modOp_sent _ _ _ _).trans (issueFor_sent reachable _ _ _ _ _ _ _ _)
  · exact (issueFor_keeps _ _ _ _ _ _ _ _ _ _ _).trans ((modOp_keeps _ _ _ _).mono (by simp))

/-- An operation on a counter of another module. -/
theorem execSignalOp_remote {q : Nat} {idx : U32} {s : State} (ready : opReady s q idx 5 1 = true)
    (away : sgLocal s (descOf s q idx) = false) : execSignalOp q idx s = sgRemote 1 q idx (descOf s q idx) s := by
  simp only [execSignalOp, ready, away, if_true, Bool.false_eq_true, if_false]

theorem execSubOp_remote {q : Nat} {idx : U32} {s : State} (ready : opReady s q idx 5 2 = true)
    (away : sgLocal s (descOf s q idx) = false) : execSubOp q idx s = sgRemote 2 q idx (descOf s q idx) s := by
  simp only [execSubOp, ready, away, if_true, Bool.false_eq_true, if_false]

theorem execWaitGeOp_remote {q : Nat} {idx : U32} {s : State} (ready : opReady s q idx 5 3 = true)
    (away : sgLocal s (descOf s q idx) = false) : execWaitGeOp q idx s = sgRemote 3 q idx (descOf s q idx) s := by
  simp only [execWaitGeOp, ready, away, if_true, Bool.false_eq_true, if_false]

theorem execAcquireOp_remote {q : Nat} {idx : U32} {s : State} (ready : opReady s q idx 5 4 = true)
    (away : sgLocal s (descOf s q idx) = false) : execAcquireOp q idx s = sgRemote 4 q idx (descOf s q idx) s := by
  simp only [execAcquireOp, ready, away, if_true, Bool.false_eq_true, if_false]

/-! ### The host counter window (R370, R371) -/

theorem exec_ctrAddWrite {s : State} (awake : Awake s) (c : Nat) (n : U32) :
    exec (.ctrAddWrite c n) s = .next (wake (if doorbellsOpen s then windowWrite c false n s else s)) := congrArg _ (live_awake awake _)

theorem exec_ctrSubWrite {s : State} (awake : Awake s) (c : Nat) (n : U32) :
    exec (.ctrSubWrite c n) s = .next (if doorbellsOpen s then windowWrite c true n s else s) := congrArg _ (live_awake awake _)

/-- The counter's operation that a window write stands for. -/
def windowOp (c : Nat) (sub : Bool) (n : U32) (s : State) : State × Status := if sub then subCounter c n s else signalCounter c n s

theorem windowWrite_ok {c : Nat} {sub : Bool} {n : U32} {s t : State} (run : windowOp c sub n s = (t, .ok)) : windowWrite c sub n s = t := by
  rw [windowOp] at run
  simp only [windowWrite, run]

theorem windowWrite_overflow {c : Nat} {sub : Bool} {n : U32} {s t : State} (run : windowOp c sub n s = (t, .counterOverflow)) :
    windowWrite c sub n s = setC c { getC s c with errOverflow := true } s := by
  rw [windowOp] at run
  simp only [windowWrite, run]
  rfl

theorem windowWrite_underflow {c : Nat} {sub : Bool} {n : U32} {s t : State} (run : windowOp c sub n s = (t, .counterUnderflow)) :
    windowWrite c sub n s = setC c { getC s c with errUnderflow := true } s := by
  rw [windowOp] at run
  simp only [windowWrite, run]
  rfl

/-- A counter that refuses operations, for its state or its poison. -/
theorem windowWrite_refused {c : Nat} {s : State} {st : Status} (refused : ctrRefusal s c = some st)
    (kind : st = .counterState ∨ st = .ownerReset ∨ st = .uncorrectable) (sub : Bool) (n : U32) :
    windowWrite c sub n s = setC c { getC s c with errState := true } s := by
  have run : windowOp c sub n s = (s, st) := by
    cases sub
    · exact signalCounter_refused refused n
    · exact subCounter_refused refused n
  rw [windowOp] at run
  simp only [windowWrite, run]
  rcases kind with rfl | rfl | rfl <;> rfl

theorem ctrRefusal_unclaimed {c : Nat} {s : State} (named : c < 0xFFFF) (unclaimed : (getC s c).mode = .free ∨
    ((getC s c).mode = .poisoned ∧ ((getC s c).poison = .ownerReset ∨ (getC s c).poison = .uncorrectable))) :
    ∃ st, ctrRefusal s c = some st ∧ (st = .counterState ∨ st = .ownerReset ∨ st = .uncorrectable) := by
  rcases unclaimed with free | ⟨poisoned, cause⟩
  · exact ⟨_, by simp only [ctrRefusal, if_neg named.ne, free], .inl rfl⟩
  · exact ⟨_, by simp only [ctrRefusal, if_neg named.ne, poisoned], .inr cause⟩

/-! ### SIGNAL, SUB, WAIT_GE and ACQUIRE -/

section InTurn

variable {q : Nat} {idx : U32} {s : State} (awake : Awake s) (here : sgLocal s (descOf s q idx) = true)
  (turn : storeTurn s q idx (sgCounter (descOf s q idx)) = true) (named : sgCounter (descOf s q idx) ≠ 0xFFFF)
  (claimed : (getC s (sgCounter (descOf s q idx))).mode = .claimed) (positive : sgAmount (descOf s q idx) ≠ 0)

include awake here turn named claimed positive

theorem signalCtr_adds (ready : opReady s q idx 5 1 = true)
    (fits : (getC s (sgCounter (descOf s q idx))).value.toNat + (sgAmount (descOf s q idx)).toNat < 2 ^ 32) :
    ∃ u, exec (.signalCtr q idx) s = .next (wake u) ∧ Ended q idx .ok 0 u ∧
      Signalled (sgCounter (descOf s q idx)) (sgAmount (descOf s q idx)) s u := by
  obtain ⟨t, run, others, own, frame, listed⟩ := signalCounter_fits named claimed positive fits
  have ends := finishOp_keeps q idx .ok 0 t
  obtain ⟨o, op⟩ := listed q idx (listed_of_opReady ready)
  refine ⟨_, by rw [exec_signalCtr awake, execSignalOp_turn here turn ready run], ended_finishOp q idx .ok 0 t o op, ?_⟩
  exact ⟨fun d other => (ends.getC d).trans (others d other), fun ge => (ends.getC _).trans (own ge),
    frame.trans (ends.mono (by simp)), fun r i l => (listed r i l).modOp q idx _ fun _ => rfl⟩

theorem subCtr_claimed (ready : opReady s q idx 5 2 = true) : exec (.subCtr q idx) s = .next (
    if (getC s (sgCounter (descOf s q idx))).value < sgAmount (descOf s q idx) then finishOp q idx .counterUnderflow 0 s
    else finishOp q idx .ok 0 (setC (sgCounter (descOf s q idx)) { getC s (sgCounter (descOf s q idx)) with
      value := (getC s (sgCounter (descOf s q idx))).value - sgAmount (descOf s q idx) } s)) := by
  have run := subCounter_claimed (ctrRefusal_claimed s _ named claimed) positive
  split <;> rename_i less
  · rw [if_pos less] at run
    rw [exec_subCtr awake, execSubOp_turn here turn ready run]
  · rw [if_neg less] at run
    rw [exec_subCtr awake, execSubOp_turn here turn ready run]

theorem waitGe_claimed (ready : opReady s q idx 5 3 = true) : exec (.waitGe q idx) s = .next (
    if sgAmount (descOf s q idx) ≤ (getC s (sgCounter (descOf s q idx))).value then finishOp q idx .ok 0 s
    else modOp q idx (fun o => { o with phase := .blocked })
      (setC (sgCounter (descOf s q idx)) { getC s (sgCounter (descOf s q idx)) with
        waits := (getC s (sgCounter (descOf s q idx))).waits ++ [signalWait false q idx s] } s)) := by
  have run := arriveWait_claimed (w := signalWait false q idx s) (ctrRefusal_claimed s _ named claimed) positive
  rw [exec_waitGe awake, execWaitGeOp_turn here turn ready, run, apply_ite (arrived q idx)]
  simp only [signalWait, Bool.false_eq_true, false_implies, and_true, if_false]
  rfl

theorem acquire_claimed (ready : opReady s q idx 5 4 = true) : exec (.acquire q idx) s = .next (
    if sgAmount (descOf s q idx) ≤ (getC s (sgCounter (descOf s q idx))).value ∧
        (∀ w ∈ (getC s (sgCounter (descOf s q idx))).waits, w.acquire = false) then
      finishOp q idx .ok 0 (setC (sgCounter (descOf s q idx)) { getC s (sgCounter (descOf s q idx)) with
        value := (getC s (sgCounter (descOf s q idx))).value - sgAmount (descOf s q idx) } s)
    else modOp q idx (fun o => { o with phase := .blocked })
      (setC (sgCounter (descOf s q idx)) { getC s (sgCounter (descOf s q idx)) with
        waits := (getC s (sgCounter (descOf s q idx))).waits ++ [signalWait true q idx s] } s)) := by
  have run := arriveWait_claimed (w := signalWait true q idx s) (ctrRefusal_claimed s _ named claimed) positive
  rw [exec_acquire awake, execAcquireOp_turn here turn ready, run, apply_ite (arrived q idx)]
  simp only [signalWait, true_implies, if_true]
  rfl

end InTurn

/-- Settles O58: each row is its counter's operation, in turn, at another module, or through the window. -/
theorem counterOperations : Obligations.CounterOperations := by
  unfold Obligations.CounterOperations
  refine ⟨?signal, ?early, ?others, ?remote, ?window, ?closed⟩
  case signal =>
    intro q idx s awake ready here c n k turn named claimed positive
    refine ⟨fun overflows => ?_, fun fits => ?_⟩
    · have run := signalCounter_overflows (ctrRefusal_claimed s c named claimed) positive overflows
      rw [exec_signalCtr awake, execSignalOp_turn here turn ready run]
    · obtain ⟨u, run, ended, left⟩ := signalCtr_adds awake here turn named claimed positive ready fits
      exact ⟨u, run, ended, left.others, left.own, left.frame⟩
  case early =>
    intro q idx s awake here early
    rw [exec_signalCtr awake, exec_subCtr awake, exec_waitGe awake, exec_acquire awake, execSignalOp_early here early,
      execSubOp_early here early, execWaitGeOp_early here early, execAcquireOp_early here early]
    exact ⟨rfl, rfl, rfl, rfl⟩
  case others =>
    intro q idx s awake here c n k turn named claimed positive
    exact ⟨subCtr_claimed awake here turn named claimed positive, waitGe_claimed awake here turn named claimed positive,
      acquire_claimed awake here turn named claimed positive⟩
  case remote =>
    intro q idx o s awake listed fresh away reachable m x code codes ready row
    obtain ⟨sent, op, frame⟩ := sgRemote_requests code listed fresh reachable
    refine ⟨_, ?_, sent, op, frame⟩
    have desc := descOf_listed listed
    rw [← desc] at away ⊢
    rcases codes with rfl | rfl | rfl | rfl
    · exact (exec_signalCtr awake q idx).trans (by rw [execSignalOp_remote ready away]; rfl)
    · exact (exec_subCtr awake q idx).trans (by rw [execSubOp_remote ready away]; rfl)
    · exact (exec_waitGe awake q idx).trans (by rw [execWaitGeOp_remote ready away]; rfl)
    · exact (exec_acquire awake q idx).trans (by rw [execAcquireOp_remote ready away]; rfl)
  case window =>
    intro c n s awake opened named k
    rw [exec_ctrAddWrite awake, exec_ctrSubWrite awake, if_pos opened, if_pos opened]
    refine ⟨fun unclaimed => ?_, fun claimed positive => ⟨fun overflows => ?_, fun fits => ?_, ?_⟩⟩
    · obtain ⟨st, refused, kind⟩ := ctrRefusal_unclaimed named unclaimed
      rw [windowWrite_refused refused kind, windowWrite_refused refused kind]
      exact ⟨rfl, rfl⟩
    · have run : windowOp c false n s = _ := signalCounter_overflows (ctrRefusal_claimed s c named.ne claimed) positive overflows
      rw [windowWrite_overflow run]
    · obtain ⟨t, run, left⟩ := signalCounter_fits named.ne claimed positive fits
      have run : windowOp c false n s = _ := run
      exact ⟨t, by rw [windowWrite_ok run], left.others, left.own, left.frame⟩
    · have run : windowOp c true n s = _ := subCounter_claimed (ctrRefusal_claimed s c named.ne claimed) positive
      split <;> rename_i less
      · rw [if_pos less] at run
        rw [windowWrite_underflow run]
      · rw [if_neg less] at run
        rw [windowWrite_ok run]
  case closed =>
    intro c n s awake closed
    have shut : ¬ doorbellsOpen s = true := by simp [closed]
    rw [exec_ctrAddWrite awake, exec_ctrSubWrite awake, if_neg shut, if_neg shut]
    exact ⟨rfl, rfl⟩

end Sys2Proof.Safety

namespace Sys2Proof.Safety

open Sys2Proof.Machine

/-! ### Counter commands (R373, R375, R377, R378) -/

/-- A half word of the payload as the command has it is the call's. -/
theorem arrives_u16 {op : Nat} {call : MbCall} {s t : State} {c : Cmd} {row : CatRow} (h : Arrives op call s c t)
    (cat : catalogue op = some row) (i : Nat) (inside : i + 2 ≤ row.payload) : u16 c.payload i = u16 call.payload i := by
  obtain ⟨-, -, -, n, payload⟩ := entryChecks_pass _ _ _ _ _ h.checks
  have length : c.payload.length = row.payload := arrives_length h cat
  have taken : 2 ≤ n - i := by
    rw [payload, List.length_take] at length
    omega
  simp only [u16, payload, List.drop_take, List.take_take, Nat.min_eq_left taken]

/-- A claimed counter of a queue, at its starting value. -/
def claimAs (owner : Nat) (start : U32) (s : State) (k : Nat) : State :=
  setC k { getC s k with mode := .claimed, value := start, start := start, owner := owner, inJob := false, waits := [] } s

theorem claimCounters_eq (first count owner : Nat) (start : U32) (s : State) : claimCounters first count owner start s =
    if ∃ k ∈ upFrom first count, (getC s k).mode = .claimed then (s, .counterState)
    else if (getQ s owner).mode = .disabled then (s, .queueState)
    else ((upFrom first count).foldl (claimAs owner start) s, .ok) := by
  simp only [claimCounters, List.any_eq_true, beq_iff_eq]
  rfl

theorem claimCounters_keeps (first count owner : Nat) (start : U32) (s : State) :
    Keeps [.ctrs] s (claimCounters first count owner start s).1 := by
  rw [claimCounters_eq]
  split_ifs
  · exact Keeps.refl _ s
  · exact Keeps.refl _ s
  · exact Keeps.foldl _ (fun s k => setC_keeps k _ s) _ s

theorem releaseCounters_eq (first count : Nat) (s : State) : releaseCounters first count s =
    if ∃ k ∈ upFrom first count, (getC s k).mode ≠ .claimed ∨ (getC s k).waits ≠ [] ∨ (getC s k).inJob = true then (s, .counterState)
    else if ∃ k ∈ upFrom first count, (getC s k).value ≠ (getC s k).start then (s, .counterUnbalanced)
    else ((upFrom first count).foldl freeCounter s, .ok) := by
  simp only [releaseCounters, List.any_eq_true, Bool.or_eq_true, bne_iff_ne, Bool.not_eq_true', List.isEmpty_eq_false_iff, or_assoc]

theorem freeCounter_keeps (s : State) (c : Nat) : Keeps [.ctrs, .free] s (freeCounter s c) := by
  refine Keeps.trans (t := { s with free := s.free + 1 }) ?_ ((setC_keeps c _ _).mono (by simp))
  intro p hp; cases p <;> simp_all [Same]

theorem releaseCounters_keeps (first count : Nat) (s : State) : Keeps [.ctrs, .free] s (releaseCounters first count s).1 := by
  rw [releaseCounters_eq]
  split_ifs
  · exact Keeps.refl _ s
  · exact Keeps.refl _ s
  · exact Keeps.foldl _ freeCounter_keeps _ s

theorem setCounter_eq (c : Nat) (v : U32) (s : State) : setCounter c v s =
    if (getC s c).mode = .claimed ∧ (getC s c).inJob = false then (settle c (setC c { getC s c with value := v } s), .ok)
    else (s, .counterState) := by
  have refuses : ((getC s c).mode != .claimed || (getC s c).inJob) = !decide ((getC s c).mode = .claimed ∧ (getC s c).inJob = false) := by
    cases (getC s c).inJob <;> simp [bne, beq_eq_decide]
  simp only [setCounter, refuses, Bool.not_eq_true', decide_eq_false_iff_not, ite_not]
  rfl

theorem setCounter_keeps (c : Nat) (v : U32) (s : State) : Keeps counterParts s (setCounter c v s).1 := by
  rw [setCounter_eq]
  split_ifs
  · exact ((setC_keeps c _ s).mono (by simp)).trans (settle_keeps c _)
  · exact Keeps.refl _ s

theorem hCounterClaim_some (c : Cmd) (s : State) (some_ : u16 c.payload 2 ≠ 0) :
    hCounterClaim c s =
      .done (claimCounters (u16 c.payload 0) (u16 c.payload 2) (u16 c.payload 4) (BitVec.ofNat 32 (u32 c.payload 8)) s).2 []
        (claimCounters (u16 c.payload 0) (u16 c.payload 2) (u16 c.payload 4) (BitVec.ofNat 32 (u32 c.payload 8)) s).1 := if_neg some_

theorem hCounterRelease_balanced (c : Cmd) (s : State) (some_ : u16 c.payload 2 ≠ 0) (plain : bit (u16 c.payload 4) 0 = false) :
    hCounterRelease c s = .done (releaseCounters (u16 c.payload 0) (u16 c.payload 2) s).2 []
      (releaseCounters (u16 c.payload 0) (u16 c.payload 2) s).1 := by
  simp only [hCounterRelease, if_neg some_, plain, Bool.false_eq_true, if_false]

theorem hCounterRelease_forced (c : Cmd) (s : State) (some_ : u16 c.payload 2 ≠ 0) (force : bit (u16 c.payload 4) 0 = true) :
    hCounterRelease c s = .done .ok [] (poisonCounters 3 .ownerReset (upFrom (u16 c.payload 0) (u16 c.payload 2)) s) := by
  simp only [hCounterRelease, if_neg some_, force, if_true]
  rfl

/-- COUNTER_RELEASE with the flag of one of its rows. -/
theorem exec_counterRelease (call : MbCall) (s : State) (plain : bit (u16 call.payload 4) 0 = false) :
    exec (.counterRelease call) s = .next (live (mailboxCommand 0x0105 call) s) := by
  change Host.Outcome.next (live _ s) = _
  simp only [plain, Bool.not_false, if_true]

theorem exec_counterReleaseForce {call : MbCall} {s : State} (awake : Awake s) (force : bit (u16 call.payload 4) 0 = true) :
    exec (.counterReleaseForce call) s = .next (wake (live (mailboxCommand 0x0105 call) s)) := by
  change Host.Outcome.next (live _ s) = _
  rw [live_awake awake, live_awake awake, if_pos force]

theorem exec_counterSet {call : MbCall} {s : State} (awake : Awake s) :
    exec (.counterSet call) s = .next (wake (live (mailboxCommand 0x0106 call) s)) := by
  change Host.Outcome.next (live _ s) = _
  rw [live_awake awake, live_awake awake]

/-- Settles O16: each handler answers with the status of its counter operation. -/
theorem counterCommandsComplete : Obligations.CounterCommandsComplete := by
  unfold Obligations.CounterCommandsComplete
  refine ⟨?claim, ?release, ?force, ?set⟩
  case claim =>
    intro call s c t h some_ cs start claim
    have run : handle c t = hCounterClaim c t := by simp only [handle, arrives_opcode h]
    have done := plain_done h (by decide) rfl (run.trans (hCounterClaim_some c t some_)) ((claimCounters_keeps _ _ _ _ t).part .fuses)
    rw [claimCounters_eq] at done
    refine congrArg _ (done.trans ?_)
    split_ifs <;> rfl
  case release =>
    intro call s c t h plain some_ cs
    have flag : bit (u16 c.payload 4) 0 = false := arrives_u16 h rfl 4 (by decide) ▸ plain
    have run : handle c t = hCounterRelease c t := by simp only [handle, arrives_opcode h]
    have done := plain_done h (by decide) rfl (run.trans (hCounterRelease_balanced c t some_ flag)) ((releaseCounters_keeps _ _ t).part .fuses)
    rw [releaseCounters_eq] at done
    refine (exec_counterRelease call s plain).trans (congrArg _ (done.trans ?_))
    split_ifs <;> rfl
  case force =>
    intro call s c t h force some_
    have flag : bit (u16 c.payload 4) 0 = true := arrives_u16 h rfl 4 (by decide) ▸ force
    have run : handle c t = hCounterRelease c t := by simp only [handle, arrives_opcode h]
    have done := plain_done h (by decide) rfl (run.trans (hCounterRelease_forced c t some_ flag)) ((poisonCounters_keeps _ _ _ t).part .fuses)
    rw [exec_counterReleaseForce h.awake force, done]
  case set =>
    intro call s c t h k
    have run : handle c t = hCounterSet c t := by simp only [handle, arrives_opcode h]
    have done := plain_done h (by decide) rfl run ((setCounter_keeps _ _ t).part .fuses)
    rw [setCounter_eq] at done
    rw [exec_counterSet h.awake, done]
    refine congrArg (fun u => Host.Outcome.next (wake u)) ?_
    split_ifs <;> rfl

/-! ### The summary of counters (R383) -/

theorem readReg_summary (s : State) : readReg s 0x1A40 = BitVec.ofNat 32 (ctrSummary s) := rfl

theorem toNat_readReg_summary (s : State) : (readReg s 0x1A40).toNat =
    min 32767 (s.ctrs.filter fun e => e.2.mode == .poisoned).length * 2 ^ 16 +
      min 65535 (s.ctrs.filter fun e => e.2.mode == .claimed).length := by
  rw [readReg_summary, BitVec.toNat_ofNat]
  exact Nat.mod_eq_of_lt (by rw [ctrSummary]; omega)

/-- Settles O41: the two counts stay within their fields. -/
theorem counterSummary : Obligations.CounterSummary := by
  refine ⟨fun s => ?fields, fun v s => ?readOnly, rfl⟩
  case fields =>
    rw [toNat_readReg_summary]
    simp only [bits]
    omega
  case readOnly =>
    rw [writeReg_status rfl (by decide)]
    rfl

end Sys2Proof.Safety

namespace Sys2Proof.Safety

open Sys2Proof.Machine

/-! ### Requests of other modules (R434, R435, R441) -/

theorem exec_writeRequest {s : State} (awake : Awake s) (m : Txn) (data : List Byte) (bad : List Nat) :
    exec (.writeRequest m data bad) s = .next (serveWrite 4096 m data bad s) := congrArg _ (live_awake awake _)

theorem exec_lightWrite {s : State} (awake : Awake s) (m : Txn) (data : List Byte) (bad : List Nat) :
    exec (.lightWrite m data bad) s = .next (serveWrite 256 m data bad s) := congrArg _ (live_awake awake _)

theorem exec_readRequest {s : State} (awake : Awake s) (m : Txn) : exec (.readRequest m) s = .next (serveRead 4096 m s) :=
  congrArg _ (live_awake awake _)

theorem exec_lightRead {s : State} (awake : Awake s) (m : Txn) : exec (.lightRead m) s = .next (serveRead 256 m s) :=
  congrArg _ (live_awake awake _)

theorem exec_counterRequest {s : State} (awake : Awake s) (m : Txn) (op : Nat) :
    exec (.counterRequest m op) s = .next (serveCounter m op s) := congrArg _ (live_awake awake _)

/-- The state in which a request is served, with its record open. -/
def openRecord (kind : Nat) (light : Bool) (m : Txn) (s : State) : State :=
  { s with fabric := { s.fabric with
    records := (s.fabric.records.filter fun r => !(r.src == m.src && r.txid == m.txid && r.kind != 0)) ++
      [{ src := m.src, txid := m.txid, done := false, kind := kind, status := .ok, data := [], poison := [], light := light }] } }

/-- The request's record holds its answer. -/
def closeRecord (m : Txn) (st : Status) (data : List Byte) (bad : List Nat) (s : State) : State :=
  { s with fabric := { s.fabric with records := s.fabric.records.map fun x =>
    if x.src = m.src ∧ x.txid = m.txid ∧ x.kind ≠ 0 then { x with done := true, status := st, data := data, poison := bad } else x } }

/-- The state of a request that is answered. -/
def replied (kind : Nat) (m : Txn) (st : Status) (data : List Byte) (bad : List Nat) (s : State) : State :=
  emit (.answer kind m.src m.txid false st data bad) (closeRecord m st data bad s)

section Once

variable {kind : Nat} {light : Bool} {m : Txn} {run : State → State × Option (Status × List Byte × List Nat)} {s t : State}

theorem serveOnce_answers {st : Status} {data : List Byte} {bad : List Nat} (known : fromModule s m.src = true) (first : m.reissue = false)
    (result : run (openRecord kind light m s) = (t, some (st, data, bad))) :
    serveOnce kind light m run s = wake (replied kind m st data bad t) := by
  rw [openRecord] at result
  simp only [serveOnce, known, first, Bool.not_true, Bool.false_eq_true, if_false, result]
  rfl

theorem serveOnce_waits (known : fromModule s m.src = true) (first : m.reissue = false)
    (result : run (openRecord kind light m s) = (t, none)) : serveOnce kind light m run s = t := by
  rw [openRecord] at result
  simp only [serveOnce, known, first, Bool.not_true, Bool.false_eq_true, if_false, result]

/-- A reissued request is answered from the record, or waits for the original. -/
theorem serveOnce_reissued {r : TxnRecord} (known : fromModule s m.src = true) (again : m.reissue = true)
    (found : s.fabric.records.find? (fun x => x.src == m.src && x.txid == m.txid && x.kind != 0) = some r) :
    serveOnce kind light m run s =
      if r.done then { s with sent := .answer r.kind m.src m.txid true r.status r.data r.poison :: s.sent } else s := by
  simp only [serveOnce, known, again, Bool.not_true, Bool.false_eq_true, if_false, if_true, found]
  rfl

end Once

theorem openRecord_keeps (kind : Nat) (light : Bool) (m : Txn) (s : State) : Keeps [.fabric] s (openRecord kind light m s) := by
  intro p hp; cases p <;> simp_all [Same, openRecord]

theorem getC_openRecord (kind : Nat) (light : Bool) (m : Txn) (s : State) (c : Nat) : getC (openRecord kind light m s) c = getC s c := rfl

theorem closeRecord_keeps (m : Txn) (st : Status) (data : List Byte) (bad : List Nat) (s : State) :
    Keeps [.fabric] s (closeRecord m st data bad s) := by
  intro p hp; cases p <;> simp_all [Same, closeRecord]

theorem replied_keeps (kind : Nat) (m : Txn) (st : Status) (data : List Byte) (bad : List Nat) (s : State) :
    Keeps [.sent, .fabric] s (replied kind m st data bad s) :=
  ((closeRecord_keeps m st data bad s).mono (by simp)).trans ((emit_keeps _ _).mono (by simp))

theorem replied_sent (kind : Nat) (m : Txn) (st : Status) (data : List Byte) (bad : List Nat) (s : State) :
    (replied kind m st data bad s).sent = .answer kind m.src m.txid false st data bad :: s.sent := rfl

/-- What a request has changed when it is answered: what serving it changed, its record, and its answer among what was sent. -/
theorem served_keeps {ps : List Part} {kind kind' : Nat} {light : Bool} {m : Txn} {st : Status} {data : List Byte} {bad : List Nat} {s t : State}
    (work : Keeps ps (openRecord kind light m s) t) (sent : Part.sent ∈ ps) (fabric : Part.fabric ∈ ps) :
    Keeps ps s (replied kind' m st data bad t) :=
  ((openRecord_keeps kind light m s).mono (by simp [fabric])).trans
    (work.trans ((replied_keeps kind' m st data bad t).mono (by simp [sent, fabric])))

/-- A request that is answered at once. -/
theorem replied_openRecord_keeps (kind kind' : Nat) (light : Bool) (m : Txn) (st : Status) (data : List Byte) (bad : List Nat) (s : State) :
    Keeps [.sent, .fabric] s (replied kind' m st data bad (openRecord kind light m s)) :=
  served_keeps (Keeps.refl _ _) (by decide) (by decide)

/-- Serving that leaves the fabric alone leaves the record open. -/
theorem mem_openRecord {kind : Nat} {light : Bool} {m : Txn} {s t : State} (fabric : t.fabric = (openRecord kind light m s).fabric) :
    ∃ r ∈ t.fabric.records, r.src = m.src ∧ r.txid = m.txid ∧ r.kind = kind ∧ r.done = false := by
  rw [fabric]
  exact ⟨_, List.mem_append_right _ (List.mem_singleton_self _), rfl, rfl, rfl, rfl⟩

theorem record_open {kind : Nat} {light : Bool} {m : Txn} {s t : State} (fabric : t.fabric = (openRecord kind light m s).fabric) :
    (t.fabric.records.any fun r => r.src == m.src && r.txid == m.txid && !r.done) = true := by
  obtain ⟨r, mem, src, txid, -, done⟩ := mem_openRecord fabric
  exact List.any_eq_true.2 ⟨r, mem, by simp [src, txid, done]⟩

theorem record_done {kind kind' : Nat} {light : Bool} {m : Txn} {st : Status} {data : List Byte} {bad : List Nat} {s t : State}
    (request : kind ≠ 0) (fabric : t.fabric = (openRecord kind light m s).fabric) :
    ((replied kind' m st data bad t).fabric.records.any fun r => r.src == m.src && r.txid == m.txid && r.done) = true := by
  obtain ⟨r, mem, src, txid, same, -⟩ := mem_openRecord fabric
  refine List.any_eq_true.2 ⟨_, List.mem_map_of_mem mem, ?_⟩
  simp [src, txid, same, request]

/-! #### Writes -/

/-- The poison of a write's bytes, by the words that its message lists. -/
def writeFlags (m : Txn) (bad : List Nat) : List Bool :=
  (List.range m.length).map fun i => bad.contains ((m.address + i) / 32 - m.address / 32)

theorem serveWrite_within {limit : Nat} {m : Txn} {s : State} (known : fromModule s m.src = true) (first : m.reissue = false)
    (ok : requestOk m limit = true) (data : List Byte) (bad : List Nat) :
    serveWrite limit m data bad s = wake (replied 8 m (if bad = [] then .ok else .poisonedData) [] []
      (writeHbm m.address (padTo m.length data) (writeFlags m bad) (openRecord 8 (limit == 256) m s))) :=
  serveOnce_answers known first (by
    simp only [ok, Bool.not_true, Bool.false_eq_true, if_false, List.isEmpty_iff]
    rfl)

theorem serveWrite_refused {limit : Nat} {m : Txn} {s : State} (known : fromModule s m.src = true) (first : m.reissue = false)
    (outside : requestOk m limit = false) (data : List Byte) (bad : List Nat) :
    serveWrite limit m data bad s = wake (replied 8 m .invalidArgument [] [] (openRecord 8 (limit == 256) m s)) :=
  serveOnce_answers known first (by simp only [outside, Bool.not_false, if_true])

theorem length_padTo (n : Nat) (bs : List Byte) : (padTo n bs).length = n := by
  simp only [padTo, List.length_append, List.length_take, List.length_replicate]
  omega

theorem getD_padTo {n : Nat} {bs : List Byte} (fits : bs.length ≤ n) (i : Nat) : (padTo n bs).getD i 0 = bs.getD i 0 := by
  rw [padTo, List.take_of_length_le fits]
  by_cases inside : i < bs.length
  · rw [List.getD_append _ _ _ _ inside]
  · rw [List.getD_append_right _ _ _ _ (not_lt.1 inside), List.getD_eq_default _ _ (not_lt.1 inside), List.getD_eq_getElem?_getD,
      List.getElem?_replicate]
    split <;> rfl

/-- The parts that serving a request of memory may change. -/
abbrev requestParts : List Part := [.hbm, .poison, .memctl, .err, .evt, .fmw, .cxl, .sent, .fabric, .free]

theorem Keeps.request {s t : State} (h : Keeps readParts s t) (sram : t.sramPoison = s.sramPoison) : Keeps requestParts s t := by
  intro p hp
  by_cases vat : p = .sramPoison
  · subst vat
    exact sram
  · refine h p fun mem => ?_
    revert mem hp vat
    cases p <;> decide

/-- What a write that is served leaves. -/
structure Written (m : Txn) (data : List Byte) (s t : State) : Prop where
  inside : ∀ i, i < m.length → data.length ≤ m.length → bget t.hbm (m.address + i) = data.getD i 0
  outside : Correctable s → ∀ j, (j < m.address ∨ m.address + m.length ≤ j) → data.length ≤ m.length → bget t.hbm j = bget s.hbm j
  frame : Keeps requestParts s t
  fabric : t.fabric = s.fabric

theorem writeHbm_written (m : Txn) (data : List Byte) (flags : List Bool) {s : State} (canonical : bwf s.hbm = true) :
    Written m data s (writeHbm m.address (padTo m.length data) flags s) := by
  have kept := writeHbm_keeps m.address (padTo m.length data) flags s
  refine ⟨fun i hi fits => ?_, fun safe j hj fits => ?_, kept.request (writeHbm_sramPoison _ _ _ _), kept.part .fabric⟩
  · rw [bget_writeHbm_inside _ _ _ _ canonical i (by rwa [length_padTo]), getD_padTo fits]
  · exact bget_writeHbm_outside _ _ _ _ safe j (by rwa [length_padTo])

/-! #### Reads -/

theorem serveRead_within {limit : Nat} {m : Txn} {s t : State} (known : fromModule s m.src = true) (first : m.reissue = false)
    (ok : requestOk m limit = true) (reads : touchHbm Who.none m.address m.length (openRecord 9 (limit == 256) m s) = t) :
    ∃ bad, bad = ((wordsOf m.address m.length).filter t.poison.contains).map (fun w => w - m.address / 32) ∧
      serveRead limit m s = wake (replied 9 m (if bad = [] then .ok else .poisonedData) (bread t.hbm m.address m.length) bad t) :=
  ⟨_, rfl, serveOnce_answers known first (by
    simp only [ok, Bool.not_true, Bool.false_eq_true, if_false, List.isEmpty_iff, reads])⟩

theorem serveRead_refused {limit : Nat} {m : Txn} {s : State} (known : fromModule s m.src = true) (first : m.reissue = false)
    (outside : requestOk m limit = false) :
    serveRead limit m s = wake (replied 9 m .invalidArgument [] [] (openRecord 9 (limit == 256) m s)) :=
  serveOnce_answers known first (by simp only [outside, Bool.not_false, if_true])

theorem consumeWord_sramPoison (who : Who) (w : Nat) (injected : Bool) (s : State) : (consumeWord who w injected s).sramPoison = s.sramPoison :=
  (errRecord_keeps _ _).part .sramPoison

/-- A read of HBM leaves the poison of the vats' SRAM alone. -/
theorem touchWord_sramPoison (who : Who) (s : State) (w : Nat) : (touchWord who s w).sramPoison = s.sramPoison := by
  simp only [touchWord]
  split
  · split
    · rfl
    · exact consumeWord_sramPoison who w false s
  · split
    · rfl
    · rename_i l _
      split
      · split
        · rfl
        · exact consumeWord_sramPoison who w l.injected _
      · split
        · exact congrArg (·.2.1) (cells_correctWord who w l s)
        · split
          · rfl
          · exact congrArg (·.2.1) (cells_poisonWord who w l s)

theorem touchHbm_sramPoison (who : Who) (a len : Nat) (s : State) : (touchHbm who a len s).sramPoison = s.sramPoison := by
  simp only [touchHbm]
  induction wordsOf a len generalizing s with
  | nil => rfl
  | cons w r ih => exact (ih _).trans (touchWord_sramPoison who s w)

/-! #### Counter requests (R369) -/

theorem serveCounter_answers {m : Txn} {op : Nat} {s t : State} {st : Status} (known : fromModule s m.src = true) (first : m.reissue = false)
    (run : remoteCounterOp m.src m.txid op (m.address % 65536) (BitVec.ofNat 32 m.amount) (openRecord 10 false m s) = (t, some st)) :
    serveCounter m op s = wake (replied 10 m st [] [] t) :=
  serveOnce_answers known first (by simp only [run, Option.map_some])

theorem serveCounter_waits {m : Txn} {op : Nat} {s t : State} (known : fromModule s m.src = true) (first : m.reissue = false)
    (run : remoteCounterOp m.src m.txid op (m.address % 65536) (BitVec.ofNat 32 m.amount) (openRecord 10 false m s) = (t, none)) :
    serveCounter m op s = t :=
  serveOnce_waits known first (by simp only [run, Option.map_none])

theorem mput_mput {α : Type} (m : Sparse α) (k : Nat) (v w : α) : mput (mput m k v) k w = mput m k w := by
  induction m with
  | nil => simp [mput]
  | cons p r ih =>
    obtain ⟨a, x⟩ := p
    by_cases before : k < a
    · simp [mput, before]
    · by_cases here : k = a
      · simp [mput, here]
      · simp [mput, before, here, ih]

theorem setC_setC {v w : Ctr} (listed : v ≠ Ctr.free) (listed' : w ≠ Ctr.free) (c : Nat) (s : State) : setC c w (setC c v s) = setC c w s := by
  simp only [setC, if_neg listed, if_neg listed', mput_mput]

/-- A SIGNAL that fits, on a counter without waiters, writes the counter. -/
theorem signalCounter_noWaits {c : Nat} {n : U32} {s : State} (named : c ≠ 0xFFFF) (claimed : (getC s c).mode = .claimed) (positive : n ≠ 0)
    (fits : (getC s c).value.toNat + n.toNat < 2 ^ 32) (alone : (getC s c).waits = []) :
    signalCounter c n s = (setC c { getC s c with value := (getC s c).value + n } s, .ok) := by
  have listed : { getC s c with value := (getC s c).value + n } ≠ Ctr.free := Ctr.ne_free_of_mode (claimed.trans_ne (by decide))
  have added := getC_setC_same c { getC s c with value := (getC s c).value + n } s (.inl listed)
  rw [signalCounter_adds (ctrRefusal_claimed s c named claimed) positive fits, settle_noWaits ((congrArg Ctr.waits added).trans alone), added,
    setC_setC listed listed]

/-- An ACQUIRE or WAIT_GE that its counter does not meet. -/
theorem arriveWait_unmet {c : Nat} {w : Wait} {s : State} (claimed : ctrRefusal s c = none) (unmet : (getC s c).value < w.amount) :
    arriveWait c w s = (setC c { getC s c with waits := (getC s c).waits ++ [w] } s, none) := by
  have positive : w.amount ≠ 0 := fun zero => absurd (zero ▸ unmet) BitVec.not_lt_zero
  rw [arriveWait_claimed claimed positive, if_neg fun met => absurd met.1 (BitVec.not_le.2 unmet)]

/-- A request of a wait for another module's operation. -/
theorem remoteCounterOp_wait {op : Nat} (kind : op = 3 ∨ op = 4) (m txid c : Nat) (n : U32) (s : State) :
    remoteCounterOp m txid op c n s = arriveWait c { who := .remote m txid, acquire := op == 4, amount := n } s := by
  rcases kind with rfl | rfl <;> rfl

/-- Settles O54: a request's work runs between the opening of its record and the answer that closes it. -/
theorem fabricRequestsServed : Obligations.FabricRequestsServed := by
  unfold Obligations.FabricRequestsServed
  refine ⟨?write, ?read, ?counter, ?reissue, ?expiry⟩
  case write =>
    intro light m data bad s awake canonical known first row
    have exec_ : exec row s = .next (serveWrite (if light then 256 else 4096) m data bad s) := by
      cases light
      · exact exec_writeRequest awake m data bad
      · exact exec_lightWrite awake m data bad
    generalize (if light then 256 else 4096) = limit at exec_ ⊢
    rw [exec_]
    refine ⟨fun ok => ?_, fun outside => ?_⟩
    · have left := writeHbm_written m data (writeFlags m bad) (s := openRecord 8 (limit == 256) m s) canonical.1
      exact ⟨_, _, by rw [serveWrite_within known first ok], replied_sent _ _ _ _ _ _, left.inside, left.outside,
        record_done (by decide) left.fabric, served_keeps left.frame (by decide) (by decide)⟩
    · exact ⟨_, congrArg _ (serveWrite_refused known first outside data bad), rfl, replied_openRecord_keeps _ _ _ _ _ _ _ _⟩
  case read =>
    intro light m s awake known first row
    have exec_ : exec row s = .next (serveRead (if light then 256 else 4096) m s) := by
      cases light
      · exact exec_readRequest awake m
      · exact exec_lightRead awake m
    generalize (if light then 256 else 4096) = limit at exec_ ⊢
    rw [exec_]
    refine ⟨fun ok clean => ?_, fun ok => ?_, fun outside => ?_⟩
    · have reads := touchHbm_clean Who.none m.address m.length (openRecord 9 (limit == 256) m s) clean
      obtain ⟨bad, words, answer⟩ := serveRead_within known first ok reads
      have none_ : bad = [] := by
        rw [words, List.map_eq_nil_iff, List.filter_eq_nil_iff]
        exact fun w mem => Bool.not_eq_true _ ▸ (clean w mem).1
      rw [answer, none_]
      exact ⟨_, rfl, rfl, replied_openRecord_keeps _ _ _ _ _ _ _ _⟩
    · obtain ⟨bad, -, answer⟩ := serveRead_within known first ok rfl
      exact ⟨_, by rw [answer], served_keeps ((touchHbm_keeps _ _ _ _).request (touchHbm_sramPoison _ _ _ _)) (by decide) (by decide)⟩
    · exact ⟨_, congrArg _ (serveRead_refused known first outside), rfl, replied_openRecord_keeps _ _ _ _ _ _ _ _⟩
  case counter =>
    intro m op s awake known first c n k named claimed positive
    rw [exec_counterRequest awake]
    refine ⟨?signal, ?sub, ?wait⟩
    case signal =>
      rintro rfl alone fits
      have run := signalCounter_noWaits (s := openRecord 10 false m s) named claimed positive fits alone
      have answer := serveCounter_answers known first (op := 1) (by simp only [remoteCounterOp]; rw [run])
      exact ⟨_, congrArg _ answer, rfl, getC_setC_same c _ _ (.inl (Ctr.ne_free_of_mode (claimed.trans_ne (by decide)))),
        fun d other => getC_setC_other c d _ _ other, served_keeps ((setC_keeps c _ _).mono (by simp)) (by decide) (by decide)⟩
    case sub =>
      rintro rfl enough
      have run := subCounter_claimed (s := openRecord 10 false m s) (ctrRefusal_claimed _ c named claimed) positive
      rw [getC_openRecord, if_neg (BitVec.not_lt.2 enough)] at run
      have answer := serveCounter_answers known first (op := 2) (by simp only [remoteCounterOp]; rw [run])
      exact ⟨_, congrArg _ answer, rfl, getC_setC_same c _ _ (.inl (Ctr.ne_free_of_mode (claimed.trans_ne (by decide)))),
        fun d other => getC_setC_other c d _ _ other, served_keeps ((setC_keeps c _ _).mono (by simp)) (by decide) (by decide)⟩
    case wait =>
      intro kind unmet
      have run := (remoteCounterOp_wait kind m.src m.txid c n _).trans
        (arriveWait_unmet (s := openRecord 10 false m s) (ctrRefusal_claimed _ c named claimed) unmet)
      exact ⟨_, congrArg _ (serveCounter_waits known first run),
        getC_setC_same c _ _ (.inl (Ctr.ne_free_of_mode (claimed.trans_ne (by decide)))), record_open rfl,
        ((openRecord_keeps 10 false m s).mono (by simp)).trans ((setC_keeps c _ _).mono (by simp))⟩
  case reissue =>
    intro m data bad op r s awake known again found row mem
    simp only [List.mem_cons, List.not_mem_nil, or_false] at mem
    rcases mem with rfl | rfl | rfl | rfl | rfl
    · exact (exec_writeRequest awake m data bad).trans (congrArg _ (serveOnce_reissued known again found))
    · exact (exec_lightWrite awake m data bad).trans (congrArg _ (serveOnce_reissued known again found))
    · exact (exec_readRequest awake m).trans (congrArg _ (serveOnce_reissued known again found))
    · exact (exec_lightRead awake m).trans (congrArg _ (serveOnce_reissued known again found))
    · exact (exec_counterRequest awake m op).trans (congrArg _ (serveOnce_reissued known again found))
  case expiry =>
    intro src n s awake
    exact ⟨congrArg _ (live_awake awake _), congrArg _ (live_awake awake _)⟩

end Sys2Proof.Safety

namespace Sys2Proof.Safety

open Sys2Proof.Machine

/-! ### Answers to this module's requests (R369, R434, R436, R441) -/

theorem exec_completion {s : State} (awake : Awake s) (src txid : Nat) (st : Status) :
    exec (.completion src txid st) s = .next (takeCompletion src txid st s) := congrArg _ (live_awake awake _)

theorem exec_counterResult {s : State} (awake : Awake s) (src txid : Nat) (st : Status) :
    exec (.counterResult src txid st) s = .next (takeCounterResult src txid st s) := congrArg _ (live_awake awake _)

theorem exec_readData {s : State} (awake : Awake s) (src txid : Nat) (st : Status) (data : List Byte) (map : Bool) :
    exec (.readData src txid st data map) s = .next (takeReadData src txid st data map s) := congrArg _ (live_awake awake _)

theorem exec_poisonMap {s : State} (awake : Awake s) (src txid : Nat) (words : List Nat) :
    exec (.poisonMap src txid words) s = .next (takePoisonMap src txid words s) := congrArg _ (live_awake awake _)

/-- The request that an answer's txid names. -/
theorem findReq_names {s : State} {src txid : Nat} {kinds : List Nat} {r : OutReq} (found : findReq s src txid kinds = some r) :
    r.dst = src ∧ r.txid = txid ∧ r.kind ∈ kinds := by
  simpa [and_assoc] using List.find?_some found

/-- No request awaits an answer of the txid. -/
theorem findReq_none {s : State} {src txid : Nat} (kinds : List Nat)
    (unasked : s.fabric.outstanding.all (fun r => !(r.dst == src && r.txid == txid)) = true) : findReq s src txid kinds = none := by
  refine List.find?_eq_none.2 fun r mem => ?_
  have other := List.all_eq_true.1 unasked r mem
  rw [Bool.not_eq_true'] at other
  simp only [other, Bool.false_and, Bool.false_eq_true, not_false_eq_true]

/-! #### What awaits an answer -/

theorem Keeps.awaitingOps {ps : List Part} {s t : State} (h : Keeps ps s t) (r : OutReq) (hp : Part.queues ∉ ps := by decide) :
    awaitingOps t r = awaitingOps s r := by
  have queues : t.queues = s.queues := h .queues hp
  simp only [Machine.awaitingOps, queues]

theorem Keeps.awaitingUnits {ps : List Part} {s t : State} (h : Keeps ps s t) (r : OutReq) (hp : Part.plan ∉ ps := by decide) :
    awaitingUnits t r = awaitingUnits s r := by
  have plan : t.plan = s.plan := h .plan hp
  simp only [Machine.awaitingUnits, plan]

theorem Keeps.getOp {ps : List Part} {s t : State} (h : Keeps ps s t) (q : Nat) (i : U32) (hp : Part.queues ∉ ps := by decide) :
    getOp t q i = getOp s q i := by
  rw [Machine.getOp, h.getQ q hp, Machine.getOp]

/-- What leaves queues and plan jobs alone leaves who awaits a request. -/
theorem Keeps.awaitsAlone {ps : List Part} {s t : State} {r : OutReq} {o : Op} (h : Keeps ps s t) (alone : AwaitsAlone s r o)
    (hq : Part.queues ∉ ps := by decide) (hp : Part.plan ∉ ps := by decide) : AwaitsAlone t r o :=
  { alone with
    op := (h.getOp r.queue r.index hq).trans alone.op
    alone := (h.awaitingOps r hq).trans alone.alone
    noUnit := (h.awaitingUnits r hp).trans alone.noUnit }

/-- What an answer finds of the checks of an encode is in the engines. -/
theorem Keeps.ownCheck {ps : List Part} {s t : State} (h : Keeps ps s t) (owner : Nat) (d : List Byte) (hp : Part.rc ∉ ps := by decide) :
    ownCheck t owner d = ownCheck s owner d := by
  have rc : t.rc = s.rc := h .rc hp
  simp only [Machine.ownCheck, checkOf, getCtx, getEngine, rc]

/-! #### The caches (R307) -/

theorem putLine_keeps (die : Nat) (s : State) (a : LAddr) : Keeps [.lines, .free] s (putLine die s a) := by
  simp only [putLine]
  split_ifs
  · exact Keeps.refl _ s
  · intro p hp; cases p <;> simp_all [Same]
  · intro p hp; cases p <;> simp_all [Same]

theorem fillLines_keeps (die : Nat) (a : LAddr) (len : Nat) (s : State) : Keeps [.lines, .free] s (fillLines die a len s) := by
  cases a with
  | remote m x => exact Keeps.foldl _ (putLine_keeps die) _ s
  | host x => exact Keeps.foldl _ (putLine_keeps die) _ s
  | hbm x => exact Keeps.refl _ s
  | sram v x => exact Keeps.refl _ s

theorem cacheAnswer_keeps (r : OutReq) (st : Status) (s : State) : Keeps [.lines, .free] s (cacheAnswer r st s) := by
  simp only [cacheAnswer]
  split
  · exact fillLines_keeps _ _ _ s
  · exact Keeps.refl _ s

/-! #### The one operation that awaits a request -/

/-- The state in which what awaits a request goes on: the request is unanswered no longer, and its lines are cached. -/
def accepted (r : OutReq) (st : Status) (s : State) : State :=
  cacheAnswer r st { s with fabric := { s.fabric with
    outstanding := s.fabric.outstanding.filter fun x => !(x.dst == r.dst && x.txid == r.txid) } }

theorem accepted_keeps (r : OutReq) (st : Status) (s : State) : Keeps [.fabric, .lines, .free] s (accepted r st s) := by
  refine Keeps.trans ?_ ((cacheAnswer_keeps r st _).mono (by simp))
  intro p hp; cases p <;> simp_all [Same]

theorem accepted_fabric (r : OutReq) (st : Status) (s : State) : (accepted r st s).fabric = { s.fabric with
    outstanding := s.fabric.outstanding.filter fun x => !(x.dst == r.dst && x.txid == r.txid) } := (cacheAnswer_keeps r st _).part .fabric

/-- The operation with its answer taken. -/
def answeredOp (r : OutReq) (st : Status) (o : Op) : Op := { o with reqs := [], status := answerStatus r st }

/-- The state in which the operation goes on with its answer. -/
def answeredState (r : OutReq) (st : Status) (o : Op) (s : State) : State :=
  modOp r.queue r.index (fun _ => answeredOp r st o) (accepted r st s)

theorem answered_alone {r : OutReq} {o : Op} {s : State} (alone : AwaitsAlone s r o) (st : Status) :
    answered r st s = wake (opGoesOn r.queue r.index r (answeredOp r st o) (answeredState r st o s)) := by
  obtain ⟨op, queue, only, ops, noUnit, good, plain, after, flights⟩ := (accepted_keeps r st s).awaitsAlone alone
  have aQueue : r.queue ≠ commandQueue := by rw [commandQueue]; omega
  have key : o.reqs.contains (r.dst, r.txid) = true := by rw [only]; simp
  have none_ : o.reqs.filter (· != (r.dst, r.txid)) = [] := by rw [only]; simp
  have took : opAnswered r st r.queue r.index (accepted r st s) =
      opGoesOn r.queue r.index r (answeredOp r st o) (answeredState r st o s) := by
    simp only [opAnswered, op, flights, List.any_nil, key, none_, good]
    rfl
  simp only [accepted] at ops noUnit took
  simp only [answered, if_neg aQueue, ops, noUnit, List.foldl_cons, List.foldl_nil, took]
  rfl

/-! #### Operations that go on, and operations that end -/

/-- The operation of an index after a change of that operation alone. -/
theorem getOp_modOp_named {q : Nat} {i : U32} {s : State} {o : Op} (f : Op → Op) (named : ∀ p, p.index = i → (f p).index = i)
    (listed : getOp s q i = some o) : getOp (modOp q i f s) q i = some (f o) := by
  have same : ((fun p : Op => p.index == i) ∘ fun p => if p.index == i then f p else p) = fun p => p.index == i := by
    funext p
    by_cases own : p.index = i <;> simp [own, named]
  have some_ : (getQ s q).ops ≠ [] := fun none_ => by simp [getOp, none_] at listed
  rw [getOp, modOp, getQ_modQ_same _ _ _ (.inl (Queue.ne_off_of_ops (by simpa using some_))), List.find?_map, same]
  rw [getOp] at listed
  rw [listed, Option.map_some, if_pos (List.find?_some listed)]

theorem cls_modOp {q : Nat} {i : U32} {s : State} (listed : Listed q i s) (f : Op → Op) : (getQ (modOp q i f s) q).cls = (getQ s q).cls := by
  obtain ⟨o, mem, -⟩ := (listed_iff q i s).1 listed
  rw [modOp, getQ_modQ_same _ _ _ (.inl (Queue.ne_off_of_ops (by simpa using List.ne_nil_of_mem mem)))]

theorem getOp_answeredState {r : OutReq} {o : Op} {s : State} (alone : AwaitsAlone s r o) (st : Status) :
    getOp (answeredState r st o s) r.queue r.index = some (answeredOp r st o) :=
  getOp_modOp_named _ (fun _ _ => show o.index = r.index from index_of_getOp alone.op) (((accepted_keeps r st s).getOp _ _).trans alone.op)

theorem answeredState_keeps (r : OutReq) (st : Status) (o : Op) (s : State) :
    Keeps [.fabric, .queues, .lines, .free] s (answeredState r st o s) :=
  ((accepted_keeps r st s).mono (by simp)).trans ((modOp_keeps _ _ _ _).mono (by simp))

theorem answeredState_fabric (r : OutReq) (st : Status) (o : Op) (s : State) : (answeredState r st o s).fabric = { s.fabric with
    outstanding := s.fabric.outstanding.filter fun x => !(x.dst == r.dst && x.txid == r.txid) } :=
  (modOp_fabric _ _ _ _).trans (accepted_fabric r st s)

/-- A read that succeeded: its operation computes with the data. -/
theorem opGoesOn_reads {q : Nat} {idx : U32} {r : OutReq} {o : Op} {s : State} (noSlot : o.publish = none) (read : r.isRead = true)
    (good : o.status = .ok) : opGoesOn q idx r o s = modOp q idx (fun o => { o with phase := .running }) s := by
  simp only [opGoesOn, noSlot, read, good, beq_self_eq_true, Bool.and_self, if_true]

/-- A read that succeeded lets its operation read on. -/
theorem answered_read {r : OutReq} {o : Op} {st : Status} {s : State} (alone : AwaitsAlone s r o) (read : r.isRead = true)
    (good : answerStatus r st = .ok) : ∃ u, answered r st s = wake u ∧
      getOp u r.queue r.index = some { o with reqs := [], status := .ok, phase := .running } ∧
      u.fabric = { s.fabric with outstanding := s.fabric.outstanding.filter fun x => !(x.dst == r.dst && x.txid == r.txid) } ∧
      Keeps [.fabric, .queues, .lines, .free] s u := by
  have goes := opGoesOn_reads (q := r.queue) (idx := r.index) (o := answeredOp r st o) (s := answeredState r st o s) alone.plain.1 read good
  refine ⟨_, (answered_alone alone st).trans (congrArg wake goes), ?_, answeredState_fabric r st o s, ?_⟩
  · rw [getOp_modOp_same _ _ (fun o => { o with phase := .running }) _ _ (fun _ => rfl) (getOp_answeredState alone st), answeredOp, good]
  · exact (answeredState_keeps r st o s).trans ((modOp_keeps _ _ _ _).mono (by simp))

theorem Keeps.ended {ps : List Part} {s t : State} (h : Keeps ps s t) {q : Nat} {i : U32} {st : Status} {d : Nat} (ended : Ended q i st d s)
    (hp : Part.queues ∉ ps := by decide) : Ended q i st d t := by
  obtain ⟨o, op, done, status, detail⟩ := ended
  exact ⟨o, (h.getOp q i hp).trans op, done, status, detail⟩

theorem awaitOrEnd_answered {q : Nat} {idx : U32} {s : State} {o : Op} (listed : getOp s q idx = some o) (none_ : o.reqs = [])
    (last : o.after = []) : awaitOrEnd q idx s = finishOp q idx o.status o.detail s := by
  simp only [awaitOrEnd, listed, Option.map_some, Option.getD_some, last, writeAfter, none_, List.isEmpty_nil, if_true]

theorem pressEnd_keeps (q : Nat) (idx : U32) (s : State) : Keeps [.press] s (pressEnd q idx s) := by
  simp only [pressEnd]
  split
  · exact Keeps.refl _ s
  · split
    · exact Keeps.refl _ s
    · refine Keeps.trans ?_ (freePress_keeps q idx _)
      split
      · split
        · exact modPress_keeps _ _ s
        · exact Keeps.refl _ s
      · exact Keeps.refl _ s

/-- The parts that the end of an encode may change beside its queue. -/
abbrev encodeParts : List Part := [.rc, .culture, .evt, .fmw, .cxl, .sent]

theorem dropCheck_keeps (owner : Nat) (d : List Byte) (s : State) : Keeps encodeParts s (dropCheck owner d s) := by
  simp only [dropCheck]
  split
  · exact ((modEngine_keeps _ _ s).mono (by simp)).trans ((retireCulture_keeps _).mono (by simp))
  · exact Keeps.refl _ s

theorem encodeEnds_keeps (q : Nat) (idx : U32) (d : List Byte) (s : State) : Keeps (.queues :: encodeParts) s (encodeEnds q idx d s) := by
  simp only [encodeEnds]
  split
  · exact ((dropCheck_keeps q d s).mono (by simp)).trans
      (((modOp_keeps q idx _ _).mono (by simp)).trans ((retireCulture_keeps _).mono (by simp)))
  · exact Keeps.refl _ s

theorem encodeEnds_ended {q : Nat} {idx : U32} {st : Status} {detail : Nat} (d : List Byte) {s : State} (ended : Ended q idx st detail s) :
    Ended q idx st detail (encodeEnds q idx d s) := by
  simp only [encodeEnds]
  split
  · obtain ⟨o, op, done, status, rest⟩ := (dropCheck_keeps q d s).ended ended
    exact (retireCulture_keeps _).ended
      ⟨_, getOp_modOp_same q idx (fun o => { o with bound := false }) _ o (fun _ => rfl) op, done, status, rest⟩
  · exact ended

/-- The parts that the end of an operation may change. -/
abbrev endParts : List Part := .queues :: .press :: encodeParts

/-- With no answer left to await, an operation that does not read on ends with the status it has met. -/
theorem opGoesOn_ends {q : Nat} {idx : U32} {r : OutReq} {o : Op} {s : State} (listed : getOp s q idx = some o) (none_ : o.reqs = [])
    (noSlot : o.publish = none) (last : o.after = []) (noRead : r.isRead = false)
    (unchecked : (getQ s q).cls = 2 → hOpcode o.desc = 4 → ownCheck s q o.desc = none) (noWait : r.kind = 3 → o.status = .ok) :
    Ended q idx o.status o.detail (opGoesOn q idx r o s) ∧ Keeps endParts s (opGoesOn q idx r o s) := by
  have ends := awaitOrEnd_answered listed none_ last
  have ended := ended_finishOp q idx o.status o.detail s o listed
  have kept := finishOp_keeps q idx o.status o.detail s
  by_cases encode : (getQ s q).cls = 2 ∧ hOpcode o.desc = 4
  · have goes : opGoesOn q idx r o s = encodeEnds q idx o.desc (finishOp q idx o.status o.detail s) := by
      simp [opGoesOn, noSlot, noRead, encode, unchecked encode.1 encode.2, ends]
    rw [goes]
    exact ⟨encodeEnds_ended _ ended, (kept.mono (by simp)).trans ((encodeEnds_keeps q idx o.desc _).mono (by simp))⟩
  · have stays : ¬ (r.kind = 3 ∧ 3 ≤ hOpcode o.desc ∧ [Status.ownerReset, .uncorrectable, .moduleLost].contains o.status = true) := by
      rintro ⟨counter, -, stops⟩
      rw [noWait counter] at stops
      exact absurd stops (by decide)
    have goes : opGoesOn q idx r o s = pressEnd q idx (finishOp q idx o.status o.detail s) := by
      simp only [opGoesOn, noSlot, noRead, Bool.false_and, Bool.false_eq_true, if_false, if_neg encode, if_neg stays, ends, ite_self]
    rw [goes]
    exact ⟨(pressEnd_keeps q idx _).ended ended, (kept.mono (by simp)).trans ((pressEnd_keeps q idx _).mono (by simp))⟩

/-- The answer of a request that is no read ends the operation that alone awaits it. -/
theorem answered_ends {r : OutReq} {o : Op} {s : State} (alone : AwaitsAlone s r o) (st : Status) (noRead : r.isRead = false)
    (unchecked : (getQ s r.queue).cls = 2 → hOpcode o.desc = 4 → ownCheck s r.queue o.desc = none) (noWait : r.kind = 3 → st = .ok) :
    ∃ u, answered r st s = wake u ∧ Ended r.queue r.index st o.detail u ∧
      u.fabric.outstanding = s.fabric.outstanding.filter fun x => !(x.dst == r.dst && x.txid == r.txid) := by
  have status : answerStatus r st = st := by simp only [answerStatus, noRead, Bool.false_and, Bool.false_eq_true, if_false]
  have listed := getOp_answeredState alone st
  have accepts := accepted_keeps r st s
  have cls : (getQ (answeredState r st o s) r.queue).cls = (getQ s r.queue).cls :=
    (cls_modOp ⟨o, (accepts.getOp _ _).trans alone.op⟩ _).trans (congrArg Queue.cls (accepts.getQ _))
  have check : ownCheck (answeredState r st o s) r.queue o.desc = ownCheck s r.queue o.desc := (answeredState_keeps r st o s).ownCheck _ _
  obtain ⟨ended, kept⟩ := opGoesOn_ends (r := r) listed rfl alone.plain.1 alone.plain.2.1 noRead
    (fun class_ opcode => check.trans (unchecked (cls ▸ class_) opcode)) fun counter => status.trans (noWait counter)
  rw [show (answeredOp r st o).status = st from status] at ended
  refine ⟨_, answered_alone alone st, ended, ?_⟩
  exact congrArg Fabric.outstanding ((kept.part .fabric).trans (answeredState_fabric r st o s))

/-! #### Data and poison maps that arrive (R436) -/

/-- The state with the data of a read in the fabric's view. -/
def viewed (src : Nat) (r : OutReq) (data : List Byte) (s : State) : State :=
  { s with fabric := { s.fabric with
    view := bwrite s.fabric.view (viewKey src r.address) (data.take r.length)
    viewPoison := poisonAfter s.fabric.viewPoison (viewKey src r.address) r.length [] } }

theorem viewed_keeps (src : Nat) (r : OutReq) (data : List Byte) (s : State) : Keeps [.fabric] s (viewed src r data s) := by
  intro p hp; cases p <;> simp_all [Same, viewed]

theorem takeReadData_ok {src txid : Nat} {r : OutReq} {s : State} (found : findReq s src txid [2, 5] = some r) (data : List Byte) :
    takeReadData src txid .ok data false s = answered r .ok (viewed src r data s) := by
  simp only [takeReadData, found, true_or, if_true, Bool.false_eq_true, if_false]
  rfl

theorem takeReadData_mapped {src txid : Nat} {r : OutReq} {s : State} (found : findReq s src txid [2, 5] = some r) (data : List Byte) :
    takeReadData src txid .ok data true s = { viewed src r data s with fabric := { (viewed src r data s).fabric with
      outstanding := s.fabric.outstanding.map fun x => if x.dst = src ∧ x.txid = txid then { x with kind := x.kind + 10 } else x } } := by
  simp only [takeReadData, found, true_or, if_true]
  rfl

/-- The state with the words of a poison map marked in the fabric's view. -/
def mapped (src : Nat) (r : OutReq) (words : List Nat) (s : State) : State :=
  { s with fabric := { s.fabric with viewPoison := saddAll s.fabric.viewPoison (words.map (viewKey src r.address / 32 + ·)) } }

theorem mapped_keeps (src : Nat) (r : OutReq) (words : List Nat) (s : State) : Keeps [.fabric] s (mapped src r words s) := by
  intro p hp; cases p <;> simp_all [Same, mapped]

theorem takePoisonMap_found {src txid : Nat} {r : OutReq} {s : State} (found : findReq s src txid [12, 15] = some r) (words : List Nat) :
    takePoisonMap src txid words s = answered r .poisonedData (mapped src r words s) := by
  simp only [takePoisonMap, found]
  rfl

theorem mem_sadd {l : List Nat} {x w : Nat} : w ∈ sadd l x ↔ w ∈ l ∨ w = x := by
  induction l with
  | nil => simp [sadd]
  | cons y r ih =>
    simp only [sadd]
    split_ifs with before here
    · simp [or_comm]
    · simp [here, or_right_comm]
    · simp [ih, or_assoc]

theorem mem_saddAll {l xs : List Nat} {w : Nat} : w ∈ saddAll l xs ↔ w ∈ l ∨ w ∈ xs := by
  rw [saddAll]
  induction xs generalizing l with
  | nil => simp
  | cons x r ih => rw [List.foldl_cons, ih, mem_sadd, List.mem_cons, or_assoc]

theorem contains_saddAll (l xs : List Nat) (w : Nat) : (saddAll l xs).contains w = (l.contains w || xs.any (· == w)) := by
  rw [Bool.eq_iff_iff]
  simp [mem_saddAll]

/-- Settles O55: the first answer lets the one operation that awaits it go on; an answer that nothing awaits finds no request. -/
theorem firstAnswersTaken : Obligations.FirstAnswersTaken := by
  unfold Obligations.FirstAnswersTaken
  refine ⟨?completion, ?counter, ?read, ?map, ?late⟩
  case completion =>
    intro src txid st r o s awake found alone unchecked
    obtain ⟨-, -, kind⟩ := findReq_names found
    have noRead : r.isRead = false := by
      simp only [List.mem_cons, List.not_mem_nil, or_false] at kind
      rcases kind with kind | kind <;> simp [OutReq.isRead, kind]
    have noWait : r.kind = 3 → st = .ok := fun three => by simp [three] at kind
    obtain ⟨u, run, left⟩ := answered_ends alone st noRead unchecked noWait
    have takes : takeCompletion src txid st s = answered r st s := by simp only [takeCompletion, found]
    exact ⟨u, by rw [exec_completion awake, takes, run], left⟩
  case counter =>
    intro src txid r o s awake found alone noEncode
    obtain ⟨-, -, kind⟩ := findReq_names found
    have noRead : r.isRead = false := by simp [OutReq.isRead, List.mem_singleton.1 kind]
    obtain ⟨u, run, left⟩ := answered_ends alone .ok noRead (fun encode => absurd encode noEncode) fun _ => rfl
    have takes : takeCounterResult src txid .ok s = answered r .ok s := by simp only [takeCounterResult, found]
    exact ⟨u, by rw [exec_counterResult awake, takes, run], left⟩
  case read =>
    intro src txid data r o s awake found alone whole canonical
    obtain ⟨-, -, kind⟩ := findReq_names found
    have read : r.isRead = true := by
      simp only [List.mem_cons, List.not_mem_nil, or_false] at kind
      rcases kind with kind | kind <;> simp [OutReq.isRead, kind]
    have seen := viewed_keeps src r data s
    rw [exec_readData awake, exec_readData awake, takeReadData_ok found, takeReadData_mapped found]
    constructor
    · obtain ⟨u, run, op, fabric, kept⟩ := answered_read (seen.awaitsAlone alone) read (st := .ok) (by simp [answerStatus])
      refine ⟨u, by rw [run], op, fun i hi => ?_, (seen.mono (by simp)).trans kept⟩
      rw [fabric]
      have inside : i < (data.take r.length).length := by rw [List.length_take]; omega
      exact (bget_bwrite_inside _ _ _ _ canonical inside).trans (by rw [List.take_of_length_le whole.le])
    · refine ⟨_, rfl, rfl, rfl, seen.trans ?_⟩
      intro p hp; cases p <;> simp_all [Same]
  case map =>
    intro src txid words r o s awake found alone
    obtain ⟨-, -, kind⟩ := findReq_names found
    have read : r.isRead = true := by
      simp only [List.mem_cons, List.not_mem_nil, or_false] at kind
      rcases kind with kind | kind <;> simp [OutReq.isRead, kind]
    have seen := mapped_keeps src r words s
    obtain ⟨u, run, op, fabric, kept⟩ := answered_read (seen.awaitsAlone alone) read (st := .poisonedData) (by simp [answerStatus, read])
    refine ⟨u, by rw [exec_poisonMap awake, takePoisonMap_found found, run], op, fun w => ?_, (seen.mono (by simp)).trans kept⟩
    rw [fabric]
    exact (contains_saddAll _ _ w).trans (by rw [List.any_map]; rfl)
  case late =>
    intro src txid st data map words s unasked
    have none_ (kinds : List Nat) := findReq_none kinds unasked
    refine ⟨congrArg _ (live_of_same ?_), congrArg _ (live_of_same ?_), congrArg _ (live_of_same ?_), congrArg _ (live_of_same ?_)⟩
    · simp only [takeCompletion, none_]
    · simp only [takeCounterResult, none_]
    · simp only [takeReadData, none_]
    · simp only [takePoisonMap, none_]

end Sys2Proof.Safety

namespace Sys2Proof.Safety

open Sys2Proof.Machine

/-! ### Checks 1 to 8 (R390) -/

/-- Check 1: the length field. -/
abbrev LengthOk (call : MbCall) : Prop := call.length ≤ 4096 ∧ (bit call.flags 0 = true → 16 ≤ call.length)

/-- Check 2: no reserved flag or header byte is set. -/
abbrev ReservedOk (call : MbCall) : Prop := call.flags / 2 = 0 ∧ call.rsvd = 0

/-- The open session that a call names. -/
abbrev openSession (s : State) (call : MbCall) : Option Session := s.fmw.sessions.find? fun y => y.id == call.session && y.isOpen

/-- Check 6: the tag of a call is that of its session over the header and the body. -/
abbrev TagOk (op : Nat) (call : MbCall) (x : Session) : Prop :=
  cmdTag x.cmdKey (cmdHeaderBytes op call) (call.payload.take (call.length - 16)) = (call.payload.drop (call.length - 16)).take 16

/-- The command for which a call that fails a check up to 6 is answered. -/
def uncheckedCmd (op : Nat) (call : MbCall) : Cmd := { plainCmd op call with payload := [] }

/-- The command that a tagged call spells once its tag is right. -/
abbrev signedCmd (op : Nat) (call : MbCall) (x : Session) : Cmd := taggedCmd op (call.payload.take (call.length - 16)) x.rspKey call

/-- What is left of the checks for an untagged call that may be one: its target (check 8). -/
def untaggedChecks (op : Nat) (call : MbCall) (s : State) : Entry :=
  if call.target ≠ 0xFF ∧ ¬ inConfig s call.target = true then .fail (uncheckedCmd op call) .invalidArgument s
  else .pass (plainCmd op call) s

/-- What is left of the checks for a tagged call of an open session: tag, counter and target (checks 6 to 8). -/
def sessionChecks (op : Nat) (call : MbCall) (x : Session) (s : State) : Entry :=
  if ¬ TagOk op call x then .fail (uncheckedCmd op call) .authFail (authFailure s)
  else if call.counter ≤ x.lastCounter then .fail (signedCmd op call x) .counterStale s
  else if call.target ≠ 0xFF ∧ ¬ inConfig s call.target = true then .fail (signedCmd op call x) .invalidArgument (consumed x call.counter s)
  else .pass (signedCmd op call x) (consumed x call.counter s)

section
variable {op : Nat} {call : MbCall} {row : CatRow} {x : Session} (s : State)

theorem entryChecks_length (bad : ¬ LengthOk call) : entryChecks op call s = .fail (uncheckedCmd op call) .invalidArgument s :=
  if_pos (by by_contra good; exact bad ⟨by omega, fun tagged => by simp only [tagged, true_and] at good; omega⟩)

/-- Past check 1 a call goes on to check 2. -/
theorem LengthOk.passes (length : LengthOk call) : ¬ (4096 < call.length ∨ (bit call.flags 0 = true ∧ call.length < 16)) := by
  obtain ⟨upper, lower⟩ := length
  rintro (long | ⟨tagged, short⟩)
  · omega
  · exact absurd (lower tagged) (by omega)

theorem ReservedOk.passes (reserved : ReservedOk call) : ¬ (call.flags / 2 ≠ 0 ∨ call.rsvd ≠ 0) := by
  rintro (flag | byte)
  · exact flag reserved.1
  · exact byte reserved.2

theorem entryChecks_reserved (length : LengthOk call) (bad : ¬ ReservedOk call) :
    entryChecks op call s = .fail (uncheckedCmd op call) .reservedNonzero s :=
  (if_neg length.passes).trans (if_pos (not_and_or.1 bad))

theorem entryChecks_unknown (length : LengthOk call) (reserved : ReservedOk call) (unknown : catalogue op = none) :
    entryChecks op call s = .fail (uncheckedCmd op call) .invalidArgument s := by
  refine (if_neg length.passes).trans ((if_neg reserved.passes).trans ?_)
  rw [unknown]
  rfl

theorem entryChecks_untagged (length : LengthOk call) (reserved : ReservedOk call) (cat : catalogue op = some row)
    (untagged : bit call.flags 0 = false) :
    entryChecks op call s =
      if row.critical = true then .fail (uncheckedCmd op call) .authFail s else untaggedChecks op call s := by
  refine (if_neg length.passes).trans ((if_neg reserved.passes).trans ?_)
  simp only [cat, untagged]
  cases row.critical <;> rfl

theorem entryChecks_closed (length : LengthOk call) (reserved : ReservedOk call) (cat : catalogue op = some row)
    (tagged : bit call.flags 0 = true) (closed : openSession s call = none) :
    entryChecks op call s = .fail (uncheckedCmd op call) .sessionInvalid s := by
  refine (if_neg length.passes).trans ((if_neg reserved.passes).trans ?_)
  simp only [cat, tagged, closed]
  cases row.critical <;> rfl

theorem entryChecks_tagged (length : LengthOk call) (reserved : ReservedOk call) (cat : catalogue op = some row)
    (tagged : bit call.flags 0 = true) (session : openSession s call = some x) : entryChecks op call s = sessionChecks op call x s := by
  refine (if_neg length.passes).trans ((if_neg reserved.passes).trans ?_)
  simp only [cat, tagged, session]
  cases row.critical <;> rfl

/-- Check 8 passes. -/
theorem target_passes {n : Nat} (target : n = 0xFF ∨ inConfig s n = true) : ¬ (n ≠ 0xFF ∧ ¬ inConfig s n = true) := by
  rintro ⟨single, outside⟩
  exact target.elim single outside

end

/-- Settles O7: an untagged call has only its target to pass, a tagged one its tag, its counter and its target. -/
theorem checksPass : Obligations.ChecksPass := by
  unfold Obligations.ChecksPass
  intro op call s row cat long rsvd target
  constructor
  case left =>
    intro flags plain
    have length : LengthOk call := ⟨long, by simp [flags, bit]⟩
    rw [entryChecks_untagged s length ⟨by simp [flags], rsvd⟩ cat (by simp [flags, bit]), plain, if_neg Bool.false_ne_true]
    exact if_neg (target_passes s target)
  case right =>
    intro x flags short session tag fresh
    rw [entryChecks_tagged s ⟨long, fun _ => short⟩ ⟨by simp [flags], rsvd⟩ cat (by simp [flags, bit]) session, sessionChecks,
      if_neg (not_not_intro tag.symm), if_neg (Nat.not_le.2 fresh), if_neg (target_passes s target)]
    simp only [consumed, beq_iff_eq]
    rfl

/-- Settles O8: each check in turn, where the ones before it pass. -/
theorem checksFailInOrder : Obligations.ChecksFailInOrder := by
  unfold Obligations.ChecksFailInOrder
  intro op call s fails lengthOk reservedOk
  refine ⟨fun bad => ⟨_, entryChecks_length s bad⟩, fun length bad => ⟨_, entryChecks_reserved s length bad⟩,
    fun length reserved unknown => ⟨_, entryChecks_unknown s length reserved unknown⟩, fun row length reserved cat => ⟨?_, ?_, ?_, ?_⟩⟩
  · intro critical untagged
    exact ⟨_, (entryChecks_untagged s length reserved cat untagged).trans (if_pos critical)⟩
  · intro plain untagged single outside
    refine ⟨_, (entryChecks_untagged s length reserved cat untagged).trans ((if_neg (by simp [plain])).trans (if_pos ⟨single, ?_⟩))⟩
    simp [outside]
  · intro tagged closed
    exact ⟨_, entryChecks_closed s length reserved cat tagged closed⟩
  · intro x tagged session tagOk
    have rest := entryChecks_tagged s length reserved cat tagged session
    refine ⟨fun wrong => ⟨_, rest.trans (if_pos wrong)⟩,
      fun right stale => ⟨_, rest.trans ((if_neg (not_not_intro right)).trans (if_pos stale))⟩, fun right fresh single outside => ?_⟩
    refine ⟨_, _, rest.trans ((if_neg (not_not_intro right)).trans ((if_neg (Nat.not_le.2 fresh)).trans (if_pos ⟨single, ?_⟩)))⟩
    simp [outside]

end Sys2Proof.Safety

namespace Sys2Proof.Safety

open Sys2Proof.Machine

/-! ### GO, the dispatcher and the response (R386, R389, R390, R400, R404) -/

theorem submit_closed {call : MbCall} {s : State} (closed : boxServes s call.mb = false) (op : Nat) :
    submit handle payloadCheck op call s = s := by
  simp only [submit, closed, Bool.not_false, if_true]

theorem submit_taken {call : MbCall} {s : State} (serves : boxServes s call.mb = true)
    (taken : (getBox s call.mb).busy = true ∨ (getBox s call.mb).done = true) (op : Nat) :
    submit handle payloadCheck op call s = modBox call.mb (fun b => { b with rejected := true }) s := by
  simp only [submit, serves, Bool.or_eq_true, taken, Bool.not_true, Bool.false_eq_true, if_false, if_true]

/-- Settles O9: neither way does a command run, so no fuse changes and no retirement follows. -/
theorem goRejected : Obligations.GoRejected := by
  unfold Obligations.GoRejected
  intro op call s
  constructor
  · intro serves taken
    rw [mailboxCommand, submit_taken serves taken op]
    exact retireReset_same s _ (modBox_fuses _ _ s)
  · intro closed
    rw [mailboxCommand, submit_closed closed op]
    exact retireReset_same s s rfl

/-- A settings command that finds another running or waiting joins the waiting ones. -/
theorem runCmd_waits (h : Handler) (c : Cmd) {t : State} (taken : ¬ Turn t) :
    runCmd h true c t = { t with fmw := { t.fmw with waiting := t.fmw.waiting ++ [c] } } := by
  have taken : (t.fmw.running.isSome || !t.fmw.waiting.isEmpty) = true := by
    cases running : t.fmw.running with
    | some r => rfl
    | none =>
      cases waiting : t.fmw.waiting with
      | cons first rest => rfl
      | nil => exact absurd ⟨running, waiting⟩ taken
  simp only [runCmd, taken, if_true]

/-- Settles O10: past its checks the command is the dispatcher's, which runs it or lets it wait. -/
theorem commandReachesItsHandler : Obligations.CommandReachesItsHandler := by
  unfold Obligations.CommandReachesItsHandler
  intro op call s c t h tagged
  exact ⟨submit_arrives h tagged, arrives_opcode h, fun taken => runCmd_waits handle c taken⟩

/-! #### The response -/

/-- The response header of a command: a tag adds 16 bytes and sets flag bit 0. -/
def responseHeader (c : Cmd) (st : Status) (payload : List Byte) : List Byte :=
  if c.tagged then rspHeaderBytes c st (payload.length + 16) 1 c.session 0 else rspHeaderBytes c st payload.length 0 c.session 0

/-- The tag of a response, none for a command without one. -/
def responseTag (c : Cmd) (st : Status) (payload : List Byte) : List Byte :=
  if c.tagged then rspTag c.rspKey (rspHeaderBytes c st (payload.length + 16) 1 c.session 0) payload else []

/-- A mailbox that holds the response of a command. -/
def answered (c : Cmd) (st : Status) (payload : List Byte) (b : Mailbox) : Mailbox :=
  { b with busy := false, done := true, steps := 0, rspHeader := responseHeader c st payload,
           rspPayload := padTo 4096 (payload ++ responseTag c st payload) }

/-- A response changes its mailbox alone of what the firmware keeps; an interrupt may follow. -/
theorem writeResponse_fmw (m : Nat) (c : Cmd) (st : Status) (payload : List Byte) (s : State) (named : c.opcode ≠ 4) :
    (writeResponse m c st 0 0 payload s).fmw = (modBox m (answered c st payload) s).fmw := by
  have box : modBox m (answered c st payload) s = modBox m (fun b => { b with
      busy := false, done := true, steps := min 0xFFFF 0,
      rspHeader := rspHeaderBytes c st (payload.length + if c.tagged then 16 else 0) (0 + b2n c.tagged) c.session 0,
      rspPayload := padTo 4096 (if c.tagged then
        payload ++ rspTag c.rspKey (rspHeaderBytes c st (payload.length + if c.tagged then 16 else 0) (0 + b2n c.tagged) c.session 0) payload
        else payload) }) s := by
    refine congrArg (fun f => modBox m f s) (funext fun b => ?_)
    cases tagged : c.tagged <;> simp [answered, responseHeader, responseTag, tagged, b2n]
  have unopened : (c.opcode == 4 && st == .ok) = false := by simp [named]
  simp only [writeResponse, unopened, Bool.false_eq_true, if_false, ← box]
  split
  · exact (raiseMsix_keeps _ _).part .fmw
  · rfl

theorem noteFixed_boxes (c : Cmd) (payload : List Byte) (s : State) : (noteFixed c payload s).fmw.boxes = s.fmw.boxes := by
  simp only [noteFixed]
  split <;> rfl

theorem noteFixed_history (c : Cmd) (payload : List Byte) (s : State) : (noteFixed c payload s).fmw.history = s.fmw.history := by
  simp only [noteFixed]
  split <;> rfl

/-- Mailboxes are read from what the firmware keeps. -/
theorem getBox_of_boxes {s t : State} (same : t.fmw.boxes = s.fmw.boxes) (m : Nat) : getBox t m = getBox s m := by
  simp only [getBox, same]

/-- The end of a command for one module: its history entry, then its response. -/
theorem finishCmd_single {c : Cmd} {m : Nat} (src : c.src = .mailbox m) (single : c.target ≠ 0xFF) (st : Status) (payload : List Byte)
    (t : State) :
    finishCmd c st 0 payload t = writeResponse m c st 0 0 payload (noteFixed c payload (noteHistory c st t)) := by
  simp only [finishCmd, src, if_neg single]

/-- Settles O11: what the firmware keeps is that of the state before, with the history entry and the mailbox written. -/
theorem answeredCommand : Obligations.AnsweredCommand := by
  unfold Obligations.AnsweredCommand
  intro c m st payload t src inside known single named u tag header
  let noted := noteFixed c payload (noteHistory c st t)
  have fmw : u.fmw = (modBox m (answered c st payload) noted).fmw :=
    (congrArg State.fmw (finishCmd_single src single st payload t)).trans (writeResponse_fmw m c st payload noted named)
  have boxes : noted.fmw.boxes = t.fmw.boxes := noteFixed_boxes c payload (noteHistory c st t)
  have before (n : Nat) : getBox noted n = getBox t n := getBox_of_boxes boxes n
  have after (n : Nat) : getBox u n = getBox (modBox m (answered c st payload) noted) n := getBox_of_boxes (congrArg Mehrore.boxes fmw) n
  refine ⟨?box, ?others, ?history, finishCmd_keeps_single c st 0 payload t single⟩
  case box =>
    rw [after, getBox_modBox_same m _ noted (boxes ▸ inside), before]
    rfl
  case others =>
    intro n other
    rw [after, getBox_modBox_other m n _ noted other, before]
  case history =>
    have entry : u.fmw.history = (noteHistory c st t).fmw.history :=
      (congrArg Mehrore.history fmw).trans (noteFixed_history c payload (noteHistory c st t))
    have box : m % 8 = m := Nat.mod_eq_of_lt (by omega)
    rw [entry]
    simp only [noteHistory, src, srcEntry, srcBox, box]

end Sys2Proof.Safety

namespace Sys2Proof.Safety

open Sys2Proof.Machine

/-! ### Commands that only read (R403, R404, R516, R517, R547) -/

theorem exec_attestReport (call : MbCall) (s : State) (mode : u8 call.payload 32 = 0) :
    exec (.attestReport call) s = .next (live (mailboxCommand 0x0701 call) s) := by
  change Host.Outcome.next (live _ s) = _
  simp [mode]

theorem exec_attestCertificate (call : MbCall) (s : State) (mode : u8 call.payload 32 = 1) :
    exec (.attestCertificate call) s = .next (live (mailboxCommand 0x0701 call) s) := by
  change Host.Outcome.next (live _ s) = _
  simp [mode]

theorem hGetStatus_mailbox {c : Cmd} {m : Nat} (src : c.src = .mailbox m) (s : State) :
    hGetStatus c s = .done .ok (leBytes 8 (lastAccepted s c.session) ++ padTo 256 (s.fmw.history.flatMap histBytes)) s := by
  simp only [hGetStatus, src]

theorem hAttest_report {c : Cmd} (mode : u8 c.payload 32 = 0) (s : State) :
    hAttest c s = .done .ok (reportBytes s (slice c.payload 0 32) ++
      signIdentity s "IZ2 ATTEST" (reportBytes s (slice c.payload 0 32))) s := if_pos mode

theorem hAttest_certificate {c : Cmd} {s : State} {g : Nat} {cert : List Byte} (mode : u8 c.payload 32 = 1)
    (stored : s.cave.certificate = .ok g cert) : hAttest c s = .done .ok cert s := by
  rw [hAttest, if_neg (by omega), stored]

/-- Settles O12: each handler is done with its answer and leaves the state it found. -/
theorem readCommandsComplete : Obligations.ReadCommandsComplete := by
  unfold Obligations.ReadCommandsComplete
  refine ⟨?identify, ?status, ?firmware, ?report, ?certificate⟩
  case identify =>
    intro call s c t h
    have run : handle c t = hIdentify c t := by simp only [handle, arrives_opcode h]
    exact congrArg _ (plain_done h (by decide) rfl run rfl)
  case status =>
    intro call s c t h
    have run : handle c t = hGetStatus c t := by simp only [handle, arrives_opcode h]
    exact congrArg _ (plain_done h (by decide) rfl (run.trans (hGetStatus_mailbox (arrives_src h) t)) rfl)
  case firmware =>
    intro call s c t h version
    have run : handle c t = hFwStatus c t := by simp only [handle, arrives_opcode h]
    exact congrArg _ (plain_done h (by decide) rfl run rfl)
  case report =>
    intro call s c t h mode report
    have own : u8 c.payload 32 = 0 := (arrives_u8 h rfl 32 (by decide)).trans mode
    have run : handle c t = hAttest c t := by simp only [handle, arrives_opcode h]
    exact (exec_attestReport call s mode).trans (congrArg _ (plain_done h (by decide) rfl (run.trans (hAttest_report own t)) rfl))
  case certificate =>
    intro call s c t g cert h mode stored
    have own : u8 c.payload 32 = 1 := (arrives_u8 h rfl 32 (by decide)).trans mode
    have run : handle c t = hAttest c t := by simp only [handle, arrives_opcode h]
    exact (exec_attestCertificate call s mode).trans
      (congrArg _ (plain_done h (by decide) rfl (run.trans (hAttest_certificate own stored)) rfl))

/-! ### Sessions (R391, R394-R396, R510, R513) -/

/-- The nine IDs that SESSION_INIT tries: the next ones from the module's counter, from 1 to 0xFFFF_FFFE in a round. -/
def idCandidates (s : State) : List Nat := (upFrom 0 9).map fun k => (s.fmw.nextSession - 1 + k) % 0xFFFFFFFE + 1

/-- Whether no session of the module has an ID. -/
def idFree (s : State) (i : Nat) : Bool := !s.fmw.sessions.any fun x => x.id == i

theorem idFree_iff (s : State) (i : Nat) : idFree s i = true ↔ ∀ x ∈ s.fmw.sessions, x.id ≠ i := by simp [idFree]

theorem freshSession_eq (s : State) : freshSession s = ((idCandidates s).find? (idFree s)).getD 1 := rfl

theorem idCandidates_range {s : State} {i : Nat} (mem : i ∈ idCandidates s) : 1 ≤ i ∧ i ≤ 0xFFFFFFFE := by
  obtain ⟨k, -, rfl⟩ := List.mem_map.1 mem
  omega

theorem idCandidates_nodup (s : State) : (idCandidates s).Nodup := by
  refine List.Nodup.map_on ?_ (by decide)
  intro i hi j hj same
  have small : ∀ k ∈ upFrom 0 9, k < 9 := by decide
  have := small i hi
  have := small j hj
  omega

/-- Eight sessions cannot have nine IDs. -/
theorem idCandidates_free {s : State} (room : s.fmw.sessions.length < 8) : ∃ i ∈ idCandidates s, idFree s i = true := by
  by_contra taken
  push Not at taken
  have sub : idCandidates s ⊆ s.fmw.sessions.map (·.id) := by
    intro i mem
    have held := taken i mem
    rw [ne_eq, idFree_iff] at held
    push Not at held
    exact List.mem_map.2 held
  have count := ((idCandidates_nodup s).subperm sub).length_le
  have nine : (idCandidates s).length = 9 := by simp [idCandidates, upFrom]
  rw [List.length_map, nine] at count
  omega

/-- Settles O14: the search among the candidates finds one. -/
theorem sessionIdFresh : Obligations.SessionIdFresh := by
  unfold Obligations.SessionIdFresh
  intro s room
  obtain ⟨found, search⟩ := Option.isSome_iff_exists.1 (List.find?_isSome.2 (idCandidates_free room))
  have fresh : freshSession s = found := by rw [freshSession_eq, search, Option.getD_some]
  obtain ⟨low, high⟩ := idCandidates_range (List.mem_of_find?_eq_some search)
  rw [fresh]
  exact ⟨low, high, (idFree_iff s found).1 (List.find?_some search)⟩

theorem authFailure_fuses (s : State) : (authFailure s).fuses = s.fuses := by
  simp only [authFailure]
  split
  · exact (raise_keeps _ _ _ _).part .fuses
  · rfl

/-- The state without the sessions of an ID. -/
def withoutSession (id : Nat) (s : State) : State :=
  { s with fmw := { s.fmw with sessions := s.fmw.sessions.filter fun x => x.id != id } }

theorem closeSession_untokened (id : Nat) {s : State} (none_ : s.sec.token = none) : closeSession id s = withoutSession id s := by
  simp only [closeSession, none_]
  rfl

theorem hSessionInit_room (c : Cmd) {s : State} (room : s.fmw.sessions.length < 8) :
    let id := freshSession s
    let nonce := (List.range 32).map fun i => Config.randomByte s.free i
    let offer := leBytes 4 id ++ leBytes 4 0 ++ nonce ++ padTo 1184 (Config.kemPublic (s.free + 1))
    hSessionInit c s = .done .ok (offer ++ signIdentity s "IZ2 SESSION" offer)
      { s with
        free := s.free + 2
        fmw := { s.fmw with
          nextSession := id % 0xFFFFFFFE + 1
          sessions := s.fmw.sessions ++
            [{ id := id, isOpen := false, offer := offer, kemSeed := s.free + 1, cmdKey := [], rspKey := [], lastCounter := 0,
               since := s.tick.timebase }] } } := if_neg (Nat.not_le.2 room)

/-- The session with the keys that both sides derive, from its shared secret and the host's answer (R510). -/
def sessionOpened (x : Session) (k answer : List Byte) (now : Nat) : Session :=
  { x with isOpen := true, cmdKey := (sessionKeys k x.offer answer).1, rspKey := (sessionKeys k x.offer answer).2, lastCounter := 0,
           since := now }

/-- The state in which the pending session of an ID has become the given one. -/
def withSession (id : Nat) (x : Session) (s : State) : State :=
  { s with fmw := { s.fmw with sessions := s.fmw.sessions.map fun y => if y.id == id then x else y } }

/-- The three ends of SESSION_FINISH for a pending session: a wrong signature, a ciphertext that does not decapsulate, an open session. -/
theorem hSessionFinish_pending {c : Cmd} {s : State} {x : Session} (unlocked : s.fmw.lockout = false)
    (pending : (s.fmw.sessions.find? fun y => y.id == u32 c.payload 0 && !y.isOpen) = some x) :
    hSessionFinish c s =
      if Config.dsaVerify (credential s) "IZ2 HOST" (x.offer ++ c.payload.take 1128) (slice c.payload 1128 2420) then
        match Config.kemDecaps x.kemSeed (slice c.payload 8 1088) with
        | some k => .done .ok (leBytes 4 (u32 c.payload 0))
            (withSession (u32 c.payload 0) (sessionOpened x k (c.payload.take 1128) s.tick.timebase) s)
        | none => .done .authFail [] (withoutSession (u32 c.payload 0) s)
      else .done .authFail [] (authFailure (withoutSession (u32 c.payload 0) s)) := by
  have open_ : ¬ s.fmw.lockout = true := Bool.eq_false_iff.1 unlocked
  simp only [hSessionFinish, if_neg open_, pending]
  cases Config.dsaVerify (credential s) "IZ2 HOST" (x.offer ++ c.payload.take 1128) (slice c.payload 1128 2420)
  · rfl
  · cases Config.kemDecaps x.kemSeed (slice c.payload 8 1088) <;> rfl

/-- Settles O13: SESSION_FINISH answers by its signature first, then by its ciphertext. -/
theorem sessionCommandsComplete : Obligations.SessionCommandsComplete := by
  unfold Obligations.SessionCommandsComplete
  refine ⟨?init, ?finish, ?close⟩
  case init =>
    intro call s c t h room id nonce offer
    have run : handle c t = hSessionInit c t := by simp only [handle, arrives_opcode h]
    exact congrArg _ (plain_done h (by decide) rfl (run.trans (hSessionInit_room c room)) rfl)
  case finish =>
    intro call s c t x h unlocked pending answer discarded
    have run : handle c t = hSessionFinish c t := by simp only [handle, arrives_opcode h]
    replace run := run.trans (hSessionFinish_pending unlocked pending)
    refine congrArg Host.Outcome.next ?_
    split
    case isTrue signed =>
      rw [if_pos signed] at run
      split
      case h_1 k decaps =>
        rw [decaps] at run
        exact plain_done h (by decide) rfl run rfl
      case h_2 decaps =>
        rw [decaps] at run
        exact plain_done h (by decide) rfl run rfl
    case isFalse unsigned =>
      rw [if_neg unsigned] at run
      exact plain_done h (by decide) rfl run (authFailure_fuses _)
  case close =>
    intro call s c t h tagged untokened
    have run : handle c t = hSessionClose c t := by simp only [handle, arrives_opcode h]
    rw [hSessionClose, closeSession_untokened c.session untokened] at run
    exact congrArg _ ((arrives_live h _).trans (command_done h (fun _ => tagged) rfl run rfl))

end Sys2Proof.Safety

namespace Sys2Proof.Safety

open Sys2Proof.Machine

/-! ### The end of an installation (R410) -/

/-- The first status of a list of checks is OK only where every check holds, if none of them gives OK. -/
theorem firstFail_ok {l : List (Bool × Status)} (refuses : ∀ x ∈ l, x.2 ≠ .ok) (ok : (firstFail l).getD .ok = .ok) :
    ∀ x ∈ l, x.1 = true := by
  induction l with
  | nil => simp
  | cons x r ih =>
    obtain ⟨holds, st⟩ := x
    cases holds with
    | true => simpa using ih (fun y mem => refuses y (by simp [mem])) ok
    | false => exact absurd ok (refuses (false, st) (by simp))

/-- Writes of memory, one for each of a list, leave the packages. -/
theorem foldl_pokeClean_packages {α : Type} (place : State → α → LAddr) (data : α → List Byte) (l : List α) (s : State) :
    (l.foldl (fun s x => pokeClean (place s x) (data x) s) s).packages = s.packages :=
  (Keeps.foldl _ (fun s x => pokeClean_keeps (place s x) (data x) s) l s).part .packages

theorem foldl_writeHbm_packages {α : Type} (place : α → Nat) (data : α → List Byte) (l : List α) (s : State) :
    (l.foldl (fun s x => writeHbm (place x) (data x) [] s) s).packages = s.packages :=
  (Keeps.foldl _ (fun s x => writeHbm_keeps (place x) (data x) [] s) l s).part .packages

theorem hostFailed_packages (s : State) : (hostFailed s).packages = s.packages := by
  simp only [hostFailed]
  split <;> rfl

/-- An installation answers OK with one package more, or another status with the packages as they were. -/
def InstallEnds (id : Nat) (s : State) (r : State × Status × List Byte) : Prop :=
  (r.2.1 = .ok ∧ s.packages.length < 16 ∧ (∀ k ∈ s.packages, k.id ≠ id) ∧ ∃ k : Package, k.id = id ∧ r.1.packages = s.packages ++ [k]) ∨
  (r.2.1 ≠ .ok ∧ r.1.packages = s.packages)

theorem installPackage_ends (p : List Byte) (s : State) : InstallEnds (u32 p 0) s (installPackage p s) := by
  have read : (readSpan Who.none (addrOf s (u64 p 8)) (u32 p 4) s).2.2.packages = s.packages :=
    (readSpan_keeps _ _ _ s).part .packages
  simp only [installPackage]
  generalize readSpan Who.none (addrOf s (u64 p 8)) (u32 p 4) s = r at read ⊢
  obtain ⟨img, bad, u⟩ := r
  simp only at read ⊢
  refine iteInduction (fun _ => .inr ⟨by simp, (hostFailed_packages u).trans read⟩) fun _ => ?_
  refine iteInduction (fun _ => .inr ⟨by simp, read⟩) fun _ => ?_
  refine iteInduction (fun refused => .inr ⟨refused, read⟩) fun passed => ?_
  have st := not_not.1 passed
  split at st
  case isTrue invalid => exact absurd st invalid
  case isFalse valid =>
    have checks := firstFail_ok (by simp) st
    simp only [List.forall_mem_cons, Bool.and_eq_true, decide_eq_true_eq] at checks
    obtain ⟨unused, ⟨⟨room, -⟩, -⟩, -⟩ := checks
    have other : ∀ k ∈ u.packages, k.id ≠ u32 p 0 := by
      intro k mem same
      simp only [Bool.not_eq_true', List.any_eq_false, Bool.or_eq_true, not_or, beq_iff_eq] at unused
      exact (unused k mem).1 same
    rw [read] at room other
    exact .inl ⟨rfl, room, other, _, rfl,
      congrArg (· ++ _) ((foldl_writeHbm_packages _ _ _ _).trans ((foldl_pokeClean_packages (fun s (x : Nat × List Byte) => addrOf s (u64 p 16 + x.1)) _ _ u).trans read))⟩

/-- Settles O18: a status and the packages that go with it. -/
theorem installAddsOnePackage : Obligations.InstallAddsOnePackage := by
  unfold Obligations.InstallAddsOnePackage
  intro p s r
  obtain ⟨ok, room, other, added⟩ | ⟨refused, kept⟩ := installPackage_ends p s
  · exact ⟨fun _ => ⟨room, other, added⟩, fun refused => absurd ok refused⟩
  · exact ⟨fun ok => absurd ok refused, fun _ => kept⟩

end Sys2Proof.Safety

namespace Sys2Proof.Safety

open Sys2Proof.Machine

/-! ### Stepped commands and the turn of settings commands (R400, R401) -/

/-- A stepped command once a step of it has been taken in a tick, with so many bytes left. -/
def stepTaken (left : Nat) (r : Running) (s : State) : Running :=
  { r with bytesLeft := left, steps := r.steps + 1, stepTick := s.tick.count + 1 }

/-- The state with that step counted and shown. -/
def steppedState (left : Nat) (r : Running) (s : State) : State := showSteps r.cmd (r.steps + 1) (setRunning (stepTaken left r s) s)

/-- A stepped command runs whose step may be taken in this tick, and leaves so many bytes. -/
structure StepDue (left : Nat) (r : Running) (s : State) : Prop where
  running : s.fmw.running = some r
  stepped : r.cmd.opcode ≠ 0x0803
  unasked : ¬ r.asked = true
  ready : stepWaits s r.cmd.opcode = false
  fresh : r.stepTick ≠ s.tick.count + 1
  moved : r.bytesLeft - stepBytes = left

theorem StepDue.now {left : Nat} {r : Running} {s : State} (due : StepDue left r s) :
    ¬ (stepWaits s r.cmd.opcode || r.stepTick == s.tick.count + 1) = true := by
  simp [due.ready, due.fresh]

theorem commandStep_more {left : Nat} {r : Running} {s : State} (due : StepDue left r s) (more : left ≠ 0) :
    commandStep s = steppedState left r s := by
  simp only [commandStep, due.running, if_neg due.stepped, if_neg due.unasked, if_neg due.now, due.moved, if_pos more]
  rfl

/-- The last step ends a command whose image no other module holds. -/
theorem commandStep_last {r : Running} {s : State} (due : StepDue 0 r s) (own : r.cmd.opcode ≠ 0x0304) :
    commandStep s = endStepped (stepTaken 0 r s) (steppedState 0 r s) := by
  simp only [commandStep, due.running, if_neg due.stepped, if_neg due.unasked, if_neg due.now, due.moved, ne_eq, not_true_eq_false, if_false]
  split
  case h_1 load _ => exact absurd load own
  case h_2 => rfl

theorem endStepped_install {r : Running} (install : r.cmd.opcode = 0x0201) (s : State) :
    endStepped r s = finishCmd r.cmd (installPackage r.cmd.payload s).2.1 r.steps (installPackage r.cmd.payload s).2.2
      (endTurn (installPackage r.cmd.payload s).1) := by
  simp only [endStepped, install]

theorem endStepped_stage {r : Running} (stage : r.cmd.opcode = 0x0301) (s : State) :
    endStepped r s = finishCmd r.cmd (stageNow r.cmd.payload s).2.1 r.steps (stageNow r.cmd.payload s).2.2
      (endTurn (stageNow r.cmd.payload s).1) := by
  simp only [endStepped, stage]

/-- Settles O19: a step moves its bytes, the last one ends the command, and an idle turn goes to the first that waits. -/
theorem settingsQueueProceeds : Obligations.SettingsQueueProceeds := by
  unfold Obligations.SettingsQueueProceeds
  constructor
  case left =>
    intro s r awake running stepped unasked ready fresh
    generalize moved : r.bytesLeft - 16 * 2 ^ 20 = left
    have due : StepDue left r s := ⟨running, stepped, Bool.eq_false_iff.1 unasked, ready, fresh, moved⟩
    have run : exec .mailboxCommandStep s = .next (commandStep s) := congrArg _ (live_awake awake _)
    refine ⟨fun more => ?_, fun last install => ?_, fun last stage => ?_⟩
    · exact run.trans (congrArg _ (commandStep_more due (by omega)))
    · obtain rfl : left = 0 := by omega
      exact run.trans (congrArg _ ((commandStep_last due (by omega)).trans (endStepped_install (r := stepTaken 0 r s) install _)))
    · obtain rfl : left = 0 := by omega
      exact run.trans (congrArg _ ((commandStep_last due (by omega)).trans (endStepped_stage (r := stepTaken 0 r s) stage _)))
  case right =>
    intro s c r awake idle waiting
    have next : nextSettings handle s = startSettings handle c { s with fmw := { s.fmw with waiting := r } } := by
      simp only [nextSettings, idle, waiting]
    have start : settingsStart s = retireReset s (nextSettings handle s) := by simp only [settingsStart, idle]
    rw [← next, ← start]
    exact congrArg _ (live_awake awake _)

/-! ### Timers of sessions and security (R391, R513, R521, R564) -/

theorem writeEvent_sessions (e : Event) (s : State) : (writeEvent e s).fmw.sessions = s.fmw.sessions := by
  simp only [writeEvent]
  split
  · rfl
  split
  · exact (congrArg Mehrore.sessions ((raiseMsix_keeps _ _).part .fmw) :)
  split <;> rfl

/-- An event closes no session. -/
theorem raise_sessions (code severity : Nat) (detail : List Byte) (s : State) :
    (raise code severity detail s).fmw.sessions = s.fmw.sessions := by
  simp only [raise, routeEvent]
  split
  · split <;> rfl
  split
  · exact writeEvent_sessions _ s
  split
  · rfl
  split <;> rfl

/-- The end of an open session to which no token is bound. -/
theorem sessionExpired_untokened {id : Nat} {s : State} (held : ∃ x ∈ s.fmw.sessions, x.id = id ∧ x.isOpen = true)
    (untokened : s.sec.token = none) : sessionExpired id s = withoutSession id (raise 0x0001 0 (leBytes 4 id) s) := by
  have found : (s.fmw.sessions.any fun x => x.id == id && x.isOpen) = true := by
    simpa only [List.any_eq_true, Bool.and_eq_true, beq_iff_eq] using held
  have sec : (raise 0x0001 0 (leBytes 4 id) s).sec = s.sec := (raise_keeps _ _ _ s).part .sec
  rw [sessionExpired, if_pos found, closeSession_untokened id (sec ▸ untokened)]

/-- Settles O35: each timer in its case; the event of an expiry leaves the sessions and the token as they were. -/
theorem timersComplete : Obligations.TimersComplete := by
  unfold Obligations.TimersComplete
  refine ⟨?pending, ?expired, ?lockout, ?token, ?reset⟩
  case pending => exact fun id s awake => congrArg _ (live_awake awake _)
  case expired =>
    intro id s awake held untokened r
    have run : exec (.sessionExpired id) s = .next (serveParked (sessionExpired id s)) := congrArg _ (live_awake awake _)
    rw [run, sessionExpired_untokened held untokened, withoutSession, raise_sessions]
  case lockout => exact fun s awake => congrArg _ (live_awake awake _)
  case token =>
    intro s k awake held
    have ends : tokenExpiry s = if s.sec.level = 3 then resetAtOnce 6 s else dropLevel 2 s := by
      simp only [tokenExpiry, held, Option.isSome_some, if_true, endToken]
    rw [← ends]
    exact congrArg _ (live_awake awake _)
  case reset =>
    intro s d awake pending
    have due : delayedReset s = resetAtOnce 5 s := by simp only [delayedReset, pending, Option.isSome_some, if_true]
    rw [← due]
    exact congrArg _ (live_awake awake _)

/-! ### The management mailbox over SMBus (R387) -/

theorem exec_smbusWriteWord {s : State} (awake : Awake s) (off : Nat) (pec : Bool) :
    exec (.smbusWriteWord off pec) s = .next (smbusOffset off pec s) := congrArg _ (live_awake awake _)

theorem exec_smbusBlockWrite {s : State} (awake : Awake s) (data : List Byte) (pec : Bool) :
    exec (.smbusBlockWrite data pec) s = .next (wake (smbusWrite data pec s)) := congrArg _ (live_awake awake _)

theorem exec_smbusBlockRead {s : State} (awake : Awake s) (pec : Bool) :
    exec (.smbusBlockRead pec) s = .next (smbusRead pec s) := congrArg _ (live_awake awake _)

/-- Settles O42: each transaction by its own conditions; a bad checksum, or a mailbox that does not serve, fails the first of them. -/
theorem smbusComplete : Obligations.SmbusComplete := by
  unfold Obligations.SmbusComplete
  refine ⟨?offset, ?write, ?read, ?refused⟩
  case offset =>
    intro off s awake serves aligned inside
    have good : (boxServes s 4 && true && off % 4 == 0 && decide (off ≤ 0x3FFC)) = true := by simp [serves, aligned, inside]
    rw [exec_smbusWriteWord awake, smbusOffset, if_pos good]
    rfl
  case write =>
    intro data s awake serves low high whole writable
    have good : (boxServes s 4 && true && decide (4 ≤ data.length ∧ data.length ≤ 32) && data.length % 4 == 0 &&
        smbusWritable s.fmw.smbusOffset data.length) = true := by simp [serves, low, high, whole, writable]
    rw [exec_smbusBlockWrite awake, smbusWrite, if_pos good]
    rfl
  case read =>
    intro s awake serves inside
    have good : (boxServes s 4 && true && decide (s.fmw.smbusOffset ≤ 0x3FFC)) = true := by simp [serves, inside]
    rw [exec_smbusBlockRead awake, smbusRead, if_pos good]
    rfl
  case refused =>
    intro off data pec s awake refused
    have closed : (boxServes s 4 && pec) = false := by
      rcases refused with bad | deaf
      · simp [bad]
      · simp [deaf]
    refine ⟨?_, ?_, ?_⟩
    · rw [exec_smbusWriteWord awake, smbusOffset, closed]
      rfl
    · rw [exec_smbusBlockWrite awake, smbusWrite, closed]
      rfl
    · rw [exec_smbusBlockRead awake, smbusRead, closed]
      rfl

end Sys2Proof.Safety

namespace Sys2Proof.Safety

open Sys2Proof.Machine

/-! ### Genuine management messages (R397, R398, R412, R414, R440, R442, R487, R515, R539) -/

/-- A genuine message goes on in the state that has consumed its counter. -/
theorem receiveMgmt_genuine {a : MgmtAuth} {s : State} (h : Authentic s a) (k : State → State) :
    receiveMgmt a k s = k (received a s) := by
  obtain ⟨port, tag, fresh⟩ := h
  have passes : mgmtTag (getPort s a.port).keyRx a.message a.counter = a.tag ∧ (getPort s a.port).mgmtRx < a.counter := ⟨tag, fresh⟩
  simp only [receiveMgmt, port, Bool.not_true, Bool.false_eq_true, if_false, if_pos passes]
  rfl

/-- A genuine message on the awake module that it reaches. -/
theorem live_genuine {a : MgmtAuth} {s : State} (awake : Awake s) (h : Authentic s a) (k : State → State) :
    live (receiveMgmt a k) s = k (received a s) := (live_awake awake _).trans (receiveMgmt_genuine h k)

theorem exec_forwardedCommand {a : MgmtAuth} {s : State} (awake : Awake s) (f : Forwarded) :
    exec (.forwardedCommand a f) s = .next (wake (takeForward a f s)) := congrArg _ (live_awake awake _)

/-! #### Effective ticks -/

/-- A forward that brings an effective tick in place of a command. -/
theorem takeForward_effective {a : MgmtAuth} {f : Forwarded} {tick : Nat} {s : State} (h : Authentic s a) (brings : f.effective = some tick) :
    takeForward a f s = takeEffective f.opcode tick f.payload (received a s) := by
  rw [takeForward, receiveMgmt_genuine h]
  simp only [brings]

theorem takeEffective_other {op : Nat} (other : op ≠ 0x0804) (tick : Nat) (payload : List Byte) (s : State) :
    takeEffective op tick payload s = fixEffect op tick s := if_neg other

/-- The state in which a command no longer awaits its effective tick. -/
def tickFixed (op : Nat) (s : State) : State := { s with fmw := { s.fmw with unfixed := s.fmw.unfixed.filter (· != op) } }

/-- That state with the tick, in the module's own count, given to the change that the command asked for. -/
def effectFixed (op eff : Nat) (s : State) : State :=
  let u := tickFixed op s
  if op = 0x0303 then { u with culture := { s.culture with commitAt := s.culture.commitAt.map fun _ => eff } }
  else if op = 0x0305 then { u with index := { s.index with commitAt := s.index.commitAt.map fun _ => eff } }
  else if op = 0x0401 then { u with tick := { s.tick with next := s.tick.next.map fun n => (eff, n.2) } }
  else if op = 0x0402 then { u with fmw := { u.fmw with bwNext := s.fmw.bwNext.map fun n => (eff, n.2) } }
  else { u with fw := { s.fw with live := s.fw.live.map fun n => (n.1, eff) } }

theorem fixEffect_settled {op : Nat} {s : State} (settled : s.fmw.unfixed.contains op = false) (tick : Nat) : fixEffect op tick s = s := by
  simp only [fixEffect, settled, Bool.not_false, if_true]

theorem fixEffect_awaited {op : Nat} {s : State} (awaited : s.fmw.unfixed.contains op = true) (tick : Nat) :
    fixEffect op tick s = effectFixed op (ownTick s tick) s := by
  simp only [fixEffect, awaited, Bool.not_true, Bool.false_eq_true, if_false]
  rfl

theorem takeEffective_replace {s : State} (runs : s.plan.job ≠ none) (tick : Nat) (payload : List Byte) :
    takeEffective 0x0804 tick payload s =
      { s with plan := { s.plan with replace := some { newSet := u32 payload 8, earliest := ownTick s tick } } } :=
  (if_pos rfl).trans (if_pos (Option.isSome_iff_ne_none.2 runs))

/-! #### Responses, reports and grants -/

/-- A forward with a target's response, before it settles (R397, R398). -/
theorem takeResponse_awaited {a : MgmtAuth} {src sequence : Nat} {s : State} {f : Forwarding} (h : Authentic s a)
    (awaits : (s.fmw.forwards.find? fun f => f.cmd.sequence == sequence && f.awaited.contains src) = some f) (st : Status) (payload : List Byte) :
    takeResponse a src sequence st payload s = settleForward { f with
      awaited := f.awaited.filter (· != src), results := aset f.results src st,
      effective := if f.cmd.target = 0xFF ∧ st = .ok then max f.effective ((payloadTick f.cmd.opcode payload).getD 0) else f.effective
      ownPayload := if f.cmd.target = 0xFF then f.ownPayload else withCounter s f.cmd payload } (received a s) := by
  have found : ((received a s).fmw.forwards.find? fun f => f.cmd.sequence == sequence && f.awaited.contains src) = some f := awaits
  rw [takeResponse, receiveMgmt_genuine h]
  simp only [found]
  split_ifs <;> rfl

theorem noteReport_head {s : State} (head : isHead s = true) (r : BudgetReport) :
    noteReport r s = sendIncreases (leadRound (modPower (fun p => { p with
      caps := mput p.caps r.module r.capW, reports := (p.reports.filter fun x => x.module != r.module) ++ [r] }) s)) := by
  simp only [noteReport, head, Bool.not_true, Bool.false_eq_true, if_false]

/-- Settles O37: a genuine message has the effect of its kind, in the state that has consumed its counter. -/
theorem managementMessagesComplete : Obligations.ManagementMessagesComplete := by
  unfold Obligations.ManagementMessagesComplete
  refine ⟨?command, ?effective, ?response, ?event, ?reach, ?report, ?grant, ?acknowledge⟩
  case command =>
    intro a f s awake h command c
    rw [exec_forwardedCommand awake, takeForward, receiveMgmt_genuine h]
    simp only [command]
    rfl
  case effective =>
    intro a f tick s awake h brings u fixed
    have taken : exec (.forwardedCommand a f) s = .next (wake (takeEffective f.opcode tick f.payload u)) := by
      rw [exec_forwardedCommand awake, takeForward_effective h brings]
    have plain (other : f.opcode ≠ 0x0804) : exec (.forwardedCommand a f) s = .next (wake (fixEffect f.opcode tick u)) := by
      rw [taken, takeEffective_other other]
    have fixes {op : Nat} {v : State} (named : f.opcode = op) (other : op ≠ 0x0804) (awaited : s.fmw.unfixed.contains op = true)
        (gives : effectFixed f.opcode (ownTick u tick) u = v) : exec (.forwardedCommand a f) s = .next (wake v) := by
      have awaited : u.fmw.unfixed.contains f.opcode = true := named.symm ▸ awaited
      rw [plain (named.symm ▸ other), fixEffect_awaited awaited, gives]
    refine ⟨?culture, ?index, ?period, ?split, ?live, ?replace, ?settled⟩
    case culture => exact fun named awaited => fixes named (by decide) awaited (if_pos named)
    case index => exact fun named awaited => fixes named (by decide) awaited ((if_neg (by omega)).trans (if_pos named))
    case period =>
      exact fun named awaited => fixes named (by decide) awaited
        ((if_neg (by omega)).trans ((if_neg (by omega)).trans (if_pos named)))
    case split =>
      exact fun named awaited => fixes named (by decide) awaited
        ((if_neg (by omega)).trans ((if_neg (by omega)).trans ((if_neg (by omega)).trans (if_pos named))))
    case live =>
      exact fun named awaited => fixes named (by decide) awaited
        ((if_neg (by omega)).trans ((if_neg (by omega)).trans ((if_neg (by omega)).trans (if_neg (by omega)))))
    case replace =>
      intro named runs
      rw [taken, named, takeEffective_replace (s := u) runs]
      rfl
    case settled =>
      intro other settled
      rw [plain other, fixEffect_settled (s := u) settled]
  case response =>
    intro a src sequence st payload s f awake h awaits
    exact congrArg _ ((live_awake awake _).trans (takeResponse_awaited h awaits st payload))
  case event =>
    intro a ev s awake h head
    exact congrArg _ ((live_genuine awake h _).trans (if_pos head))
  case reach => exact fun a r s awake h => congrArg _ (live_genuine awake h _)
  case report =>
    intro a r s awake h head
    exact congrArg _ ((live_genuine awake h _).trans (noteReport_head (s := received a s) head r))
  case grant =>
    intro a watts effective s awake h pool
    exact congrArg _ ((live_genuine awake h _).trans (if_pos pool))
  case acknowledge => exact fun a src s awake h => congrArg _ (live_genuine awake h _)

end Sys2Proof.Safety

namespace Sys2Proof.Safety

open Sys2Proof.Machine

/-! ### Ports and what goes out on them (R420-R426) -/

theorem fabric_keeps (f : Fabric) (s : State) : Keeps [.fabric] s { s with fabric := f } := by
  intro p hp; cases p <;> simp_all [Same]

theorem free_keeps (n : Nat) (s : State) : Keeps [.free] s { s with free := n } := by
  intro p hp; cases p <;> simp_all [Same]

theorem getPort_modPort_same {p : Nat} (f : Port → Port) {s : State} (there : p < s.fabric.ports.length) :
    getPort (modPort p f s) p = f (getPort s p) := by
  simp [getPort, modPort, List.getD_eq_getElem?_getD, there]

theorem modPort_ports_length (p : Nat) (f : Port → Port) (s : State) :
    (modPort p f s).fabric.ports.length = s.fabric.ports.length := List.length_modify ..

theorem getPort_of_ports {s t : State} (h : t.fabric.ports = s.fabric.ports) (p : Nat) : getPort t p = getPort s p := by
  simp only [getPort, h]

/-- The same port but for what the sending of flits changes: those that wait, those sent, and the credits they take. -/
def SameLink (a b : Port) : Prop :=
  b = { a with txSeq := b.txSeq, waiting := b.waiting, credits := b.credits, mgmtTx := b.mgmtTx }

theorem SameLink.refl (a : Port) : SameLink a a := rfl

theorem sameLink_sending (a : Port) (tx : Nat) (waiting credits : List Nat) (mgmt : Nat) :
    SameLink a { a with txSeq := tx, waiting := waiting, credits := credits, mgmtTx := mgmt } := rfl

theorem SameLink.trans {a b c : Port} (h : SameLink a b) (k : SameLink b c) : SameLink a c := by
  unfold SameLink at h k ⊢
  rw [k, h]

/-- Every port of a state is the same link in another one. -/
structure SameLinks (s t : State) : Prop where
  length : t.fabric.ports.length = s.fabric.ports.length
  link : ∀ p, SameLink (getPort s p) (getPort t p)

theorem SameLinks.refl (s : State) : SameLinks s s := ⟨rfl, fun _ => SameLink.refl _⟩

theorem SameLinks.trans {s t u : State} (h : SameLinks s t) (k : SameLinks t u) : SameLinks s u :=
  ⟨k.length.trans h.length, fun p => (h.link p).trans (k.link p)⟩

/-- A port changed in what the sending of flits changes. -/
theorem sameLinks_modPort (p : Nat) {f : Port → Port} (hf : ∀ x, SameLink x (f x)) (s : State) : SameLinks s (modPort p f s) := by
  refine ⟨modPort_ports_length p f s, fun q => ?_⟩
  by_cases same : q = p
  · subst same
    by_cases there : q < s.fabric.ports.length
    · rw [getPort_modPort_same f there]; exact hf _
    · rw [getPort_of_ports (t := modPort q f s) (List.modify_eq_self (Nat.le_of_not_lt there))]; exact SameLink.refl _
  · rw [getPort_modPort_other p q f s same]; exact SameLink.refl _

theorem sendWaiting_sameLink (x : Port) : SameLink x (sendWaiting x) := by
  have step (cs : List Nat) : ∀ x : Port, SameLink x (cs.foldl (fun p c =>
      let n := min (min (p.waiting.getD c 0) (p.credits.getD c 0)) (1024 - unacked p)
      { p with txSeq := (p.txSeq + n) % 4096, waiting := p.waiting.modify c (· - n), credits := p.credits.modify c (· - n) }) x) := by
    induction cs with
    | nil => exact SameLink.refl
    | cons c r ih => exact fun x => SameLink.trans (sameLink_sending x _ _ _ _) (ih _)
  exact step _ x

theorem postOne_sameLinks (s : State) (m : Nat × Nat × Nat) : SameLinks s (postOne s m) := by
  simp only [postOne]
  split
  · exact sameLinks_modPort _ (fun x => by exact sameLink_sending x _ _ _ _) s
  · exact SameLinks.refl s

theorem postOne_keeps (s : State) (m : Nat × Nat × Nat) : Keeps [.fabric] s (postOne s m) := by
  simp only [postOne]
  split
  · exact modPort_keeps _ _ s
  · exact Keeps.refl _ s

/-- The messages sent since the last time, packed into flits that wait. -/
def packedState (s : State) : State :=
  (((s.sent.take (s.sent.length - s.fabric.posted)).reverse).flatMap (wireOf s)).foldl postOne s

theorem pump_eq (s : State) : pump s = { packedState s with fabric := { (packedState s).fabric with
    posted := (packedState s).sent.length, ports := (packedState s).fabric.ports.map sendWaiting } } := rfl

theorem packedState_sameLinks (s : State) : SameLinks s (packedState s) := by
  have all (ms : List (Nat × Nat × Nat)) : ∀ s : State, SameLinks s (ms.foldl postOne s) := by
    induction ms with
    | nil => exact SameLinks.refl
    | cons m r ih => exact fun s => (postOne_sameLinks s m).trans (ih _)
  exact all _ s

theorem packedState_keeps (s : State) : Keeps [.fabric] s (packedState s) := Keeps.foldl _ postOne_keeps _ s

theorem getPort_pump (s : State) (p : Nat) : SameLink (getPort (packedState s) p) (getPort (pump s) p) := by
  simp only [pump_eq, getPort, List.getD_eq_getElem?_getD, List.getElem?_map]
  cases (packedState s).fabric.ports[p]? with
  | none => exact SameLink.refl _
  | some x => exact sendWaiting_sameLink x

theorem pump_sameLinks (s : State) : SameLinks s (pump s) :=
  (packedState_sameLinks s).trans ⟨List.length_map _, getPort_pump s⟩

theorem pump_keeps (s : State) : Keeps [.fabric] s (pump s) := (packedState_keeps s).trans (fabric_keeps _ _)

/-! ### Flits and replay (R420-R426, R433) -/

theorem exec_flit {s : State} (awake : Awake s) (p : Nat) (bytes : List Byte) (fec bad : Nat) :
    exec (.flit p bytes fec bad) s = .next (noteLinks (takeFlit p bytes fec bad s)) := congrArg _ (live_awake awake _)

theorem exec_linkNak {s : State} (awake : Awake s) (p seq : Nat) :
    exec (.linkNak p seq) s = .next (noteLinks (takeNak p seq s)) := congrArg _ (live_awake awake _)

theorem exec_replayTimeout {s : State} (awake : Awake s) (p : Nat) :
    exec (.replayTimeout p) s = .next (noteLinks (replayTimedOut p s)) := congrArg _ (live_awake awake _)

/-- What a flit finds: the port's FEC counts taken, and the messages before it packed. -/
def flitState (p fec bad : Nat) (s : State) : State :=
  modPort p (fun x => { x with fec := satAdd (2 ^ 32 - 1) x.fec fec, uncorr := satAdd 65535 x.uncorr bad }) (pump s)

theorem flitState_keeps (p fec bad : Nat) (s : State) : Keeps [.fabric] s (flitState p fec bad s) :=
  (pump_keeps s).trans (modPort_keeps p _ _)

theorem flitState_ports_length (p fec bad : Nat) (s : State) : (flitState p fec bad s).fabric.ports.length = s.fabric.ports.length :=
  (modPort_ports_length p _ _).trans (pump_sameLinks s).length

theorem getPort_flitState {p : Nat} {s : State} (there : p < s.fabric.ports.length) (fec bad : Nat) :
    (getPort (flitState p fec bad s) p).rxSeq = (getPort s p).rxSeq ∧
    (getPort (flitState p fec bad s) p).nakSent = (getPort s p).nakSent ∧
    (getPort (flitState p fec bad s) p).fec = min (2 ^ 32 - 1) ((getPort s p).fec + fec) := by
  obtain ⟨length, links⟩ := pump_sameLinks s
  have link : getPort (pump s) p = _ := links p
  rw [flitState, getPort_modPort_same _ (length.symm ▸ there), link]
  exact ⟨rfl, rfl, satAdd_eq_min _ _ _⟩

theorem forwardFlit_sameLinks (d vc : Nat) (s : State) : SameLinks s (forwardFlit d vc s) := by
  simp only [forwardFlit]
  split
  · exact sameLinks_modPort _ (fun x => by exact sameLink_sending x _ _ _ _) s
  · exact SameLinks.refl s

theorem forwardFlit_keeps (d vc : Nat) (s : State) : Keeps [.fabric] s (forwardFlit d vc s) := by
  simp only [forwardFlit]
  split
  · exact modPort_keeps _ _ s
  · exact Keeps.refl _ s

/-- The state after an accepted flit with a body, before it is forwarded. -/
def bodyState (p h : Nat) (s : State) : State :=
  modPort p (fun x => { x with
    rxSeq := (x.rxSeq + 1) % 4096, freed := x.freed.modify (bits h 27 26 * 2 + bits h 10 10) fun n => (n + 1) % 256 })
    (modPort p (takeHeader h) s)

theorem getPort_bodyState {p : Nat} {s : State} (there : p < s.fabric.ports.length) (h : Nat) :
    (getPort (bodyState p h s) p).rxSeq = ((getPort s p).rxSeq + 1) % 4096 ∧ (getPort (bodyState p h s) p).nakSent = false ∧
    (getPort (bodyState p h s) p).fec = (getPort s p).fec := by
  rw [bodyState, getPort_modPort_same _ ((modPort_ports_length p _ s).symm ▸ there), getPort_modPort_same _ there]
  exact ⟨rfl, rfl, rfl⟩

/-- A flit with a good CRC, a body and the expected SEQ is accepted, and forwarded where it is another module's. -/
theorem takeFlit_accepted {p : Nat} {bytes : List Byte} {s : State} (fec : Nat) (up : (getPort s p).state = 3)
    (there : p < s.fabric.ports.length)
    (crc : crc32 (slice bytes 0 252) = BitVec.ofNat 32 (u32 bytes 252)) (body : 2 ≤ bits (u64 bytes 0) 25 22)
    (known : bits (u64 bytes 0) 25 22 ≤ 4) (reserved : bits (u64 bytes 0) 9 8 = 0)
    (inOrder : bits (u64 bytes 0) 63 52 = (getPort s p).rxSeq) :
    takeFlit p bytes fec 0 s =
      let h := u64 bytes 0
      let t := bodyState p h (flitState p fec 0 s)
      pump (if bits h 39 34 = self t then t else forwardFlit (bits h 39 34) (bits h 27 26) t) := by
  obtain ⟨seq, -, -⟩ := getPort_flitState there fec 0
  have listens : ¬ ((getPort s p).state ≠ 3 ∧ (getPort s p).state ≠ 4) := fun h => h.1 up
  have type : ¬ (5 ≤ bits (u64 bytes 0) 25 22 ∨ bits (u64 bytes 0) 9 8 ≠ 0) := by omega
  have order : ¬ bits (u64 bytes 0) 63 52 ≠ (getPort (flitState p fec 0 s) p).rxSeq := not_not_intro (inOrder.trans seq.symm)
  exact (if_neg listens).trans ((if_neg (not_not_intro rfl)).trans ((if_neg (not_not_intro crc)).trans ((if_neg type).trans
    ((if_neg order).trans (congrArg pump (if_neg (Nat.not_lt.2 body)))))))

/-- A flit that FEC cannot correct is discarded. -/
theorem takeFlit_damaged {p bad : Nat} {s : State} (bytes : List Byte) (fec : Nat) (up : (getPort s p).state = 3) (damaged : bad ≠ 0) :
    takeFlit p bytes fec bad s = discardFlit p (flitState p fec bad s) := by
  have listens : ¬ ((getPort s p).state ≠ 3 ∧ (getPort s p).state ≠ 4) := fun h => h.1 up
  exact (if_neg listens).trans (if_pos damaged)

/-- The first discard makes one NAK of the expected SEQ; the SEQ stays. -/
theorem discardFlit_nak {p : Nat} {s : State} (there : p < s.fabric.ports.length) :
    (getPort (discardFlit p s) p).rxSeq = (getPort s p).rxSeq ∧ (getPort (discardFlit p s) p).nakSent = true ∧
    (discardFlit p s).sent = (if (getPort s p).nakSent then s.sent else .nak p (getPort s p).rxSeq :: s.sent) ∧
    Keeps [.fabric, .sent] s (discardFlit p s) := by
  simp only [discardFlit]
  split
  · exact ⟨rfl, ‹_›, rfl, Keeps.refl _ s⟩
  · have port : getPort (emit (.nak p (getPort s p).rxSeq) (modPort p (fun x => { x with nakSent := true }) s)) p =
        { getPort s p with nakSent := true } := getPort_modPort_same _ there
    rw [port]
    exact ⟨rfl, rfl, rfl, ((modPort_keeps p _ s).mono (by simp)).trans ((emit_keeps _ _).mono (by simp))⟩

/-- A port's replay, counted, from its oldest unacknowledged flit. -/
def replayState (p : Nat) (s : State) : State :=
  modPort p (fun x => { x with replayed := x.replayed + 1, replays := min 65535 (x.replays + 1) })
    { s with sent := .resend p (getPort s p).ackSeq :: s.sent }

theorem replayFrom_again {p : Nat} {s : State} (waits : unacked (getPort s p) ≠ 0) (again : (getPort s p).replayed < 8) :
    replayFrom p (getPort s p).ackSeq s = replayState p s := by
  simp only [replayFrom, if_neg waits, if_neg (Nat.not_le.2 again), satAdd_eq_min]
  rfl

theorem replayTimedOut_again {p : Nat} {s : State} (up : (getPort s p).state = 3) (packed : pump s = s)
    (waits : unacked (getPort s p) ≠ 0) (again : (getPort s p).replayed < 8) : replayTimedOut p s = replayState p s := by
  have listens : ¬ ((getPort s p).state ≠ 3 ∧ (getPort s p).state ≠ 4) := fun h => h.1 up
  simp only [replayTimedOut, if_neg listens, packed, replayFrom_again waits again]

/-- A NAK of the oldest unacknowledged flit acknowledges nothing. -/
theorem takeNak_again {p : Nat} {s : State} (up : (getPort s p).state = 3) (packed : pump s = s)
    (waits : unacked (getPort s p) ≠ 0) (again : (getPort s p).replayed < 8) : takeNak p (getPort s p).ackSeq s = replayState p s := by
  have listens : ¬ ((getPort s p).state ≠ 3 ∧ (getPort s p).state ≠ 4) := fun h => h.1 up
  have still : ¬ (1 ≤ ((getPort s p).ackSeq + 4096 - (getPort s p).ackSeq) % 4096 ∧
      ((getPort s p).ackSeq + 4096 - (getPort s p).ackSeq) % 4096 ≤ unacked (getPort s p)) := by omega
  simp only [takeNak, if_neg listens, packed]
  rw [if_neg still, replayFrom_again waits again]

/-! ### Routes after a change of ports (R442) -/

/-- The parts that a change of ports may reach: the fabric, the events it raises and what the module sends. -/
abbrev routeParts : List Part := [.fabric, .evt, .fmw, .cxl, .sent]

theorem reissue_keeps (d : Nat) (s : State) : Keeps [.sent] s (reissue d s) := by
  simp only [reissue]
  refine (Keeps.foldl _ (fun s x => emit_keeps _ s) _ s).trans (Keeps.foldl _ (fun s r => ?_) _ _)
  split
  · exact emit_keeps _ s
  · exact (emit_keeps _ s).trans (emit_keeps _ _)

/-- What a reroute tells of one destination. -/
def tellRoute (back : Bool) (s0 s : State) (d : Nat) : State :=
  match routeOf s0 d, routeOf s d with
  | none, some _ => reissue d s
  | some old, some new =>
    if old = new then s
    else
      let s := raise 0x0805 0 (leBytes 1 d ++ leBytes 1 new.1 ++ leBytes 1 (new.2.getD 0xFF)) s
      if back then s else reissue d s
  | _, none => s

theorem tellRoute_keeps (back : Bool) (s0 s : State) (d : Nat) : Keeps [.evt, .fmw, .cxl, .sent] s (tellRoute back s0 s d) := by
  have again (s : State) : Keeps [.evt, .fmw, .cxl, .sent] s (reissue d s) := (reissue_keeps d s).mono (by simp)
  simp only [tellRoute]
  split
  · exact again s
  · split_ifs
    · exact Keeps.refl _ s
    · exact raise_keeps _ _ _ s
    · exact (raise_keeps _ _ _ s).trans (again _)
  · exact Keeps.refl _ s

/-- A change of ports with the destinations that it leaves within reach. -/
def rerouted (change : State → State) (s : State) : State :=
  let t := change (pump s)
  { t with fabric := { t.fabric with usable := (others t).filter fun d => (routeOf t d).isSome } }

theorem reroute_tells (back : Bool) (change : State → State) (s : State) :
    Keeps [.evt, .fmw, .cxl, .sent] (rerouted change s) (reroute back change s) :=
  Keeps.foldl _ (tellRoute_keeps back s) _ _

theorem reroute_fabric (back : Bool) (change : State → State) (s : State) :
    (reroute back change s).fabric = (rerouted change s).fabric := (reroute_tells back change s).part .fabric

theorem reroute_keeps (back : Bool) {change : State → State} (h : ∀ s, Keeps [.fabric] s (change s)) (s : State) :
    Keeps routeParts s (reroute back change s) := by
  refine Keeps.trans ?_ ((reroute_tells back change s).mono (by simp))
  exact ((pump_keeps s).trans ((h _).trans (fabric_keeps _ _))).mono (by simp)

theorem exec_blockLockLoss {s : State} (awake : Awake s) (p : Nat) :
    exec (.blockLockLoss p) s = .next (noteLinks (portDown p 0 s)) := congrArg _ (live_awake awake _)

theorem portDown_up {p : Nat} {s : State} (up : (getPort s p).state = 3) (cause : Nat) :
    portDown p cause s = emit (.retrain p) (sendReach false
      (raise 0x0802 1 (leBytes 1 p ++ leBytes 1 cause) (reroute false (modPort p (retrainPort 2)) s))) := if_neg fun h => h.1 up

theorem sendReach_keeps (removed : Bool) (s : State) : Keeps [.sent] s (sendReach removed s) := emit_keeps _ s

theorem raise_fabric (code severity : Nat) (detail : List Byte) (s : State) : (raise code severity detail s).fabric = s.fabric :=
  (raise_keeps code severity detail s).part .fabric

theorem portDown_keeps {p : Nat} {s : State} (up : (getPort s p).state = 3) (cause : Nat) :
    Keeps routeParts s (portDown p cause s) := by
  rw [portDown_up up]
  exact (reroute_keeps false (modPort_keeps p _) s).trans (((raise_keeps _ _ _ _).mono (by simp)).trans
    (((sendReach_keeps false _).mono (by simp)).trans ((emit_keeps _ _).mono (by simp))))

/-- A port that goes down trains without its keys. -/
theorem getPort_portDown {p : Nat} {s : State} (up : (getPort s p).state = 3) (there : p < s.fabric.ports.length) (cause : Nat) :
    getPort (portDown p cause s) p = retrainPort 2 (getPort (pump s) p) := by
  have fabric : (portDown p cause s).fabric = (rerouted (modPort p (retrainPort 2)) s).fabric := by
    rw [portDown_up up, sendReach, emit_fabric, emit_fabric, raise_fabric, reroute_fabric]
  have ports : (portDown p cause s).fabric.ports = (modPort p (retrainPort 2) (pump s)).fabric.ports := by rw [fabric]; rfl
  rw [getPort_of_ports ports, getPort_modPort_same _ ((pump_sameLinks s).length.symm ▸ there)]

theorem exec_routeRestore {s : State} (awake : Awake s) : exec .routeRestore s = .next (restoreRoutes s) :=
  congrArg _ (live_awake awake _)

theorem restoreRoutes_keeps (s : State) : Keeps routeParts s (restoreRoutes s) := by
  simp only [restoreRoutes]
  split
  · exact Keeps.refl _ s
  · exact (reroute_keeps true (fabric_keeps _) s).trans ((flushEvents_keeps _).mono (by simp))

theorem restoreRoutes_returning (s : State) : (restoreRoutes s).fabric.returning = [] := by
  simp only [restoreRoutes]
  split
  · exact List.isEmpty_iff.1 ‹_›
  · have fabric : ∀ t : State, (flushEvents t).fabric = t.fabric := fun t => (flushEvents_keeps t).part .fabric
    rw [fabric, reroute_fabric]
    rfl

/-! ### Training and authentication (R430, R514) -/

theorem exec_portTrainingComplete {s : State} (awake : Awake s) (p : Nat) (t : Training) :
    exec (.portTrainingComplete p t) s = .next (noteLinks (portTrained p t s)) := congrArg _ (live_awake awake _)

theorem exec_linkAuthOffer {s : State} (awake : Awake s) (p : Nat) (m : LinkAuth) :
    exec (.linkAuthOffer p m) s = .next (noteLinks (linkOffered p m s)) := congrArg _ (live_awake awake _)

theorem exec_linkAuthReply {s : State} (awake : Awake s) (p : Nat) (m : LinkAuth) :
    exec (.linkAuthReply p m) s = .next (noteLinks (linkReplied p m s)) := congrArg _ (live_awake awake _)

/-- A port is marked, miswired or with a peer that fails its authentication, and an event says so. -/
theorem raise_marks {p : Nat} {s : State} (there : p < s.fabric.ports.length) (code : Nat) (detail : List Byte) :
    let t := raise code 2 detail (modPort p (fun x => { x with state := 6 }) s)
    (getPort t p).state = 6 ∧ Keeps routeParts s t := by
  refine ⟨?_, ((modPort_keeps p _ s).mono (by simp)).trans ((raise_keeps _ _ _ _).mono (by simp))⟩
  rw [getPort_of_ports (congrArg Fabric.ports (raise_fabric _ _ _ _)), getPort_modPort_same _ there]

theorem portTrained_miswired {p : Nat} {t : Training} {s : State} (trains : (getPort s p).state = 2) (ok : t.ok = true)
    (wrong : ¬ (t.configId = s.fabric.topology.configId ∧ peerOf s.fabric.topology (self s) p = some (t.peerModule, t.peerPort))) :
    portTrained p t s = raise 0x0804 2
      (leBytes 1 p ++ leBytes 1 t.peerModule ++ leBytes 1 t.peerPort ++ leBytes 1 (b2n (t.configId != s.fabric.topology.configId)))
      (modPort p (fun x => { x with state := 6 }) s) := by
  simp only [portTrained, trains, ok, ne_eq, not_true_eq_false, Bool.not_true, Bool.false_eq_true, if_false]
  exact if_pos (not_and_or.1 wrong)

/-- An incarnation that is new to this module, or that it knows, is noted and loses nothing. -/
theorem noteIncarnation_known {m inc : Nat} {s : State}
    (known : mget s.fabric.incarnations m = none ∨ mget s.fabric.incarnations m = some inc) :
    noteIncarnation m inc s =
      ({ s with fabric := { s.fabric with incarnations := mput s.fabric.incarnations m inc } }, false) := by
  rcases known with h | h <;> simp [noteIncarnation, h]

/-- The state in which a port knows its peer. -/
def peerKnown (p : Nat) (t : Training) (s : State) : State :=
  modPort p (fun x => { x with peerModule := t.peerModule, peerPort := t.peerPort, trained := true, fresh := false })
    { s with fabric := { s.fabric with incarnations := mput s.fabric.incarnations t.peerModule t.incarnation } }

/-- The initiator's offer, under a new seed. -/
def offered (p : Nat) (s : State) : State :=
  let m := ownLinkMessage s (Config.kemPublic s.free)
  emit (.linkAuth p m) (modPort p (fun x => { x with seed := s.free, offer := linkMessage m }) { s with free := s.free + 1 })

theorem portTrained_right {p : Nat} {t : Training} {s : State} (trains : (getPort s p).state = 2) (ok : t.ok = true)
    (cfg : t.configId = s.fabric.topology.configId) (peer : peerOf s.fabric.topology (self s) p = some (t.peerModule, t.peerPort))
    (known : mget s.fabric.incarnations t.peerModule = none ∨ mget s.fabric.incarnations t.peerModule = some t.incarnation) :
    portTrained p t s = if self s < t.peerModule then offered p (peerKnown p t s) else peerKnown p t s := by
  have right : ¬ (t.configId ≠ s.fabric.topology.configId ∨ peerOf s.fabric.topology (self s) p ≠ some (t.peerModule, t.peerPort)) :=
    fun h => h.elim (· cfg) (· peer)
  simp only [portTrained, trains, ok, ne_eq, not_true_eq_false, Bool.not_true, Bool.false_eq_true, if_false, noteIncarnation_known known]
  exact if_neg right

theorem peerKnown_keeps (p : Nat) (t : Training) (s : State) : Keeps [.fabric] s (peerKnown p t s) :=
  (fabric_keeps _ s).trans (modPort_keeps p _ _)

theorem offered_keeps (p : Nat) (s : State) : Keeps [.fabric, .sent, .free] s (offered p s) :=
  ((free_keeps _ s).mono (by simp)).trans (((modPort_keeps p _ _).mono (by simp)).trans ((emit_keeps _ _).mono (by simp)))

theorem getPort_peerKnown {p : Nat} (t : Training) {s : State} (there : p < s.fabric.ports.length) :
    getPort (peerKnown p t s) p =
      { getPort s p with peerModule := t.peerModule, peerPort := t.peerPort, trained := true, fresh := false } :=
  getPort_modPort_same _ there

theorem getPort_offered {p : Nat} {s : State} (there : p < s.fabric.ports.length) :
    getPort (offered p s) p =
      { getPort s p with seed := s.free, offer := linkMessage (ownLinkMessage s (Config.kemPublic s.free)) } :=
  getPort_modPort_same _ there

theorem joinModule_keeps (m : Nat) (s : State) : Keeps routeParts s (joinModule m s) := by
  simp only [joinModule]
  split
  · exact ((fabric_keeps _ s).mono (by simp)).trans ((raise_keeps _ _ _ _).mono (by simp))
  · exact Keeps.refl _ s

theorem joinModule_ports (m : Nat) (s : State) : (joinModule m s).fabric.ports = s.fabric.ports := by
  simp only [joinModule]
  split
  · rw [raise_fabric]
  · rfl

/-- A port that comes up has its keys; it serves where its unit is in service, and stays idle elsewhere. -/
def upPort (svc : Nat) (tx rx : List Byte) (x : Port) : Port :=
  { x with state := if svc == 0 then 3 else 4, keyTx := tx, keyRx := rx, authed := true, fresh := false }

/-- The state in which a port has come up and its routes wait for the boundary. -/
def upState (p : Nat) (tx rx : List Byte) (s : State) : State :=
  let t := modPort p (upPort (getSvc s (portUnit p)).state tx rx) s
  if (getSvc s (portUnit p)).state == 0 then
    { t with fabric := { t.fabric with returning := sadd t.fabric.returning (linkKey (self t) p) } }
  else t

theorem upState_keeps (p : Nat) (tx rx : List Byte) (s : State) : Keeps [.fabric] s (upState p tx rx s) := by
  simp only [upState]
  split
  · exact (modPort_keeps p _ s).trans (fabric_keeps _ _)
  · exact modPort_keeps p _ s

theorem getPort_upState {p : Nat} {s : State} (there : p < s.fabric.ports.length) (tx rx : List Byte) :
    getPort (upState p tx rx s) p = upPort (getSvc s (portUnit p)).state tx rx (getPort s p) := by
  simp only [upState]
  split <;> exact getPort_modPort_same _ there

/-- That state with the event that tells of the port. -/
def upTold (p : Nat) (tx rx : List Byte) (s : State) : State :=
  let t := upState p tx rx s
  raise 0x0801 0 (leBytes 1 p ++ leBytes 1 (getPort s p).peerModule ++ leBytes 1 (getPort t p).peerPort) t

theorem upTold_keeps (p : Nat) (tx rx : List Byte) (s : State) : Keeps routeParts s (upTold p tx rx s) :=
  ((upState_keeps p tx rx s).mono (by simp)).trans ((raise_keeps _ _ _ _).mono (by simp))

theorem portComesUp_eq (p : Nat) (tx rx : List Byte) (s : State) :
    portComesUp p tx rx s = sendReach false
      (if (getPort s p).fresh then joinModule (getPort s p).peerModule (upTold p tx rx s) else upTold p tx rx s) := rfl

theorem portComesUp_keeps (p : Nat) (tx rx : List Byte) (s : State) : Keeps routeParts s (portComesUp p tx rx s) := by
  rw [portComesUp_eq]
  refine (upTold_keeps p tx rx s).trans (Keeps.trans ?_ ((sendReach_keeps false _).mono (by simp)))
  split
  · exact joinModule_keeps _ _
  · exact Keeps.refl _ _

theorem portComesUp_ports (p : Nat) (tx rx : List Byte) (s : State) :
    (portComesUp p tx rx s).fabric.ports = (upState p tx rx s).fabric.ports := by
  have told : (upTold p tx rx s).fabric.ports = (upState p tx rx s).fabric.ports := by rw [upTold, raise_fabric]
  rw [portComesUp_eq, sendReach, emit_fabric]
  split
  · rw [joinModule_ports, told]
  · exact told

theorem portComesUp_port {p : Nat} {s : State} (there : p < s.fabric.ports.length) (tx rx : List Byte) :
    (getPort (portComesUp p tx rx s) p).authed = true ∧
    (getPort (portComesUp p tx rx s) p).state = (if (getSvc s (portUnit p)).state = 0 then 3 else 4) := by
  rw [getPort_of_ports (portComesUp_ports p tx rx s), getPort_upState there]
  exact ⟨rfl, by simp [upPort]⟩

/-- The responder's state once it has replied to an offer. -/
def repliedTo (p : Nat) (m : LinkAuth) (s : State) : State :=
  let kem := Config.kemEncaps m.keyMaterial s.free
  emit (.linkAuth p (ownLinkMessage s kem.1)) { s with free := s.free + 1 }

theorem repliedTo_keeps (p : Nat) (m : LinkAuth) (s : State) : Keeps [.sent, .free] s (repliedTo p m s) :=
  ((free_keeps _ s).mono (by simp)).trans ((emit_keeps _ _).mono (by simp))

theorem linkOffered_passes {p : Nat} {m : LinkAuth} {s : State} (awaits : awaitsAuth s p false = true) (good : linkFails s m = none) :
    let kem := Config.kemEncaps m.keyMaterial s.free
    let keys := linkKeys kem.2 (linkMessage m) (linkMessage (ownLinkMessage s kem.1))
    linkOffered p m s = portComesUp p keys.2 keys.1 (repliedTo p m s) := by
  simp only [linkOffered, awaits, Bool.not_true, Bool.false_eq_true, if_false, good]
  rfl

theorem linkOffered_fails {p : Nat} {m : LinkAuth} {s : State} (awaits : awaitsAuth s p false = true) {r : Nat}
    (bad : linkFails s m = some r) : linkOffered p m s = peerFails p r s := by
  simp only [linkOffered, awaits, Bool.not_true, Bool.false_eq_true, if_false, bad]

theorem linkReplied_passes {p : Nat} {m : LinkAuth} {s : State} {k : List Byte} (awaits : awaitsAuth s p true = true)
    (good : linkFails s m = none) (key : Config.kemDecaps (getPort s p).seed m.keyMaterial = some k) :
    let keys := linkKeys k (getPort s p).offer (linkMessage m)
    linkReplied p m s = portComesUp p keys.1 keys.2 s := by
  simp only [linkReplied, awaits, Bool.not_true, Bool.false_eq_true, if_false, good, key]

theorem linkReplied_fails {p : Nat} {m : LinkAuth} {s : State} (awaits : awaitsAuth s p true = true)
    (bad : linkFails s m ≠ none ∨ Config.kemDecaps (getPort s p).seed m.keyMaterial = none) :
    ∃ r, linkReplied p m s = peerFails p r s := by
  simp only [linkReplied, awaits, Bool.not_true, Bool.false_eq_true, if_false]
  cases fails : linkFails s m with
  | some r => exact ⟨r, rfl⟩
  | none => exact ⟨1, by rw [bad.resolve_left (not_not_intro fails)]⟩

end Sys2Proof.Safety

namespace Sys2Proof.Safety

open Sys2Proof.Machine

/-! ### Lost modules (R443)

The end of a lost module's requests lets operations, plan units and mailbox commands go on, which reaches nearly all of the model. `gone` is
what the module keeps of the lost ones; each function below leaves it as it is. -/

/-- The modules that are lost, and those of them that are lost for want of a route. -/
def gone (s : State) : List Nat × List Nat := (s.fabric.lost, s.fabric.noRoute)

@[simp] theorem gone_mk {pending start tick plan queues rings ctrs hbm poison host hostPoison sram sramPoison memctl lines culture rc index
    press sticky err evt thr fmw cave fuses sec fw power fabric cxl svc ageing packages sent free} :
    gone ⟨pending, start, tick, plan, queues, rings, ctrs, hbm, poison, host, hostPoison, sram, sramPoison, memctl, lines, culture, rc, index,
      press, sticky, err, evt, thr, fmw, cave, fuses, sec, fw, power, fabric, cxl, svc, ageing, packages, sent, free⟩ =
        (fabric.lost, fabric.noRoute) := rfl

@[simp] theorem gone_fabric (s : State) : (s.fabric.lost, s.fabric.noRoute) = gone s := rfl

theorem Keeps.gone {ps : List Part} {s t : State} (h : Keeps ps s t) (hp : Part.fabric ∉ ps := by decide) : gone t = gone s := by
  have fabric : t.fabric = s.fabric := h .fabric hp
  simp only [Safety.gone, fabric]

@[simp] theorem gone_foldl {α : Type} (f : State → α → State) (h : ∀ s a, gone (f s a) = gone s) (l : List α) (s : State) :
    gone (l.foldl f s) = gone s := by
  induction l generalizing s with
  | nil => rfl
  | cons a r ih => exact (ih _).trans (h s a)

/-- A fold that carries a second value beside the state. -/
@[simp] theorem gone_foldl_fst {α β : Type} (f : State × β → α → State × β) (h : ∀ p a, gone (f p a).1 = gone p.1) (l : List α)
    (p : State × β) : gone (l.foldl f p).1 = gone p.1 := by
  induction l generalizing p with
  | nil => rfl
  | cons a r ih => exact (ih _).trans (h p a)

@[simp] theorem gone_ite (c : Prop) [Decidable c] (a b : State) : gone (if c then a else b) = if c then gone a else gone b :=
  apply_ite _ _ _ _

@[simp] theorem gone_fst_ite {β : Type} (c : Prop) [Decidable c] (a b : State × β) :
    gone (if c then a else b).1 = if c then gone a.1 else gone b.1 := by split <;> rfl

/-! #### What does not touch the fabric -/

@[simp] theorem gone_emit (x : Sent) (s : State) : gone (emit x s) = gone s := rfl

@[simp] theorem gone_raise (code severity : Nat) (detail : List Byte) (s : State) : gone (raise code severity detail s) = gone s :=
  (raise_keeps code severity detail s).gone

@[simp] theorem gone_errRecord (r : ErrRec) (s : State) : gone (errRecord r s) = gone s := (errRecord_keeps r s).gone

@[simp] theorem gone_modQ (q : Nat) (f : Queue → Queue) (s : State) : gone (modQ q f s) = gone s := rfl

@[simp] theorem gone_modOp (q : Nat) (i : U32) (f : Op → Op) (s : State) : gone (modOp q i f s) = gone s := rfl

@[simp] theorem gone_finishOp (q : Nat) (i : U32) (st : Status) (cell : Nat) (s : State) : gone (finishOp q i st cell s) = gone s := rfl

@[simp] theorem gone_stopQueue (q : Nat) (st : Status) (s : State) : gone (stopQueue q st s) = gone s := (stopQueue_keeps q st s).gone

@[simp] theorem gone_setC (c : Nat) (v : Ctr) (s : State) : gone (setC c v s) = gone s := rfl

@[simp] theorem gone_modC (c : Nat) (f : Ctr → Ctr) (s : State) : gone (modC c f s) = gone s := rfl

@[simp] theorem gone_modEngine (n : Nat) (f : RcEngine → RcEngine) (s : State) : gone (modEngine n f s) = gone s := rfl

@[simp] theorem gone_modJob (f : Job → Job) (s : State) : gone (modJob f s) = gone s := rfl

@[simp] theorem gone_modUnit (u : UnitId) (f : UnitRun → UnitRun) (s : State) : gone (modUnit u f s) = gone s := rfl

@[simp] theorem gone_failSoon (st : Status) (s : State) : gone (failSoon st s) = gone s := rfl

@[simp] theorem gone_freePress (q : Nat) (i : U32) (s : State) : gone (freePress q i s) = gone s := (freePress_keeps q i s).gone

@[simp] theorem gone_pressEnd (q : Nat) (i : U32) (s : State) : gone (pressEnd q i s) = gone s := (pressEnd_keeps q i s).gone

@[simp] theorem gone_touch (who : Who) (a : LAddr) (len : Nat) (s : State) : gone (touch who a len s) = gone s := (touch_keeps who a len s).gone

@[simp] theorem gone_touchHbm (who : Who) (a len : Nat) (s : State) : gone (touchHbm who a len s) = gone s := (touchHbm_keeps who a len s).gone

@[simp] theorem gone_writeHbm (a : Nat) (data : List Byte) (flags : List Bool) (s : State) : gone (writeHbm a data flags s) = gone s :=
  (writeHbm_keeps a data flags s).gone

@[simp] theorem gone_poke (a : LAddr) (data : List Byte) (flags : List Bool) (s : State) : gone (poke a data flags s) = gone s :=
  (poke_keeps a data flags s).gone

@[simp] theorem gone_scramble (a : LAddr) (len : Nat) (s : State) : gone (scramble a len s) = gone s := (scramble_keeps a len s).gone

@[simp] theorem gone_sramRecord (type severity source unit off status : Nat) (who : Who) (l : Latent) (s : State) :
    gone (sramRecord type severity source unit off status who l s) = gone s := (sramRecord_keeps type severity source unit off status who l s).gone

@[simp] theorem gone_correctSram (source unit off : Nat) (who : Who) (l : Latent) (s : State) :
    gone (correctSram source unit off who l s) = gone s := (correctSram_keeps source unit off who l s).gone

@[simp] theorem gone_unitUncorr (u : UnitId) (s : State) : gone (unitUncorr u s) = gone s := (unitUncorr_keeps u s).gone

@[simp] theorem gone_fillLines (die : Nat) (a : LAddr) (len : Nat) (s : State) : gone (fillLines die a len s) = gone s :=
  (fillLines_keeps die a len s).gone

@[simp] theorem gone_cacheAnswer (r : OutReq) (st : Status) (s : State) : gone (cacheAnswer r st s) = gone s := (cacheAnswer_keeps r st s).gone

@[simp] theorem gone_arriveWait (c : Nat) (w : Wait) (s : State) : gone (arriveWait c w s).1 = gone s := (arriveWait_keeps c w s).gone

@[simp] theorem gone_retireCulture (s : State) : gone (retireCulture s) = gone s := (retireCulture_keeps s).gone

@[simp] theorem gone_dropCheck (owner : Nat) (d : List Byte) (s : State) : gone (dropCheck owner d s) = gone s := (dropCheck_keeps owner d s).gone

@[simp] theorem gone_encodeEnds (q : Nat) (i : U32) (d : List Byte) (s : State) : gone (encodeEnds q i d s) = gone s :=
  (encodeEnds_keeps q i d s).gone

@[simp] theorem gone_settleForward (f : Forwarding) (s : State) : gone (settleForward f s) = gone s := (settleForward_keeps f s).gone

@[simp] theorem gone_hostFailed (s : State) : gone (hostFailed s) = gone s := by simp [hostFailed]

@[simp] theorem gone_openSlot (r q : Nat) (s : State) : gone (openSlot r q s) = gone s := by
  simp only [openSlot]
  split <;> rfl

/-! #### Requests and counters -/

@[simp] theorem gone_issue (kind dst address len amount : Nat) (data : List Byte) (bad : List Nat) (cache : Option Nat) (q : Nat) (idx : U32)
    (s : State) : gone (issue kind dst address len amount data bad cache q idx s).1 = gone s := by simp [issue]

@[simp] theorem gone_issueFor (q : Nat) (idx : U32) (kind dst address len amount : Nat) (data : List Byte) (bad : List Nat)
    (cache : Option Nat) (s : State) : gone (issueFor q idx kind dst address len amount data bad cache s) = gone s := by
  simp only [issueFor]
  split
  · rfl
  · exact gone_issue ..

@[simp] theorem gone_releaseWaiter (st : Status) (s : State) (w : Waiter) : gone (releaseWaiter st s w) = gone s := by
  cases w with
  | unit u => simp only [releaseWaiter]; split <;> rfl
  | _ => simp [releaseWaiter]

@[simp] theorem gone_settle (c : Nat) (s : State) : gone (settle c s) = gone s := by simp [settle]

@[simp] theorem gone_signalCounter (c : Nat) (n : U32) (s : State) : gone (signalCounter c n s).1 = gone s := by
  simp only [signalCounter]
  split
  · rfl
  · split_ifs <;> simp

@[simp] theorem gone_withdraw (p : Waiter → Bool) (s : State) : gone (withdraw p s) = gone s := by simp [withdraw]

@[simp] theorem gone_ringSignal (c : Nat) (s : State) : gone (ringSignal c s) = gone s := by
  simp only [ringSignal]
  split
  · rfl
  · split <;> simp

@[simp] theorem gone_publishSlot (r : Nat) (s : State) : gone (publishSlot r s) = gone s := by
  simp only [publishSlot]
  split <;> simp

/-! #### Operations that write and end -/

@[simp] theorem gone_writeChunk (q : Nat) (idx : U32) (light : Bool) (c : Chunk) (s : State) : gone (writeChunk q idx light c s) = gone s := by
  simp only [writeChunk]
  split <;> simp

@[simp] theorem gone_writeAfter (q : Nat) (idx : U32) (cs : List Chunk) (s : State) : gone (writeAfter q idx cs s) = gone s := by
  induction cs generalizing s with
  | nil => rfl
  | cons c r ih =>
    simp only [writeAfter]
    split
    · rfl
    · simp [ih]

@[simp] theorem gone_awaitOrEnd (q : Nat) (idx : U32) (s : State) : gone (awaitOrEnd q idx s) = gone s := by
  simp only [awaitOrEnd]
  split <;> simp

@[simp] theorem gone_commitUp (q : Nat) (idx : U32) (light : Bool) (r : DataRes) (s : State) : gone (commitUp q idx light r s) = gone s := by
  simp [commitUp, hostFails, commit]

/-! #### Range coding -/

@[simp] theorem gone_setCtx (c : Nat) (x : Ctx) (s : State) : gone (setCtx c x s) = gone s := rfl

@[simp] theorem gone_closeCtx (c : Nat) (s : State) : gone (closeCtx c s) = gone s := by simp [closeCtx]

@[simp] theorem gone_noteCorrupt (n : Nat) (st : Status) (s : State) : gone (noteCorrupt n st s) = gone s := by simp [noteCorrupt]

@[simp] theorem gone_closeContexts (q : Nat) (s : State) : gone (closeContexts q s) = gone s := by simp [closeContexts]

@[simp] theorem gone_tableFailure (who : Who) (n off : Nat) (l : Latent) (s : State) : gone (tableFailure who n off l s) = gone s := by
  simp [tableFailure]

@[simp] theorem gone_tableRead (who : Who) (n gen : Nat) (e : ModelEntry) (fault : Bool) (s : State) :
    gone (tableRead who n gen e fault s).1 = gone s := by simp [tableRead]

@[simp] theorem gone_loopMismatch (enc chk level q : Nat) (cause : Status) (scratch : Nat) (d : List Byte) (s : State) :
    gone (loopMismatch enc chk level q cause scratch d s) = gone s := by simp [loopMismatch]

@[simp] theorem gone_loseCheck (chk t : Nat) (cause : Status) (s : State) : gone (loseCheck chk t cause s) = gone s := by
  simp only [loseCheck]
  split <;> simp

@[simp] theorem gone_failCtx (c : Nat) (x : Ctx) (st : Status) (s : State) : gone (failCtx c x st s) = gone s := by simp [failCtx]

@[simp] theorem gone_rcBegin (owner gen : Nat) (d : List Byte) (s : State) : gone (rcBegin owner gen d s).1 = gone s := by
  simp only [rcBegin]
  split
  · rfl
  · split
    · rfl
    · split
      · rfl
      · split
        · simp
        · split <;> simp

@[simp] theorem gone_rcPass (owner : Nat) (fault : Bool) (d : List Byte) (s : State) : gone (rcPass owner fault d s).1 = gone s := by
  simp only [rcPass]
  split
  · rfl
  · split_ifs <;> simp
    all_goals split <;> simp

@[simp] theorem gone_noteInsert (table : Nat) (s : State) : gone (noteInsert table s) = gone s := by simp [noteInsert]

@[simp] theorem gone_addFill (table : Nat) (n : Int) (s : State) : gone (addFill table n s) = gone s := by simp [addFill]

@[simp] theorem gone_probeAll (who : Who) (table key : Nat) (s : State) : gone (probeAll who table key s).1 = gone s := by simp [probeAll]

@[simp] theorem gone_putEntryIn (who : Who) (table : Nat) (e : List Byte) (s : State) : gone (putEntryIn who table e s).1 = gone s := by
  simp only [putEntryIn]
  split_ifs
  · simp
  · split
    · simp
    · split <;> simp

@[simp] theorem gone_releaseWheel (q : Nat) (d w : List Byte) (words escaped : Nat) (s : State) :
    gone (releaseWheel q d w words escaped s).1 = gone s := by
  simp only [releaseWheel]
  split_ifs <;> simp

@[simp] theorem gone_endCheck (c t : Nat) (failed : Option Status) (digest : List Byte) (dest : List Chunk) (s : State) :
    gone (endCheck c t failed digest dest s).1 = gone s := by
  simp only [endCheck]
  split
  · rfl
  · split_ifs <;> simp

@[simp] theorem gone_rcEnd (owner : Nat) (d : List Byte) (s : State) : gone (rcEnd owner d s).1 = gone s := by
  simp only [rcEnd]
  split
  · rfl
  · split
    · rfl
    · split
      · split <;> simp
      · split
        · rfl
        · split
          · rfl
          · split <;> simp

@[simp] theorem gone_rcCheck (k : Nat) (inPlan : Bool) (d : List Byte) (s : State) : gone (rcCheck k inPlan d s).1 = gone s := by
  simp only [rcCheck]
  split
  · rfl
  · split <;> simp

@[simp] theorem gone_rcEncode (inPlan : Bool) (owner gen : Nat) (fault : Bool) (d : List Byte) (s : State) :
    gone (rcEncode inPlan owner gen fault d s).1 = gone s := by
  simp only [rcEncode]
  split
  · rfl
  · split
    · rfl
    · split
      · rfl
      · split
        · rfl
        · split
          · simp
          · split
            · simp
            · split
              · simp
              · split
                · simp
                · split <;> simp

/-! #### Operations that sample -/

@[simp] theorem gone_modRun (q : Nat) (idx : U32) (f : SampleRun → SampleRun) (s : State) : gone (modRun q idx f s) = gone s := rfl

@[simp] theorem gone_modFlight (q : Nat) (idx : U32) (k : Nat) (f : Flight → Flight) (s : State) : gone (modFlight q idx k f s) = gone s := rfl

@[simp] theorem gone_skipEmpty (q : Nat) (idx : U32) (n : Nat) (s : State) : gone (skipEmpty q idx n s) = gone s := by
  induction n generalizing s with
  | zero => rfl
  | succ n ih =>
    simp only [skipEmpty]
    split
    · rfl
    · simp [ih]

@[simp] theorem gone_endFlight (q : Nat) (idx : U32) (fl : Flight) (st : Status) (header data : List Byte) (s : State) :
    gone (endFlight q idx fl st header data s) = gone s := by
  simp only [endFlight, gone_modFlight]
  split <;> simp

@[simp] theorem gone_checkFlight (q : Nat) (idx : U32) (o : Op) (fl : Flight) (c : Nat) (v : Ctx) (src : LAddr) (s : State) :
    gone (checkFlight q idx o fl c v src s) = gone s := by
  simp only [checkFlight]
  split_ifs
  · simp
  · split
    · simp
    · split <;> simp

@[simp] theorem gone_copyWheel (b : Nat) (src : LAddr) (len : Nat) (s : State) : gone (copyWheel b src len s) = gone s := by simp [copyWheel]

@[simp] theorem gone_askWheel (q : Nat) (idx : U32) (k m a len : Nat) (s : State) : gone (askWheel q idx k m a len s) = gone s := by
  simp [askWheel]

@[simp] theorem gone_fetchFlight (q : Nat) (idx : U32) (o : Op) (fl : Flight) (s : State) : gone (fetchFlight q idx o fl s) = gone s := by
  simp only [fetchFlight]
  split
  · rfl
  · split_ifs
    · rfl
    · simp
    · split
      · simp
      · split <;> simp

@[simp] theorem gone_openFlight (q : Nat) (idx : U32) (o : Op) (fl : Flight) (s : State) : gone (openFlight q idx o fl s) = gone s := by
  simp only [openFlight]
  split <;> rfl

@[simp] theorem gone_decodeEntry (who : Who) (x : Sa) (ff n c : Nat) (v : Ctx) (fault : Bool) (s : State) :
    gone (decodeEntry who x ff n c v fault s).1 = gone s := by
  simp only [decodeEntry]
  split
  · simp
  · split
    · simp
    · split
      · simp
      · split <;> simp

@[simp] theorem gone_decodeFlight (q : Nat) (idx : U32) (o : Op) (fl : Flight) (fault : Bool) (s : State) :
    gone (decodeFlight q idx o fl fault s).1 = gone s := by
  simp only [decodeFlight]
  split
  · rfl
  · split_ifs <;> simp

@[simp] theorem gone_advanceFlight (q : Nat) (idx : U32) (k : Nat) (p : State × Bool) : gone (advanceFlight q idx k p).1 = gone p.1 := by
  unfold advanceFlight
  extract_lets run kept opened
  have runs {f : Op → Flight → State → State} (h : ∀ o fl s, gone (f o fl s) = gone s) (s : State) : gone (run f s) = gone s := by
    dsimp only [run]
    split
    · simp [h]
    · rfl
  have stopped (o : Op) (fl : Flight) (s : State) :
      gone (if planRuns s (saOf o.desc).plan then s else endFlight q idx fl .preempted [] [] s) = gone s := by simp
  have gone_opened : gone opened = gone p.1 := by
    dsimp only [opened, kept]
    exact (runs (gone_fetchFlight q idx) _).trans ((runs (gone_openFlight q idx) _).trans (runs stopped _))
  split
  · simp [gone_opened]
  · exact gone_opened

@[simp] theorem gone_leaveFlight (q : Nat) (idx : U32) (fl : Flight) (f : SampleRun → SampleRun) (s : State) :
    gone (leaveFlight q idx fl f s) = gone s := by
  simp only [leaveFlight, gone_modRun]
  split <;> simp

@[simp] theorem gone_sampleFails (q : Nat) (idx : U32) (st : Status) (s : State) : gone (sampleFails q idx st s) = gone s := by
  simp [sampleFails]

@[simp] theorem gone_sampleVisible (q : Nat) (idx ring) (s : State) : gone (sampleVisible q idx ring s) = gone s := by
  simp only [sampleVisible]
  split
  · split_ifs
    · simp
    · split <;> simp
  · rfl

@[simp] theorem gone_sampleSlot (q : Nat) (idx : U32) (ring : Nat) (data : List Byte) (s : State) :
    gone (sampleSlot q idx ring data s) = gone s := by
  simp only [sampleSlot]
  split
  · rfl
  · split_ifs
    · simp
    · split <;> simp

@[simp] theorem gone_deliver (q : Nat) (idx : U32) (n : Nat) (s : State) : gone (deliver q idx n s) = gone s := by
  induction n generalizing s with
  | zero => rfl
  | succ n ih =>
    simp only [deliver]
    split
    · rfl
    · split
      · rfl
      · split
        · rfl
        · simp [ih]

@[simp] theorem gone_sampleEnd (q : Nat) (idx : U32) (s : State) : gone (sampleEnd q idx s) = gone s := by
  simp only [sampleEnd]
  split <;> simp

@[simp] theorem gone_sampleAdvance (q : Nat) (idx : U32) (fault : Bool) (s : State) : gone (sampleAdvance q idx fault s) = gone s := by
  simp only [sampleAdvance]
  split
  · rfl
  · simp

/-! #### Plan units -/

@[simp] theorem gone_unitNext (u : UnitId) (s : State) : gone (unitNext u s) = gone s := rfl

@[simp] theorem gone_unitIssue (u : UnitId) (kind dst address len amount : Nat) (data : List Byte) (bad : List Nat) (cache : Option Nat)
    (s : State) : gone (unitIssue u kind dst address len amount data bad cache s) = gone s := by
  simp only [unitIssue]
  split <;> simp

@[simp] theorem gone_unitCounter (u : UnitId) (op module counter amount phase : Nat) (s : State) :
    gone (unitCounter u op module counter amount phase s) = gone s := by
  simp only [unitCounter]
  split_ifs
  · simp
  · simp
  · simp
  · simp
  · split <;> simp

@[simp] theorem gone_unitAsk (u : UnitId) (cache : Option Nat) (spans : List (Nat × Nat × Nat)) (shared : List (Nat × Nat)) (phase : Nat)
    (s : State) : gone (unitAsk u cache spans shared phase s) = gone s := by simp [unitAsk]

@[simp] theorem gone_unitChecked (q : Nat) (r : UnitRun) (op : PlanOp) (run : Nat → State → State) (s : State)
    (h : ∀ n s, gone (run n s) = gone s) : gone (unitChecked q r op run s) = gone s := by
  unfold unitChecked
  extract_lets first second read
  have gone_read : gone read = gone s := by simp [read]
  split
  · simp
  · split
    · simp
    · split
      · exact h _ s
      · split <;> simp [h, gone_read]

@[simp] theorem gone_unitEnd (u : UnitId) (op : PlanOp) (s : State) : gone (unitEnd u op s) = gone s := by
  unfold unitEnd
  extract_lets p stored published
  have gone_stored : gone stored = gone s := by
    dsimp only [stored]
    split <;> rfl
  have gone_published : gone published = gone s := by
    dsimp only [published]
    split <;> simp [gone_stored]
  simp [gone_published]

@[simp] theorem gone_unitFails (u : UnitId) (op : PlanOp) (st : Status) (s : State) : gone (unitFails u op st s) = gone s := by
  simp only [unitFails, gone_unitNext, gone_failSoon]
  split <;> simp

@[simp] theorem gone_unitHostFails (u : UnitId) (op : PlanOp) (outs : List (LAddr × Nat)) (s : State) :
    gone (unitHostFails u op outs s) = gone s := by simp [unitHostFails]

@[simp] theorem gone_fillHost (cache : Option Nat) (reads : List (LAddr × Nat)) (s : State) : gone (fillHost cache reads s) = gone s := by
  simp only [fillHost]
  split <;> simp

@[simp] theorem gone_unitWrite (u : UnitId) (c : Chunk) (s : State) : gone (unitWrite u c s) = gone s := by
  simp only [unitWrite]
  split <;> simp

@[simp] theorem gone_unitCommit (u : UnitId) (op : PlanOp) (r : DataRes) (s : State) : gone (unitCommit u op r s) = gone s := by
  simp only [unitCommit]
  split_ifs
  · simp
  · split <;> simp
  · split <;> simp

@[simp] theorem gone_vatsFail (u : UnitId) (op : PlanOp) (vats : List Nat) (outs : List (LAddr × Nat)) (s : State) :
    gone (vatsFail u op vats outs s) = gone s := by simp [vatsFail]

@[simp] theorem gone_unitData (u : UnitId) (op : PlanOp) (phase : Nat) (cache : Option Nat) (reads : List (LAddr × Nat))
    (run : State → State × DataRes) (s : State) (h : ∀ s, gone (run s).1 = gone s) :
    gone (unitData u op phase cache reads run s) = gone s := by
  simp [unitData, h]

@[simp] theorem gone_unitRange (u : UnitId) (q : Nat) (op : PlanOp) (phase : Nat) (d : List Byte) (s : State) :
    gone (unitRange u q op phase d s) = gone s := by
  simp only [unitRange]
  split
  · simp
  · simp
  · simp
  · split <;> simp
  · rfl

@[simp] theorem gone_unitTensor (u : UnitId) (q : Nat) (op : PlanOp) (phase : Nat) (s : State) : gone (unitTensor u q op phase s) = gone s := by
  unfold unitTensor
  extract_lets opened
  have gone_opened : gone opened = gone s := by
    dsimp only [opened]
    split
    · split <;> simp
    · rfl
  split
  · rw [gone_unitData _ _ _ _ _ _ _ fun _ => rfl, gone_opened]
  · simp [gone_opened]

@[simp] theorem gone_unitOp (q : Nat) (r : UnitRun) (op : PlanOp) (s : State) : gone (unitOp q r op s) = gone s := by
  cases op <;> simp [unitOp]

@[simp] theorem gone_unitPass (s : State) : gone (unitPass s) = gone s := by
  simp only [unitPass]
  split
  · rfl
  · refine gone_foldl _ (fun s r => ?_) _ s
    split
    · split <;> simp
    · rfl

@[simp] theorem gone_wake (s : State) : gone (wake s) = gone s := by
  have passes (n : Nat) : ∀ s, gone (unitPasses n s) = gone s := by
    induction n with
    | zero => exact fun _ => rfl
    | succ n ih => exact fun s => (ih _).trans (gone_unitPass s)
  simp [wake, passes]

/-! #### The end of a lost module's requests -/

@[simp] theorem gone_opGoesOn (q : Nat) (idx : U32) (r : OutReq) (o : Op) (s : State) : gone (opGoesOn q idx r o s) = gone s := by
  simp only [opGoesOn]
  split <;> simp

@[simp] theorem gone_opAnswered (r : OutReq) (st : Status) (q : Nat) (idx : U32) (s : State) : gone (opAnswered r st q idx s) = gone s := by
  simp only [opAnswered]
  split <;> simp

@[simp] theorem gone_unitAnswered (r : OutReq) (st : Status) (u : UnitId) (s : State) : gone (unitAnswered r st u s) = gone s := by
  simp [unitAnswered]

@[simp] theorem gone_headAnswered (r : OutReq) (st : Status) (s : State) : gone (headAnswered r st s) = gone s := rfl

@[simp] theorem gone_commandAnswered (r : OutReq) (st : Status) (s : State) : gone (commandAnswered r st s) = gone s := rfl

@[simp] theorem gone_answered (r : OutReq) (st : Status) (s : State) : gone (Machine.answered r st s) = gone s := by
  simp [Machine.answered]

@[simp] theorem gone_loseRequest (st : Status) (r : OutReq) (s : State) : gone (loseRequest st r s) = gone s := by
  simp only [loseRequest, gone_answered]
  refine gone_foldl _ (fun s w => ?_) _ s
  split <;> simp

end Sys2Proof.Safety

namespace Sys2Proof.Safety

open Sys2Proof.Machine

/-! ### The link and routing rows (R426, R427, R430, R442, R443, R514) -/

theorem exec_noRouteTimeout {s : State} (awake : Awake s) (m : Nat) : exec (.noRouteTimeout m) s = .next (noRouteFor m s) :=
  congrArg _ (live_awake awake _)

/-- A module that is lost for want of a route. -/
theorem loseModule_gone {m : Nat} {s : State} (known : fromModule s m = true) (present : s.fabric.lost.contains m = false) :
    gone (loseModule m 2 s) = (sadd s.fabric.lost m, sadd s.fabric.noRoute m) := by
  simp only [loseModule, known, present, Bool.not_true, Bool.false_or, Bool.false_eq_true, if_false]
  simp

/-- What the next flit in order leaves of its port. -/
theorem takeFlit_port {p : Nat} {bytes : List Byte} {s : State} (fec : Nat) (up : (getPort s p).state = 3)
    (there : p < s.fabric.ports.length)
    (crc : crc32 (slice bytes 0 252) = BitVec.ofNat 32 (u32 bytes 252)) (body : 2 ≤ bits (u64 bytes 0) 25 22)
    (known : bits (u64 bytes 0) 25 22 ≤ 4) (reserved : bits (u64 bytes 0) 9 8 = 0)
    (inOrder : bits (u64 bytes 0) 63 52 = (getPort s p).rxSeq) :
    (getPort (takeFlit p bytes fec 0 s) p).rxSeq = ((getPort s p).rxSeq + 1) % 4096 ∧
    (getPort (takeFlit p bytes fec 0 s) p).nakSent = false ∧
    (getPort (takeFlit p bytes fec 0 s) p).fec = min (2 ^ 32 - 1) ((getPort s p).fec + fec) ∧
    Keeps [.fabric] s (takeFlit p bytes fec 0 s) := by
  rw [takeFlit_accepted fec up there crc body known reserved inOrder]
  extract_lets h t
  obtain ⟨seq, -, count⟩ := getPort_flitState there fec 0
  obtain ⟨seq', nak', count'⟩ := getPort_bodyState (flitState_ports_length p fec 0 s ▸ there) h
  have kept : Keeps [.fabric] s t := (flitState_keeps p fec 0 s).trans ((modPort_keeps p _ _).trans (modPort_keeps p _ _))
  have sent {u : State} (links : SameLinks t u) (frame : Keeps [.fabric] t u) :
      (getPort (pump u) p).rxSeq = ((getPort s p).rxSeq + 1) % 4096 ∧ (getPort (pump u) p).nakSent = false ∧
      (getPort (pump u) p).fec = min (2 ^ 32 - 1) ((getPort s p).fec + fec) ∧ Keeps [.fabric] s (pump u) := by
    have link : getPort (pump u) p = _ := (links.trans (pump_sameLinks u)).link p
    rw [link]
    exact ⟨by rw [seq', seq], nak', count'.trans count, kept.trans (frame.trans (pump_keeps u))⟩
  split
  · exact sent (SameLinks.refl t) (Keeps.refl _ t)
  · exact sent (forwardFlit_sameLinks _ _ t) (forwardFlit_keeps _ _ t)

/-- What a damaged flit leaves of its port. -/
theorem takeFlit_damaged_port {p bad : Nat} (bytes : List Byte) (fec : Nat) {s : State} (up : (getPort s p).state = 3)
    (there : p < s.fabric.ports.length) (damaged : bad ≠ 0) :
    (getPort (takeFlit p bytes fec bad s) p).rxSeq = (getPort s p).rxSeq ∧
    (getPort (takeFlit p bytes fec bad s) p).nakSent = true ∧
    (takeFlit p bytes fec bad s).sent = (if (getPort s p).nakSent then s.sent else .nak p (getPort s p).rxSeq :: s.sent) ∧
    Keeps [.fabric, .sent] s (takeFlit p bytes fec bad s) := by
  rw [takeFlit_damaged bytes fec up damaged]
  obtain ⟨seq, nak, -⟩ := getPort_flitState there fec bad
  obtain ⟨seq', nak', sent, frame⟩ := discardFlit_nak (p := p) (flitState_ports_length p fec bad s ▸ there)
  have wires : (flitState p fec bad s).sent = s.sent := (flitState_keeps p fec bad s).part .sent
  rw [seq, nak, wires] at sent
  exact ⟨seq'.trans seq, nak', sent, ((flitState_keeps p fec bad s).mono (by simp)).trans frame⟩

/-- Settles O56: each row by its own equation. The sending of flits and a reroute leave of a port all but what flits take, and the end of a
lost module's requests leaves the list of the lost. -/
theorem fabricLinksComplete : Obligations.FabricLinksComplete := by
  unfold Obligations.FabricLinksComplete
  refine ⟨?flit, ?damaged, ?replay, ?lockLoss, ?training, ?offer, ?reply, ?restore, ?noRoute⟩
  case flit =>
    intro p bytes fec s awake hp ports up crc body known reserved inOrder
    exact ⟨_, exec_flit awake .., takeFlit_port fec up (ports.symm ▸ hp) crc body known reserved inOrder⟩
  case damaged =>
    intro p bytes fec bad s awake hp ports up damaged
    exact ⟨_, exec_flit awake .., takeFlit_damaged_port bytes fec up (ports.symm ▸ hp) damaged⟩
  case replay =>
    intro p seq s awake hp ports up packed waits again
    refine ⟨?_, fun oldest _ => ?_⟩
    · rw [exec_replayTimeout awake, replayTimedOut_again up packed waits again]
      rfl
    · rw [exec_linkNak awake, oldest, takeNak_again up packed waits again]
      rfl
  case lockLoss =>
    intro p s awake hp ports up
    refine ⟨_, exec_blockLockLoss awake p, ?_⟩
    rw [getPort_portDown up (ports.symm ▸ hp)]
    exact ⟨rfl, rfl, rfl, rfl, portDown_keeps up 0⟩
  case training =>
    intro p t s awake hp ports trains ok
    have there : p < s.fabric.ports.length := ports.symm ▸ hp
    refine ⟨fun wrong => ⟨_, exec_portTrainingComplete awake p t, ?_⟩, fun right known => ⟨_, exec_portTrainingComplete awake p t, ?_⟩⟩
    · rw [portTrained_miswired trains ok wrong]
      exact raise_marks there _ _
    · obtain ⟨cfg, peer⟩ := right
      rw [portTrained_right trains ok cfg peer known]
      have there' : p < (peerKnown p t s).fabric.ports.length := (modPort_ports_length p _ _).symm ▸ there
      split
      · rw [getPort_offered there', getPort_peerKnown t there]
        exact ⟨rfl, rfl, rfl, mget_mput_same _ _ _, rfl, ((peerKnown_keeps p t s).mono (by simp)).trans (offered_keeps p _)⟩
      · rw [getPort_peerKnown t there]
        exact ⟨rfl, rfl, rfl, mget_mput_same _ _ _, rfl, (peerKnown_keeps p t s).mono (by simp)⟩
  case offer =>
    intro p m s awake hp ports awaits
    have there : p < s.fabric.ports.length := ports.symm ▸ hp
    refine ⟨_, exec_linkAuthOffer awake p m, ?_⟩
    cases fails : linkFails s m with
    | none =>
      rw [linkOffered_passes awaits fails]
      have comesUp := portComesUp_port (s := repliedTo p m s) (p := p) there
      refine ⟨fun _ => comesUp _ _, fun h => absurd rfl h, ?_⟩
      exact ((repliedTo_keeps p m s).mono (by simp)).trans ((portComesUp_keeps p _ _ _).mono (by simp))
    | some r =>
      rw [linkOffered_fails awaits fails]
      obtain ⟨state, frame⟩ := raise_marks there 0x0604 (leBytes 1 p ++ leBytes 1 r)
      exact ⟨nofun, fun _ => state, frame.mono (by simp)⟩
  case reply =>
    intro p m s awake hp ports awaits
    have there : p < s.fabric.ports.length := ports.symm ▸ hp
    refine ⟨_, exec_linkAuthReply awake p m, ?_⟩
    by_cases bad : linkFails s m ≠ none ∨ Config.kemDecaps (getPort s p).seed m.keyMaterial = none
    · obtain ⟨r, fails⟩ := linkReplied_fails awaits bad
      rw [fails]
      obtain ⟨state, frame⟩ := raise_marks there 0x0604 (leBytes 1 p ++ leBytes 1 r)
      exact ⟨fun good key => absurd bad (not_or.2 ⟨not_not_intro good, key⟩), fun _ => state, frame⟩
    · obtain ⟨good, key⟩ := not_or.1 bad
      obtain ⟨k, key⟩ := Option.ne_none_iff_exists'.1 key
      rw [linkReplied_passes awaits (not_not.1 good) key]
      exact ⟨fun _ _ => portComesUp_port there _ _, fun h => absurd h bad, portComesUp_keeps p _ _ s⟩
  case restore => exact fun s awake => ⟨_, exec_routeRestore awake, restoreRoutes_returning s, restoreRoutes_keeps s⟩
  case noRoute =>
    intro m s awake
    rw [exec_noRouteTimeout awake]
    refine ⟨fun routed => ?_, fun cut known => ⟨_, rfl, fun present => ?_⟩⟩
    · exact congrArg _ (if_neg fun none_ => routed (Option.isNone_iff_eq_none.1 none_))
    · have lost : gone (noRouteFor m s) = _ :=
        (congrArg gone (if_pos (Option.isNone_iff_eq_none.2 cut))).trans (loseModule_gone known present)
      obtain ⟨lost, noRoute⟩ := Prod.mk.inj lost
      rw [lost, noRoute]
      exact ⟨List.contains_iff_mem.2 (mem_sadd.2 (.inr rfl)), List.contains_iff_mem.2 (mem_sadd.2 (.inr rfl))⟩

end Sys2Proof.Safety

namespace Sys2Proof.Safety

open Sys2Proof.Machine

/-! ### The port's registers (R464, R466)

A record or an event may raise a vector, which pends it or counts a null address. `port` is what such a raise leaves of the CXL port: all
its fields but NULL_VECTOR, and the pending bits where no table entry has an address. -/

def portOf (c : Cxl) : Cxl := { c with nullVector := 0, pendingBits := if c.table = [] then c.pendingBits else [] }

def port (s : State) : Cxl := portOf s.cxl

@[simp] theorem portOf_cxl (s : State) : portOf s.cxl = port s := rfl

@[simp] theorem port_mk {pending start tick plan queues rings ctrs hbm poison host hostPoison sram sramPoison memctl lines culture rc index
    press sticky err evt thr fmw cave fuses sec fw power fabric cxl svc ageing packages sent free} :
    port ⟨pending, start, tick, plan, queues, rings, ctrs, hbm, poison, host, hostPoison, sram, sramPoison, memctl, lines, culture, rc, index,
      press, sticky, err, evt, thr, fmw, cave, fuses, sec, fw, power, fabric, cxl, svc, ageing, packages, sent, free⟩ = portOf cxl := rfl

theorem Keeps.port {ps : List Part} {s t : State} (h : Keeps ps s t) (hp : Part.cxl ∉ ps) : port t = port s :=
  congrArg portOf (h .cxl hp)

/-- A field that `port` keeps. -/
theorem port_congr {α : Type} (f : Cxl → α) (kept : ∀ c, f (portOf c) = f c) {s t : State} (h : port t = port s) : f t.cxl = f s.cxl :=
  (kept _).symm.trans ((congrArg f h).trans (kept _))

@[simp] theorem port_foldl {α : Type} (f : State → α → State) (h : ∀ s a, port (f s a) = port s) (l : List α) (s : State) :
    port (l.foldl f s) = port s := by
  induction l generalizing s with
  | nil => rfl
  | cons a r ih => exact (ih _).trans (h s a)

@[simp] theorem port_ite (c : Prop) [Decidable c] (a b : State) : port (if c then a else b) = if c then port a else port b :=
  apply_ite _ _ _ _

@[simp] theorem port_emit (x : Sent) (s : State) : port (emit x s) = port s := rfl

@[simp] theorem port_sendMsix (v : Nat) (s : State) : port (sendMsix v s) = port s := by
  simp only [sendMsix, port_ite, port_emit, ite_eq_right_iff]
  exact fun _ => rfl

/-- Only a vector whose entry has an address is pended. -/
@[simp] theorem port_raiseMsix (v : Nat) (s : State) : port (raiseMsix v s) = port s := by
  simp only [raiseMsix]
  split
  · rename_i pends
    have listed : s.cxl.table ≠ [] := by
      intro none_
      simp [msixEntry, none_, mgetD, mget, MsixEntry.off] at pends
    simp [port, portOf, listed]
  · exact port_sendMsix v s

@[simp] theorem port_writeEvent (e : Event) (s : State) : port (writeEvent e s) = port s := by simp [writeEvent]

@[simp] theorem port_raise (code severity : Nat) (detail : List Byte) (s : State) : port (raise code severity detail s) = port s := by
  simp [raise, routeEvent]

@[simp] theorem port_errRecord (r : ErrRec) (s : State) : port (errRecord r s) = port s := by simp [errRecord]

/-! #### Memory -/

@[simp] theorem port_degrade (granule : Nat) (s : State) : port (degrade granule s) = port s := by simp [degrade]

@[simp] theorem port_consumeWord (who : Who) (w : Nat) (injected : Bool) (s : State) : port (consumeWord who w injected s) = port s := by
  simp [consumeWord]

@[simp] theorem port_touchWord (who : Who) (s : State) (w : Nat) : port (touchWord who s w) = port s := by
  simp only [touchWord]
  split
  · simp
  · split <;> simp [freeBytes, correctWord, poisonWord]

@[simp] theorem port_touchHbm (who : Who) (a len : Nat) (s : State) : port (touchHbm who a len s) = port s := by simp [touchHbm]

@[simp] theorem port_mergeWord (s : State) (w : Nat) : port (mergeWord s w) = port s := by
  simp only [mergeWord]
  split <;> simp

@[simp] theorem port_writeHbm (a : Nat) (data : List Byte) (flags : List Bool) (s : State) : port (writeHbm a data flags s) = port s :=
  ((injectHbm_keeps _ _ _).port (by decide)).trans (port_foldl _ port_mergeWord _ s)

@[simp] theorem port_touchSramWord (who : Who) (s : State) (x : Nat × Nat × Nat × Latent) : port (touchSramWord who s x) = port s := by
  simp [touchSramWord, sramRecord, correctSram, uncorrectSram]

@[simp] theorem port_mergeSram (v : Nat) (ws : List Nat) (s : State) : port (mergeSram v ws s) = port s := by simp [mergeSram]

@[simp] theorem port_poke (a : LAddr) (data : List Byte) (flags : List Bool) (s : State) : port (poke a data flags s) = port s := by
  cases a with
  | sram v x => exact ((injectSram_keeps _ _ _ _).port (by decide)).trans (port_mergeSram _ _ _)
  | _ => simp [poke]

@[simp] theorem port_scramble (a : LAddr) (len : Nat) (s : State) : port (scramble a len s) = port s := port_poke _ _ _ _

/-! #### Queues -/

@[simp] theorem port_stopQueue (q : Nat) (st : Status) (s : State) : port (stopQueue q st s) = port s := by simp [stopQueue, modQ, setQ]

end Sys2Proof.Safety

namespace Sys2Proof.Safety

open Sys2Proof.Machine

/-! ### CXL.mem (R456-R458, R462) -/

/-- A frame without a part that has stayed too. -/
theorem Keeps.erase {ps : List Part} {s t : State} (h : Keeps ps s t) {p : Part} (same : Same p s t) : Keeps (ps.erase p) s t := by
  intro r hr
  by_cases other : r = p
  · exact other ▸ same
  · exact h r fun mem => hr ((List.mem_erase_of_ne other).2 mem)

/-- What an access to HBM may change. -/
abbrev windowParts : List Part := [.hbm, .poison, .memctl, .err, .evt, .fmw, .cxl, .sent, .free]

theorem touchHbm_keeps_window (who : Who) (a len : Nat) (s : State) : Keeps windowParts s (touchHbm who a len s) :=
  ((touchHbm_keeps who a len s).erase (p := .sramPoison) (touchHbm_sramPoison who a len s)).mono (by decide)

theorem writeHbm_keeps_window (a : Nat) (data : List Byte) (flags : List Bool) (s : State) :
    Keeps windowParts s (writeHbm a data flags s) :=
  ((writeHbm_keeps a data flags s).erase (p := .sramPoison) (writeHbm_sramPoison a data flags s)).mono (by decide)

/-! #### The decoder -/

section
variable {base size hpa len : Nat} {s : State}

theorem windowAddr_mapped (decoder : s.cxl.hdm = some (base, size)) (exposed : s.cxl.protocols = 2) (active : s.start.memActive = true)
    (from_ : base ≤ hpa) (upTo : hpa + len ≤ base + size) : windowAddr s hpa len = some (range1 + (hpa - base)) := by
  simp only [windowAddr, decoder]
  exact if_pos ⟨from_, upTo, exposed, active⟩

theorem windowAddr_nowhere (outside : s.cxl.hdm = none ∨ s.cxl.protocols ≠ 2 ∨ s.start.memActive = false ∨
    ∃ base size, s.cxl.hdm = some (base, size) ∧ (hpa < base ∨ base + size < hpa + len)) : windowAddr s hpa len = none := by
  cases decoder : s.cxl.hdm with
  | none => simp only [windowAddr, decoder]
  | some range =>
    simp only [windowAddr, decoder]
    refine if_neg fun ⟨from_, upTo, exposed, active⟩ => ?_
    rcases outside with none_ | hidden | inactive | ⟨base, size, range_, beyond⟩
    · cases decoder.symm.trans none_
    · exact hidden exposed
    · cases active.symm.trans inactive
    · cases decoder.symm.trans range_
      omega

end

section
variable {s : State} {hpa : Nat}

theorem reaches_port (awake : Awake s) (up : s.cxl.protocols ≠ 0) : (cxlUp s && !s.start.inReset && !s.sec.scanned) = true := by
  simp [cxlUp, awake.1, awake.2, up]

theorem exec_cxlMemRead {len a : Nat} (awake : Awake s) (up : s.cxl.protocols ≠ 0) (mapped : windowAddr s hpa len = some a) :
    exec (.cxlMemRead hpa len) s = .next (memRead a len s) := by
  change execCxlMemRead hpa len s = _
  rw [execCxlMemRead, if_pos (reaches_port awake up), mapped]

theorem exec_cxlMemRead_nowhere {len : Nat} (awake : Awake s) (up : s.cxl.protocols ≠ 0) (nowhere : windowAddr s hpa len = none) :
    exec (.cxlMemRead hpa len) s = .fault .noMemory := by
  change execCxlMemRead hpa len s = _
  rw [execCxlMemRead, if_pos (reaches_port awake up), nowhere]

theorem exec_cxlMemWrite {data : List Byte} {a : Nat} (awake : Awake s) (up : s.cxl.protocols ≠ 0)
    (mapped : windowAddr s hpa data.length = some a) (poison : Bool) :
    exec (.cxlMemWrite hpa data poison) s = .next (memWrite a data poison s) := by
  change execCxlMemWrite hpa data poison s = _
  rw [execCxlMemWrite, if_pos (reaches_port awake up), mapped]

theorem exec_cxlMemWrite_nowhere {data : List Byte} (awake : Awake s) (up : s.cxl.protocols ≠ 0)
    (nowhere : windowAddr s hpa data.length = none) (poison : Bool) : exec (.cxlMemWrite hpa data poison) s = .fault .noMemory := by
  change execCxlMemWrite hpa data poison s = _
  rw [execCxlMemWrite, if_pos (reaches_port awake up), nowhere]

end

/-! #### Reads -/

theorem memRead_eq (a len : Nat) (s : State) :
    memRead a len s = emit (.memData (bread (touchHbm Who.none a len s).hbm a len) (anyPoison (touchHbm Who.none a len s) (.hbm a) len))
      (touchHbm Who.none a len s) := rfl

theorem memRead_clean {a len : Nat} {s : State}
    (clean : ∀ w, w ∈ wordsOf a len → s.poison.contains w = false ∧ mget s.memctl.latent w = none) :
    memRead a len s = emit (.memData (bread s.hbm a len) false) s := by
  have unpoisoned : anyPoison s (.hbm a) len = false := List.any_eq_false.2 fun w mem => by rw [(clean w mem).1]; decide
  rw [memRead_eq, touchHbm_clean _ _ _ _ clean, unpoisoned]

/-! #### Writes -/

/-- A word that a write covers whole is poisoned by the flags of the write alone. -/
theorem contains_poison_writeHbm {a w : Nat} {data : List Byte} {flags : List Bool} {s : State} (from_ : a ≤ w * 32)
    (upTo : w * 32 + 32 ≤ a + data.length) :
    (writeHbm a data flags s).poison.contains w =
      (((List.range data.length).filter fun i => flags.getD i false).map fun i => (a + i) / 32).any (· == w) := by
  have named : w ∈ (wordsOf a data.length).filter fun w => decide (a ≤ w * 32 ∧ w * 32 + 32 ≤ a + data.length) := by
    refine List.mem_filter.2 ⟨?_, decide_eq_true ⟨from_, upTo⟩⟩
    rw [wordsOf, if_neg (by omega), upFrom, List.mem_map]
    exact ⟨w - a / 32, List.mem_range.2 (by omega), by omega⟩
  have written : (writeHbm a data flags s).poison = _ := (injectHbm_keeps _ _ _).part .poison (by decide)
  rw [written, contains_saddAll, Bool.or_eq_right_iff_imp]
  intro kept
  have unnamed := (List.mem_filter.1 (List.contains_iff_mem.1 kept)).2
  rw [List.contains_iff_mem.2 named] at unnamed
  cases unnamed

/-- Data that are poisoned, or clean, throughout. -/
theorem contains_poison_writeHbm_all {a w : Nat} {data : List Byte} {s : State} (from_ : a ≤ w * 32) (upTo : w * 32 + 32 ≤ a + data.length)
    (poison : Bool) : (writeHbm a data (data.map fun _ => poison) s).poison.contains w = poison := by
  rw [contains_poison_writeHbm from_ upTo]
  have flag {i : Nat} (h : i < data.length) : (data.map fun _ => poison).getD i false = poison := by
    rw [List.getD_eq_getElem?_getD, List.getElem?_map, List.getElem?_eq_getElem h]
    rfl
  cases poison with
  | false =>
    rw [List.filter_eq_nil_iff.2 fun i mem => by rw [flag (List.mem_range.1 mem)]; decide]
    rfl
  | true =>
    have inside : w * 32 - a < data.length := by omega
    have flagged : w * 32 - a ∈ (List.range data.length).filter fun i => (data.map fun _ => true).getD i false :=
      List.mem_filter.2 ⟨List.mem_range.2 inside, flag inside⟩
    refine List.any_eq_true.2 ⟨w, List.mem_map.2 ⟨w * 32 - a, flagged, ?_⟩, beq_self_eq_true w⟩
    omega

/-- A write that arrives is counted where it is poisoned (R466). -/
def poisonCounted (poison : Bool) (s : State) : State :=
  if poison then modCxl (fun c => { c with poisonIn := satAdd 255 c.poisonIn 1 }) s else s

theorem memWrite_eq (a : Nat) (data : List Byte) (poison : Bool) (s : State) :
    memWrite a data poison s = emit .memDone (writeHbm a data (data.map fun _ => poison) (poisonCounted poison s)) := rfl

theorem poisonCounted_keeps (poison : Bool) (s : State) : Keeps [.cxl] s (poisonCounted poison s) := by
  cases poison
  · exact Keeps.refl _ s
  · exact modCxl_keeps _ s

theorem correctable_poisonCounted (poison : Bool) {s : State} (safe : Correctable s) : Correctable (poisonCounted poison s) := by
  cases poison
  · exact safe
  · exact safe

theorem poisonCounted_poisonIn (poison : Bool) (s : State) :
    (port (poisonCounted poison s)).poisonIn = if poison then min 255 (s.cxl.poisonIn + 1) else s.cxl.poisonIn := by
  cases poison
  · rfl
  · exact satAdd_eq_min 255 s.cxl.poisonIn 1

/-- Settles O51: the window is HBM, which `touchHbm` and `writeHbm` read and write. -/
theorem cxlMemoryAccess : Obligations.CxlMemoryAccess := by
  unfold Obligations.CxlMemoryAccess
  refine ⟨?read, ?write, ?nowhere, ?down⟩
  case read =>
    intro base size hpa len s awake decoder exposed active from_ upTo a
    have reads := exec_cxlMemRead awake (exposed.trans_ne (by decide)) (windowAddr_mapped decoder exposed active from_ upTo)
    refine ⟨fun clean => ?_, memRead a len s, _, _, reads, rfl, ?_⟩
    · exact reads.trans (congrArg _ (memRead_clean clean))
    · exact (touchHbm_keeps_window _ _ _ s).trans ((emit_keeps _ _).mono (by simp))
  case write =>
    intro base size hpa data poison s awake canonical decoder exposed active from_ upTo a
    have writes := exec_cxlMemWrite awake (exposed.trans_ne (by decide)) (windowAddr_mapped decoder exposed active from_ upTo) poison
    have counted := poisonCounted_keeps poison s
    have hbm : (poisonCounted poison s).hbm = s.hbm := counted.part .hbm (by decide)
    rw [memWrite_eq] at writes
    refine ⟨_, _, writes, rfl, fun i inside => ?_, fun safe j outside => ?_, fun w from_ upTo => ?_, ?_, ?_⟩
    · exact bget_writeHbm_inside a data _ _ (hbm ▸ canonical.1) i inside
    · exact (bget_writeHbm_outside a data _ _ (correctable_poisonCounted poison safe) j outside).trans (by rw [hbm])
    · exact contains_poison_writeHbm_all from_ upTo poison
    · rw [← poisonCounted_poisonIn poison s, ← port_writeHbm a data (data.map fun _ => poison) (poisonCounted poison s)]
      rfl
    · exact ((counted.mono (by simp)).trans (writeHbm_keeps_window _ _ _ _)).trans ((emit_keeps _ _).mono (by simp))
  case nowhere =>
    rintro hpa len data poison s awake up rfl outside
    exact ⟨exec_cxlMemRead_nowhere awake up (windowAddr_nowhere outside), exec_cxlMemWrite_nowhere awake up (windowAddr_nowhere outside) poison⟩
  case down =>
    intro hpa len data poison s down
    have unreached : (cxlUp s && !s.start.inReset && !s.sec.scanned) = true → False := by simp [cxlUp, down]
    exact ⟨if_neg unreached, if_neg unreached⟩

end Sys2Proof.Safety

namespace Sys2Proof.Safety

open Sys2Proof.Machine

/-! ### The link (R450-R452, R463) -/

/-- What an event of the port changes: its registers and the event's record. -/
abbrev linkParts : List Part := [.cxl, .evt, .fmw, .sent]

theorem raise_modCxl_keeps (code severity : Nat) (detail : List Byte) (f : Cxl → Cxl) (s : State) :
    Keeps linkParts s (raise code severity detail (modCxl f s)) :=
  ((modCxl_keeps f s).mono (by simp)).trans ((raise_keeps _ _ _ _).mono (by simp))

theorem cxlUp_of_protocols {s : State} (up : s.cxl.protocols ≠ 0) : cxlUp s = true := by simp [cxlUp, up]

theorem portTrains_head {s : State} (head : isHead s = true) (started : 2 ≤ s.start.seq) (powered : s.power.state ≠ 3)
    (normal : s.sec.recovery = false) : portTrains s = true := by simp [portTrains, head, started, powered, normal]

/-- The port at the width and rate that both ends support. -/
def trainedTo (lanes gts : Nat) (s : State) : State :=
  modCxl (fun c => { c with
    width := widthCode lanes, rate := rateCode (widthCode lanes) gts, protocols := if c.protocols = 0 then 2 else c.protocols }) s

/-- The port with its link down, LINK_DOWNS as given. -/
def linkCut (downs : Nat) (s : State) : State :=
  modCxl (fun c => { c with width := 0, rate := 0, protocols := 0, reduced := false, linkDowns := downs }) s

/-- The registers of a port whose link has gone down, once the event is raised. -/
theorem raise_linkCut (code severity : Nat) (detail : List Byte) (downs : Nat) (s : State) :
    let t := raise code severity detail (linkCut downs s)
    t.cxl.width = 0 ∧ t.cxl.protocols = 0 ∧ t.cxl.reduced = false ∧ t.cxl.hdm = s.cxl.hdm ∧
      t.cxl.linkDowns = downs ∧ Keeps linkParts s t := by
  have state := port_raise code severity detail (linkCut downs s)
  exact ⟨port_congr Cxl.width (fun _ => rfl) state, port_congr Cxl.protocols (fun _ => rfl) state,
    port_congr Cxl.reduced (fun _ => rfl) state, (port_congr Cxl.hdm (fun _ => rfl) state).trans rfl,
    port_congr Cxl.linkDowns (fun _ => rfl) state, raise_modCxl_keeps _ _ _ _ s⟩

section
variable {lanes gts : Nat} {s : State}

theorem widthCode_up (up : 4 ≤ lanes) : widthCode lanes = if 16 ≤ lanes then 3 else if 8 ≤ lanes then 2 else 1 := by
  simp only [widthCode, if_pos up]

theorem widthCode_down (down : lanes < 4) : widthCode lanes = 0 := by
  rw [widthCode, if_neg (by omega), if_neg (by omega), if_neg (by omega)]

theorem widthCode_x8 : 2 ≤ widthCode lanes ↔ 8 ≤ lanes := by
  simp only [widthCode]
  split_ifs <;> omega

theorem linkTrained_up (trains : portTrains s = true) (fast : 8 ≤ gts) (up : 4 ≤ lanes) :
    port (linkTrained lanes gts s) = port (trainedTo lanes gts s) ∧ Keeps linkParts s (linkTrained lanes gts s) := by
  have wide : widthCode lanes ≠ 0 := by
    rw [widthCode_up up]
    split_ifs <;> decide
  have runs : (!portTrains s || decide (gts < 8)) = false := by simp [trains, fast]
  simp only [linkTrained, runs, if_neg wide, Bool.false_eq_true, if_false]
  split
  · exact ⟨rfl, (modCxl_keeps _ s).mono (by simp)⟩
  · exact ⟨port_raise _ _ _ _, raise_modCxl_keeps _ _ _ _ s⟩

theorem rateCode_widthCode : rateCode (widthCode lanes) gts = if 32 ≤ gts then 2 else if 16 ≤ gts ∧ 8 ≤ lanes then 1 else 0 := by
  simp only [rateCode, widthCode_x8]

theorem linkTrained_down (trains : portTrains s = true) (fast : 8 ≤ gts) (down : lanes < 4) :
    linkTrained lanes gts s = raise 0x0810 2 (leBytes 1 2)
      (linkCut (if s.cxl.protocols = 0 then s.cxl.linkDowns else min 15 (s.cxl.linkDowns + 1)) s) := by
  have runs : (!portTrains s || decide (gts < 8)) = false := by simp [trains, fast]
  simp only [linkTrained, runs, widthCode_down down, Bool.false_eq_true, if_true, if_false]
  congr 1
  by_cases cut : s.cxl.protocols = 0 <;> simp [cxlUp, linkCut, modCxl, cut, satAdd_eq_min]

theorem linkDown_up (cause : Nat) (up : s.cxl.protocols ≠ 0) :
    linkDown cause s = raise 0x0810 2 (leBytes 1 cause) (linkCut (min 15 (s.cxl.linkDowns + 1)) s) := by
  simp only [linkDown, cxlUp_of_protocols up, Bool.not_true, Bool.false_eq_true, if_false, satAdd_eq_min]
  rfl

end

/-! #### Reduced mode (R452) -/

/-- A queue as the entry to reduced mode leaves it. -/
def cutOff (v : Queue) : Queue :=
  if v.mode = .running ∧ (inHost v.ring || inHost v.comp) = true then { v with mode := .stopped, lastStop := .hostUnreachable } else v

theorem cutOff_cutOff (v : Queue) : cutOff (cutOff v) = cutOff v := by
  simp only [cutOff]
  split
  · exact if_neg fun stopped => nomatch stopped.1
  · rfl

theorem getQ_stopQueue_other {q r : Nat} (other : r ≠ q) (st : Status) (s : State) : getQ (stopQueue q st s) r = getQ s r := by
  rw [stopQueue]
  split
  · rw [(raise_keeps _ _ _ _).getQ r (by decide), getQ_modQ_other _ _ _ _ other]
  · rfl

theorem getQ_stopIfReduced {s : State} (reduced : s.cxl.reduced = true) (q r : Nat) :
    getQ (stopIfReduced q s) r = if r = q then cutOff (getQ s r) else getQ s r := by
  simp only [stopIfReduced, reduced, Bool.true_and]
  by_cases same : r = q
  · subst same
    rw [if_pos rfl, cutOff]
    by_cases running : (getQ s r).mode = .running
    · simp only [running, true_and]
      split
      · exact getQ_stopQueue r _ s running
      · rfl
    · rw [stopQueue, if_neg running, ite_self, if_neg fun h : _ ∧ _ => running h.1]
  · rw [if_neg same]
    split
    · exact getQ_stopQueue_other same _ s
    · rfl

theorem stopIfReduced_keeps (q : Nat) (s : State) : Keeps [.queues, .evt, .fmw, .cxl, .sent] s (stopIfReduced q s) := by
  rw [stopIfReduced]
  split
  · exact stopQueue_keeps _ _ _
  · exact Keeps.refl _ s

theorem port_stopIfReduced (q : Nat) (s : State) : port (stopIfReduced q s) = port s := by simp [stopIfReduced]

theorem getQ_stopAll (qs : List Nat) (r : Nat) {s : State} (reduced : s.cxl.reduced = true) :
    getQ (qs.foldl (fun s q => stopIfReduced q s) s) r = if r ∈ qs then cutOff (getQ s r) else getQ s r := by
  induction qs generalizing s with
  | nil => rfl
  | cons q qs ih =>
    have still : (stopIfReduced q s).cxl.reduced = true := (port_congr Cxl.reduced (fun _ => rfl) (port_stopIfReduced q s)).trans reduced
    rw [List.foldl_cons, ih still, getQ_stopIfReduced reduced]
    by_cases same : r = q <;> simp [same, cutOff_cutOff]

theorem mem_keys_of_mget {α : Type} {m : Sparse α} {k : Nat} {v : α} (h : mget m k = some v) : k ∈ m.map (·.1) := by
  induction m with
  | nil => cases h
  | cons p r ih =>
    obtain ⟨a, w⟩ := p
    by_cases same : k = a
    · simp [same]
    · rw [mget, if_neg same] at h
      exact List.mem_cons_of_mem _ (ih h)

/-- A queue that is not listed is off, and no entry to reduced mode stops it. -/
theorem getQ_unlisted {s : State} {q : Nat} (unlisted : q ∉ s.queues.map (·.1)) : getQ s q = Queue.off := by
  cases found : mget s.queues q with
  | none => rw [getQ, mgetD, found]; rfl
  | some v => exact absurd (mem_keys_of_mget found) unlisted

/-- The port in reduced mode. -/
def reducedPort (s : State) : State := modCxl (fun c => { c with protocols := 1, reduced := true }) s

theorem enterReduced_up {s : State} (up : s.cxl.protocols ≠ 0) :
    enterReduced s = (s.queues.map (·.1)).foldl (fun s q => stopIfReduced q s) (reducedPort s) := by
  simp only [enterReduced, cxlUp_of_protocols up, Bool.not_true, Bool.false_eq_true, if_false]
  rfl

theorem getQ_enterReduced {s : State} (up : s.cxl.protocols ≠ 0) (q : Nat) : getQ (enterReduced s) q = cutOff (getQ s q) := by
  rw [enterReduced_up up, getQ_stopAll _ q (show (reducedPort s).cxl.reduced = true from rfl)]
  split
  · rfl
  · rename_i unlisted
    have off : getQ s q = Queue.off := getQ_unlisted unlisted
    change getQ s q = _
    rw [off]
    rfl

theorem enterReduced_keeps {s : State} (up : s.cxl.protocols ≠ 0) : Keeps [.cxl, .queues, .evt, .fmw, .sent] s (enterReduced s) := by
  rw [enterReduced_up up]
  exact ((modCxl_keeps _ s).mono (by simp)).trans (Keeps.foldl _ (fun s q => (stopIfReduced_keeps q s).mono (by simp)) _ _)

theorem port_enterReduced {s : State} (up : s.cxl.protocols ≠ 0) : port (enterReduced s) = port (reducedPort s) := by
  rw [enterReduced_up up]
  exact port_foldl _ (fun s q => port_stopIfReduced q s) _ _

/-! ### Timeouts of host requests (R463) -/

/-- A timeout counted, and raised where the last one is 10 µs ago. -/
def timeoutCounted (hpa now : Nat) (s : State) : State :=
  timeoutEvent hpa (modCxl (fun c => { c with timeouts := satAdd 65535 c.timeouts 1 }) (atTime now s))

theorem timeoutEvent_keeps (hpa : Nat) (s : State) : Keeps linkParts s (timeoutEvent hpa s) := by
  simp only [timeoutEvent]
  split
  · exact Keeps.refl _ s
  · exact raise_modCxl_keeps _ _ _ _ s

theorem timeoutEvent_timeouts (hpa : Nat) (s : State) : (timeoutEvent hpa s).cxl.timeouts = s.cxl.timeouts := by
  simp only [timeoutEvent]
  split
  · rfl
  · exact (port_congr Cxl.timeouts (fun _ => rfl) (port_raise _ _ _ _)).trans rfl

theorem atTime_keeps (now : Nat) (s : State) : Keeps [.tick] s (atTime now s) := by
  intro p hp; cases p <;> simp_all [Same, atTime]

theorem timeoutCounted_keeps (hpa now : Nat) (s : State) : Keeps [.tick, .cxl, .evt, .fmw, .sent] s (timeoutCounted hpa now s) :=
  ((atTime_keeps now s).mono (by simp)).trans (((modCxl_keeps _ _).mono (by simp)).trans ((timeoutEvent_keeps hpa _).mono (by simp)))

theorem timeoutCounted_timeouts (hpa now : Nat) (s : State) : (timeoutCounted hpa now s).cxl.timeouts = min 65535 (s.cxl.timeouts + 1) :=
  (timeoutEvent_timeouts hpa _).trans (satAdd_eq_min _ _ _)

theorem requestTimeout_fetch {q : Nat} {s : State} (running : (getQ s q).mode = .running) (idx : U32) (hpa now : Nat) :
    requestTimeout q idx true hpa now s =
      stopQueue q .hostUnreachable (modQ q (fun v => { v with fetched := [] }) (timeoutCounted hpa now s)) := by
  have running' : (getQ (atTime now s) q).mode = .running := running
  simp only [requestTimeout, if_true, running']
  rfl

theorem requestTimeout_started {q : Nat} {idx : U32} {o : Op} {s : State} (listed : getOp s q idx = some o)
    (started : o.phase = .running ∨ o.phase = .blocked) (hpa now : Nat) :
    ∃ outs : List (LAddr × Nat), requestTimeout q idx false hpa now s =
      freePress q idx (finishOp q idx .hostUnreachable 0 (outs.foldl (fun s x => scramble x.1 x.2 s) (timeoutCounted hpa now s))) := by
  have listed' : getOp (atTime now s) q idx = some o := listed
  simp only [requestTimeout, listed', Bool.false_eq_true, if_false, if_pos started]
  exact ⟨_, rfl⟩

end Sys2Proof.Safety

namespace Sys2Proof.Safety

open Sys2Proof.Machine

/-! ### Configuration requests, the decoder and MSI-X (R453, R456, R464, R559) -/

theorem configRequest_early {s : State} (up : s.cxl.protocols ≠ 0) (early : s.cxl.crs = true) (offset : Nat) (w : Option U32) :
    configRequest offset w s = emit (.configDone true 0) s := by
  simp only [configRequest, cxlUp_of_protocols up, early, Bool.not_true, Bool.false_eq_true, if_false, if_true]

theorem configRequest_read {s : State} (up : s.cxl.protocols ≠ 0) (ready : s.cxl.crs = false) (offset : Nat) :
    configRequest offset none s = emit (.configDone false (configWord s offset)) s := by
  simp only [configRequest, cxlUp_of_protocols up, ready, Bool.not_true, Bool.false_eq_true, if_false]

theorem configRequest_write {s : State} (up : s.cxl.protocols ≠ 0) (ready : s.cxl.crs = false) (offset : Nat) (v : U32) :
    configRequest offset (some v) s = emit (.configDone false 0) (configWrite offset v s) := by
  simp only [configRequest, cxlUp_of_protocols up, ready, Bool.not_true, Bool.false_eq_true, if_false]

/-- The device ID is the upper half of the first word. -/
theorem configWord_device (s : State) : (configWord s 0).toNat / 65536 = 0x0B20 := by
  have high : (configWord s 0) >>> 16 = 0x0B20#32 := by
    rw [configWord, if_pos rfl, BitVec.ushiftRight_or_distrib, BitVec.ushiftRight_and_distrib]
    exact congrArg (0x0B20#32 ||| ·) BitVec.and_zero
  simpa [BitVec.toNat_ushiftRight, Nat.shiftRight_eq_div_pow] using congrArg BitVec.toNat high

theorem sendMsix_keeps (v : Nat) (s : State) : Keeps [.cxl, .sent] s (sendMsix v s) := by
  intro p hp
  simp only [sendMsix]
  split <;> cases p <;> simp_all [Same]

theorem sendPending_keeps (s : State) : Keeps [.cxl, .sent] s (sendPending s) := by
  refine Keeps.foldl _ (fun s v => ?_) _ s
  split
  · exact Keeps.refl _ s
  · exact ((modCxl_keeps _ s).mono (by simp)).trans (sendMsix_keeps v _)

theorem configWrite_keeps (offset : Nat) (v : U32) (s : State) : Keeps [.cxl, .sent] s (configWrite offset v s) := by
  simp only [configWrite]
  split_ifs
  · exact (modCxl_keeps _ s).mono (by simp)
  · exact ((modCxl_keeps _ s).mono (by simp)).trans (sendPending_keeps _)
  · exact Keeps.refl _ s

theorem commitDecoder_up {s : State} (up : s.cxl.protocols ≠ 0) (base size ways skip : Nat) :
    commitDecoder base size ways skip s =
      if base % 2 ^ 28 = 0 ∧ size % 2 ^ 28 = 0 ∧ size ≤ 2 ^ 38 ∧ ways = 1 ∧ skip = 0
      then modCxl (fun c => { c with hdm := some (base, size) }) s
      else emit .commitError s := by
  have limits : decoderOk base size ways skip = true ↔ base % 2 ^ 28 = 0 ∧ size % 2 ^ 28 = 0 ∧ size ≤ 2 ^ 38 ∧ ways = 1 ∧ skip = 0 := by
    simp [decoderOk, and_assoc]
  simp only [commitDecoder, cxlUp_of_protocols up, Bool.not_true, Bool.false_eq_true, if_false, limits]

/-! #### MSI-X -/

/-- The table with a vector's mask cleared. -/
def unmasked (v : Nat) (s : State) : State :=
  modCxl (fun c => { c with table := mput c.table v { mgetD c.table v MsixEntry.off with masked := false } }) s

theorem unmask_eq {v : Nat} (inTable : v < 2048) (s : State) : unmask v s = sendPending (unmasked v s) := by
  rw [unmask, if_neg (Nat.not_le.2 inTable)]
  rfl

theorem msixEntry_unmasked (v : Nat) (s : State) : msixEntry (unmasked v s) v = { mgetD s.cxl.table v MsixEntry.off with masked := false } := by
  change mgetD (mput _ _ _) _ _ = _
  rw [mgetD, mget_mput_same]
  rfl

/-- Nothing is sent while nothing is pending, or behind the function mask. -/
theorem sendPending_silent {s : State} (silent : s.cxl.pendingBits = [] ∨ s.cxl.functionMask = true) : sendPending s = s := by
  rcases silent with none_ | masked
  · rw [sendPending, none_]
    rfl
  · rw [sendPending]
    induction s.cxl.pendingBits with
    | nil => rfl
    | cons v r ih => rw [List.foldl_cons, masked, Bool.true_or, if_pos rfl, ih]

/-- The one message that is pending goes out once its vector is unmasked. -/
theorem sendPending_one {v : Nat} {s : State} (pending : s.cxl.pendingBits = [v]) (open_ : s.cxl.functionMask = false)
    (unmasked : (msixEntry s v).masked = false) (address : (msixEntry s v).address ≠ 0) :
    sendPending s = emit (.msix v (msixEntry s v).address (msixEntry s v).data) (modCxl (fun c => { c with pendingBits := [] }) s) := by
  have left : sdel [v] v = [] := by simp [sdel]
  rw [sendPending, pending, List.foldl_cons, open_, unmasked, Bool.or_self, if_neg Bool.false_ne_true, List.foldl_nil]
  have cleared : modCxl (fun c => { c with pendingBits := sdel c.pendingBits v }) s = modCxl (fun c => { c with pendingBits := [] }) s := by
    simp only [modCxl, pending, left]
  rw [cleared, sendMsix]
  exact if_neg address

/-! #### Timeouts -/

theorem scrambles_keeps (outs : List (LAddr × Nat)) (s : State) : Keeps writeParts s (outs.foldl (fun s x => scramble x.1 x.2 s) s) :=
  Keeps.foldl _ (fun s x => scramble_keeps x.1 x.2 s) outs s

theorem port_scrambles (outs : List (LAddr × Nat)) (s : State) : port (outs.foldl (fun s x => scramble x.1 x.2 s) s) = port s :=
  port_foldl _ (fun s x => port_scramble x.1 x.2 s) outs s

/-- The operation ends with HOST_UNREACHABLE, whatever becomes of its destinations. -/
theorem requestTimeout_ends {q : Nat} {idx : U32} {o : Op} {s : State} (listed : getOp s q idx = some o)
    (started : o.phase = .running ∨ o.phase = .blocked) (hpa now : Nat) :
    Ended q idx .hostUnreachable 0 (requestTimeout q idx false hpa now s) ∧
      (requestTimeout q idx false hpa now s).cxl.timeouts = min 65535 (s.cxl.timeouts + 1) := by
  obtain ⟨outs, fails⟩ := requestTimeout_started listed started hpa now
  have lost := scrambles_keeps outs (timeoutCounted hpa now s)
  have state := port_scrambles outs (timeoutCounted hpa now s)
  rw [fails]
  generalize outs.foldl (fun s x => scramble x.1 x.2 s) (timeoutCounted hpa now s) = u at lost state
  have listed' : getOp u q idx = some o := by
    rw [getOp, lost.getQ q (by decide), (timeoutCounted_keeps hpa now s).getQ q (by decide)]
    exact listed
  have freed := freePress_keeps q idx (finishOp q idx .hostUnreachable 0 u)
  constructor
  · obtain ⟨o', found, ended⟩ := ended_finishOp q idx .hostUnreachable 0 u o listed'
    exact ⟨o', by rwa [getOp, freed.getQ q (by decide)], ended⟩
  · rw [freed.part .cxl (by decide)]
    exact (port_congr Cxl.timeouts (fun _ => rfl) state).trans (timeoutCounted_timeouts hpa now s)

/-- The queue as a timeout of its fetch leaves it, before it stops. -/
def fetchDropped (q hpa now : Nat) (s : State) : State := modQ q (fun v => { v with fetched := [] }) (timeoutCounted hpa now s)

theorem getQ_fetchDropped {q : Nat} {s : State} (running : (getQ s q).mode = .running) (hpa now : Nat) :
    getQ (fetchDropped q hpa now s) q = { getQ s q with fetched := [] } := by
  have counted := (timeoutCounted_keeps hpa now s).getQ q (by decide)
  rw [fetchDropped, getQ_modQ_same _ _ _ (.inl (Queue.ne_off_of_mode (by rw [counted, running]; decide))), counted]

/-- The queue stops with HOST_UNREACHABLE and has nothing fetched. -/
theorem requestTimeout_stops {q : Nat} {s : State} (running : (getQ s q).mode = .running) (idx : U32) (hpa now : Nat) :
    getQ (requestTimeout q idx true hpa now s) q =
        { getQ s q with fetched := [], mode := .stopped, lastStop := .hostUnreachable } ∧
      (requestTimeout q idx true hpa now s).cxl.timeouts = min 65535 (s.cxl.timeouts + 1) ∧
      Keeps [.tick, .queues, .cxl, .evt, .fmw, .sent] s (requestTimeout q idx true hpa now s) := by
  have dropped := getQ_fetchDropped running hpa now
  rw [requestTimeout_fetch running]
  refine ⟨(getQ_stopQueue q _ (fetchDropped q hpa now s) (by rw [dropped]; exact running)).trans (by rw [dropped]), ?_, ?_⟩
  · have state : port (stopQueue q .hostUnreachable (fetchDropped q hpa now s)) = port (timeoutCounted hpa now s) := port_stopQueue _ _ _
    exact (port_congr Cxl.timeouts (fun _ => rfl) state).trans (timeoutCounted_timeouts hpa now s)
  · exact (((timeoutCounted_keeps hpa now s).mono (by simp)).trans ((modQ_keeps _ _ _).mono (by simp))).trans
      ((stopQueue_keeps _ _ _).mono (by simp))

/-- Settles O52: each row by its own equation; `port` carries the registers through the events that the rows raise. -/
theorem cxlPortEvents : Obligations.CxlPortEvents := by
  unfold Obligations.CxlPortEvents
  refine ⟨?trained, ?reduced, ?down, ?snoop, ?early, ?config, ?decoder, ?timeout, ?fetch, ?unmask⟩
  case trained =>
    intro lanes gts s awake head started powered normal fast
    have trains := portTrains_head head started powered normal
    have next {t : State} (e : linkTrained lanes gts s = t) : exec (.cxlLinkTrained lanes gts) s = .next t :=
      congrArg Host.Outcome.next ((live_awake awake _).trans e)
    refine ⟨fun up => ?_, fun down => ?_⟩
    · obtain ⟨state, frame⟩ := linkTrained_up trains fast up
      exact ⟨_, next rfl, (port_congr Cxl.width (fun _ => rfl) state).trans (widthCode_up up),
        (port_congr Cxl.rate (fun _ => rfl) state).trans rateCode_widthCode, port_congr Cxl.protocols (fun _ => rfl) state,
        (port_congr Cxl.linkDowns (fun _ => rfl) state).trans rfl, frame⟩
    · obtain ⟨width, protocols, -, -, downs, frame⟩ := raise_linkCut 0x0810 2 (leBytes 1 2)
        (if s.cxl.protocols = 0 then s.cxl.linkDowns else min 15 (s.cxl.linkDowns + 1)) s
      exact ⟨_, next (linkTrained_down trains fast down), width, protocols, downs, frame⟩
  case reduced =>
    intro s awake up
    have state := port_enterReduced up
    refine ⟨_, congrArg Host.Outcome.next (live_awake awake _), port_congr Cxl.protocols (fun _ => rfl) state,
      port_congr Cxl.reduced (fun _ => rfl) state, fun q running inHost => ?_, fun q other => ?_, enterReduced_keeps up⟩
    · rw [getQ_enterReduced up, cutOff, if_pos ⟨running, inHost⟩]
      exact ⟨rfl, rfl⟩
    · rw [getQ_enterReduced up, cutOff, if_neg fun cut : _ ∧ _ => other.elim (fun idle => idle cut.1) fun home => by
        rw [home] at cut
        exact Bool.false_ne_true cut.2]
  case down =>
    intro cause s awake up
    obtain ⟨width, protocols, reduced, hdm, downs, frame⟩ := raise_linkCut 0x0810 2 (leBytes 1 cause) (min 15 (s.cxl.linkDowns + 1)) s
    exact ⟨_, congrArg Host.Outcome.next ((live_awake awake _).trans (linkDown_up cause up)), protocols, width, reduced, hdm, downs, frame⟩
  case snoop => exact fun a s awake exposed => congrArg Host.Outcome.next ((live_awake awake _).trans (if_pos exposed))
  case early => exact fun offset w s awake up early => congrArg Host.Outcome.next ((live_awake awake _).trans (configRequest_early up early offset w))
  case config =>
    intro offset v s awake up ready
    refine ⟨⟨_, congrArg Host.Outcome.next ((live_awake awake _).trans (configRequest_read up ready offset)), ?_, ?_⟩,
      _, _, congrArg Host.Outcome.next ((live_awake awake _).trans (configRequest_write up ready offset v)), rfl, ?_, ?_⟩
    · rintro rfl
      exact configWord_device s
    · rintro rfl
      rfl
    · rintro rfl
      rfl
    · exact (configWrite_keeps offset v s).trans ((emit_keeps _ _).mono (by simp))
  case decoder =>
    exact fun base size ways skip s awake up =>
      congrArg Host.Outcome.next ((live_awake awake _).trans (commitDecoder_up up base size ways skip))
  case timeout =>
    intro q idx hpa now o s awake listed started
    obtain ⟨⟨o', found, done, status, -⟩, timeouts⟩ := requestTimeout_ends listed started hpa now
    exact ⟨_, o', congrArg Host.Outcome.next (live_awake awake _), found, done, status, timeouts⟩
  case fetch =>
    intro q idx hpa now s awake running
    obtain ⟨queue, timeouts, frame⟩ := requestTimeout_stops running idx hpa now
    exact ⟨_, congrArg Host.Outcome.next (live_awake awake _), by rw [queue], by rw [queue], by rw [queue], timeouts, frame⟩
  case unmask =>
    intro v s awake inTable e
    have next {t : State} (sends : sendPending (unmasked v s) = t) : exec (.msixUnmask v) s = .next t :=
      congrArg Host.Outcome.next ((live_awake awake _).trans ((unmask_eq inTable s).trans sends))
    refine ⟨fun silent => next (sendPending_silent silent), fun pending open_ address => ?_⟩
    have entry := msixEntry_unmasked v s
    have one := sendPending_one (s := unmasked v s) pending open_ (by rw [entry]) (by rw [entry]; exact address)
    rw [entry] at one
    exact next one

end Sys2Proof.Safety

namespace Sys2Proof.Safety

open Sys2Proof.Machine

/-! ### What the units and the queues leave alone (R465)

A function-level reset stops queues, whose records and poisoned counters let units go on, which reaches nearly all of the model. `spared` is
what the reset keeps or clears for good: the port but for what host memory's answers count, the packages, the fuses and the tick count.
Each function below leaves it as it is, as it does with `gone`. -/

abbrev Spared : Type := Cxl × List Package × Fuses × Nat

def sparedOf (c : Cxl) (packages : List Package) (fuses : Fuses) (t : Tick) : Spared :=
  ({ portOf c with timeouts := 0, poisonIn := 0 }, packages, fuses, t.count)

def spared (s : State) : Spared := sparedOf s.cxl s.packages s.fuses s.tick

@[simp] theorem sparedOf_state (s : State) : sparedOf s.cxl s.packages s.fuses s.tick = spared s := rfl

@[simp] theorem spared_mk {pending start tick plan queues rings ctrs hbm poison host hostPoison sram sramPoison memctl lines culture rc index
    press sticky err evt thr fmw cave fuses sec fw power fabric cxl svc ageing packages sent free} :
    spared ⟨pending, start, tick, plan, queues, rings, ctrs, hbm, poison, host, hostPoison, sram, sramPoison, memctl, lines, culture, rc, index,
      press, sticky, err, evt, thr, fmw, cave, fuses, sec, fw, power, fabric, cxl, svc, ageing, packages, sent, free⟩ =
        sparedOf cxl packages fuses tick := rfl

/-- What raises vectors at most, and touches neither packages nor fuses nor the tick. -/
theorem Keeps.spares {ps : List Part} {s t : State} (h : Keeps ps s t) (state : Safety.port t = Safety.port s)
    (hp : Part.packages ∉ ps ∧ Part.fuses ∉ ps ∧ Part.tick ∉ ps) : spared t = spared s := by
  obtain ⟨noPackages, noFuses, noTick⟩ := hp
  have packages : t.packages = s.packages := h .packages noPackages
  have fuses : t.fuses = s.fuses := h .fuses noFuses
  have tick : t.tick = s.tick := h .tick noTick
  have state : portOf t.cxl = portOf s.cxl := state
  simp only [Safety.spared, sparedOf, packages, fuses, tick, state]

theorem Keeps.spared {ps : List Part} {s t : State} (h : Keeps ps s t) (cxl : Part.cxl ∉ ps)
    (hp : Part.packages ∉ ps ∧ Part.fuses ∉ ps ∧ Part.tick ∉ ps) : spared t = spared s :=
  h.spares (h.port cxl) hp

@[simp] theorem spared_foldl {α : Type} (f : State → α → State) (h : ∀ s a, spared (f s a) = spared s) (l : List α) (s : State) :
    spared (l.foldl f s) = spared s := by
  induction l generalizing s with
  | nil => rfl
  | cons a r ih => exact (ih _).trans (h s a)

@[simp] theorem spared_ite (c : Prop) [Decidable c] (a b : State) : spared (if c then a else b) = if c then spared a else spared b :=
  apply_ite _ _ _ _

@[simp] theorem spared_fst_ite {β : Type} (c : Prop) [Decidable c] (a b : State × β) :
    spared (if c then a else b).1 = if c then spared a.1 else spared b.1 := by split <;> rfl

/-! #### Events, queues and memory -/

@[simp] theorem spared_emit (x : Sent) (s : State) : spared (emit x s) = spared s := rfl

@[simp] theorem spared_raise (code severity : Nat) (detail : List Byte) (s : State) : spared (raise code severity detail s) = spared s :=
  (raise_keeps code severity detail s).spares (port_raise code severity detail s) (by decide)

@[simp] theorem spared_errRecord (r : ErrRec) (s : State) : spared (errRecord r s) = spared s := (errRecord_keeps r s).spares (port_errRecord r s) (by decide)

@[simp] theorem spared_modQ (q : Nat) (f : Queue → Queue) (s : State) : spared (modQ q f s) = spared s := rfl

@[simp] theorem spared_modOp (q : Nat) (i : U32) (f : Op → Op) (s : State) : spared (modOp q i f s) = spared s := rfl

@[simp] theorem spared_finishOp (q : Nat) (i : U32) (st : Status) (cell : Nat) (s : State) : spared (finishOp q i st cell s) = spared s := rfl

@[simp] theorem spared_stopQueue (q : Nat) (st : Status) (s : State) : spared (stopQueue q st s) = spared s := by simp [stopQueue]

@[simp] theorem spared_setC (c : Nat) (v : Ctr) (s : State) : spared (setC c v s) = spared s := rfl

@[simp] theorem spared_modC (c : Nat) (f : Ctr → Ctr) (s : State) : spared (modC c f s) = spared s := rfl

@[simp] theorem spared_modEngine (n : Nat) (f : RcEngine → RcEngine) (s : State) : spared (modEngine n f s) = spared s := rfl

@[simp] theorem spared_modJob (f : Job → Job) (s : State) : spared (modJob f s) = spared s := rfl

@[simp] theorem spared_modUnit (u : UnitId) (f : UnitRun → UnitRun) (s : State) : spared (modUnit u f s) = spared s := rfl

@[simp] theorem spared_failSoon (st : Status) (s : State) : spared (failSoon st s) = spared s := rfl

@[simp] theorem spared_freePress (q : Nat) (i : U32) (s : State) : spared (freePress q i s) = spared s := (freePress_keeps q i s).spared (by decide) (by decide)

@[simp] theorem spared_touchHbm (who : Who) (a len : Nat) (s : State) : spared (touchHbm who a len s) = spared s :=
  (touchHbm_keeps who a len s).spares (port_touchHbm who a len s) (by decide)

@[simp] theorem spared_touch (who : Who) (a : LAddr) (len : Nat) (s : State) : spared (touch who a len s) = spared s := by
  cases a with
  | hbm x => exact spared_touchHbm who x len s
  | sram v x => exact (touchSram_keeps who v x len s).spares (port_foldl _ (port_touchSramWord who) _ s) (by decide)
  | host x => simp only [touch, hostPoisonIn]; split <;> rfl
  | remote m x => rfl

@[simp] theorem spared_writeHbm (a : Nat) (data : List Byte) (flags : List Bool) (s : State) : spared (writeHbm a data flags s) = spared s :=
  (writeHbm_keeps a data flags s).spares (port_writeHbm a data flags s) (by decide)

@[simp] theorem spared_poke (a : LAddr) (data : List Byte) (flags : List Bool) (s : State) : spared (poke a data flags s) = spared s :=
  (poke_keeps a data flags s).spares (port_poke a data flags s) (by decide)

@[simp] theorem spared_scramble (a : LAddr) (len : Nat) (s : State) : spared (scramble a len s) = spared s :=
  (scramble_keeps a len s).spares (port_scramble a len s) (by decide)

@[simp] theorem spared_sramRecord (type severity source unit off status : Nat) (who : Who) (l : Latent) (s : State) :
    spared (sramRecord type severity source unit off status who l s) = spared s :=
  spared_errRecord _ s

@[simp] theorem spared_correctSram (source unit off : Nat) (who : Who) (l : Latent) (s : State) :
    spared (correctSram source unit off who l s) = spared s := by simp [correctSram]

@[simp] theorem spared_unitUncorr (u : UnitId) (s : State) : spared (unitUncorr u s) = spared s := by simp [unitUncorr, suspect, setSvc]

@[simp] theorem spared_fillLines (die : Nat) (a : LAddr) (len : Nat) (s : State) : spared (fillLines die a len s) = spared s :=
  (fillLines_keeps die a len s).spared (by decide) (by decide)

@[simp] theorem spared_arriveWait (c : Nat) (w : Wait) (s : State) : spared (arriveWait c w s).1 = spared s := (arriveWait_keeps c w s).spared (by decide) (by decide)

@[simp] theorem spared_retireCulture (s : State) : spared (retireCulture s) = spared s := by simp [retireCulture]

@[simp] theorem spared_hostFailed (s : State) : spared (hostFailed s) = spared s := by
  simp only [hostFailed]
  split <;> rfl

@[simp] theorem spared_openSlot (r q : Nat) (s : State) : spared (openSlot r q s) = spared s := by
  simp only [openSlot]
  split <;> rfl

/-! #### Requests and counters -/

@[simp] theorem spared_issue (kind dst address len amount : Nat) (data : List Byte) (bad : List Nat) (cache : Option Nat) (q : Nat) (idx : U32)
    (s : State) : spared (issue kind dst address len amount data bad cache q idx s).1 = spared s := by simp [issue]

@[simp] theorem spared_releaseWaiter (st : Status) (s : State) (w : Waiter) : spared (releaseWaiter st s w) = spared s := by
  cases w with
  | unit u => simp only [releaseWaiter]; split <;> rfl
  | _ => simp [releaseWaiter]

@[simp] theorem spared_settle (c : Nat) (s : State) : spared (settle c s) = spared s := by simp [settle]

@[simp] theorem spared_signalCounter (c : Nat) (n : U32) (s : State) : spared (signalCounter c n s).1 = spared s := by
  simp only [signalCounter]
  split
  · rfl
  · split_ifs <;> simp

@[simp] theorem spared_withdraw (p : Waiter → Bool) (s : State) : spared (withdraw p s) = spared s := by simp [withdraw]

@[simp] theorem spared_ringSignal (c : Nat) (s : State) : spared (ringSignal c s) = spared s := by
  simp only [ringSignal]
  split
  · rfl
  · split <;> simp

@[simp] theorem spared_publishSlot (r : Nat) (s : State) : spared (publishSlot r s) = spared s := by
  simp only [publishSlot]
  split <;> simp

/-! #### Range coding -/

@[simp] theorem spared_setCtx (c : Nat) (x : Ctx) (s : State) : spared (setCtx c x s) = spared s := rfl

@[simp] theorem spared_closeCtx (c : Nat) (s : State) : spared (closeCtx c s) = spared s := by simp [closeCtx]

@[simp] theorem spared_dropCheck (owner : Nat) (d : List Byte) (s : State) : spared (dropCheck owner d s) = spared s := by
  simp only [dropCheck]
  split <;> simp

@[simp] theorem spared_noteCorrupt (n : Nat) (st : Status) (s : State) : spared (noteCorrupt n st s) = spared s := by simp [noteCorrupt]

@[simp] theorem spared_closeContexts (q : Nat) (s : State) : spared (closeContexts q s) = spared s := by simp [closeContexts]

@[simp] theorem spared_tableFailure (who : Who) (n off : Nat) (l : Latent) (s : State) : spared (tableFailure who n off l s) = spared s := by
  simp [tableFailure]

@[simp] theorem spared_tableRead (who : Who) (n gen : Nat) (e : ModelEntry) (fault : Bool) (s : State) :
    spared (tableRead who n gen e fault s).1 = spared s := by simp [tableRead]

@[simp] theorem spared_loopMismatch (enc chk level q : Nat) (cause : Status) (scratch : Nat) (d : List Byte) (s : State) :
    spared (loopMismatch enc chk level q cause scratch d s) = spared s := by simp [loopMismatch]

@[simp] theorem spared_loseCheck (chk t : Nat) (cause : Status) (s : State) : spared (loseCheck chk t cause s) = spared s := by
  simp only [loseCheck]
  split <;> simp

@[simp] theorem spared_failCtx (c : Nat) (x : Ctx) (st : Status) (s : State) : spared (failCtx c x st s) = spared s := by simp [failCtx]

@[simp] theorem spared_rcBegin (owner gen : Nat) (d : List Byte) (s : State) : spared (rcBegin owner gen d s).1 = spared s := by
  simp only [rcBegin]
  repeat' split
  all_goals simp

@[simp] theorem spared_rcPass (owner : Nat) (fault : Bool) (d : List Byte) (s : State) : spared (rcPass owner fault d s).1 = spared s := by
  simp only [rcPass]
  repeat' split
  all_goals simp

@[simp] theorem spared_noteInsert (table : Nat) (s : State) : spared (noteInsert table s) = spared s := by simp [noteInsert]

@[simp] theorem spared_addFill (table : Nat) (n : Int) (s : State) : spared (addFill table n s) = spared s := by simp [addFill]

@[simp] theorem spared_probeAll (who : Who) (table key : Nat) (s : State) : spared (probeAll who table key s).1 = spared s := by simp [probeAll]

@[simp] theorem spared_putEntryIn (who : Who) (table : Nat) (e : List Byte) (s : State) : spared (putEntryIn who table e s).1 = spared s := by
  simp only [putEntryIn]
  repeat' split
  all_goals simp

@[simp] theorem spared_releaseWheel (q : Nat) (d w : List Byte) (words escaped : Nat) (s : State) :
    spared (releaseWheel q d w words escaped s).1 = spared s := by
  simp only [releaseWheel]
  split_ifs <;> simp

@[simp] theorem spared_endCheck (c t : Nat) (failed : Option Status) (digest : List Byte) (dest : List Chunk) (s : State) :
    spared (endCheck c t failed digest dest s).1 = spared s := by
  simp only [endCheck]
  split
  · rfl
  · split_ifs <;> simp

@[simp] theorem spared_rcEnd (owner : Nat) (d : List Byte) (s : State) : spared (rcEnd owner d s).1 = spared s := by
  simp only [rcEnd]
  repeat' split
  all_goals simp

@[simp] theorem spared_rcCheck (k : Nat) (inPlan : Bool) (d : List Byte) (s : State) : spared (rcCheck k inPlan d s).1 = spared s := by
  simp only [rcCheck]
  split
  · rfl
  · split <;> simp

@[simp] theorem spared_rcEncode (inPlan : Bool) (owner gen : Nat) (fault : Bool) (d : List Byte) (s : State) :
    spared (rcEncode inPlan owner gen fault d s).1 = spared s := by
  simp only [rcEncode]
  repeat' split
  all_goals simp

/-! #### Plan units -/

@[simp] theorem spared_unitNext (u : UnitId) (s : State) : spared (unitNext u s) = spared s := rfl

@[simp] theorem spared_unitIssue (u : UnitId) (kind dst address len amount : Nat) (data : List Byte) (bad : List Nat) (cache : Option Nat)
    (s : State) : spared (unitIssue u kind dst address len amount data bad cache s) = spared s := by
  simp only [unitIssue]
  split <;> simp

@[simp] theorem spared_unitCounter (u : UnitId) (op module counter amount phase : Nat) (s : State) :
    spared (unitCounter u op module counter amount phase s) = spared s := by
  simp only [unitCounter]
  split_ifs
  · simp
  · simp
  · simp
  · simp
  · split <;> simp

@[simp] theorem spared_unitAsk (u : UnitId) (cache : Option Nat) (spans : List (Nat × Nat × Nat)) (shared : List (Nat × Nat)) (phase : Nat)
    (s : State) : spared (unitAsk u cache spans shared phase s) = spared s := by simp [unitAsk]

@[simp] theorem spared_unitChecked (q : Nat) (r : UnitRun) (op : PlanOp) (run : Nat → State → State) (s : State)
    (h : ∀ n s, spared (run n s) = spared s) : spared (unitChecked q r op run s) = spared s := by
  unfold unitChecked
  extract_lets first second read
  have spared_read : spared read = spared s := by simp [read]
  split
  · simp
  · split
    · simp
    · split
      · exact h _ s
      · split <;> simp [h, spared_read]

@[simp] theorem spared_unitEnd (u : UnitId) (op : PlanOp) (s : State) : spared (unitEnd u op s) = spared s := by
  unfold unitEnd
  extract_lets p stored published
  have spared_stored : spared stored = spared s := by
    dsimp only [stored]
    split <;> rfl
  have spared_published : spared published = spared s := by
    dsimp only [published]
    split <;> simp [spared_stored]
  simp [spared_published]

@[simp] theorem spared_unitFails (u : UnitId) (op : PlanOp) (st : Status) (s : State) : spared (unitFails u op st s) = spared s := by
  simp only [unitFails, spared_unitNext, spared_failSoon]
  split <;> simp

@[simp] theorem spared_unitHostFails (u : UnitId) (op : PlanOp) (outs : List (LAddr × Nat)) (s : State) :
    spared (unitHostFails u op outs s) = spared s := by simp [unitHostFails]

@[simp] theorem spared_fillHost (cache : Option Nat) (reads : List (LAddr × Nat)) (s : State) : spared (fillHost cache reads s) = spared s := by
  simp only [fillHost]
  split <;> simp

@[simp] theorem spared_unitWrite (u : UnitId) (c : Chunk) (s : State) : spared (unitWrite u c s) = spared s := by
  simp only [unitWrite]
  split <;> simp

@[simp] theorem spared_unitCommit (u : UnitId) (op : PlanOp) (r : DataRes) (s : State) : spared (unitCommit u op r s) = spared s := by
  simp only [unitCommit]
  split_ifs
  · simp
  · split <;> simp
  · split <;> simp

@[simp] theorem spared_vatsFail (u : UnitId) (op : PlanOp) (vats : List Nat) (outs : List (LAddr × Nat)) (s : State) :
    spared (vatsFail u op vats outs s) = spared s := by simp [vatsFail]

@[simp] theorem spared_unitData (u : UnitId) (op : PlanOp) (phase : Nat) (cache : Option Nat) (reads : List (LAddr × Nat))
    (run : State → State × DataRes) (s : State) (h : ∀ s, spared (run s).1 = spared s) :
    spared (unitData u op phase cache reads run s) = spared s := by
  simp [unitData, h]

@[simp] theorem spared_unitRange (u : UnitId) (q : Nat) (op : PlanOp) (phase : Nat) (d : List Byte) (s : State) :
    spared (unitRange u q op phase d s) = spared s := by
  simp only [unitRange]
  split
  · simp
  · simp
  · simp
  · split <;> simp
  · rfl

@[simp] theorem spared_unitTensor (u : UnitId) (q : Nat) (op : PlanOp) (phase : Nat) (s : State) : spared (unitTensor u q op phase s) = spared s := by
  unfold unitTensor
  extract_lets opened
  have spared_opened : spared opened = spared s := by
    dsimp only [opened]
    split
    · split <;> simp
    · rfl
  split
  · rw [spared_unitData _ _ _ _ _ _ _ fun _ => rfl, spared_opened]
  · simp [spared_opened]

@[simp] theorem spared_unitOp (q : Nat) (r : UnitRun) (op : PlanOp) (s : State) : spared (unitOp q r op s) = spared s := by
  cases op <;> simp [unitOp]

@[simp] theorem spared_unitPass (s : State) : spared (unitPass s) = spared s := by
  simp only [unitPass]
  split
  · rfl
  · refine spared_foldl _ (fun s r => ?_) _ s
    split
    · split <;> simp
    · rfl

theorem spared_unitPasses (n : Nat) (s : State) : spared (unitPasses n s) = spared s := by
  induction n generalizing s with
  | zero => rfl
  | succ n ih => exact (ih _).trans (spared_unitPass s)

theorem spared_wake (s : State) : spared (wake s) = spared s := by
  rw [wake]
  split
  · rfl
  · exact spared_unitPasses _ s

/-! #### Resets of queues (R339) -/

@[simp] theorem spared_raiseMsix (v : Nat) (s : State) : spared (raiseMsix v s) = spared s := (raiseMsix_keeps v s).spares (port_raiseMsix v s) (by decide)

@[simp] theorem spared_retireIndex (s : State) : spared (retireIndex s) = spared s := by simp [retireIndex]

@[simp] theorem spared_poisonCounter (st : Status) (s : State) (c : Nat) : spared (poisonCounter st s c) = spared s := by simp [poisonCounter]

@[simp] theorem spared_poisonCounters (cause : Nat) (st : Status) (cs : List Nat) (s : State) :
    spared (poisonCounters cause st cs s) = spared s := by simp [poisonCounters]

@[simp] theorem spared_writeRecord (q : Nat) (o : Op) (s : State) : spared (writeRecord q o s) = spared s := by
  simp only [writeRecord]
  split
  · simp
  · split <;> cases o.publish <;> simp [pokeClean]

@[simp] theorem spared_returnCounters (a : ArgTable) (s : State) : spared (returnCounters a s) = spared s :=
  spared_foldl _ (fun s c => spared_modC c _ s) (localCounters s a) s

@[simp] theorem spared_dropRequest (q : Nat) (i : U32) (s : State) : spared (dropRequest q i s) = spared s := by
  simp only [dropRequest]
  split <;> simp

@[simp] theorem spared_completeOperation (q : Nat) (s : State) : spared (completeOperation q s) = spared s := by
  simp only [completeOperation]
  split <;> simp

@[simp] theorem spared_flushRecords (q n : Nat) (s : State) : spared (flushRecords q n s) = spared s := by
  induction n generalizing s with
  | zero => rfl
  | succ n ih => simp [flushRecords, ih]

@[simp] theorem spared_stopOps (q : Nat) (st : Status) (s : State) : spared (stopOps q st s) = spared s := by simp [stopOps, someSticky]

@[simp] theorem spared_resetQueueBy (stop : State → State) (h : ∀ s, spared (stop s) = spared s) (q : Nat) (st : Status) (after : After)
    (s : State) : spared (resetQueueBy stop q st after s) = spared s := by
  unfold resetQueueBy
  extract_lets n withdrawn stopped flushed poisoned cleared told
  have stopped_spared : spared stopped = spared s := by
    dsimp only [stopped]
    split
    · simp [h, withdrawn]
    · simp [withdrawn]
  simp [told, cleared, poisoned, flushed, closeSlots, stopped_spared]

end Sys2Proof.Safety

namespace Sys2Proof.Safety

open Sys2Proof.Machine

/-! ### The function-level reset (R465) -/

@[simp] theorem spared_flrQueue (s : State) (q : Nat) : spared (flrQueue s q) = spared s := by
  simp only [flrQueue]
  split
  · rfl
  · exact spared_resetQueueBy _ (spared_modJob _) q _ _ s

/-- The state that the reset clears, once its queues are disabled. -/
def flrCleared (s : State) : State :=
  { s with
    fmw := flrMailboxes s.fmw, rings := [], err := { s.err with tail := s.err.head }, evt := { s.evt with tail := s.evt.head },
    cxl := { s.cxl with
      flrCount := satAdd 255 s.cxl.flrCount 1, table := [], pendingBits := [], functionMask := false, busMaster := false, memSpace := false } }

/-- The queues disabled. -/
def flrQueues (s : State) : State := (s.queues.map (·.1)).foldl flrQueue s

theorem functionReset_head {s : State} (head : isHead s = true) (up : s.cxl.protocols ≠ 0) :
    functionReset s = raise 0x0812 1 (leBytes 1 (satAdd 255 (flrQueues s).cxl.flrCount 1)) (flrCleared (flrQueues s)) := by
  have acts : (!isHead s || !cxlUp s) = false := by simp [head, cxlUp_of_protocols up]
  simp only [functionReset, acts, Bool.false_eq_true, if_false]
  rfl

theorem exec_flr {s : State} (awake : Awake s) : exec .flr s = .next (wake (functionReset s)) := congrArg Host.Outcome.next (live_awake awake _)

/-! #### What it keeps and clears of the whole module -/

/-- A field of the port that `spared` keeps. -/
theorem spared_field {α : Type} (f : Cxl → α) (kept : ∀ c packages fuses t, f (sparedOf c packages fuses t).1 = f c) {s : State} {x : Spared}
    (h : spared s = x) : f s.cxl = f x.1 :=
  (kept s.cxl _ _ _).symm.trans (congrArg (fun y => f y.1) h)

/-- While no vector has an entry, `spared` keeps the pending bits too. -/
theorem spared_pendingBits {s : State} {x : Spared} (h : spared s = x) (unlisted : s.cxl.table = []) : s.cxl.pendingBits = x.1.pendingBits := by
  have pending : (if s.cxl.table = [] then s.cxl.pendingBits else []) = x.1.pendingBits := congrArg (fun y => y.1.pendingBits) h
  rwa [if_pos unlisted] at pending

theorem spared_flrQueues (s : State) : spared (flrQueues s) = spared s := spared_foldl _ spared_flrQueue _ s

/-- The reset's effect on what it spares: one more reset counted, the MSI-X table and the function's enables cleared. -/
def Spared.reset (x : Spared) : Spared :=
  ({ x.1 with
      flrCount := satAdd 255 x.1.flrCount 1, table := [], pendingBits := [], functionMask := false, busMaster := false, memSpace := false }, x.2)

theorem spared_flrCleared (s : State) : spared (flrCleared s) = Spared.reset (spared s) := rfl

theorem spared_wake_functionReset {s : State} (head : isHead s = true) (up : s.cxl.protocols ≠ 0) :
    spared (wake (functionReset s)) = Spared.reset (spared s) := by
  rw [spared_wake, functionReset_head head up, spared_raise, spared_flrCleared, spared_flrQueues]

/-! #### A module without enabled queues and without a plan job -/

theorem flrQueues_disabled {s : State} (disabled : ∀ q, (getQ s q).mode = .disabled) : flrQueues s = s := by
  have each (q : Nat) : flrQueue s q = s := if_pos (disabled q)
  rw [flrQueues]
  induction s.queues.map (·.1) with
  | nil => rfl
  | cons q r ih => rw [List.foldl_cons, each, ih]

/-- What an event leaves of the event ring and of the firmware's tables. -/
def eventFrame (s : State) : U32 × List Mailbox × List Session := (s.evt.tail, s.fmw.boxes, s.fmw.sessions)

theorem eventFrame_writeEvent (e : Event) (s : State) : eventFrame (writeEvent e s) = eventFrame s := by
  simp only [writeEvent, raiseMsix, sendMsix, RecRing.push, RecRing.lose]
  split_ifs <;> rfl

theorem eventFrame_raise (code severity : Nat) (detail : List Byte) (s : State) : eventFrame (raise code severity detail s) = eventFrame s := by
  simp only [raise, routeEvent]
  split_ifs
  · rfl
  · rfl
  · exact eventFrame_writeEvent _ s
  · rfl
  · rfl
  · rfl

/-- A mailbox as the reset leaves it: a host mailbox reads idle. -/
def idleBox (m : Nat) (b : Mailbox) : Mailbox := if m < 4 then { b with busy := false, done := false, rejected := false } else b

theorem getBox_flrCleared (s : State) (m : Nat) : getBox (flrCleared s) m = idleBox m (getBox s m) := by
  change ((s.fmw.boxes.zip (upFrom 0 s.fmw.boxes.length)).map fun p => idleBox p.2 p.1).getD m Mailbox.idle =
    idleBox m (s.fmw.boxes.getD m Mailbox.idle)
  by_cases inside : m < s.fmw.boxes.length
  · simp [List.getD_eq_getElem?_getD, upFrom, inside]
  · have outside : s.fmw.boxes.length ≤ m := Nat.not_lt.1 inside
    rw [List.getD_eq_default _ _ outside, List.getD_eq_default _ _ (by simp [upFrom, outside])]
    simp only [idleBox]
    split <;> rfl

theorem flrCleared_keeps (s : State) : Keeps [.rings, .err, .evt, .fmw, .cxl, .sent] s (flrCleared s) := by
  intro p hp; cases p <;> simp_all [Same, flrCleared]

/-- Settles O53: what stops queues and lets units go on leaves `spared` as it is; without either, FLR clears and raises its event. -/
theorem functionLevelReset : Obligations.FunctionLevelReset := by
  unfold Obligations.FunctionLevelReset
  refine ⟨?port, ?idle⟩
  case port =>
    intro s awake head up
    have state := spared_wake_functionReset head up
    have field {α : Type} (f : Cxl → α) (kept : ∀ c packages fuses t, f (sparedOf c packages fuses t).1 = f c) := spared_field f kept state
    have table : (wake (functionReset s)).cxl.table = [] := (field Cxl.table fun _ _ _ _ => rfl).trans rfl
    have count : (wake (functionReset s)).cxl.flrCount = satAdd 255 s.cxl.flrCount 1 := (field Cxl.flrCount fun _ _ _ _ => rfl).trans rfl
    exact ⟨_, exec_flr awake, count.trans (satAdd_eq_min _ _ _), table, (spared_pendingBits state table).trans rfl,
      (field Cxl.functionMask fun _ _ _ _ => rfl).trans rfl, (field Cxl.busMaster fun _ _ _ _ => rfl).trans rfl,
      (field Cxl.memSpace fun _ _ _ _ => rfl).trans rfl, (field Cxl.protocols fun _ _ _ _ => rfl).trans rfl,
      (field Cxl.hdm fun _ _ _ _ => rfl).trans rfl, congrArg (fun x => x.2.1) state, congrArg (fun x => x.2.2.1) state,
      congrArg (fun x => x.2.2.2) state⟩
  case idle =>
    intro s awake head up noJob disabled
    have reset := (functionReset_head head up).trans (by rw [flrQueues_disabled disabled])
    have kept := raise_keeps 0x0812 1 (leBytes 1 (satAdd 255 s.cxl.flrCount 1)) (flrCleared s)
    have told := eventFrame_raise 0x0812 1 (leBytes 1 (satAdd 255 s.cxl.flrCount 1)) (flrCleared s)
    rw [← reset] at kept told
    have frame := (flrCleared_keeps s).trans (kept.mono (by simp))
    obtain ⟨tail, boxes, sessions⟩ : _ ∧ _ ∧ _ := by simpa only [eventFrame, Prod.mk.injEq] using told
    have box (m : Nat) : getBox (functionReset s) m = idleBox m (getBox s m) := by
      rw [← getBox_flrCleared, getBox, boxes]
      rfl
    have idle : wake (functionReset s) = functionReset s := wake_idle _ ((congrArg Plan.job (frame.part .plan (by decide))).trans noJob)
    refine ⟨_, (exec_flr awake).trans (congrArg _ idle), kept.part .rings (by decide), kept.part .err (by decide), tail, fun m host => ?_, box 4, sessions, frame⟩
    rw [box, idleBox, if_pos host]
    exact ⟨rfl, rfl, rfl⟩

end Sys2Proof.Safety

namespace Sys2Proof.Safety

open Sys2Proof.Machine

-- One theorem at a time: theorems that wait for the kernel hold a thread each, and so long a text leaves little memory for them.
set_option Elab.async false

/-! ### An emergency lowering (R471, R472) -/

theorem addBelow_keeps (now : Nat) (s : State) : Keeps [.power] s (addBelow now s) := by
  simp only [addBelow]
  split <;> exact modPower_keeps _ s

theorem addBelow_prepared (now : Nat) (s : State) : (addBelow now s).power.prepared = s.power.prepared := by
  simp only [addBelow]
  split <;> rfl

theorem variantInForce_addBelow (now : Nat) (s : State) : variantInForce (addBelow now s) = variantInForce s := by
  simp only [addBelow]
  split <;> rfl

/-- A lowering to a point in full. In a hold the prepared point follows the point in force (R472). -/
theorem lowerPoint_lowers {pt : Nat} {s : State} (lower : s.power.point < pt) (reason now : Nat) :
    let t := lowerPoint pt reason now s
    t.power.point = pt ∧ t.power.belowReason = reason ∧ t.tick.lowest = max s.tick.lowest pt ∧
      t.tick.allAdmitted = (s.tick.allAdmitted && (variantInForce s).all fun v => admits v (self s) pt) ∧
      t.power.prepared = (if s.tick.hold.isSome then pt else s.power.prepared) ∧ Keeps [.power, .tick] s t := by
  have charged := addBelow_keeps now s
  have tick : (addBelow now s).tick = s.tick := charged.part .tick
  have number : self (addBelow now s) = self s := congrArg (·.topology.module) (charged.part .fabric)
  have admitted : (!(variantInForce s).any fun v => !admits v (self s) pt) = (variantInForce s).all fun v => admits v (self s) pt := by
    cases variantInForce s <;> simp
  simp only [lowerPoint, if_neg (Nat.not_le.2 lower), modPower_power, modPower_tick, tick, number, variantInForce_addBelow, admitted,
    addBelow_prepared, true_and]
  refine (charged.mono (by simp)).trans fun p outside => ?_
  cases p <;> simp_all [Same]

/-- A hold for this module's own late work. -/
def lateWork : Hold :=
  { since := 0, own := true, peers := [], cause := 0, units := [], planSet := 0, step := 0, lastRelease := 0, released := 0 }

/-- A single module at P0 whose tick work is late: its boundary is held (R59) with P0 prepared. -/
def heldAtP0 : State :=
  { State.reset with
    start := { State.reset.start with inReset := false, fwReady := true }
    power := { State.reset.power with point := 0, prepared := 0 }
    tick := { State.reset.tick with hold := some lateWork } }

/-- Refutes O44: an alert lowers a held module from P0 to P15, and P15 becomes its prepared point (R472), where the statement keeps the
prepared point for every state. The rest of the statement is `lowerPoint_lowers`. -/
theorem not_emergencyLowersPoint : ¬ Obligations.EmergencyLowersPoint := by
  unfold Obligations.EmergencyLowersPoint
  intro h
  have lower : heldAtP0.power.point < 15 := by decide
  obtain ⟨-, -, -, -, kept, -⟩ := (h 15 5 0 heldAtP0).2 lower
  obtain ⟨-, -, -, -, moved, -⟩ := lowerPoint_lowers lower 5 0
  have differ : (15 : Nat) = 0 := moved.symm.trans kept
  exact absurd differ (by decide)

/-! ### Answers do not look at the turn of settings commands (R386, R397, R398) -/

/-- A change of the state that does not look at the turn of settings commands. -/
abbrev Turnless (f : State → State) : Prop := ∀ r s, f (withRunning r s) = withRunning r (f s)

theorem Turnless.comp {f g : State → State} (hf : Turnless f) (hg : Turnless g) : Turnless fun s => f (g s) :=
  fun r s => (congrArg f (hg r s)).trans (hf r (g s))

theorem Turnless.ite {f g : State → State} (c : Prop) [Decidable c] (hf : Turnless f) (hg : Turnless g) :
    Turnless fun s => if c then f s else g s := by
  intro r s
  split
  · exact hf r s
  · exact hg r s

theorem Turnless.foldl {α : Type} {f : State → α → State} (hf : ∀ a, Turnless fun s => f s a) (l : List α) :
    Turnless fun s => l.foldl f s := by
  induction l with
  | nil => exact fun _ _ => rfl
  | cons a rest ih => exact ih.comp (hf a)

theorem writeResponse_turnless (m : Nat) (c : Cmd) (st : Status) (flags steps : Nat) (payload : List Byte) :
    Turnless (writeResponse m c st flags steps payload) := by
  intro r s
  simp only [writeResponse, apply_ite (withRunning r), ← raiseMsix_withRunning]
  rfl

theorem noteFixed_turnless (c : Cmd) (payload : List Byte) : Turnless (noteFixed c payload) := by
  intro r s
  simp only [noteFixed, apply_ite (withRunning r)]
  rfl

theorem fixEffect_turnless (op tick : Nat) : Turnless (fixEffect op tick) := by
  intro r s
  simp only [fixEffect, apply_ite (withRunning r)]
  rfl

theorem fixBroadcast_turnless (f : Forwarding) : Turnless (fixBroadcast f) := by
  refine Turnless.ite _ (fun _ _ => rfl) fun r s => ?_
  rw [fixEffect_turnless]
  exact Turnless.foldl (fun _ _ _ => rfl) _ r _

/-- The forwards without those of a command. -/
def withoutForward (f : Forwarding) (s : State) : State :=
  { s with fmw := { s.fmw with forwards := s.fmw.forwards.filter fun g => !sameCmd g.cmd f.cmd } }

/-- The forwards with what is known of one of them. -/
def withForward (f : Forwarding) (s : State) : State :=
  { s with fmw := { s.fmw with forwards := s.fmw.forwards.map fun g => if sameCmd g.cmd f.cmd then f else g } }

/-- The response flags of a forward: another module took part, and one was not heard of. -/
def forwardFlags (f : Forwarding) (s : State) : Nat :=
  2 * b2n (f.results.any fun r => r.1 != self s) +
    4 * b2n (f.results.any fun r => r.2 == .moduleUnreachable || r.2 == .moduleLost)

def answerBroadcast (f : Forwarding) (s : State) : State :=
  writeResponse (boxOf f.cmd.src) f.cmd (broadcastStatus s.fabric.topology.modules f.results) (forwardFlags f s) 0
    (broadcastBlock s f.results ++ withTick f.cmd.opcode f.effective f.ownPayload) s

def answerForward (f : Forwarding) (s : State) : State :=
  writeResponse (boxOf f.cmd.src) f.cmd ((f.results.head?.map (·.2)).getD .ok) (forwardFlags f s) 0 f.ownPayload s

theorem settleForward_eq (f : Forwarding) (s : State) : settleForward f s =
    if f.awaited.isEmpty && f.ownDone then
      if f.cmd.target = 0xFF then answerBroadcast f (fixBroadcast f (withoutForward f s)) else answerForward f (withoutForward f s)
    else withForward f s := by
  by_cases broadcast : f.cmd.target = 0xFF
  · simp only [settleForward, if_pos broadcast]; rfl
  · simp only [settleForward, if_neg broadcast]; rfl

theorem answerBroadcast_turnless (f : Forwarding) : Turnless (answerBroadcast f) := fun r s => writeResponse_turnless _ _ _ _ _ _ r s

theorem answerForward_turnless (f : Forwarding) : Turnless (answerForward f) := fun r s => writeResponse_turnless _ _ _ _ _ _ r s

theorem settleForward_turnless (f : Forwarding) : Turnless (settleForward f) := by
  have dropped : Turnless (withoutForward f) := fun _ _ => rfl
  have kept : Turnless (withForward f) := fun _ _ => rfl
  rw [funext (settleForward_eq f)]
  exact .ite _ (.ite _ ((answerBroadcast_turnless f).comp ((fixBroadcast_turnless f).comp dropped)) ((answerForward_turnless f).comp dropped))
    kept

theorem finishCmd_turnless (c : Cmd) (st : Status) (steps : Nat) (payload : List Byte) : Turnless (finishCmd c st steps payload) := by
  intro r s
  have noted : noteHistory c st (withRunning r s) = withRunning r (noteHistory c st s) := rfl
  simp only [finishCmd, noted]
  generalize noteHistory c st s = u
  have fixed := noteFixed_turnless c payload r u
  cases c.src with
  | forwarded e mb => simp only [fixed]; rfl
  | mailbox m =>
    have forwards : (withRunning r u).fmw.forwards = u.fmw.forwards := rfl
    by_cases broadcast : c.target = 0xFF
    · simp only [if_pos broadcast, forwards, fixed]
      cases u.fmw.forwards.find? fun f => sameCmd f.cmd c with
      | some f => exact settleForward_turnless _ r _
      | none => exact writeResponse_turnless _ _ _ _ _ _ r _
    · simp only [if_neg broadcast, fixed]
      exact writeResponse_turnless _ _ _ _ _ _ r _

/-! ### Power states (R489, R490, R574) -/

theorem setPowerState_turnless (n : Nat) : Turnless (setPowerState n) := by
  intro r s
  simp only [setPowerState, apply_ite (withRunning r), ← raise_withRunning]
  rfl

theorem setPowerState_fuses (n : Nat) (s : State) : (setPowerState n s).fuses = s.fuses := by
  simp only [setPowerState]
  split
  · rfl
  · split
    · rfl
    · exact (raise_keeps _ _ _ _).part .fuses

/-- The commands that wait for a boundary of their queue end. -/
def endResets (s : State) : State :=
  s.fmw.resets.foldl (fun s r => finishCmd r.2 .ok 0 [] s) { s with fmw := { s.fmw with resets := [] } }

/-- The commands forwarded to other modules find them unreachable. -/
def endForwards (s : State) : State :=
  s.fmw.forwards.foldl (fun s f =>
    settleForward { f with awaited := [], results := f.awaited.foldl (fun rs m => aset rs m .moduleUnreachable) f.results } s) s

/-- The waiting commands that A3 allows stay. -/
def keepAllowed (s : State) : State :=
  { s with fmw := { s.fmw with waiting := s.fmw.waiting.filter fun c => powerAllows 3 c.opcode, bwNext := none, unfixed := [] } }

/-- The commands that wait for their turn and that A3 forbids fail. -/
def endForbidden (s : State) : State :=
  (s.fmw.waiting.filter fun c => !powerAllows 3 c.opcode).foldl (fun s c => finishCmd c .powerDenied 0 [] s) (keepAllowed s)

theorem a3Commands_eq (s : State) : a3Commands s = endForbidden (endForwards (endResets s)) := rfl

theorem endResets_turnless : Turnless endResets := fun r s =>
  Turnless.foldl (fun (x : Nat × Cmd) => finishCmd_turnless x.2 .ok 0 []) s.fmw.resets r { s with fmw := { s.fmw with resets := [] } }

theorem endForwards_turnless : Turnless endForwards := fun r s => Turnless.foldl (fun _ => settleForward_turnless _) s.fmw.forwards r s

theorem endForbidden_turnless : Turnless endForbidden := fun r s =>
  Turnless.foldl (fun c => finishCmd_turnless c .powerDenied 0 []) (s.fmw.waiting.filter fun c => !powerAllows 3 c.opcode) r (keepAllowed s)

theorem a3Commands_turnless : Turnless a3Commands := endForbidden_turnless.comp (endForwards_turnless.comp endResets_turnless)

theorem endResets_fuses (s : State) : (endResets s).fuses = s.fuses :=
  (Keeps.foldl _ (fun u (x : Nat × Cmd) => finishCmd_keeps x.2 .ok 0 [] u) s.fmw.resets _).part .fuses

theorem endForwards_fuses (s : State) : (endForwards s).fuses = s.fuses :=
  (Keeps.foldl _ (fun u _ => settleForward_keeps _ u) s.fmw.forwards s).part .fuses

theorem endForbidden_fuses (s : State) : (endForbidden s).fuses = s.fuses :=
  (Keeps.foldl _ (fun u c => finishCmd_keeps c .powerDenied 0 [] u) _ (keepAllowed s)).part .fuses

theorem a3Commands_fuses (s : State) : (a3Commands s).fuses = s.fuses := by
  rw [a3Commands_eq, endForbidden_fuses, endForwards_fuses, endResets_fuses]

theorem emitAll_turnless (xs : List Sent) : Turnless (emitAll xs) := Turnless.foldl (fun _ _ _ => rfl) xs

theorem enterA3_turnless : Turnless enterA3 := by
  intro r s
  simp only [enterA3, a3Commands_turnless r s]
  rw [← setPowerState_turnless]
  refine congrArg (setPowerState 3) (Eq.trans ?_ (emitAll_turnless _ r _))
  rfl

theorem enterA3_fuses (s : State) : (enterA3 s).fuses = s.fuses :=
  (setPowerState_fuses 3 _).trans (((emitAll_keeps _ _).part .fuses).trans (a3Commands_fuses s))

theorem exitA3_turnless : Turnless exitA3 := by
  intro r s
  simp only [exitA3]
  rw [← raise_withRunning, ← setPowerState_turnless]
  rfl

theorem exitA3_fuses (s : State) : (exitA3 s).fuses = s.fuses :=
  ((raise_keeps _ _ _ _).part .fuses).trans (setPowerState_fuses 0 _)

/-! ### POWER_STATE (R490) -/

/-- The state with A2 wanted or not. -/
def setWantA2 (wanted : Bool) (s : State) : State := { s with power := { s.power with wantA2 := wanted } }

theorem setWantA2_turnless (wanted : Bool) : Turnless (setWantA2 wanted) := fun _ _ => rfl

theorem exec_powerStateA0 (call : MbCall) (s : State) (named : u8 call.payload 0 = 0) :
    exec (.powerStateA0 call) s = .next (live (mailboxCommand 0x0502 call) s) := by
  change Host.Outcome.next (live _ s) = _
  simp [named]

theorem exec_powerStateA2 (call : MbCall) (s : State) (named : u8 call.payload 0 = 2) :
    exec (.powerStateA2 call) s = .next (live (mailboxCommand 0x0502 call) s) := by
  change Host.Outcome.next (live _ s) = _
  simp [named]

theorem exec_powerStateA3 (call : MbCall) (s : State) (named : u8 call.payload 0 = 3) :
    exec (.powerStateA3 call) s = .next (live (mailboxCommand 0x0502 call) s) := by
  change Host.Outcome.next (live _ s) = _
  simp [named]

theorem hPowerState_awake {c : Cmd} {s : State} (named : u8 c.payload 0 = 0) (state : s.power.state ≤ 1) :
    hPowerState c s = .done .ok [] (setWantA2 false s) := by
  obtain state | state : s.power.state = 0 ∨ s.power.state = 1 := by omega
  · simp only [hPowerState, named, state]; rfl
  · simp only [hPowerState, named, state]; rfl

theorem hPowerState_wakes {c : Cmd} {s : State} (named : u8 c.payload 0 = 0) (state : s.power.state = 2) :
    hPowerState c s = .done .ok [] (setPowerState 0 (setWantA2 false s)) := by
  simp only [hPowerState, named, state]; rfl

/-- What POWER_STATE 0 asks of A3 (R490): it comes from the management mailbox, and no sensor is at its throttle limit. -/
abbrev MayExitA3 (mailbox : Nat) (s : State) : Prop := mailbox = 4 ∧ ∀ r ∈ s.power.readings, r.celsius < (sensorLimits r.cls).1

theorem hPowerState_exits {c : Cmd} {s : State} {m : Nat} (src : c.src = .mailbox m) (named : u8 c.payload 0 = 0)
    (state : s.power.state = 3) :
    hPowerState c s = if MayExitA3 m s then .done .ok [] (exitA3 s) else .done .powerBusy [] s := by
  simp only [hPowerState, named, state, src, CmdSrc.mailbox.injEq, List.all_eq_true, decide_eq_true_eq]
  rfl

theorem hPowerState_wantsA2 {c : Cmd} {s : State} (named : u8 c.payload 0 = 2) (state : s.power.state ≤ 1) :
    hPowerState c s =
      if quietModule s then .done .ok [] (setWantA2 true s) else .done .powerBusy [] s := by
  obtain state | state : s.power.state = 0 ∨ s.power.state = 1 := by omega
  · simp only [hPowerState, named, state]; rfl
  · simp only [hPowerState, named, state]; rfl

/-- What entry to A3 asks (R490): a quiet module that is not the head of a configuration of several. -/
abbrev MayEnterA3 (s : State) : Prop := quietModule s = true ∧ ¬ (isHead s = true ∧ s.fabric.topology.code ≠ 0)

theorem hPowerState_enters {c : Cmd} {s : State} (named : u8 c.payload 0 = 3) (state : s.power.state ≤ 2) :
    hPowerState c s = if MayEnterA3 s then .done .ok [] (enterA3 s) else .done .powerBusy [] s := by
  have enters : (quietModule s && !(isHead s && s.fabric.topology.code != 0)) = true ↔ MayEnterA3 s := by
    simp [MayEnterA3, imp_iff_not_or]
  rw [← if_congr enters rfl rfl]
  obtain state | state | state : s.power.state = 0 ∨ s.power.state = 1 ∨ s.power.state = 2 := by omega
  · simp only [hPowerState, named, state]; rfl
  · simp only [hPowerState, named, state]; rfl
  · simp only [hPowerState, named, state]; rfl

/-- POWER_STATE at its turn, with a change of the state that does not look at the turn. -/
theorem powerState_done {call : MbCall} {s t : State} {c : Cmd} (h : Arrives 0x0502 call s c t) (turn : Turn t) {st : Status}
    {change : State → State} (turnless : Turnless change) (fuses : (change t).fuses = t.fuses)
    (run : hPowerState c (atTurn c t) = .done st [] (change (atTurn c t))) :
    live (mailboxCommand 0x0502 call) s = finishCmd c st 0 [] (change t) := by
  have handled : handle c (atTurn c t) = hPowerState c (atTurn c t) := by simp only [handle, arrives_opcode h]
  exact settings_changes h turn (by decide) rfl change (handled.trans run) (fun u => (turnless none u).symm) fuses

/-- POWER_STATE at its turn, where it changes the state or answers POWER_BUSY. -/
theorem powerState_decides {call : MbCall} {s t : State} {c : Cmd} (h : Arrives 0x0502 call s c t) (turn : Turn t) {p : Prop} [Decidable p]
    {change : State → State} (turnless : Turnless change) (fuses : (change t).fuses = t.fuses)
    (run : hPowerState c (atTurn c t) = if p then .done .ok [] (change (atTurn c t)) else .done .powerBusy [] (atTurn c t)) :
    live (mailboxCommand 0x0502 call) s = if p then finishCmd c .ok 0 [] (change t) else finishCmd c .powerBusy 0 [] t := by
  split
  case isTrue may => exact powerState_done h turn turnless fuses (run.trans (if_pos may))
  case isFalse may => exact powerState_done h turn (change := id) (fun _ _ => rfl) rfl (run.trans (if_neg may))

/-- Settles O21: POWER_STATE's handler case by case; its change does not look at the turn in which it runs. -/
theorem powerStateCommandsComplete : Obligations.PowerStateCommandsComplete := by
  unfold Obligations.PowerStateCommandsComplete
  refine ⟨?a0, ?a2, ?a3⟩
  case a0 =>
    intro call s c t h turn named awake
    have own : u8 c.payload 0 = 0 := (arrives_u8 h rfl 0 (by decide)).trans named
    rw [exec_powerStateA0 call s named]
    refine ⟨fun state => congrArg _ ?stays, fun state => congrArg _ ?wakes, fun state => congrArg _ ?exits⟩
    case stays => exact powerState_done h turn (setWantA2_turnless false) rfl (hPowerState_awake own state)
    case wakes =>
      exact powerState_done h turn ((setPowerState_turnless 0).comp (setWantA2_turnless false)) (setPowerState_fuses 0 _)
        (hPowerState_wakes own state)
    case exits =>
      exact powerState_decides h turn (p := MayExitA3 call.mb t) exitA3_turnless (exitA3_fuses t)
        (hPowerState_exits (arrives_src h) own state)
  case a2 =>
    intro call s c t h turn named state
    have own : u8 c.payload 0 = 2 := (arrives_u8 h rfl 0 (by decide)).trans named
    exact (exec_powerStateA2 call s named).trans (congrArg _
      (powerState_decides h turn (p := quietModule t = true) (setWantA2_turnless true) rfl (hPowerState_wantsA2 own state)))
  case a3 =>
    intro call s c t h turn named state
    have own : u8 c.payload 0 = 3 := (arrives_u8 h rfl 0 (by decide)).trans named
    exact (exec_powerStateA3 call s named).trans (congrArg _
      (powerState_decides h turn (p := MayEnterA3 t) enterA3_turnless (enterA3_fuses t) (hPowerState_enters own state)))

/-! ### Estimation (R473, R474, R576) -/

/-- The estimate, its averages and the energy counted, which a lowering leaves alone. -/
def metered (p : Power) : Nat × Nat × Nat × Nat × Nat := (p.estimateMw, p.avg1ms, p.avg1s, p.energyNj, p.energyMj)

theorem metered_lowerPoint (pt reason now : Nat) (s : State) : metered (lowerPoint pt reason now s).power = metered s.power := by
  simp only [lowerPoint, addBelow]
  split_ifs <;> rfl

/-- The energies of the queues are charged to the queues alone. -/
theorem queueEnergy_keeps (queueUj : List (Nat × Nat)) (s : State) :
    Keeps [.queues] s (queueUj.foldl (fun s q =>
      if (getQ s q.1).mode = .disabled then s else modQ q.1 (fun v => { v with energy := sat64 v.energy q.2 }) s) s) := by
  refine Keeps.foldl _ (fun u q => ?_) queueUj s
  split
  · exact Keeps.refl _ u
  · exact modQ_keeps _ _ u

theorem metered_notePower (estimate avg1ms avg1s : Nat) (queueUj : List (Nat × Nat)) (projected : List Nat) (s : State) :
    metered (notePower estimate avg1ms avg1s queueUj projected s).power =
      (estimate + s.power.guardMw, avg1ms / 1000, avg1s / 1000, (s.power.energyNj + 2 * (estimate + s.power.guardMw)) % 1000000,
        sat64 s.power.energyMj ((s.power.energyNj + 2 * (estimate + s.power.guardMw)) / 1000000)) := by
  have charged (u : State) := (queueEnergy_keeps queueUj u).part .power
  simp only [Same] at charged
  simp only [notePower]
  split
  case isTrue =>
    rw [metered_lowerPoint]
    simp only [modPower_power, charged, metered]
  case isFalse => simp only [modPower_power, charged, metered]

theorem silentDevices_answered (pout : List Nat) (s : State) : silentDevices (pout.map some) s = s := by
  have silent : ((pout.map some).zip (upFrom 0 (pout.map some).length)).filter (fun a => a.1.isNone) = [] := by
    refine List.filter_eq_nil_iff.2 fun a mem => ?_
    obtain ⟨w, -, answer⟩ := List.mem_map.1 (List.of_mem_zip mem).1
    simp [← answer]
  rw [silentDevices, silent, List.foldl_nil]

theorem compareEstimate_answered (estimate : Nat) (pout : List Nat) (s : State) :
    let diff := (estimate - pout.sum) + (pout.sum - estimate)
    compareEstimate estimate (pout.map some) s =
      if pout.sum * 4 < diff * 100 then
        raise 0x0508 1 (leBytes 2 estimate ++ leBytes 2 pout.sum)
          { s with power := { s.power with guardMw := s.power.guardMw + diff * 1000 } }
      else s := by
  have answered : (pout.map some).any (·.isNone) = false := by simp
  have words : (pout.map some).map (fun x => x.getD 0) = pout := by simp
  simp only [compareEstimate, silentDevices_answered, answered, words, Bool.false_eq_true, if_false]
  rfl

/-! ### Sensors (R481) -/

theorem throttle_lt_trip (cls : Nat) : (sensorLimits cls).1 < (sensorLimits cls).2 := by
  simp only [sensorLimits]
  split <;> decide

/-- No sensor trips. -/
theorem find_trip_none {rs : List Reading} (below : ∀ r ∈ rs, r.celsius < (sensorLimits r.cls).2) :
    (rs.find? fun r => decide ((sensorLimits r.cls).2 ≤ r.celsius)) = none :=
  List.find?_eq_none.2 fun r mem => by simpa using below r mem

theorem readSensors_cool {rs : List Reading} (cool : ∀ r ∈ rs, r.celsius + 3 ≤ (sensorLimits r.cls).1) (s : State) :
    readSensors rs s = { s with power := { s.power with readings := rs, thermal := false } } := by
  have untripped := find_trip_none fun r mem =>
    (Nat.le_of_add_right_le (cool r mem)).trans_lt (throttle_lt_trip r.cls)
  have unthrottled : (rs.find? fun r => decide ((sensorLimits r.cls).1 < r.celsius)) = none :=
    List.find?_eq_none.2 fun r mem => by simpa using Nat.le_of_add_right_le (cool r mem)
  have notNear : nearHot (modPower (fun p => { p with readings := rs }) s) = false :=
    List.any_eq_false.2 fun r mem => by simpa using cool r mem
  simp only [readSensors, untripped, unthrottled, notNear, Bool.false_eq_true, if_false]
  rfl

theorem readSensors_hot {rs : List Reading} {r : Reading} {s : State} (below : ∀ x ∈ rs, x.celsius < (sensorLimits x.cls).2)
    (hot : (rs.find? fun x => decide ((sensorLimits x.cls).1 < x.celsius)) = some r) (unthrottled : s.power.thermal = false) :
    readSensors rs s = raise 0x0503 1 (sensorDetail r) { s with power := { s.power with readings := rs, thermal := true } } := by
  simp only [readSensors, find_trip_none below, hot, modPower_power, unthrottled, Bool.false_eq_true, if_false]
  rfl

theorem thermalStep_hot {s : State} (hot : ∃ r ∈ s.power.readings, (sensorLimits r.cls).1 < r.celsius) (above : s.power.point < 15) :
    thermalStep s = lowerPoint (s.power.point + 1) 4 s.tick.timebase s := by
  refine if_pos ?_
  simpa [above] using hot

/-! ### The alert pin and the droop detectors (R482, R483) -/

theorem assertAlert_serves {s : State} (ready : s.start.fwReady = true) (on : s.power.state ≠ 3) (unasserted : s.power.alert = false)
    (now : Nat) :
    assertAlert now [] s = raise 0x0501 1 [] (lowerPoint 15 5 now { s with
      power := { s.power with alert := true, alertSince := now, alertHold := false }
      tick := { s.tick with timebase := max s.tick.timebase now } }) := by
  refine if_neg ?_
  simp [ready, on, unasserted]

theorem deassertAlert_asserted {s : State} (asserted : s.power.alert = true) (now : Nat) :
    deassertAlert now s = raise 0x0502 0 (leBytes 8 (now - s.power.alertSince)) { s with
      power := { s.power with alert := false, alertHold := true }
      tick := { s.tick with timebase := max s.tick.timebase now } } := if_pos asserted

theorem endStretch_running {s : State} {domain since : Nat} {d : Droop} (detector : s.power.droops[domain]? = some d)
    (stretched : d.since = some since) (now : Nat) :
    endStretch domain now s = { s with
      power := { s.power with droops := s.power.droops.set domain { d with since := none, added := d.added + (now - since) / 2 } }
      tick := { s.tick with timebase := max s.tick.timebase now } } := by
  simp only [endStretch, modPower, atTime, List.modify_eq_set_getElem?, detector, Option.map_eq_map, Option.map_some, Option.getD_some,
    stretched]

/-- Settles O43: each event in its case. -/
theorem powerEventsComplete : Obligations.PowerEventsComplete := by
  unfold Obligations.PowerEventsComplete
  refine ⟨?estimate, ?compare, ?cool, ?hot, ?step, ?assert, ?deassert, ?holdEnd, ?trip, ?stretchEnd, ?responseEnd⟩
  case estimate =>
    intro e a b uj projected s awake
    have meters := metered_notePower e a b uj projected s
    simp only [metered, Prod.mk.injEq] at meters
    exact ⟨_, congrArg Host.Outcome.next (live_awake awake _), meters⟩
  case compare =>
    exact fun estimate pout s awake => congrArg _ ((live_awake awake _).trans (compareEstimate_answered estimate pout s))
  case cool => exact fun rs s awake cool => congrArg _ ((live_awake awake _).trans (readSensors_cool cool s))
  case hot =>
    exact fun rs r s awake below hot unthrottled => congrArg _ ((live_awake awake _).trans (readSensors_hot below hot unthrottled))
  case step => exact fun s awake hot above => congrArg _ ((live_awake awake _).trans (thermalStep_hot hot above))
  case assert =>
    exact fun now s awake ready on unasserted => congrArg _ ((live_awake awake _).trans (assertAlert_serves ready on unasserted now))
  case deassert => exact fun now s awake asserted => congrArg _ ((live_awake awake _).trans (deassertAlert_asserted asserted now))
  case holdEnd => exact fun s awake => congrArg _ (live_awake awake _)
  case trip => exact fun domain now s awake => congrArg _ (live_awake awake _)
  case stretchEnd =>
    exact fun domain now d since s awake detector stretched =>
      congrArg _ ((live_awake awake _).trans (endStretch_running detector stretched now))
  case responseEnd => exact fun domain s awake => congrArg _ (live_awake awake _)

/-! ### The budget and the PCI power states (R487, R488, R491) -/

theorem budgetRound_pooled {s : State} (pooled : s.power.pool = true) (average slack : Nat) (forced : Bool) :
    let r : BudgetReport := { module := self s, capW := s.power.sustained, averageW := average, slackMilli := slack, forced := forced }
    budgetRound average slack forced s = if isHead s then noteReport r s else emit (.budgetReport (headModule s) r) s := by
  simp only [budgetRound, pooled, Bool.not_true, Bool.false_eq_true, if_false]

/-- A pooled member whose head is lost, or that has had no grant for 64 ticks, goes back to its configured cap. -/
theorem loseLead_orphaned {s : State} (pooled : s.power.pool = true) (member : isHead s = false)
    (orphaned : s.fabric.lost.contains (headModule s) = true ∨ s.power.lastGrant + 64 ≤ s.tick.count) :
    loseLead s = raise 0x0506 1 (leBytes 1 (headModule s)) { s with power := { s.power with
      grantNext := if s.power.sustained < effectiveCap s then some (s.tick.count + 1, s.power.sustained) else none
      restoreDue := if effectiveCap s < s.power.sustained then some (s.tick.timebase + 10000000) else none
      lastGrant := s.tick.count } } := by
  have acts : (s.power.pool && !isHead s &&
      (s.fabric.lost.contains (headModule s) || decide (s.power.lastGrant + 64 ≤ s.tick.count))) = true := by
    simpa only [pooled, member, Bool.not_false, Bool.and_true, Bool.true_and, Bool.or_eq_true, decide_eq_true_eq] using orphaned
  exact if_pos acts

theorem restoreGrant_due {s : State} {n : Nat} (due : s.power.restoreDue = some n) :
    restoreGrant s = { s with power := { s.power with grant := none, restoreDue := none } } := if_pos (Option.isSome_of_eq_some due)

theorem enterD3_running {s : State} (running : s.power.state ≠ 3) : enterD3 s = { s with power := { s.power with d3 := true } } :=
  if_neg running

/-- Settles O45: each event in the case that its premises leave. -/
theorem budgetEventsComplete : Obligations.BudgetEventsComplete := by
  unfold Obligations.BudgetEventsComplete
  refine ⟨?round, ?leadLost, ?restore, ?d3hot, ?d0⟩
  case round =>
    exact fun average slack forced s awake pooled =>
      congrArg _ ((live_awake awake _).trans (budgetRound_pooled pooled average slack forced))
  case leadLost =>
    exact fun s awake pooled member orphaned => congrArg _ ((live_awake awake _).trans (loseLead_orphaned pooled member orphaned))
  case restore => exact fun s n awake due => congrArg _ ((live_awake awake _).trans (restoreGrant_due due))
  case d3hot => exact fun s awake other => congrArg _ ((live_awake awake _).trans (enterD3_running other))
  case d0 => exact fun s awake => congrArg _ (live_awake awake _)

end Sys2Proof.Safety

namespace Sys2Proof.Safety

open Sys2Proof.Machine

/-! ### Steps, fuses and resets (R498, R522, R556, R558) -/

/-- Settles O6: an idle step changes nothing, and what the front command does keeps every blown fuse. -/
theorem fusesOneWay : Obligations.FusesOneWay := by
  unfold Obligations.FusesOneWay
  intro s t ran
  unfold step at ran
  split at ran
  next => cases ran; exact OneWay.refl _
  next c rest _ => exact (exec_steady c { s with pending := rest } t ran).fuses

/-- Settles O2: the queue is part of what every command leaves steady. -/
theorem execKeepsQueue : Obligations.ExecKeepsQueue := by
  unfold Obligations.ExecKeepsQueue
  exact fun c s t ran => (exec_steady c s t ran).pending

/-- Settles O1: both halves are the definition of a step. -/
theorem stepTakesFront : Obligations.StepTakesFront := by
  unfold Obligations.StepTakesFront
  exact fun c r s => ⟨rfl, rfl⟩

/-- Settles O5: a reset lists no byte of HBM, and a byte that is not listed reads as zero. -/
theorem resetMemoryCanonical : Obligations.ResetMemoryCanonical := by
  unfold Obligations.ResetMemoryCanonical
  refine ⟨⟨rfl, rfl⟩, fun cause s => ?_⟩
  obtain ⟨⟨hbm, poison, -⟩, -, -, -, ⟨-, host, -⟩, -⟩ := resetModule_cleared cause s
  exact ⟨hbm, poison, fun a => by rw [hbm]; rfl, host⟩

/-- A module that is not awake is deaf to whatever the running module would do. -/
theorem live_asleep {s : State} (asleep : ¬ Awake s) (f : State → State) : live f s = s := by
  cases held : s.start.inReset
  case true => exact live_reset held f
  case false => exact live_scanned (Bool.eq_true_of_not_eq_false fun runs => asleep ⟨held, runs⟩) f

theorem cxlMem_asleep {s : State} (asleep : ¬ Awake s) : ¬ (cxlUp s && !s.start.inReset && !s.sec.scanned) = true := by
  simp only [Bool.and_eq_true, Bool.not_eq_true']
  exact fun ⟨⟨_, running⟩, clocked⟩ => asleep ⟨running, clocked⟩

/-- Settles O3: of the commands that reach only an awake module all but the two CXL.mem accesses run through `live`. -/
theorem resetHoldsTheModule : Obligations.ResetHoldsTheModule := by
  unfold Obligations.ResetHoldsTheModule
  intro c s deaf asleep
  cases c
  case cxlMemRead hpa len => exact if_neg (cxlMem_asleep asleep)
  case cxlMemWrite hpa data poison => exact if_neg (cxlMem_asleep asleep)
  case powerOn | pinReset | conventionalReset | startOrigin | cxlHotReset | cxlReset | railPowerGoodTimeout | brownOut
    | brownOutRecovery | alwaysOnRailLoss | tapBypass | tapIdcode | tapSamplePreload | tapExtest | tapMemoryAccess => cases deaf
  all_goals exact congrArg _ (live_asleep asleep _)

/-! ### Management messages that are not genuine (R515) -/

theorem receiveMgmt_unauthenticated {a : MgmtAuth} {s : State} (port : (getPort s a.port).authed = false) (k : State → State) :
    receiveMgmt a k s = s := by
  simp only [receiveMgmt, port, Bool.not_false, if_true]

/-- What a message that is not genuine does to the port that it comes through. -/
def forgeryNoted (a : MgmtAuth) (s : State) : State := portDown a.port 2 (raise 0x0605 2 (leBytes 1 a.port) s)

theorem receiveMgmt_forged {a : MgmtAuth} {s : State} (port : (getPort s a.port).authed = true)
    (forged : mgmtTag (getPort s a.port).keyRx a.message a.counter ≠ a.tag ∨ a.counter ≤ (getPort s a.port).mgmtRx)
    (k : State → State) : receiveMgmt a k s = forgeryNoted a s := by
  have fails : ¬ (mgmtTag (getPort s a.port).keyRx a.message a.counter = a.tag ∧ (getPort s a.port).mgmtRx < a.counter) :=
    fun ⟨tag, fresh⟩ => forged.elim (fun wrong => wrong tag) (Nat.not_le.2 fresh)
  simp only [receiveMgmt, port, Bool.not_true, Bool.false_eq_true, if_false, if_neg fails]
  rfl

/-- A port that goes down, from whatever state, touches only routes, events and outputs. -/
theorem portDown_routes (p cause : Nat) (s : State) : Keeps routeParts s (portDown p cause s) := by
  by_cases up : (getPort s p).state ≠ 3 ∧ (getPort s p).state ≠ 4
  case pos => rw [portDown, if_pos up]; exact Keeps.refl _ s
  case neg =>
    rw [portDown, if_neg up]
    exact (reroute_keeps false (modPort_keeps p _) s).trans (((raise_keeps _ _ _ _).mono (by simp)).trans
      (((sendReach_keeps false _).mono (by simp)).trans ((emit_keeps _ _).mono (by simp))))

theorem forgeryNoted_keeps (a : MgmtAuth) (s : State) : Keeps routeParts s (forgeryNoted a s) :=
  ((raise_keeps _ _ _ _).mono (by simp)).trans (portDown_routes _ _ _)

/-- No unit goes on while the window is open, or without a plan job. -/
abbrev UnitsRest (s : State) : Prop := s.tick.windowOpen = true ∨ s.plan.job = none

theorem wake_resting {s : State} (rest : UnitsRest s) : wake s = s := rest.elim (fun opened => if_pos opened) (wake_idle s)

theorem UnitsRest.of_keeps {s t : State} (rest : UnitsRest s) (h : Keeps routeParts s t) : UnitsRest t := by
  have tick : t.tick = s.tick := h.part .tick
  have plan : t.plan = s.plan := h.part .plan
  rwa [UnitsRest, tick, plan]

/-- Where a message comes to `t` whatever it asks for, every management message answers that state; after a forwarded command units go on. -/
theorem mgmt_answers {a : MgmtAuth} {s t : State} (awake : Awake s) (comes : ∀ k, receiveMgmt a k s = t) (rests : UnitsRest s → UnitsRest t) :
    (∀ src n st payload, exec (.forwardedResponse a src n st payload) s = .next t) ∧ (∀ ev, exec (.eventMessage a ev) s = .next t) ∧
    (∀ r, exec (.reachabilityUpdate a r) s = .next t) ∧ (∀ r, exec (.budgetReport a r) s = .next t) ∧
    (∀ w e, exec (.grantMsg a w e) s = .next t) ∧ (∀ src, exec (.grantAcknowledge a src) s = .next t) ∧
    (UnitsRest s → ∀ f, exec (.forwardedCommand a f) s = .next t) := by
  have answers (k : State → State) : live (receiveMgmt a k) s = t := (live_awake awake _).trans (comes k)
  refine ⟨fun _ _ _ _ => congrArg _ (answers _), fun _ => congrArg _ (answers _), fun _ => congrArg _ (answers _),
    fun _ => congrArg _ (answers _), fun _ _ => congrArg _ (answers _), fun _ => congrArg _ (answers _), fun rest f => ?forward⟩
  case forward =>
    rw [exec_forwardedCommand awake, takeForward, comes, wake_resting (rests rest)]

/-- Settles O38: `receiveMgmt` decides without a look at what the message asks for. -/
theorem forgedMessagesRefused : Obligations.ForgedMessagesRefused := by
  unfold Obligations.ForgedMessagesRefused
  exact fun a s awake =>
    ⟨fun port forged => mgmt_answers awake (receiveMgmt_forged port forged) fun rest => rest.of_keeps (forgeryNoted_keeps a s),
      fun port => mgmt_answers awake (receiveMgmt_unauthenticated port) id⟩

end Sys2Proof.Safety

namespace Sys2Proof.Safety

open Sys2Proof.Machine

/-! ### Service commands (R535, R536, R539, R540, R542) -/

/-- The row of one variant of a command, on a payload that spells it. -/
theorem live_variant {named : Bool} (spelt : named = true) (f : State → State) (s : State) :
    live (fun s => if named then f s else s) s = live f s := by
  simp only [spelt, if_true]

/-- A settings command at its turn whose handler answers later: its mailbox stays BUSY. -/
theorem turn_waits {op : Nat} {call : MbCall} {s t v : State} {c : Cmd} (h : Arrives op call s c t) (turn : Turn t) (named : op ≠ 5)
    (settings : ((catalogue op).map (·.settings)).getD false = true) (run : handle c (atTurn c t) = .later v)
    (fuses : v.fuses = t.fuses) : live (mailboxCommand op call) s = v :=
  (arrives_live h _).trans (settings_later h turn (fun five => absurd five named) settings run fuses)

/-- A settings command at its turn whose handler is done with a change that does not look at the turn. -/
theorem turn_changes {op : Nat} {call : MbCall} {s t : State} {c : Cmd} (h : Arrives op call s c t) (turn : Turn t) (named : op ≠ 5)
    (settings : ((catalogue op).map (·.settings)).getD false = true) {st : Status} {pl : List Byte} {change : State → State}
    (turnless : Turnless change) (fuses : (change t).fuses = t.fuses)
    (run : handle c (atTurn c t) = .done st pl (change (atTurn c t))) : live (mailboxCommand op call) s = finishCmd c st 0 pl (change t) :=
  settings_changes h turn named settings change run (fun u => (turnless none u).symm) fuses

theorem hUnitDrain_serving {c : Cmd} {s : State} (state : (getSvc s (unitOf c.payload)).state = 0)
    (idle : (getSvc s (unitOf c.payload)).pend = 0) (unplanned : (unitOf c.payload).cls = 5 ∨ inPlan s (unitOf c.payload) = false) :
    hUnitDrain c s = .later (setSvc (unitOf c.payload) { getSvc s (unitOf c.payload) with pend := 1 } s) := by
  have may : ¬ ((unitOf c.payload).cls ≠ 5 ∧ inPlan s (unitOf c.payload) = true) := fun ⟨other, planned⟩ =>
    unplanned.elim other fun none_ => Bool.eq_false_iff.1 none_ planned
  simp only [hUnitDrain, state, idle, ne_eq, not_true_eq_false, or_self, if_false]
  exact if_neg may

/-- The test of a unit begins; a port retrains for it. -/
def beginTest (u : UnitId) (s : State) : State :=
  let t := setSvc u { getSvc s u with pend := 3 } s
  if u.cls = 5 then emit (.retrain u.num) (modPort u.num (retrainPort 2) t) else t

theorem beginTest_fuses (u : UnitId) (s : State) : (beginTest u s).fuses = s.fuses := by
  simp only [beginTest]
  split <;> rfl

theorem hUnitReturn_out {c : Cmd} {s : State}
    (out : (getSvc s (unitOf c.payload)).state = 2 ∨ (getSvc s (unitOf c.payload)).state = 3)
    (idle : (getSvc s (unitOf c.payload)).pend = 0) : hUnitReturn c s = .later (beginTest (unitOf c.payload) s) := by
  have may : ¬ (((getSvc s (unitOf c.payload)).state ≠ 2 ∧ (getSvc s (unitOf c.payload)).state ≠ 3) ∨
      (getSvc s (unitOf c.payload)).pend ≠ 0) := by omega
  exact if_neg may

/-- What RECALIBRATE asks of each scope (R542). -/
def measurable (s : State) (scope unit : Nat) : Bool :=
  match scope with
  | 0 => true
  | 1 => (getSvc s { cls := 0, num := unit }).state == 2
  | 2 => s.plan.job.isNone && s.plan.waiting.isEmpty
  | _ => (getSvc s (portUnit unit)).state == 2

theorem hRecalibrate_eq (c : Cmd) (s : State) : hRecalibrate c s =
    if 3 < u8 c.payload 0 then deny .invalidArgument s
    else if !measurable s (u8 c.payload 0) (u16 c.payload 2) then deny .unitState s
    else .later (modPower (fun p => { p with recalibrating := true }) s) := rfl

theorem hRecalibrate_measurable {c : Cmd} {s : State} {scope : Nat} (named : u8 c.payload 0 = scope) (known : scope ≤ 3)
    (may : measurable s scope (u16 c.payload 2) = true) :
    hRecalibrate c s = .later (modPower (fun p => { p with recalibrating := true }) s) := by
  rw [hRecalibrate_eq, named, if_neg (Nat.not_lt.2 known), may]
  rfl

/-- RECALIBRATE at its turn, of a scope that may be measured. -/
theorem recalibrate_measures {call : MbCall} {s t : State} {c : Cmd} (h : Arrives 0x0803 call s c t) (turn : Turn t) {scope : Nat}
    (named : u8 call.payload 0 = scope) (known : scope ≤ 3) (may : measurable t scope (u16 c.payload 2) = true) :
    live (mailboxCommand 0x0803 call) s = modPower (fun p => { p with recalibrating := true }) (atTurn c t) := by
  have own : u8 c.payload 0 = scope := (arrives_u8 h rfl 0 (by decide)).trans named
  have run : handle c (atTurn c t) = hRecalibrate c (atTurn c t) := by simp only [handle, arrives_opcode h]
  exact turn_waits h turn (by decide) rfl (run.trans (hRecalibrate_measurable own known may)) rfl

/-- A replacement is due, and the domain's other members are told. -/
def replacePlanSet (domain : List Nat) (newSet : Nat) (s : State) : State :=
  (domain.filter (· != self s)).foldl (fun u m => emit (.replacePlan m newSet (headTick s (effTick s))) u)
    { s with plan := { s.plan with replace := some { newSet := newSet, earliest := effTick s } } }

theorem replacePlanSet_turnless (domain : List Nat) (newSet : Nat) : Turnless (replacePlanSet domain newSet) := by
  intro r s
  exact Turnless.foldl (f := fun u m => emit (.replacePlan m newSet (headTick s (effTick s))) u) (fun _ _ _ => rfl)
    (domain.filter (· != self s)) r { s with plan := { s.plan with replace := some { newSet := newSet, earliest := effTick s } } }

theorem replacePlanSet_fuses (domain : List Nat) (newSet : Nat) (s : State) : (replacePlanSet domain newSet s).fuses = s.fuses :=
  (Keeps.foldl _ (fun u _ => emit_keeps _ u) _ _).part .fuses

/-- A message to a member leaves the count alone from which the next one takes the effective tick. -/
theorem replaceMessages_tick (members : List Nat) (newSet tick : Nat) (s : State) (same : headTick s (effTick s) = tick) :
    members.foldl (fun u m => emit (.replacePlan m newSet (headTick u (effTick u))) u) s =
      members.foldl (fun u m => emit (.replacePlan m newSet tick) u) s := by
  induction members generalizing s with
  | nil => rfl
  | cons m rest ih =>
    rw [List.foldl_cons, List.foldl_cons, same]
    exact ih _ same

theorem hPlanReplace_fits {c : Cmd} {s : State} {j : Job} {a b : PlanSet} (runs : s.plan.job = some j) (queue : j.queue = u16 c.payload 0)
    (old : j.planSet = u32 c.payload 4) (installed : planSetOf s j.planSet = some a) (new : planSetOf s (u32 c.payload 8) = some b)
    (shape : sameShape a b = true) (fit : planUnfit s b = false) (orders : a.domain.length ≤ 1 ∨ isHead s = true) :
    hPlanReplace c s = .done .ok (leBytes 8 (headTick s (effTick s))) (replacePlanSet a.domain (u32 c.payload 8) s) := by
  have named : ¬ (j.queue ≠ u16 c.payload 0 ∨ j.planSet ≠ u32 c.payload 4) := by simp [queue, old]
  have ordered : ¬ (1 < a.domain.length ∧ isHead s = false) := fun ⟨several, member⟩ =>
    orders.elim (Nat.not_le.2 several) (Bool.eq_false_iff.1 member)
  simp only [hPlanReplace, replacePlanSet, runs, if_neg named, installed, new, shape, fit, Bool.not_true, Bool.false_eq_true, if_false,
    if_neg ordered]
  exact congrArg _ (replaceMessages_tick _ _ _ _ rfl)

/-- Settles O25: what each handler does in its case; all but the replacement keep their turn. -/
theorem serviceCommandsComplete : Obligations.ServiceCommandsComplete := by
  unfold Obligations.ServiceCommandsComplete
  refine ⟨?drain, ?return_, ?recalibrate, ?replace⟩
  case drain =>
    intro call s c t h turn u state idle unplanned
    have run : handle c (atTurn c t) = hUnitDrain c (atTurn c t) := by simp only [handle, arrives_opcode h]
    exact congrArg _ (turn_waits h turn (by decide) rfl (run.trans (hUnitDrain_serving state idle unplanned)) rfl)
  case return_ =>
    intro call s c t h turn u busy out idle
    have run : handle c (atTurn c t) = hUnitReturn c (atTurn c t) := by simp only [handle, arrives_opcode h]
    exact congrArg _ (turn_waits h turn (by decide) rfl (run.trans (hUnitReturn_out out idle)) (beginTest_fuses _ _))
  case recalibrate =>
    intro call s c t h turn measuring
    refine ⟨fun named => congrArg Host.Outcome.next ?estimator, fun named out => congrArg Host.Outcome.next ?vat,
      fun named idle none_ => congrArg Host.Outcome.next ?points, fun named out => congrArg Host.Outcome.next ?port⟩
    case estimator =>
      exact (live_variant (by rw [named]; rfl) _ s).trans (recalibrate_measures h turn named (by decide) rfl)
    case vat =>
      exact (live_variant (beq_iff_eq.2 named) _ s).trans (recalibrate_measures h turn named (by decide) (beq_iff_eq.2 out))
    case points =>
      have may : measurable t 2 (u16 c.payload 2) = true := by simp [measurable, idle, none_]
      exact (live_variant (beq_iff_eq.2 named) _ s).trans (recalibrate_measures h turn named (by decide) may)
    case port =>
      exact (live_variant (beq_iff_eq.2 named) _ s).trans (recalibrate_measures h turn named (by decide) (beq_iff_eq.2 out))
  case replace =>
    intro call s c t j a b h turn runs queue old installed new shape fit orders
    have run : handle c (atTurn c t) = hPlanReplace c (atTurn c t) := by simp only [handle, arrives_opcode h]
    exact congrArg _ (turn_changes h turn (by decide) rfl (replacePlanSet_turnless _ _) (replacePlanSet_fuses _ _ _)
      (run.trans (hPlanReplace_fits runs queue old installed new shape fit orders)))

end Sys2Proof.Safety

namespace Sys2Proof.Safety

open Sys2Proof.Machine

/-! ### Sessions and debug levels do not look at the turn (R396, R510, R521) -/

/-- A change of the state that comes to the same with the turn of settings commands ended before it or after it. -/
abbrev EndsTurn (f : State → State) : Prop := ∀ s, endTurn (f s) = f (endTurn s)

theorem Turnless.endsTurn {f : State → State} (h : Turnless f) : EndsTurn f := fun s => (h none s).symm

theorem EndsTurn.foldl {α : Type} {f : State → α → State} (hf : ∀ a, EndsTurn fun s => f s a) (l : List α) :
    EndsTurn fun s => l.foldl f s := by
  induction l with
  | nil => exact fun _ => rfl
  | cons a rest ih => exact fun s => (ih (f s a)).trans (congrArg (fun u => rest.foldl f u) (hf a s))

theorem levelEvent_turnless (old new signer cause : Nat) : Turnless (levelEvent old new signer cause) :=
  fun r s => raise_withRunning r _ _ _ s

theorem dropLevel_turnless (cause : Nat) : Turnless (dropLevel cause) := by
  intro r s
  simp only [dropLevel, apply_ite (withRunning r), ← levelEvent_turnless _ _ _ _ r]
  rfl

theorem bootFallback_turnless (failed stage reason : Nat) : Turnless (bootFallback failed stage reason) :=
  fun r s => raise_withRunning r _ _ _ (bootFrom (1 - failed) true s)

theorem bootRom_turnless : Turnless bootRom := by
  intro r s
  have same (slot : Nat) : stage1Fails (withRunning r s) slot = stage1Fails s slot := rfl
  have active : (withRunning r s).cave.log.active = s.cave.log.active := rfl
  simp only [bootRom, same, active]
  split
  · rfl
  · split
    · exact bootFallback_turnless _ _ _ r s
    · rfl

theorem beginStart_turnless : Turnless beginStart := by
  intro r s
  have rails : leaveReset (withRails (withRunning r s)) = withRunning r (leaveReset (withRails s)) := by
    simp only [withRails, apply_ite (withRunning r), apply_ite leaveReset]
    rfl
  simp only [beginStart_eq, rails, bootRom_turnless r]
  exact raise_withRunning r _ _ _ (bootRom (leaveReset (withRails s)))

/-- A module that starts over has no settings command at its turn, whatever it ran before. -/
theorem resetAtOnce_endsTurn (cause : Nat) : EndsTurn (resetAtOnce cause) :=
  fun s => (beginStart_turnless none (resetModule cause s)).symm

theorem endToken_endsTurn (cause : Nat) : EndsTurn (endToken cause) := by
  intro s
  by_cases test : s.sec.level = 3
  · exact (congrArg endTurn (if_pos test)).trans ((resetAtOnce_endsTurn 6 s).trans (if_pos test).symm)
  · exact (congrArg endTurn (if_neg test)).trans ((dropLevel_turnless cause).endsTurn s |>.trans (if_neg test).symm)

theorem closeSession_endsTurn (id : Nat) : EndsTurn (closeSession id) := by
  intro s
  have token : (endTurn s).sec = s.sec := rfl
  simp only [closeSession, token]
  split
  · split
    · exact endToken_endsTurn 3 _
    · rfl
  · rfl

theorem dropLevel_fuses (cause : Nat) (s : State) : (dropLevel cause s).fuses = s.fuses := by
  simp only [dropLevel]
  split
  · rfl
  · exact (raise_keeps _ _ _ _).part .fuses

theorem endToken_fuses (cause : Nat) (s : State) : (endToken cause s).fuses = s.fuses := by
  simp only [endToken]
  split
  · exact (resetAtOnce_restarts 6 s).1.kept.1
  · exact dropLevel_fuses cause s

theorem closeSession_fuses (id : Nat) (s : State) : (closeSession id s).fuses = s.fuses := by
  simp only [closeSession]
  split
  · split
    · exact endToken_fuses 3 _
    · rfl
  · rfl

theorem closeSessions_fuses (ids : List Nat) (s : State) : (ids.foldl (fun u i => closeSession i u) s).fuses = s.fuses := by
  induction ids generalizing s with
  | nil => rfl
  | cons i rest ih => exact (ih _).trans (closeSession_fuses i s)

/-! ### Firmware commands (R512, R543-R546) -/

/-- The state with a new copy of the credential. -/
def withCredential (key : List Byte) (s : State) : State :=
  let copies := writeCopy s.cave.credentialA s.cave.credentialB key
  { s with cave := { s.cave with credentialA := copies.1, credentialB := copies.2 } }

def otherSessions (session : Nat) (s : State) : List Nat := (s.fmw.sessions.filter fun x => x.id != session).map (·.id)

/-- CREDENTIAL_SET on the module whose mailbox took it: no session stays open but the command's. -/
def replaceCredential (key : List Byte) (session : Nat) (s : State) : State :=
  (otherSessions session s).foldl (fun u i => closeSession i u) (withCredential key s)

theorem replaceCredential_endsTurn (key : List Byte) (session : Nat) : EndsTurn (replaceCredential key session) := fun s =>
  EndsTurn.foldl closeSession_endsTurn (otherSessions session s) (withCredential key s)

theorem hCredentialSet_own {c : Cmd} {m : Nat} (src : c.src = .mailbox m) (s : State) :
    hCredentialSet c s = .done .ok [] (replaceCredential (slice c.payload 0 1312) c.session s) := by
  simp only [hCredentialSet, src]
  rfl

/-- FW_STAGE keeps received bytes under a staging state, with its slot erased. -/
def fwKept (slot staging : Nat) (received : List Byte) (s : State) : State :=
  { setSlot slot .erased s with fw := { s.fw with stagedSlot := slot, staging := staging, received := received } }

/-- The bundle of a whole body is in its slot. -/
def fwStaged (slot : Nat) (images : List FwImage) (s : State) : State :=
  raise 0x0705 0 (leBytes 1 slot ++ leBytes 3 0 ++ leBytes 4 ((images.getD 1 default).version))
    (setSlot slot (.ok 1 images) (fwKept slot 2 [] s))

theorem fwStaged_turnless (slot : Nat) (images : List FwImage) : Turnless (fwStaged slot images) := fun r s =>
  raise_withRunning r _ _ _ (setSlot slot (.ok 1 images) (fwKept slot 2 [] s))

theorem fwStaged_fuses (slot : Nat) (images : List FwImage) (s : State) : (fwStaged slot images s).fuses = s.fuses :=
  (raise_keeps _ _ _ _).part .fuses

/-- The bytes of a bundle that FW_STAGE has received once it takes a chunk. -/
def chunkBody (p : List Byte) (s : State) : List Byte := (if bit (u8 p 1) 0 then [] else s.fw.received) ++ slice p 16 (u16 p 2)

/-- A chunk that FW_STAGE takes (R543): of a slot that may be staged, in the run of that slot, at the offset reached, within the largest
bundle. -/
structure TakesChunk (p : List Byte) (s : State) : Prop where
  slot : s.sec.recovery = true ∨ u8 p 0 ≠ s.sec.bootSlot
  run : bit (u8 p 1) 0 = true ∨ (s.fw.staging = 1 ∧ s.fw.stagedSlot = u8 p 0)
  offset : u32 p 4 = (if bit (u8 p 1) 0 then [] else s.fw.received).length
  size : (if bit (u8 p 1) 0 then [] else s.fw.received).length + u16 p 2 ≤ bundleMax

theorem TakesChunk.accepted {p : List Byte} {s : State} (h : TakesChunk p s) :
    (!(s.sec.recovery || u8 p 0 != s.sec.bootSlot) || !(bit (u8 p 1) 0 || (s.fw.staging == 1 && s.fw.stagedSlot == u8 p 0)) ||
      u32 p 4 != (if bit (u8 p 1) 0 then [] else s.fw.received).length ||
      decide (bundleMax < (if bit (u8 p 1) 0 then [] else s.fw.received).length + u16 p 2)) = false := by
  obtain ⟨slot, run, offset, size⟩ := h
  have may : (s.sec.recovery || u8 p 0 != s.sec.bootSlot) = true := by simpa using slot
  have goesOn : (bit (u8 p 1) 0 || (s.fw.staging == 1 && s.fw.stagedSlot == u8 p 0)) = true := by simpa using run
  have fits : ¬ bundleMax < (if bit (u8 p 1) 0 then [] else s.fw.received).length + u16 p 2 := Nat.not_lt.2 size
  simp only [may, goesOn, offset, fits, bne_self_eq_false, decide_false]
  rfl

/-- What FW_STAGE answers once it has the whole body. -/
def stageBundle (slot : Nat) (body : List Byte) (s : State) : HRes :=
  match parseBundle body with
  | none => .done .fwRejected (leBytes 1 6) (fwKept slot 0 [] s)
  | some images =>
    match slotFails s s.fuses.rollback (.ok 1 images) with
    | some (_, reason) => .done .fwRejected (leBytes 1 reason) (fwKept slot 0 [] s)
    | none => .done .ok [] (fwStaged slot images s)

theorem hFwStage_takes {c : Cmd} {s : State} (takes : TakesChunk c.payload s) :
    hFwStage c s =
      if !bit (u8 c.payload 1) 1 then .done .ok [] (fwKept (u8 c.payload 0) 1 (chunkBody c.payload s) s)
      else stageBundle (u8 c.payload 0) (chunkBody c.payload s) s :=
  if_neg (Bool.eq_false_iff.1 takes.accepted)

theorem hFwStage_chunk {c : Cmd} {s : State} (takes : TakesChunk c.payload s) (more : bit (u8 c.payload 1) 1 = false) :
    hFwStage c s = .done .ok [] (fwKept (u8 c.payload 0) 1 (chunkBody c.payload s) s) := by
  rw [hFwStage_takes takes, more]
  rfl

theorem hFwStage_bundle {c : Cmd} {s : State} (takes : TakesChunk c.payload s) (last : bit (u8 c.payload 1) 1 = true) :
    hFwStage c s = stageBundle (u8 c.payload 0) (chunkBody c.payload s) s := by
  rw [hFwStage_takes takes, last]
  rfl

/-- The staged slot is named for the next reset. -/
def slotNamed (s : State) : State := { s with cave := { s.cave with log := { s.cave.log with active := s.fw.stagedSlot } } }

def activatedAtReset (s : State) : State :=
  raise 0x0706 1 (leBytes 1 s.fw.stagedSlot ++ leBytes 1 0 ++ leBytes 2 0 ++
    leBytes 4 ((slotImages s s.fw.stagedSlot).getD 1 default).version) (slotNamed s)

theorem activatedAtReset_turnless : Turnless activatedAtReset := fun r s => raise_withRunning r _ _ _ (slotNamed s)

def activatedLive (s : State) : State :=
  { slotNamed s with fw := { s.fw with live := some (s.fw.stagedSlot, effTick s) } }

theorem hFwActivate_fails {c : Cmd} {s : State} {stage reason : Nat}
    (fails : slotFails s s.fuses.rollback (slotRec s s.fw.stagedSlot) = some (stage, reason)) :
    hFwActivate c s = .done .fwRejected (leBytes 1 reason) s := by
  simp only [hFwActivate, fails]

theorem hFwActivate_reset {c : Cmd} {s : State} (passes : slotFails s s.fuses.rollback (slotRec s s.fw.stagedSlot) = none)
    (flag : u8 c.payload 0 = 0) : hFwActivate c s = .done .ok [] (activatedAtReset s) := by
  simp only [hFwActivate, passes, flag, zero_ne_one, false_and, if_false]
  rfl

theorem hFwActivate_live {c : Cmd} {s : State} (passes : slotFails s s.fuses.rollback (slotRec s s.fw.stagedSlot) = none)
    (flag : u8 c.payload 0 = 1) (single : c.target ≠ 0xFF) :
    hFwActivate c s =
      if ((slotImages s s.fw.stagedSlot).getD 0 default).measurement ≠ (s.sec.stages.getD 1 ([], 0, 0)).1 then
        .done .fwRejected (leBytes 1 7) s
      else if 1 < s.fabric.topology.modules ∧
          ((slotImages s s.fw.stagedSlot).getD 1 default).version / 2 ^ 24 ≠ stageVersion s 2 / 2 ^ 24 then
        .done .fwRejected (leBytes 1 8) s
      else .done .ok (leBytes 8 (headTick s (effTick s))) (activatedLive s) := by
  have other : (c.target != 0xFF) = true := bne_iff_ne.2 single
  simp only [hFwActivate, passes, flag, true_and, other, Bool.true_and, beq_iff_eq, Bool.and_eq_true, decide_eq_true_eq, bne_iff_ne]
  rfl

theorem stageBundle_malformed {body : List Byte} (none_ : parseBundle body = none) (slot : Nat) (s : State) :
    stageBundle slot body s = .done .fwRejected (leBytes 1 6) (fwKept slot 0 [] s) := by
  simp only [stageBundle, none_]

theorem stageBundle_rejected {body : List Byte} {s : State} {images : List FwImage} {stage reason : Nat}
    (parsed : parseBundle body = some images) (fails : slotFails s s.fuses.rollback (.ok 1 images) = some (stage, reason)) (slot : Nat) :
    stageBundle slot body s = .done .fwRejected (leBytes 1 reason) (fwKept slot 0 [] s) := by
  simp only [stageBundle, parsed, fails]

theorem stageBundle_staged {body : List Byte} {s : State} {images : List FwImage} (parsed : parseBundle body = some images)
    (passes : slotFails s s.fuses.rollback (.ok 1 images) = none) (slot : Nat) :
    stageBundle slot body s = .done .ok [] (fwStaged slot images s) := by
  simp only [stageBundle, parsed, passes]

/-- Settles O22: what each handler does in its case, on the state in which the command runs. -/
theorem firmwareCommandsComplete : Obligations.FirmwareCommandsComplete := by
  unfold Obligations.FirmwareCommandsComplete
  refine ⟨?credential, ?stage, ?activate⟩
  case credential =>
    intro call s c t h turn copies
    have run : handle c (atTurn c t) = hCredentialSet c (atTurn c t) := by simp only [handle, arrives_opcode h]
    exact congrArg _ (settings_changes h turn (by decide) rfl (replaceCredential (slice c.payload 0 1312) c.session)
      (run.trans (hCredentialSet_own (arrives_src h) _)) (replaceCredential_endsTurn _ _) (closeSessions_fuses _ _))
  case stage =>
    intro call s c t h turn slot first last got body slotOk inRun offset size staging
    have taken : TakesChunk c.payload (atTurn c t) := ⟨slotOk, inRun, offset, size⟩
    have run : handle c (atTurn c t) = hFwStage c (atTurn c t) := by simp only [handle, arrives_opcode h]
    have kept (state : Nat) (bytes : List Byte) : Turnless (fwKept slot state bytes) := fun _ _ => rfl
    refine ⟨fun more => congrArg Host.Outcome.next ?chunk, fun whole => congrArg Host.Outcome.next ?bundle⟩
    case chunk => exact turn_changes h turn (by decide) rfl (kept 1 body) rfl (run.trans (hFwStage_chunk taken more))
    case bundle =>
      have stages := run.trans (hFwStage_bundle taken whole)
      cases parsed : parseBundle body with
      | none => exact turn_changes h turn (by decide) rfl (kept 0 []) rfl (stages.trans (stageBundle_malformed parsed _ _))
      | some images =>
        dsimp only
        cases verdict : slotFails t t.fuses.rollback (.ok 1 images) with
        | some failure =>
          exact turn_changes h turn (by decide) rfl (kept 0 []) rfl (stages.trans (stageBundle_rejected (s := atTurn c t) parsed verdict _))
        | none =>
          exact turn_changes h turn (by decide) rfl (fwStaged_turnless slot images) (fwStaged_fuses slot images t)
            (stages.trans (stageBundle_staged (s := atTurn c t) parsed verdict _))
  case activate =>
    intro call s c t h turn slot images named
    have run : handle c (atTurn c t) = hFwActivate c (atTurn c t) := by simp only [handle, arrives_opcode h]
    have unchanged : Turnless fun u => u := fun _ _ => rfl
    have byte : u8 c.payload 0 = u8 call.payload 0 := arrives_u8 h rfl 0 (by decide)
    refine ⟨fun flag => congrArg _ ((live_variant (by rw [flag]; rfl) _ s).trans ?atReset),
      fun flag => congrArg _ ((live_variant (beq_iff_eq.2 flag) _ s).trans ?live)⟩
    case atReset =>
      cases verdict : slotFails t t.fuses.rollback (slotRec t slot) with
      | some failure => exact turn_changes h turn (by decide) rfl unchanged rfl (run.trans (hFwActivate_fails verdict))
      | none =>
        exact turn_changes h turn (by decide) rfl activatedAtReset_turnless ((raise_keeps _ _ _ _).part .fuses)
          (run.trans (hFwActivate_reset verdict (byte.trans flag)))
    case live =>
      cases verdict : slotFails t t.fuses.rollback (slotRec t slot) with
      | some failure => exact turn_changes h turn (by decide) rfl unchanged rfl (run.trans (hFwActivate_fails verdict))
      | none =>
        have answer := run.trans (hFwActivate_live verdict (byte.trans flag) h.single)
        dsimp only
        split
        case isTrue other => exact turn_changes h turn (by decide) rfl unchanged rfl (answer.trans (if_pos other))
        case isFalse same =>
          split
          case isTrue major =>
            exact turn_changes h turn (by decide) rfl unchanged rfl (answer.trans ((if_neg same).trans (if_pos major)))
          case isFalse minor =>
            exact turn_changes h turn (by decide) rfl (change := activatedLive) (fun _ _ => rfl) rfl
              (answer.trans ((if_neg same).trans (if_neg minor)))

end Sys2Proof.Safety

namespace Sys2Proof.Safety

open Sys2Proof.Machine

/-! ### Debug tokens (R519-R521, R524) -/

/-- The state that holds a token: its level is raised, its serial number is the last one, and the core controls are clear. -/
def withToken (token : List Byte) (session : Nat) (s : State) : State :=
  let held : Token := { level := u8 token 6, signer := u8 token 7, session := session, firstQueue := u16 token 44,
                        queueCount := u16 token 46, expires := s.tick.timebase + u32 token 40 * 1000000000 }
  { s with
    cave := { s.cave with log := { s.cave.log with lastSerial := u64 token 48 } }
    sec := { s.sec with level := u8 token 6, token := some held, halt := 0, halted := 0 } }

def tokenApplied (token : List Byte) (session : Nat) (s : State) : State :=
  levelEvent s.sec.level (u8 token 6) (u8 token 7) 0 (withToken token session s)

theorem tokenApplied_turnless (token : List Byte) (session : Nat) : Turnless (tokenApplied token session) :=
  fun r s => levelEvent_turnless _ _ _ _ r (withToken token session s)

theorem tokenApplied_fuses (token : List Byte) (session : Nat) (s : State) : (tokenApplied token session s).fuses = s.fuses :=
  (raise_keeps _ _ _ _).part .fuses

theorem hDebugToken_drop {c : Cmd} (named : u8 c.payload 0 = 0) (s : State) : hDebugToken c s = .done .ok [] (dropLevel 1 s) := if_pos named

theorem hDebugToken_apply {c : Cmd} (named : u8 c.payload 0 = 1) (s : State) :
    hDebugToken c s =
      if tokenValid s (slice c.payload 8 3796) = false then .done .authFail [] s
      else if tokenAdmitted s (u8 (slice c.payload 8 3796) 6) (u8 (slice c.payload 8 3796) 7) = false then .done .debugDenied [] s
      else .done .ok [] (tokenApplied (slice c.payload 8 3796) c.session s) := by
  simp only [hDebugToken, named, one_ne_zero, if_false, Bool.not_eq_true']
  rfl

/-! ### Lifecycle commands (R508, R509, R530, R531) -/

/-- A settings command at its turn whose handler is done, whatever it does to the fuses. -/
theorem turn_settles {op : Nat} {call : MbCall} {s t : State} {c : Cmd} (h : Arrives op call s c t) (turn : Turn t) (named : op ≠ 5)
    (settings : ((catalogue op).map (·.settings)).getD false = true) {st : Status} {pl : List Byte} {change : State → State}
    (ends : EndsTurn change) (run : handle c (atTurn c t) = .done st pl (change (atTurn c t))) :
    live (mailboxCommand op call) s = retireReset s (finishCmd c st 0 pl (change t)) := by
  have idle : t.fmw.running.isSome = false := by rw [turn.1]; rfl
  have first : (!t.fmw.waiting.isEmpty) = false := by rw [turn.2]; rfl
  rw [arrives_live h, mailboxCommand, submit_arrives h (fun five => absurd five named), settings]
  simp only [runCmd, idle, first, Bool.or_self, Bool.false_eq_true, if_false, if_true, startSettings_eq, run, ends (atTurn c t),
    endTurn_atTurn c turn]

theorem retireReset_kept {s t : State} (kept : t.fuses.retired = s.fuses.retired) : retireReset s t = t := by
  have still : (!s.fuses.retired && t.fuses.retired) = false := by rw [kept, Bool.not_and_self]
  exact if_neg (Bool.eq_false_iff.1 still)

/-- A settings command at its turn that does not retire the module. -/
theorem turn_blows {op : Nat} {call : MbCall} {s t : State} {c : Cmd} (h : Arrives op call s c t) (turn : Turn t) (named : op ≠ 5)
    (settings : ((catalogue op).map (·.settings)).getD false = true) {st : Status} {pl : List Byte} {change : State → State}
    (ends : EndsTurn change) (retired : (change t).fuses.retired = t.fuses.retired)
    (run : handle c (atTurn c t) = .done st pl (change (atTurn c t))) :
    live (mailboxCommand op call) s = finishCmd c st 0 pl (change t) := by
  have fuses : (finishCmd c st 0 pl (change t)).fuses = (change t).fuses := (finishCmd_keeps _ _ _ _ _).part .fuses
  rw [turn_settles h turn named settings ends run]
  exact retireReset_kept (by rw [fuses, retired, arrives_fuses h])

/-- The security log notes an accepted action, and the free value of its verification is taken. -/
def actionNoted (p : List Byte) (s : State) : State :=
  { logAction (u8 p 0) (if u8 p 0 = 4 then u8 p 1 else u8 p 2) s with free := s.free + 1 }

theorem hLifecycleSet_denied {c : Cmd} {s : State} (denied : lifecycleAccepts s c.payload = false) :
    hLifecycleSet c s = .done .lifecycleDenied [] s := by
  simp only [hLifecycleSet, denied]
  rfl

theorem hLifecycleSet_fails {c : Cmd} {s : State} (accepted : lifecycleAccepts s c.payload = true) {blown : Nat}
    (fails : fuseFailure s c.payload = some blown) :
    hLifecycleSet c s = .done .uncorrectable (leBytes 4 blown) (partialFuses c.payload blown (actionNoted c.payload s)) := by
  have fails' : fuseFailure (logAction (u8 c.payload 0) (if u8 c.payload 0 = 4 then u8 c.payload 1 else u8 c.payload 2) s) c.payload =
      some blown := fails
  simp only [hLifecycleSet, accepted, fails', Bool.not_true, Bool.false_eq_true, if_false]
  rfl

theorem hLifecycleSet_done {c : Cmd} {s : State} (accepted : lifecycleAccepts s c.payload = true)
    (verifies : fuseFailure s c.payload = none) :
    hLifecycleSet c s = .done .ok [] (lifecycleDone c.payload (actionNoted c.payload s)) := by
  have verifies' : fuseFailure (logAction (u8 c.payload 0) (if u8 c.payload 0 = 4 then u8 c.payload 1 else u8 c.payload 2) s) c.payload =
      none := verifies
  simp only [hLifecycleSet, accepted, verifies', Bool.not_true, Bool.false_eq_true, if_false]
  rfl

theorem actionNoted_turnless (p : List Byte) : Turnless (actionNoted p) := fun _ _ => rfl

theorem partialFuses_turnless (p : List Byte) (blown : Nat) : Turnless (partialFuses p blown) := by
  intro r s
  simp only [partialFuses]
  split <;> rfl

theorem partialFuses_retired (p : List Byte) (blown : Nat) (s : State) : (partialFuses p blown s).fuses.retired = s.fuses.retired := by
  simp only [partialFuses]
  split <;> rfl

theorem lifecycleEvent_turnless (action : Nat) : Turnless (lifecycleEvent action) := fun r s => raise_withRunning r _ _ _ s

theorem lifecycleEvent_fuses (action : Nat) (s : State) : (lifecycleEvent action s).fuses = s.fuses := (raise_keeps _ _ _ _).part .fuses

theorem provision_turnless (p : List Byte) : Turnless (provision p) := by
  intro r s
  simp only [provision, apply_ite (withRunning r), ← lifecycleEvent_turnless _ r]
  rfl

theorem provision_retired (p : List Byte) (s : State) : (provision p s).fuses.retired = s.fuses.retired := by
  simp only [provision]
  split
  · rfl
  · rw [lifecycleEvent_fuses]

/-- The deployed fuse is blown. -/
def deploy (s : State) : State := lifecycleEvent 2 { s with fuses := { s.fuses with deployed := true } }

theorem deploy_turnless : Turnless deploy := fun r s => lifecycleEvent_turnless 2 r { s with fuses := { s.fuses with deployed := true } }

theorem deploy_retired (s : State) : (deploy s).fuses.retired = s.fuses.retired := by
  rw [deploy, lifecycleEvent_fuses]

theorem revokeSlot_endsTurn (n : Nat) : EndsTurn (revokeSlot n) := by
  intro s
  have token : (endTurn s).sec = s.sec := rfl
  simp only [revokeSlot, token]
  split
  · split
    · exact endToken_endsTurn 4 _
    · rfl
  · rfl

theorem revokeSlot_retired (n : Nat) (s : State) : (revokeSlot n s).fuses.retired = s.fuses.retired := by
  simp only [revokeSlot]
  split
  · split
    · rw [endToken_fuses]
    · rfl
  · rfl

/-- LIFECYCLE_SET at its turn, accepted, where a bit fails its verification. -/
theorem lifecycle_fails {call : MbCall} {s t : State} {c : Cmd} (h : Arrives 0x0704 call s c t) (turn : Turn t)
    (accepted : lifecycleAccepts t c.payload = true) {blown : Nat} (fails : fuseFailure t c.payload = some blown) :
    live (mailboxCommand 0x0704 call) s =
      finishCmd c .uncorrectable 0 (leBytes 4 blown) (partialFuses c.payload blown (actionNoted c.payload t)) := by
  have run : handle c (atTurn c t) = hLifecycleSet c (atTurn c t) := by simp only [handle, arrives_opcode h]
  exact turn_blows h turn (by decide) rfl (change := fun u => partialFuses c.payload blown (actionNoted c.payload u))
    ((partialFuses_turnless _ _).comp (actionNoted_turnless _)).endsTurn (partialFuses_retired _ _ _)
    (run.trans (hLifecycleSet_fails (s := atTurn c t) accepted fails))

/-- LIFECYCLE_SET at its turn, accepted, where every bit verifies and the action is not a retirement. -/
theorem lifecycle_done {call : MbCall} {s t : State} {c : Cmd} (h : Arrives 0x0704 call s c t) (turn : Turn t)
    (accepted : lifecycleAccepts t c.payload = true) (verifies : fuseFailure t c.payload = none) {act : State → State}
    (acts : lifecycleDone c.payload = act) (ends : EndsTurn act) (retired : ∀ u, (act u).fuses.retired = u.fuses.retired) :
    live (mailboxCommand 0x0704 call) s = finishCmd c .ok 0 [] (act (actionNoted c.payload t)) := by
  have run : handle c (atTurn c t) = hLifecycleSet c (atTurn c t) := by simp only [handle, arrives_opcode h]
  subst acts
  exact turn_blows h turn (by decide) rfl (change := fun u => lifecycleDone c.payload (actionNoted c.payload u))
    (fun u => ends (actionNoted c.payload u)) (retired _) (run.trans (hLifecycleSet_done (s := atTurn c t) accepted verifies))

/-- How LIFECYCLE_SET ends, from the state that has noted its action: with the bits blown before the one that failed, or with its effect. -/
def lifecycleEnds (c : Cmd) (failure : Option Nat) (logged done : State) : State :=
  match failure with
  | some blown => finishCmd c .uncorrectable 0 (leBytes 4 blown) (partialFuses c.payload blown logged)
  | none => finishCmd c .ok 0 [] done

theorem lifecycle_settles {call : MbCall} {s t : State} {c : Cmd} (h : Arrives 0x0704 call s c t) (turn : Turn t)
    (accepted : lifecycleAccepts t c.payload = true) {act : State → State} (acts : lifecycleDone c.payload = act)
    (ends : EndsTurn act) (retired : ∀ u, (act u).fuses.retired = u.fuses.retired) :
    live (mailboxCommand 0x0704 call) s =
      lifecycleEnds c (fuseFailure t c.payload) (actionNoted c.payload t) (act (actionNoted c.payload t)) := by
  cases verdict : fuseFailure t c.payload with
  | some blown => exact lifecycle_fails h turn accepted verdict
  | none => exact lifecycle_done h turn accepted verdict acts ends retired

section
variable {p : List Byte}

theorem lifecycleDone_provision (named : u8 p 0 = 1) : lifecycleDone p = provision p := by
  funext s
  simp only [lifecycleDone, named]

theorem lifecycleDone_deploy (named : u8 p 0 = 2) : lifecycleDone p = deploy := by
  funext s
  simp only [lifecycleDone, named, deploy]

theorem lifecycleDone_revoke (named : u8 p 0 = 4) : lifecycleDone p = revokeSlot (u8 p 1) := by
  funext s
  simp only [lifecycleDone, named]

/-- The rollback count is advanced. -/
def advanceRollback (count : Nat) (s : State) : State := { s with fuses := { s.fuses with rollback := count } }

theorem lifecycleDone_advance (named : u8 p 0 = 5) : lifecycleDone p = advanceRollback (u8 p 2) := by
  funext s
  simp only [lifecycleDone, named, advanceRollback]

theorem actionNoted_revoke (named : u8 p 0 = 4) (s : State) :
    actionNoted p s = { logAction 4 (u8 p 1) s with free := s.free + 1 } := by
  simp only [actionNoted, named, if_true]

theorem actionNoted_other {action : Nat} (named : u8 p 0 = action) (other : action ≠ 4) (s : State) :
    actionNoted p s = { logAction action (u8 p 2) s with free := s.free + 1 } := by
  simp only [actionNoted, named, if_neg other]

end

/-- Settles O23: each action of a lifecycle is what `lifecycleDone` does for it, in the state that has noted it. -/
theorem securityCommandsComplete : Obligations.SecurityCommandsComplete := by
  unfold Obligations.SecurityCommandsComplete
  refine ⟨?drop, ?apply, ?lifecycle, ?denied⟩
  case drop =>
    intro call s c t h turn named
    have run : handle c (atTurn c t) = hDebugToken c (atTurn c t) := by simp only [handle, arrives_opcode h]
    have own : u8 c.payload 0 = 0 := (arrives_u8 h rfl 0 (by decide)).trans named
    exact congrArg _ ((live_variant (by rw [named]; rfl) _ s).trans
      (turn_changes h turn (by decide) rfl (dropLevel_turnless 1) (dropLevel_fuses 1 t) (run.trans (hDebugToken_drop own _))))
  case apply =>
    intro call s c t h turn named token level held
    have run : handle c (atTurn c t) = hDebugToken c (atTurn c t) := by simp only [handle, arrives_opcode h]
    have own : u8 c.payload 0 = 1 := (arrives_u8 h rfl 0 (by decide)).trans named
    have answer := run.trans (hDebugToken_apply own _)
    have unchanged : Turnless fun u => u := fun _ _ => rfl
    refine congrArg Host.Outcome.next ((live_variant (beq_iff_eq.2 named) _ s).trans ?_)
    split
    case isTrue invalid => exact turn_changes h turn (by decide) rfl unchanged rfl (answer.trans (if_pos invalid))
    case isFalse valid =>
      split
      case isTrue barred => exact turn_changes h turn (by decide) rfl unchanged rfl (answer.trans ((if_neg valid).trans (if_pos barred)))
      case isFalse admitted =>
        exact turn_changes h turn (by decide) rfl (tokenApplied_turnless token c.session) (tokenApplied_fuses token c.session t)
          (answer.trans ((if_neg valid).trans (if_neg admitted)))
  case lifecycle =>
    intro call s c t h turn accepted noted ends
    have byte : u8 c.payload 0 = u8 call.payload 0 := arrives_u8 h rfl 0 (by decide)
    refine ⟨fun named => congrArg Host.Outcome.next ?provision, fun named => congrArg Host.Outcome.next ?deploy,
      fun named => congrArg Host.Outcome.next ?revoke, fun named => congrArg Host.Outcome.next ?advance⟩
    case provision =>
      have own := byte.trans named
      have done := lifecycle_settles h turn accepted (lifecycleDone_provision own) (provision_turnless _).endsTurn (provision_retired _)
      rw [actionNoted_other own (by decide)] at done
      exact (live_variant (by rw [named]; rfl) _ s).trans done
    case deploy =>
      have own := byte.trans named
      have done := lifecycle_settles h turn accepted (lifecycleDone_deploy own) deploy_turnless.endsTurn deploy_retired
      rw [actionNoted_other own (by decide)] at done
      exact (live_variant (beq_iff_eq.2 named) _ s).trans done
    case revoke =>
      have own := byte.trans named
      have done := lifecycle_settles h turn accepted (lifecycleDone_revoke own) (revokeSlot_endsTurn _) (revokeSlot_retired _)
      rw [actionNoted_revoke own] at done
      exact (live_variant (beq_iff_eq.2 named) _ s).trans done
    case advance =>
      have own := byte.trans named
      have done := lifecycle_settles h turn accepted (lifecycleDone_advance own) (fun _ => rfl) (fun _ => rfl)
      rw [actionNoted_other own (by decide)] at done
      exact (live_variant (beq_iff_eq.2 named) _ s).trans done
  case denied =>
    intro call s c t h turn denied
    have run : handle c (atTurn c t) = hLifecycleSet c (atTurn c t) := by simp only [handle, arrives_opcode h]
    have unchanged : Turnless fun u => u := fun _ _ => rfl
    exact (arrives_live h _).symm.trans (turn_changes h turn (by decide) rfl unchanged rfl (run.trans (hLifecycleSet_denied denied)))

end Sys2Proof.Safety

namespace Sys2Proof.Safety

open Sys2Proof.Machine

/-! ### What a reset of a queue leaves alone (R339)

A queue that is reset stops its operations and its plan job, which reaches memories, records and what other queues wait for, but not the
module's start, its cave, its fuses and its security. -/

abbrev queueParts : List Part :=
  [.tick, .plan, .queues, .rings, .ctrs, .hbm, .poison, .host, .hostPoison, .sram, .sramPoison, .memctl, .culture, .rc, .index, .press,
   .sticky, .err, .evt, .fmw, .fabric, .cxl, .sent, .free]

theorem retireCulture_within (s : State) : Keeps queueParts s (retireCulture s) := (retireCulture_keeps s).mono (by simp)

theorem someSticky_keeps (b : U32) (s : State) : Keeps [.sticky, .free] s (someSticky b s) := by
  intro p hp; cases p <;> simp_all [Same, someSticky]

theorem setCtx_keeps (c : Nat) (x : Ctx) (s : State) : Keeps [.rc] s (setCtx c x s) := modEngine_keeps _ _ s

theorem closeCtx_within (c : Nat) (s : State) : Keeps queueParts s (closeCtx c s) :=
  ((modEngine_keeps _ _ s).mono (by simp)).trans (retireCulture_within _)

theorem noteCorrupt_keeps (n : Nat) (st : Status) (s : State) : Keeps [.rc] s (noteCorrupt n st s) := by
  simp only [noteCorrupt]
  split
  · exact modEngine_keeps _ _ s
  · exact Keeps.refl _ s

theorem modFlight_keeps (q : Nat) (idx : U32) (k : Nat) (f : Flight → Flight) (s : State) : Keeps [.queues] s (modFlight q idx k f s) :=
  modOp_keeps _ _ _ s

theorem endFlight_within (q : Nat) (idx : U32) (fl : Flight) (st : Status) (header data : List Byte) (s : State) :
    Keeps queueParts s (endFlight q idx fl st header data s) := by
  simp only [endFlight]
  refine Keeps.trans ?_ ((modFlight_keeps _ _ _ _ _).mono (by simp))
  split
  · exact Keeps.refl _ s
  · split
    · exact ((setCtx_keeps _ _ s).mono (by simp)).trans (retireCulture_within _)
    · exact ((noteCorrupt_keeps _ _ s).mono (by simp)).trans (closeCtx_within _ _)

theorem poolStops_within (plan : Nat) (s : State) : Keeps queueParts s (poolStops plan s) := by
  refine Keeps.foldl _ (fun s e => ?_) _ s
  split
  · exact Keeps.refl _ s
  · refine Keeps.foldl _ (fun s o => ?_) _ s
    split
    · exact Keeps.refl _ s
    · refine Keeps.foldl _ (fun s fl => ?_) _ s
      split
      · exact Keeps.refl _ s
      · exact endFlight_within _ _ _ _ _ _ s

theorem scrambles_within (outs : List (LAddr × Nat)) (s : State) : Keeps queueParts s (outs.foldl (fun s x => scramble x.1 x.2 s) s) :=
  (scrambles_keeps outs s).mono (by simp)

theorem stopUnits_within (s : State) : Keeps queueParts s (stopUnits s) := by
  simp only [stopUnits]
  split
  · exact Keeps.refl _ s
  · refine Keeps.trans (Keeps.foldl _ (fun s op => ?_) _ s) (scrambles_within _ _)
    exact (scrambles_within _ s).trans ((someSticky_keeps _ _).mono (by simp))

theorem returnCounters_keeps (a : ArgTable) (s : State) : Keeps [.ctrs] s (returnCounters a s) :=
  Keeps.foldl _ (fun s c => modC_keeps c _ s) _ s

/-- The state without its plan job. -/
def jobGone (s : State) : State :=
  { s with plan := { s.plan with job := none, replace := none, poolLeft := 0 }, tick := { s.tick with late := [], worked := false } }

theorem jobGone_keeps (s : State) : Keeps [.plan, .tick] s (jobGone s) := by
  intro p hp; cases p <;> simp_all [Same, jobGone]

theorem endJob_within (st : Status) (s : State) : Keeps queueParts s (endJob st s) := by
  simp only [endJob]
  split
  · exact Keeps.refl _ s
  · exact (stopUnits_within s).trans ((poolStops_within _ _).trans (((jobGone_keeps _).mono (by simp)).trans
      (((withdraw_keeps _ (jobGone _)).mono (by simp)).trans (((returnCounters_keeps _ _).mono (by simp)).trans
        ((finishOp_keeps _ _ _ _ _).mono (by simp))))))

theorem stopOps_within (q : Nat) (st : Status) (s : State) : Keeps queueParts s (stopOps q st s) := by
  refine Keeps.foldl _ (fun s o => ?_) _ s
  have ended (s : State) : Keeps queueParts s (freePress q o.index (finishOp q o.index st 0 s)) :=
    ((finishOp_keeps _ _ _ _ s).mono (by simp)).trans ((freePress_keeps _ _ _).mono (by simp))
  split
  · exact Keeps.refl _ s
  · refine Keeps.trans ?_ (ended _)
    split
    · exact (scrambles_within _ s).trans ((someSticky_keeps _ _).mono (by simp))
    · exact Keeps.refl _ s

theorem engines_keeps (engines : List RcEngine) (s : State) : Keeps [.rc] s { s with rc := engines } := by
  intro p hp; cases p <;> simp_all [Same]

theorem closeContexts_within (q : Nat) (s : State) : Keeps queueParts s (closeContexts q s) :=
  (Keeps.foldl _ (fun s d => (scramble_keeps _ _ s).mono (by simp)) _ s).trans
    (((engines_keeps _ _).mono (by simp)).trans (retireCulture_within _))

theorem closeSlots_keeps (q : Nat) (s : State) : Keeps [.rings] s (closeSlots q s) := by
  intro p hp; cases p <;> simp_all [Same, closeSlots]

theorem dropRequest_keeps (q : Nat) (idx : U32) (s : State) : Keeps [.plan, .ctrs] s (dropRequest q idx s) := by
  simp only [dropRequest]
  split
  · refine Keeps.trans ?_ ((returnCounters_keeps _ _).mono (by simp))
    intro p hp; cases p <;> simp_all [Same]
  · exact Keeps.refl _ s

theorem hostFailed_keeps (s : State) : Keeps [.cxl] s (hostFailed s) := by
  intro p hp
  simp only [hostFailed]
  split <;> cases p <;> simp_all [Same]

theorem rings_keeps (rings : Sparse SlotRing) (s : State) : Keeps [.rings] s { s with rings := rings } := by
  intro p hp; cases p <;> simp_all [Same]

theorem publishSlot_within (r : Nat) (s : State) : Keeps queueParts s (publishSlot r s) := by
  simp only [publishSlot]
  split
  · exact Keeps.refl _ s
  · exact ((rings_keeps _ s).mono (by simp)).trans ((ringSignal_keeps _ _).mono (by simp))

theorem stopQueue_within (q : Nat) (st : Status) (s : State) : Keeps queueParts s (stopQueue q st s) := (stopQueue_keeps q st s).mono (by simp)

/-- A further step that is taken only if a condition holds. -/
theorem Keeps.thenIf {ps : List Part} {s t u : State} (h : Keeps ps s t) (k : Keeps ps t u) {c : Prop} {d : Decidable c} :
    Keeps ps s (if c then u else t) := by
  split
  · exact h.trans k
  · exact h

/-- A further step that is taken unless a condition holds. -/
theorem Keeps.unless {ps : List Part} {s t u : State} (h : Keeps ps s t) (k : Keeps ps t u) {c : Prop} {d : Decidable c} :
    Keeps ps s (if c then t else u) := by
  split
  · exact h
  · exact h.trans k

theorem writeRecord_within (q : Nat) (o : Op) (s : State) : Keeps queueParts s (writeRecord q o s) := by
  simp only [writeRecord]
  split
  · exact (Keeps.refl _ s).unless (((hostFailed_keeps s).mono (by simp)).trans (stopQueue_within _ _ _))
  · have written (a : LAddr) (bytes : List Byte) (f : Queue → Queue) : Keeps queueParts s (modQ q f (pokeClean a bytes s)) :=
      ((pokeClean_keeps a bytes s).mono (by simp)).trans ((modQ_keeps _ _ _).mono (by simp))
    refine Keeps.thenIf (Keeps.thenIf ?_ ((raiseMsix_keeps _ _).mono (by simp))) (stopQueue_within _ _ _)
    split
    · exact ((written _ _ _).unless ((signalCounter_keeps _ _ _).mono (by simp))).thenIf (publishSlot_within _ _)
    · exact (written _ _ _).unless ((signalCounter_keeps _ _ _).mono (by simp))

theorem completeOperation_within (q : Nat) (s : State) : Keeps queueParts s (completeOperation q s) := by
  simp only [completeOperation]
  split
  · exact Keeps.refl _ s
  · refine Keeps.thenIf (Keeps.refl _ s) ?_
    exact ((dropRequest_keeps _ _ s).mono (by simp)).trans ((writeRecord_within _ _ _).trans ((retireCulture_within _).trans
      ((retireIndex_keeps _).mono (by simp))))

theorem flushRecords_within (q n : Nat) (s : State) : Keeps queueParts s (flushRecords q n s) := by
  induction n generalizing s with
  | zero => exact Keeps.refl _ s
  | succ n ih => exact (completeOperation_within q s).trans (ih _)

/-- A reset of a queue, and the end of its plan job with it, touches `queueParts` alone. -/
theorem resetQueue_within (q : Nat) (st : Status) (after : After) (s : State) : Keeps queueParts s (resetQueue q st after s) := by
  simp only [resetQueue, resetQueueBy]
  have withdrawn : Keeps queueParts s (withdraw (waiterOf q) s) := (withdraw_keeps _ s).mono (by simp)
  have stopped (t : State) (n : Nat) : Keeps queueParts t (flushRecords q n (closeSlots q (closeContexts q (stopOps q st t)))) :=
    (stopOps_within q st t).trans ((closeContexts_within _ _).trans (((closeSlots_keeps _ _).mono (by simp)).trans
      (flushRecords_within _ _ _)))
  have cleared (t : State) (cause : Nat) (cs : List Nat) (f : Queue → Queue) :
      Keeps queueParts t (modQ q f (poisonCounters cause .ownerReset cs t)) :=
    ((poisonCounters_keeps _ _ _ t).mono (by simp)).trans ((modQ_keeps _ _ _).mono (by simp))
  refine (Keeps.thenIf (Keeps.trans (Keeps.trans ?_ (stopped _ _)) (cleared _ _ _ _)) (stopQueue_within _ _ _)).trans
    ((retireCulture_within _).trans ((retireIndex_keeps _).mono (by simp)))
  split
  · exact withdrawn.thenIf (endJob_within _ _)
  · exact withdrawn

end Sys2Proof.Safety

namespace Sys2Proof.Safety

open Sys2Proof.Machine

/-! ### A retirement resets the module (R508, R530, R563) -/

/-- What a session that closes below D3 may touch. -/
abbrev sessionParts : List Part := [.sec, .evt, .fmw, .cxl, .sent]

theorem levelDropped_keeps (s : State) :
    Keeps [.sec] s { s with sec := { s.sec with level := 0, token := none, halt := 0, halted := 0 } } := by
  intro p hp; cases p <;> simp_all [Same]

theorem dropLevel_keeps (cause : Nat) (s : State) : Keeps sessionParts s (dropLevel cause s) := by
  simp only [dropLevel]
  split
  · exact Keeps.refl _ s
  · exact ((levelDropped_keeps s).mono (by simp)).trans ((raise_keeps _ _ _ _).mono (by simp))

theorem dropLevel_level (cause : Nat) (s : State) : (dropLevel cause s).sec.level = 0 := by
  simp only [dropLevel]
  split
  · assumption
  · rw [levelEvent, (raise_keeps _ _ _ _).part .sec]

theorem withoutSession_keeps (id : Nat) (s : State) : Keeps [.fmw] s (withoutSession id s) := by
  intro p hp; cases p <;> simp_all [Same, withoutSession]

/-- Below D3 the end of a session resets nothing, and leaves the module below D3. -/
theorem closeSession_below {s : State} (below : s.sec.level ≠ 3) (id : Nat) :
    Keeps sessionParts s (closeSession id s) ∧ (closeSession id s).sec.level ≠ 3 := by
  have gone : Keeps sessionParts s (withoutSession id s) := (withoutSession_keeps id s).mono (by simp)
  have ends : endToken 3 (withoutSession id s) = dropLevel 3 (withoutSession id s) := if_neg below
  unfold closeSession
  split
  · split
    · have zero := dropLevel_level 3 (withoutSession id s)
      change Keeps _ _ (endToken 3 (withoutSession id s)) ∧ (endToken 3 (withoutSession id s)).sec.level ≠ 3
      rw [ends, zero]
      exact ⟨gone.trans (dropLevel_keeps 3 _), by decide⟩
    · exact ⟨gone, below⟩
  · exact ⟨gone, below⟩

theorem closeSessions_below (ids : List Nat) {s : State} (below : s.sec.level ≠ 3) :
    Keeps sessionParts s (ids.foldl (fun u i => closeSession i u) s) := by
  induction ids generalizing s with
  | nil => exact Keeps.refl _ s
  | cons i rest ih =>
    obtain ⟨kept, still⟩ := closeSession_below below i
    exact kept.trans (ih still)

/-- Every queue that is set up is reset. -/
def queuesReset (s : State) : State :=
  (s.queues.map (·.1)).foldl (fun s q => if (getQ s q).mode = .disabled then s else resetQueue q .ownerReset .running s) s

theorem queuesReset_within (s : State) : Keeps queueParts s (queuesReset s) :=
  Keeps.foldl _ (fun s q => (Keeps.refl _ s).unless (resetQueue_within q .ownerReset .running s)) _ s

def sessionsClosed (s : State) : State := (s.fmw.sessions.map (·.id)).foldl (fun u i => closeSession i u) s

/-- What a retirement does before the reset: queues, sessions and the debug level end. -/
def retiring (s : State) : State := dropLevel 4 (sessionsClosed (queuesReset s))

theorem retireReset_retires {s t : State} (before : s.fuses.retired = false) (now : t.fuses.retired = true) :
    retireReset s t = resetAtOnce 7 (retiring t) := by
  have blown : (!s.fuses.retired && t.fuses.retired) = true := by rw [before, now]; rfl
  exact if_pos blown

theorem retiring_keeps {s : State} (below : s.sec.level ≠ 3) : Keeps (sessionParts ++ queueParts) s (retiring s) := by
  have queues := queuesReset_within s
  have level : (queuesReset s).sec.level ≠ 3 := by
    have sec : (queuesReset s).sec = s.sec := queues.part .sec
    rwa [sec]
  exact (queues.mono (by simp)).trans (((closeSessions_below _ level).mono (by simp)).trans ((dropLevel_keeps 4 _).mono (by simp)))

/-! #### What a reset at once leaves -/

theorem beginStart_sessions (s : State) : (beginStart s).fmw.sessions = s.fmw.sessions := by
  have rails : (leaveReset (withRails s)).fmw.sessions = s.fmw.sessions := by
    simp only [leaveReset, withRails]
    split <;> rfl
  have boot (u : State) : (bootRom u).fmw.sessions = u.fmw.sessions := by
    simp only [bootRom]
    split
    · rfl
    · split
      · exact raise_sessions _ _ _ _
      · rfl
  rw [beginStart_eq, raise_sessions, boot, rails]

theorem bootRom_level (s : State) : (bootRom s).sec.level = s.sec.level := by
  have boots (slot : Nat) (fallback : Bool) : (bootFrom slot fallback s).sec.level = s.sec.level := rfl
  simp only [bootRom]
  split
  · rfl
  · split
    · rw [bootFallback, (raise_keeps _ _ _ _).part .sec, boots]
    · rfl

theorem beginStart_level (s : State) : (beginStart s).sec.level = s.sec.level := by
  have rails : (leaveReset (withRails s)).sec = s.sec := by
    simp only [leaveReset, withRails]
    split <;> rfl
  rw [beginStart_eq, (raise_keeps _ _ _ _).part .sec, bootRom_level, rails]

/-- Of the cave a reset changes the status alone. -/
theorem resetAtOnce_cave (cause : Nat) (s : State) : ∃ status, (resetAtOnce cause s).cave = { s.cave with status := status } :=
  ⟨_, (beginStart_keeps (resetModule cause s)).part .cave⟩

theorem resetAtOnce_sessions (cause : Nat) (s : State) : (resetAtOnce cause s).fmw.sessions = [] := beginStart_sessions _

theorem resetAtOnce_level (cause : Nat) (s : State) : (resetAtOnce cause s).sec.level = 0 := beginStart_level _

/-! #### LIFECYCLE_SET retire -/

/-- The retired fuse is blown, and the owner's records are erased. -/
def ownerErased (s : State) : State := { s with
  fuses := { s.fuses with retired := true }
  cave := { s.cave with credentialA := .erased, credentialB := .erased, settingsA := .erased, settingsB := .erased,
                        calibrationA := .erased, calibrationB := .erased, slotA := .erased, slotB := .erased } }

theorem retireFuses_keeps (s : State) : Keeps [.evt, .fmw, .cxl, .sent] (ownerErased s) (retireFuses s) := raise_keeps _ _ _ _

theorem retireFuses_turnless : Turnless retireFuses := fun r s => lifecycleEvent_turnless 3 r (ownerErased s)

section
variable {p : List Byte}

theorem lifecycleDone_retire (named : u8 p 0 = 3) : lifecycleDone p = retireFuses := by
  funext s
  simp only [lifecycleDone, named]

theorem lifecycleAccepts_retire {s : State} (named : u8 p 0 = 3) (used : s.fuses.retired = false) : lifecycleAccepts s p = true := by
  have early : lifecycle s ≤ 2 := by
    simp only [lifecycle, used, Bool.false_eq_true, if_false]
    split_ifs <;> decide
  simp only [lifecycleAccepts, named, early, decide_true]

/-- A retirement blows one bit, so none is blown before the one that fails. -/
theorem fuseFailure_retire (named : u8 p 0 = 3) (s : State) : fuseFailure s p = (Config.fuseFails s.free).map fun _ => 0 := by
  have one : fuseBits s p = 1 := by simp only [fuseBits, named]
  simp only [fuseFailure, one, Nat.mod_one, one_ne_zero, if_false]

theorem partialFuses_retire (named : u8 p 0 = 3) (blown : Nat) (s : State) : partialFuses p blown s = s := by
  simp only [partialFuses, named]

end

/-- What a retirement leaves, of the state that the command found. -/
structure Retired (t u : State) : Prop where
  fuses : u.fuses = { t.fuses with retired := true }
  credential : u.cave.credentialA = .erased ∧ u.cave.credentialB = .erased
  settings : u.cave.settingsA = .erased ∧ u.cave.settingsB = .erased
  calibration : u.cave.calibrationA = .erased ∧ u.cave.calibrationB = .erased
  slots : u.cave.slotA = .erased ∧ u.cave.slotB = .erased
  certificate : u.cave.certificate = t.cave.certificate
  sessions : u.fmw.sessions = []
  level : u.sec.level = 0
  cause : u.start.cause = 7
  count : u.start.count = satAdd 65535 t.start.count 1

theorem retired_of_keeps {t w v : State} {ps : List Part} (noted : w.fuses = t.fuses ∧ w.start = t.start ∧ w.cave.certificate = t.cave.certificate)
    (h : Keeps ps (ownerErased w) v) (hp : Part.fuses ∉ ps ∧ Part.cave ∉ ps ∧ Part.start ∉ ps) : Retired t (resetAtOnce 7 v) := by
  obtain ⟨noFuses, noCave, noStart⟩ := hp
  obtain ⟨fuses, start, certificate⟩ := noted
  have fuses' : v.fuses = { t.fuses with retired := true } := by
    rw [← fuses]
    exact h .fuses noFuses
  have cave : v.cave = (ownerErased w).cave := h .cave noCave
  have start' : v.start = t.start := by
    rw [← start]
    exact h .start noStart
  obtain ⟨cleared, -, -, cause, count⟩ := resetAtOnce_restarts 7 v
  obtain ⟨status, caveNow⟩ := resetAtOnce_cave 7 v
  rw [cave] at caveNow
  refine ⟨cleared.kept.1.trans fuses', ?_, ?_, ?_, ?_, ?_, resetAtOnce_sessions 7 v, resetAtOnce_level 7 v, cause, ?_⟩
  · rw [caveNow]; exact ⟨rfl, rfl⟩
  · rw [caveNow]; exact ⟨rfl, rfl⟩
  · rw [caveNow]; exact ⟨rfl, rfl⟩
  · rw [caveNow]; exact ⟨rfl, rfl⟩
  · rw [caveNow]; exact certificate
  · rw [count, start', satAdd_eq_min]

/-- D3 forbids LIFECYCLE_SET (R527). -/
theorem lifecycle_below {call : MbCall} {s t : State} {c : Cmd} (h : Arrives 0x0704 call s c t) : t.sec.level ≠ 3 := by
  intro test
  have barred : (!debugAllows t.sec.level 0x0704) = true := by rw [test]; rfl
  have allows := h.allows
  simp only [allowed, barred, if_true] at allows
  split_ifs at allows

/-- LIFECYCLE_SET retire at its turn, where its bit verifies. -/
theorem lifecycle_retires {call : MbCall} {s t : State} {c : Cmd} (h : Arrives 0x0704 call s c t) (turn : Turn t)
    (named : u8 c.payload 0 = 3) (used : t.fuses.retired = false) (verifies : fuseFailure t c.payload = none) :
    Retired t (live (mailboxCommand 0x0704 call) s) := by
  have run : handle c (atTurn c t) = hLifecycleSet c (atTurn c t) := by simp only [handle, arrives_opcode h]
  have done := hLifecycleSet_done (s := atTurn c t) (lifecycleAccepts_retire named used) verifies
  rw [lifecycleDone_retire named] at done
  rw [turn_settles h turn (by decide) rfl (change := fun u => retireFuses (actionNoted c.payload u))
    (retireFuses_turnless.comp (actionNoted_turnless _)).endsTurn (run.trans done)]
  generalize noted : actionNoted c.payload t = w
  have answered := (retireFuses_keeps w).append (finishCmd_keeps c .ok 0 [] (retireFuses w))
  have before : s.fuses.retired = false := by rw [← arrives_fuses h]; exact used
  have now : (finishCmd c .ok 0 [] (retireFuses w)).fuses.retired = true := by
    have fuses : (finishCmd c .ok 0 [] (retireFuses w)).fuses = (ownerErased w).fuses := answered.part .fuses
    rw [fuses]
    rfl
  have below : (finishCmd c .ok 0 [] (retireFuses w)).sec.level ≠ 3 := by
    have sec : (finishCmd c .ok 0 [] (retireFuses w)).sec = (ownerErased w).sec := answered.part .sec
    rw [sec, ← noted]
    exact (lifecycle_below h : t.sec.level ≠ 3)
  rw [retireReset_retires before now]
  have same : w.fuses = t.fuses ∧ w.start = t.start ∧ w.cave.certificate = t.cave.certificate := by
    rw [← noted]
    exact ⟨rfl, rfl, rfl⟩
  exact retired_of_keeps same (answered.append (retiring_keeps below)) (by decide)

/-- Settles O24: a retirement's one bit fails with nothing blown, or the module ends what runs and resets. -/
theorem retirementErasesAndResets : Obligations.RetirementErasesAndResets := by
  unfold Obligations.RetirementErasesAndResets
  intro call s c t h turn named used
  have own : u8 c.payload 0 = 3 := (arrives_u8 h rfl 0 (by decide)).trans named
  have failure := fuseFailure_retire own t
  refine ⟨_, congrArg Host.Outcome.next (live_variant (beq_iff_eq.2 named) _ s), ?_⟩
  cases verdict : Config.fuseFails t.free with
  | none =>
    rw [verdict] at failure
    obtain ⟨fuses, ⟨credA, credB⟩, ⟨setA, setB⟩, ⟨calA, calB⟩, ⟨slotA, slotB⟩, certificate, sessions, level, cause, count⟩ :=
      lifecycle_retires h turn own used failure
    rw [if_pos rfl]
    exact ⟨fuses, credA, credB, setA, setB, calA, calB, slotA, slotB, certificate, sessions, level, cause, count⟩
  | some n =>
    rw [verdict] at failure
    rw [if_neg (by simp), lifecycle_fails h turn (lifecycleAccepts_retire own used) failure, partialFuses_retire own,
      actionNoted_other own (by decide)]

end Sys2Proof.Safety

namespace Sys2Proof.Safety

open Sys2Proof.Machine

/-! ### The test access port (R522, R528) -/

theorem tapAccepts_clocked {s : State} (clocked : s.sec.scanned = false) (f : State → State) : tapAccepts f s = f s :=
  if_neg (Bool.eq_false_iff.1 clocked)

theorem tapAccepts_scanned {s : State} (scanned : s.sec.scanned = true) (f : State → State) : tapAccepts f s = s := if_pos scanned

/-- IDCODE as a function of the manufacturer's code: at a variable the kernel does not try to evaluate the sum. -/
def idWord (code : Nat) : Nat := 1 + 2 * (code % 2048) + 0x0B20 * 2 ^ 12 + 1 * 2 ^ 28

theorem idcode_eq_idWord : idcode = idWord Config.jedecCode := rfl

theorem idWord_fields (code : Nat) : idWord code / 2 ^ 28 = 1 ∧ idWord code / 2 ^ 12 % 2 ^ 16 = 0x0B20 ∧ idWord code % 2 = 1 := by
  have fits : code % 2048 < 2048 := Nat.mod_lt code (by decide)
  simp only [idWord]
  omega

theorem idcode_fields : idcode / 2 ^ 28 = 1 ∧ idcode / 2 ^ 12 % 2 ^ 16 = 0x0B20 ∧ idcode % 2 = 1 :=
  idcode_eq_idWord ▸ idWord_fields Config.jedecCode

theorem tapReaches_test {s : State} (awake : Awake s) (test : s.sec.level = 3) (powered : s.power.state ≠ 3) : tapReaches s = true := by
  obtain ⟨running, clocked⟩ := awake
  simp [tapReaches, running, clocked, test, powered]

theorem tapReaches_below {s : State} (below : s.sec.level ≠ 3) : tapReaches s = false := by
  simp [tapReaches, below]

theorem exec_tapMemoryAccess {a : Nat} {w : Option Byte} {s : State} (reaches : tapReaches s = true) :
    exec (.tapMemoryAccess a w) s = if a < hbmBytes then .next (tapMemory a w s) else .fault .noMemory := if_pos reaches

/-- A read of one byte of a clean word. -/
theorem tapMemory_read {a : Nat} {s : State} (clean : s.poison.contains (a / 32) = false) (sound : mget s.memctl.latent (a / 32) = none) :
    tapMemory a none s = emit (.tapByte (bget s.hbm a)) s := by
  have words : wordsOf a 1 = [a / 32] := by simp [wordsOf, upFrom]
  have read : touchHbm Who.none a 1 s = s := touchHbm_clean Who.none a 1 s fun w inside => by
    rw [words, List.mem_singleton] at inside
    exact inside ▸ ⟨clean, sound⟩
  simp only [tapMemory, readSpan, touch, read]
  rfl

/-- A write of one byte reaches that byte alone. -/
theorem tapMemory_write (a : Nat) (b : Byte) {s : State} (canonical : Canonical s) (safe : Correctable s) (a' : Nat) :
    bget (tapMemory a (some b) s).hbm a' = if a' = a then b else bget s.hbm a' := by
  split
  case isTrue same =>
    subst same
    exact bget_writeHbm_inside a' [b] [] s canonical.1 0 (Nat.zero_lt_one)
  case isFalse other =>
    exact bget_writeHbm_outside a [b] [] s safe a' (by simp only [List.length_singleton]; omega)

/-! ### Hub core control (R528, R529) -/

theorem bit_toNat {w : Nat} (v : BitVec w) (i : Nat) : bit v.toNat i = v.getLsbD i := by
  simp only [bit, BitVec.getLsbD, Nat.testBit_eq_decide_div_mod_eq]
  rfl

theorem coreControl_debug {s : State} (level : 2 ≤ s.sec.level) (powered : s.power.state ≠ 3) : coreControl s = true := by
  simp [coreControl, level, powered]

theorem coreControl_denied {s : State} (denied : s.sec.level < 2 ∨ s.power.state = 3) : coreControl s = false := by
  rcases denied with low | off
  · simp [coreControl, Nat.not_le.2 low]
  · simp [coreControl, off]

theorem stepCores_debug {s : State} (control : coreControl s = true) (v : U32) :
    stepCores v s = { s with sec := { s.sec with
      instrs := (List.range 3).map fun n => s.sec.instrs.getD n 0 + (if v.getLsbD (4 + n) && bit s.sec.halted n then 1 else 0) } } := by
  simp only [stepCores, control, bit_toNat, Bool.not_true, Bool.false_eq_true, if_false]
  rfl

theorem haltCores_debug {s : State} (control : coreControl s = true) (v : U32) :
    haltCores v s = { s with sec := { s.sec with halt := v.toNat % 8, halted := v.toNat % 8 } } := by
  have field : bits v.toNat 2 0 = v.toNat % 8 := by simp [bits]
  simp only [haltCores, control, field, Bool.not_true, Bool.false_eq_true, if_false]

theorem coreControl_refuses {s : State} (control : coreControl s = false) (v : U32) :
    stepCores v s = { s with sec := { s.sec with denied := true } } ∧ haltCores v s = { s with sec := { s.sec with denied := true } } := by
  have refused : (!coreControl s) = true := by rw [control]; rfl
  exact ⟨if_pos refused, if_pos refused⟩

/-- Settles O50: each instruction of the port by its own equation, and what the level and the power state let it reach. -/
theorem tapAndCoreControl : Obligations.TapAndCoreControl := by
  unfold Obligations.TapAndCoreControl
  refine ⟨?bypass, ?idcode, ?sample, ?extest, ?scanned, ?scan, ?memory, ?below, ?core⟩
  case bypass => exact fun tdi s clocked => congrArg _ (tapAccepts_clocked clocked _)
  case idcode =>
    intro s clocked
    obtain ⟨version, part, lowest⟩ := idcode_fields
    exact ⟨idcode, version, part, lowest, congrArg _ (tapAccepts_clocked clocked _)⟩
  case sample =>
    intro preload s clocked
    exact ⟨(freeBytes preload.length s).1.map fun b => b.getLsbD 0, by simp [freeBytes], congrArg _ (tapAccepts_clocked clocked _)⟩
  case extest => exact fun s clocked => congrArg _ (tapAccepts_clocked clocked _)
  case scanned =>
    intro tdi preload s scanned c listed
    simp only [List.mem_cons, List.not_mem_nil, or_false] at listed
    rcases listed with rfl | rfl | rfl | rfl | rfl
    · exact congrArg _ (tapAccepts_scanned scanned _)
    · exact congrArg _ (tapAccepts_scanned scanned _)
    · exact congrArg _ (tapAccepts_scanned scanned _)
    · exact congrArg _ (tapAccepts_scanned scanned _)
    · exact congrArg _ (live_scanned scanned _)
  case scan => exact fun s awake => congrArg _ (live_awake awake _)
  case memory =>
    intro a s awake test powered
    have reaches := tapReaches_test awake test powered
    refine ⟨fun inside clean sound => ?read, fun b inside canonical safe => ?write, fun w outside => ?fault⟩
    case read =>
      rw [exec_tapMemoryAccess reaches]
      exact (if_pos inside).trans (congrArg _ (tapMemory_read clean sound))
    case write =>
      refine ⟨tapMemory a (some b) s, (exec_tapMemoryAccess reaches).trans (if_pos inside), tapMemory_write a b canonical safe, ?_⟩
      exact (writeHbm_keeps_window a [b] [] s).mono (by simp)
    case fault => exact (exec_tapMemoryAccess reaches).trans (if_neg (Nat.not_lt.2 outside))
  case below => exact fun a w s below => if_neg (Bool.eq_false_iff.1 (tapReaches_below below))
  case core =>
    intro v s awake
    refine ⟨fun level powered => congrArg Host.Outcome.next ?step, fun level powered => congrArg Host.Outcome.next ?halt,
      fun denied => ⟨congrArg Host.Outcome.next ?stepDenied, congrArg Host.Outcome.next ?haltDenied⟩⟩
    case step => exact (live_awake awake _).trans (stepCores_debug (coreControl_debug level powered) v)
    case halt => exact (live_awake awake _).trans (congrArg serveParked (haltCores_debug (coreControl_debug level powered) v))
    case stepDenied => exact (live_awake awake _).trans (coreControl_refuses (coreControl_denied denied) v).1
    case haltDenied =>
      exact (live_awake awake _).trans (congrArg serveParked (coreControl_refuses (coreControl_denied denied) v).2)

end Sys2Proof.Safety

namespace Sys2Proof.Safety

open Sys2Proof.Machine

/-! ### What an event leaves of the CXL port -/

theorem crs_of_port {s t : State} (h : port t = port s) : t.cxl.crs = s.cxl.crs := port_congr (·.crs) (fun _ => rfl) h

@[simp] theorem port_routeEvent (e : Event) (s : State) : port (routeEvent e s) = port s := by simp [routeEvent]

@[simp] theorem port_flushEvents (s : State) : port (flushEvents s) = port s := by simp [flushEvents]

/-! ### The start of the sequence (R557, R577) -/

theorem port_bootRom (s : State) : port (bootRom s) = port s := by
  simp only [bootRom]
  split
  · rfl
  · split_ifs
    · exact port_raise _ _ _ _
    · rfl

theorem beginStart_crs (s : State) : (beginStart s).cxl.crs = true :=
  crs_of_port ((port_raise _ _ _ _).trans (port_bootRom (leaveReset (withRails s))))

theorem startOrigin_begins {s : State} (held : s.start.inReset = true) (powered : s.start.brownOut = false) :
    startOrigin s = beginStart (modStart (fun x => { x with resetLow := false, perstLow := false }) s) :=
  if_pos (by simp [modStart, held, powered])

theorem brownOutOver_begins {s : State} (out : s.start.brownOut = true) (reset : s.start.resetLow = false) (perst : s.start.perstLow = false) :
    brownOutOver s = beginStart (modStart (fun x => { x with brownOut := false }) s) :=
  (if_neg (by simp [out])).trans (if_neg (by simp [modStart, reset, perst]))

/-- The parts that a start out of reset may change, with its pins. -/
theorem modStart_beginStart_keeps (f : Start → Start) (s : State) : Keeps startParts s (beginStart (modStart f s)) :=
  ((modStart_keeps f s).mono (by simp)).trans (beginStart_keeps _)

/-! ### Mehrore and the stacks (R506, R557, R558) -/

theorem hubCoresRun_passes {s : State} (running : starting s = true) (step : s.start.seq = 4)
    (passes : slotFails s s.fuses.rollback (slotRec s s.sec.bootSlot) = none) :
    hubCoresRun s = advanceStart { s with start := { s.start with seq := 5 } } := by
  simp only [hubCoresRun, running, step, passes]
  rfl

theorem otherSlotPasses_false {s : State}
    (no : s.sec.fallback = true ∨ slotFails s s.fuses.rollback (slotRec s (1 - s.sec.bootSlot)) ≠ none) : otherSlotPasses s = false := by
  rcases no with used | fails
  · simp [otherSlotPasses, used]
  · have found := Option.isNone_eq_false_iff.2 (Option.isSome_iff_ne_none.2 fails)
    rw [otherSlotPasses, found, Bool.and_false]

theorem hubCoresRun_recovers {s : State} (running : starting s = true) (step : s.start.seq = 4) {f : Nat × Nat}
    (fails : slotFails s s.fuses.rollback (slotRec s s.sec.bootSlot) = some f) (other : otherSlotPasses s = false) :
    hubCoresRun s = { s with
      sec := { s.sec with recovery := true }
      cxl := { s.cxl with width := 0, rate := 0, protocols := 0, reduced := false } } := by
  simp only [hubCoresRun, running, step, fails, other]
  rfl

/-- The next stack in ascending order, while the sequence runs. -/
theorem stackTrained_next {s : State} (running : starting s = true) (more : s.start.trained < 12) (ok : Bool) :
    stackTrained s.start.trained ok s =
      if ok then advanceStart { s with start := { s.start with trained := s.start.trained + 1, attempts := 0 } }
      else if s.start.attempts = 0 then { s with start := { s.start with attempts := 1 } }
      else startFailure 6 s.start.trained
        { type := Config.freeNat s.free, severity := 3, source := 0, unit := s.start.trained, status := 0, address := 0,
          queue := 0xFFFFFFFF, tag := 0, symbols := 0, symbol := 0xFF, flags := 0, detail := [] } { s with free := s.free + 1 } :=
  if_neg (by simp [running, more])

theorem errRecord_err (r : ErrRec) (s : State) : (errRecord r s).err = s.err.push 1024 (errBytes s.tick.count s.err.head r) := by
  simp only [errRecord]
  split_ifs
  · exact (raise_keeps _ _ _ _).part .err
  · rfl

/-- A start failure after its record. -/
def failed (s : State) : State := { s with start := { s.start with failed := true }, cxl := { s.cxl with crs := false } }

theorem failed_keeps (s : State) : Keeps [.start, .cxl] s (failed s) := by
  intro p hp; cases p <;> simp_all [Same, failed]

/-- What follows the record of a failure are events. -/
theorem startFailure_keeps_after (step unit : Nat) (r : ErrRec) (s : State) :
    Keeps [.evt, .fmw, .cxl, .sent] (failed (errRecord r s)) (startFailure step unit r s) := by
  have flushed := flushEvents_keeps (failed (errRecord r s))
  simp only [startFailure]
  split_ifs
  · exact flushed.trans (raise_keeps _ _ _ _)
  · exact flushed

theorem startFailure_crs (step unit : Nat) (r : ErrRec) (s : State) : (startFailure step unit r s).cxl.crs = false := by
  have same : port (startFailure step unit r s) = port (failed (errRecord r s)) := by simp [startFailure, failed]
  exact crs_of_port same

theorem startFailure_failed (step unit : Nat) (r : ErrRec) (s : State) : (startFailure step unit r s).start.failed = true :=
  congrArg Start.failed ((startFailure_keeps_after step unit r s).part .start)

theorem startFailure_err (step unit : Nat) (r : ErrRec) (s : State) :
    (startFailure step unit r s).err = s.err.push 1024 (errBytes s.tick.count s.err.head r) :=
  ((startFailure_keeps_after step unit r s).part .err).trans (errRecord_err r s)

theorem startFailure_keeps (step unit : Nat) (r : ErrRec) (s : State) :
    Keeps [.start, .cxl, .err, .evt, .fmw, .sent] s (startFailure step unit r s) :=
  ((errRecord_keeps r s).mono (by simp)).trans (((failed_keeps _).mono (by simp)).trans ((startFailure_keeps_after step unit r s).mono (by simp)))

theorem advanceStart_keeps (s : State) : Keeps [.start] s (advanceStart s) := by
  simp only [advanceStart]
  split_ifs
  · exact (modStart_keeps _ s).trans (modStart_keeps _ _)
  · exact modStart_keeps _ s
  · exact modStart_keeps _ s
  · exact Keeps.refl _ s

theorem advanceStart_initialised (s : State) : (advanceStart s).start.initialised = s.start.initialised := by
  simp only [advanceStart]
  split_ifs <;> rfl

theorem mget_filter {α : Type} (f : Nat → Bool) (m : Sparse α) (k : Nat) :
    mget (m.filter fun c => f c.1) k = if f k then mget m k else none := by
  induction m with
  | nil => simp [mget]
  | cons c r ih =>
    obtain ⟨a, v⟩ := c
    by_cases same : k = a
    · subst same
      by_cases kept : f k = true
      · simp [mget, kept]
      · simp [kept, ih]
    · by_cases kept : f a = true
      · simp [mget, kept, same, ih]
      · simp [mget, kept, same, ih]

theorem bget_filter (f : Nat → Bool) (m : Sparse Byte) (a : Nat) : bget (m.filter fun c => f c.1) a = if f a then bget m a else 0 := by
  simp only [bget, mgetD, mget_filter]
  split_ifs <;> rfl

/-- HBM without the stack's bytes, poison and latent errors. -/
def stackCleared (stack : Nat) (s : State) : State := { s with
  hbm := s.hbm.filter fun c => stackOf s.memctl.active c.1 != stack
  poison := s.poison.filter fun w => stackOf s.memctl.active (w * 32) != stack
  memctl := { s.memctl with latent := s.memctl.latent.filter fun p => stackOf s.memctl.active (p.1 * 32) != stack } }

theorem stackCleared_keeps (stack : Nat) (s : State) : Keeps [.hbm, .poison, .memctl] s (stackCleared stack s) := by
  intro p hp; cases p <;> simp_all [Same, stackCleared]

theorem stackCleared_hbm (stack : Nat) (s : State) (a : Nat) :
    bget (stackCleared stack s).hbm a = if stackOf s.memctl.active a = stack then 0 else bget s.hbm a := by
  rw [stackCleared, bget_filter fun a => stackOf s.memctl.active a != stack]
  simp only [bne_iff_ne, ne_eq, ite_not]

theorem stackCleared_poison (stack : Nat) (s : State) (w : Nat) :
    (stackCleared stack s).poison.contains w = (s.poison.contains w && stackOf s.memctl.active (w * 32) != stack) := by
  rw [Bool.eq_iff_iff]
  simp [stackCleared]

/-- One more stack is initialised. -/
def countInitialised (s : State) : State := advanceStart (modStart (fun x => { x with initialised := x.initialised + 1 }) s)

theorem countInitialised_keeps (s : State) : Keeps [.start] s (countInitialised s) := (modStart_keeps _ s).trans (advanceStart_keeps _)

theorem countInitialised_initialised (s : State) : (countInitialised s).start.initialised = s.start.initialised + 1 :=
  advanceStart_initialised _

theorem stackInitialised_next {s : State} (running : starting s = true) (more : s.start.initialised < s.start.trained) :
    stackInitialised s.start.initialised s = countInitialised (stackCleared s.start.initialised s) :=
  if_neg (by simp [running, more])

/-! ### The held events of a head (R414) -/

theorem heldBatch_complete {s : State} (none_ : s.fmw.heldLost = 0) : heldBatch s = s.fmw.heldEvents := by
  simp only [heldBatch, none_]
  split
  case h_1 empty => exact (List.reverse_eq_nil_iff.1 empty).symm
  case h_2 listed => exact List.reverse_eq_iff.1 listed ▸ rfl

theorem Keeps.isHead {ps : List Part} {s t : State} (h : Keeps ps s t) (hp : Part.fabric ∉ ps := by decide) : Machine.isHead t = Machine.isHead s := by
  have fabric : t.fabric = s.fabric := h .fabric hp
  simp only [Machine.isHead, self, headModule, fabric]

theorem Keeps.eventsServed {s t : State} (h : Keeps [.evt, .fmw, .cxl, .sent] s t) : Machine.eventsServed t = Machine.eventsServed s := by
  have start : t.start = s.start := h.part .start
  have sec : t.sec = s.sec := h.part .sec
  have fw : t.fw = s.fw := h.part .fw
  simp only [Machine.eventsServed, start, sec, fw]

theorem routeEvent_head {s : State} (head : isHead s = true) (served : eventsServed s = true) (e : Event) : routeEvent e s = writeEvent e s := by
  simp [routeEvent, head, served]

theorem routeEvents_head (l : List Event) {s : State} (head : isHead s = true) (served : eventsServed s = true) :
    l.foldl (fun u e => routeEvent e u) s = l.foldl (fun u e => writeEvent e u) s := by
  induction l generalizing s with
  | nil => rfl
  | cons e r ih =>
    have keeps := writeEvent_keeps e s
    rw [List.foldl_cons, List.foldl_cons, routeEvent_head head served]
    exact ih (keeps.isHead.trans head) (keeps.eventsServed.trans served)

/-- The head writes the events that it has held, in their order. -/
theorem flushEvents_head {s : State} (head : isHead s = true) (served : eventsServed s = true) (none_ : s.fmw.heldLost = 0)
    (some_ : s.fmw.heldEvents ≠ []) :
    flushEvents s = s.fmw.heldEvents.foldl (fun u e => writeEvent e u) { s with fmw := { s.fmw with heldEvents := [] } } := by
  have listed : (!s.fmw.heldEvents.isEmpty && eventsServed s && (isHead s || reachable s (headModule s))) = true := by
    simp [some_, served, head]
  have dropped : { s with fmw := { s.fmw with heldEvents := [], heldLost := 0 } } = { s with fmw := { s.fmw with heldEvents := [] } } := by
    rw [← none_]
  rw [flushEvents, if_pos listed, heldBatch_complete none_, dropped]
  exact routeEvents_head s.fmw.heldEvents head served

/-! ### Firmware ready (R560) -/

/-- The STARTUP_COMPLETE of the sequence. -/
def startupComplete (ms : Nat) (s : State) : Event :=
  { code := 0x0710, severity := 0, module := self s, tick := s.tick.count,
    detail := leBytes 1 s.start.cause ++ [0] ++ leBytes 2 (min 65535 ms) ++ leBytes 8 s.start.incarnation }

/-- Firmware ready, with the events it is to send. -/
def readied (ms : Nat) (events : List Event) (s : State) : State := { s with
  start := { s.start with seq := 9, vatsOn := true, fwReady := true, readyMs := min 65535 ms }
  cxl := { s.cxl with crs := false }
  fmw := { s.fmw with heldEvents := events } }

theorem readied_keeps (ms : Nat) (events : List Event) (s : State) : Keeps [.start, .cxl, .fmw] s (readied ms events s) := by
  intro p hp; cases p <;> simp_all [Same, readied]

theorem readied_served {ms : Nat} {events : List Event} {s : State} (running : s.sec.halted ≠ 7) (settled : s.fw.live = none) :
    eventsServed (readied ms events s) = true := by
  simp [eventsServed, readied, running, settled]

/-- The head places its first boundary at the timebase. -/
def firstBoundary (s : State) : State := if isHead s then modTick (fun t => { t with placed := true, last := t.timebase }) s else s

theorem firstBoundary_keeps (s : State) : Keeps [.tick] s (firstBoundary s) := by
  simp only [firstBoundary]
  split_ifs
  · exact modTick_keeps _ s
  · exact Keeps.refl _ s

theorem firmwareReady_eq {ms : Nat} {s : State} (running : starting s = true) (step : s.start.seq = 7) :
    firmwareReady ms [] s = noteLinks (firstBoundary (flushEvents (readied ms (startupComplete ms s :: s.fmw.heldEvents) s))) :=
  if_neg (by simp [running, step])

theorem noteLinks_keeps (s : State) : Keeps [.start, .evt, .fmw, .cxl, .sent] s (noteLinks s) := by
  simp only [noteLinks]
  split
  · exact ((modStart_keeps _ s).mono (by simp)).trans ((raise_keeps _ _ _ _).mono (by simp))
  · exact Keeps.refl _ s

/-- The note of the links changes their flag alone. -/
theorem noteLinks_start (s : State) : ∃ links, (noteLinks s).start = { s.start with links := links } := by
  simp only [noteLinks]
  split
  · exact ⟨true, (raise_keeps _ _ _ _).part .start⟩
  · exact ⟨s.start.links, rfl⟩

theorem noteLinks_port (s : State) : port (noteLinks s) = port s := by
  simp only [noteLinks]
  split
  · exact port_raise _ _ _ _
  · rfl

/-! ### Ports of a group (R557) -/

/-- A port begins training; its count of retrains stays. -/
def trainPort (s : State) (p : Nat) : State := emit (.retrain p) (modPort p (fun x => { retrainPort 2 x with retrains := x.retrains }) s)

theorem trainPort_keeps (s : State) (p : Nat) : Keeps [.fabric, .sent] s (trainPort s p) :=
  ((fabric_keeps _ s).mono (by simp)).trans ((emit_keeps _ _).mono (by simp))

theorem trainPorts_other (ps : List Nat) (s : State) {q : Nat} (other : q ∉ ps) : getPort (ps.foldl trainPort s) q = getPort s q := by
  induction ps generalizing s with
  | nil => rfl
  | cons p r ih =>
    obtain ⟨ne, rest⟩ := List.ne_and_not_mem_of_not_mem_cons other
    exact (ih _ rest).trans (getPort_modPort_other p q _ s ne)

theorem trainPorts_trains (ps : List Nat) {s : State} {q : Nat} (there : q < s.fabric.ports.length) (listed : q ∈ ps) :
    (getPort (ps.foldl trainPort s) q).state = 2 := by
  induction ps generalizing s with
  | nil => cases listed
  | cons p r ih =>
    by_cases later : q ∈ r
    · exact ih ((modPort_ports_length p _ s).symm ▸ there) later
    · obtain rfl : q = p := (List.mem_cons.1 listed).resolve_right later
      rw [List.foldl_cons, trainPorts_other r _ later]
      exact congrArg Port.state (getPort_modPort_same _ there)

theorem trainPorts_groupNext (ps : List Nat) (s : State) : (ps.foldl trainPort s).fabric.groupNext = s.fabric.groupNext := by
  induction ps generalizing s with
  | nil => rfl
  | cons p r ih => exact ih _

/-- The used, disabled ports of the next group. -/
def groupPorts (s : State) : List Nat := (topologyPorts s).filter fun p => p / 4 == s.fabric.groupNext && (getPort s p).state == 0

theorem mem_groupPorts {s : State} {p : Nat} :
    p ∈ groupPorts s ↔ p < 24 ∧ bit s.fabric.topology.portMask p = true ∧ p / 4 = s.fabric.groupNext ∧ (getPort s p).state = 0 := by
  simp only [groupPorts, topologyPorts, upFrom, List.mem_filter, List.mem_map, List.mem_range, Nat.zero_add, exists_eq_right, Bool.and_eq_true,
    beq_iff_eq, and_assoc]

theorem portGroupStart_next {s : State} (ready : s.start.fwReady = true) (more : s.fabric.groupNext < 6) :
    portGroupStart s = (groupPorts s).foldl trainPort { s with fabric := { s.fabric with groupNext := s.fabric.groupNext + 1 } } :=
  if_neg (by simp [ready, more])

theorem railTimeout_fails {rail word : Nat} {s : State} (running : starting s = true) (switched : rail ≤ 11) (early : s.start.trained = 0) :
    railTimeout rail word s = startFailure 4 rail
      { type := 0x0010, severity := 3, source := 8, unit := rail, status := 0, address := 0, queue := 0xFFFFFFFF,
        tag := 0, symbols := 0, symbol := 0xFF, flags := 0, detail := leBytes 2 word } s :=
  if_pos (by simp [running, switched, early])

/-- The module that firmware has made ready, but for the flag of its links and what its events move. -/
theorem firmwareReady_ready {ms : Nat} {s : State} (running : starting s = true) (step : s.start.seq = 7) :
    (∃ links, (firmwareReady ms [] s).start =
      { s.start with seq := 9, vatsOn := true, fwReady := true, readyMs := min 65535 ms, links := links }) ∧
    (firmwareReady ms [] s).cxl.crs = false ∧ Keeps [.start, .cxl, .fmw, .evt, .sent, .tick] s (firmwareReady ms [] s) := by
  rw [firmwareReady_eq running step]
  generalize he : startupComplete ms s :: s.fmw.heldEvents = events
  have flushed := flushEvents_keeps (readied ms events s)
  have placed := firstBoundary_keeps (flushEvents (readied ms events s))
  have noted := noteLinks_keeps (firstBoundary (flushEvents (readied ms events s)))
  refine ⟨?start, ?crs, ?keeps⟩
  case start =>
    obtain ⟨links, start⟩ := noteLinks_start (firstBoundary (flushEvents (readied ms events s)))
    have same : (firstBoundary (flushEvents (readied ms events s))).start = (readied ms events s).start :=
      (placed.part .start).trans (flushed.part .start)
    exact ⟨links, by rw [start, same]; rfl⟩
  case crs =>
    exact crs_of_port ((noteLinks_port _).trans ((placed.port (by decide)).trans (port_flushEvents (readied ms events s))))
  case keeps =>
    exact ((readied_keeps ms events s).mono (by simp)).trans ((flushed.mono (by simp)).trans ((placed.mono (by simp)).trans
      (noted.mono (by simp))))

theorem foldl_writeEvent_keeps (l : List Event) (s : State) : Keeps [.evt, .fmw, .cxl, .sent] s (l.foldl (fun u e => writeEvent e u) s) :=
  Keeps.foldl _ (fun s e => writeEvent_keeps e s) l s

theorem firstBoundary_head {s t : State} (head : isHead t = true) (tick : t.tick = s.tick) :
    firstBoundary t = { t with tick := { s.tick with placed := true, last := s.tick.timebase } } := by
  rw [firstBoundary, if_pos head, modTick, tick]

/-- A head whose event path serves writes STARTUP_COMPLETE and then the events that it has held. -/
theorem firmwareReady_head {ms : Nat} {s : State} (running : starting s = true) (step : s.start.seq = 7) (head : isHead s = true)
    (cores : s.sec.halted ≠ 7) (settled : s.fw.live = none) (none_ : s.fmw.heldLost = 0) :
    let told := s.fmw.heldEvents.foldl (fun u e => writeEvent e u) (writeEvent (startupComplete ms s) (readied ms [] s))
    firmwareReady ms [] s = noteLinks { told with tick := { s.tick with placed := true, last := s.tick.timebase } } := by
  intro told
  have kept : Keeps [.evt, .fmw, .cxl, .sent] (readied ms [] s) told := foldl_writeEvent_keeps (startupComplete ms s :: s.fmw.heldEvents) _
  have flushed : flushEvents (readied ms (startupComplete ms s :: s.fmw.heldEvents) s) = told :=
    flushEvents_head head (readied_served cores settled) none_ (List.cons_ne_nil _ _)
  rw [firmwareReady_eq running step, flushed, firstBoundary_head (kept.isHead.trans head) (kept.part .tick)]
  rfl

/-- Settles O49: each row by its own equation, and what events leave of the port and of the start registers. -/
theorem startUpSteps : Obligations.StartUpSteps := by
  unfold Obligations.StartUpSteps
  refine ⟨?origin, ?brown, ?mehrore, ?trained, ?initialised, ?ready, ?group, ?rail⟩
  case origin =>
    intro s held powered
    have start := beginStart_start (modStart (fun x => { x with resetLow := false, perstLow := false }) s)
    exact ⟨_, congrArg Host.Outcome.next (startOrigin_begins held powered), congrArg Start.inReset start, congrArg Start.seq start,
      congrArg Start.resetLow start, congrArg Start.perstLow start, beginStart_crs _, (modStart_beginStart_keeps _ s).mono (by decide)⟩
  case brown =>
    intro s _ out reset perst
    have start := beginStart_start (modStart (fun x => { x with brownOut := false }) s)
    exact ⟨_, congrArg Host.Outcome.next (brownOutOver_begins out reset perst), congrArg Start.inReset start, congrArg Start.seq start,
      congrArg Start.brownOut start, beginStart_crs _, (modStart_beginStart_keeps _ s).mono (by decide)⟩
  case mehrore =>
    intro s awake running step
    refine ⟨fun passes => congrArg Host.Outcome.next ?run, fun f fails no => congrArg Host.Outcome.next ?recover⟩
    case run => exact (live_awake awake _).trans (hubCoresRun_passes running step passes)
    case recover => exact (live_awake awake _).trans (hubCoresRun_recovers running step fails (otherSlotPasses_false no))
  case trained =>
    intro s awake running more
    have next (ok : Bool) : exec (.hbmStackTrained s.start.trained ok) s = .next _ :=
      congrArg Host.Outcome.next ((live_awake awake _).trans (stackTrained_next running more ok))
    refine ⟨next true, fun first => (next false).trans (congrArg Host.Outcome.next (if_pos first)), fun second => ?_⟩
    refine ⟨_, (next false).trans (congrArg Host.Outcome.next (if_neg second)), startFailure_failed _ _ _ _, startFailure_crs _ _ _ _, ?_⟩
    exact ((free_keeps _ s).mono (by decide)).trans ((startFailure_keeps _ _ _ _).mono (by decide))
  case initialised =>
    intro s awake running more
    have counted := countInitialised_keeps (stackCleared s.start.initialised s)
    have hbm : (countInitialised (stackCleared s.start.initialised s)).hbm = (stackCleared s.start.initialised s).hbm := counted.part .hbm
    have poison : (countInitialised (stackCleared s.start.initialised s)).poison = (stackCleared s.start.initialised s).poison :=
      counted.part .poison
    exact ⟨_, congrArg Host.Outcome.next ((live_awake awake _).trans (stackInitialised_next running more)), countInitialised_initialised _,
      fun a => hbm ▸ stackCleared_hbm _ s a, fun w => poison ▸ stackCleared_poison _ s w,
      ((stackCleared_keeps _ s).mono (by decide)).trans (counted.mono (by decide))⟩
  case ready =>
    intro ms s awake running step
    have lives : exec (.firmwareReady ms []) s = .next (firmwareReady ms [] s) := congrArg Host.Outcome.next (live_awake awake _)
    obtain ⟨⟨links, start⟩, crs, keeps⟩ := firmwareReady_ready (ms := ms) running step
    exact ⟨⟨_, lives, congrArg Start.fwReady start, congrArg Start.seq start, congrArg Start.readyMs start, congrArg Start.vatsOn start,
        crs, keeps⟩,
      fun head cores settled none_ => lives.trans (congrArg Host.Outcome.next (firmwareReady_head running step head cores settled none_))⟩
  case group =>
    intro s awake ready more ports
    refine ⟨_, congrArg Host.Outcome.next ((live_awake awake _).trans (portGroupStart_next ready more)), trainPorts_groupNext _ _,
      fun p inside used turn disabled => ?trains, fun p apart => ?other, ?keeps⟩
    case trains => exact trainPorts_trains _ (ports.symm ▸ inside) (mem_groupPorts.2 ⟨inside, used, turn, disabled⟩)
    case other =>
      refine trainPorts_other _ _ fun listed => ?_
      obtain ⟨_, used, turn, disabled⟩ := mem_groupPorts.1 listed
      simp [used, turn, disabled] at apart
    case keeps => exact ((fabric_keeps _ s).mono (by decide)).trans ((Keeps.foldl _ trainPort_keeps _ _).mono (by decide))
  case rail =>
    intro rail word s _ running switched early
    exact ⟨_, congrArg Host.Outcome.next (railTimeout_fails running switched early), startFailure_failed _ _ _ _, startFailure_crs _ _ _ _,
      startFailure_err _ _ _ _, startFailure_keeps _ _ _ _⟩

end Sys2Proof.Safety

/-! ## The data operations (R17, R128-R167, R289, R343): what O60 comes to -/

namespace Sys2Proof.Safety

open Sys2Proof.Machine

/-- The code never miscorrects an error of three or more symbols (R310). -/
def NeverMiscorrects : Prop := ∀ n, Config.miscorrects n = false

/-! ### What stays readable -/

theorem Keeps.descOf {ps : List Part} {s t : State} (h : Keeps ps s t) (q : Nat) (idx : U32) (hp : Part.queues ∉ ps := by decide) :
    descOf t q idx = descOf s q idx := by
  simp only [Machine.descOf, h.getOp q idx hp]

theorem Keeps.slotOf {ps : List Part} {s t : State} (h : Keeps ps s t) (q : Nat) (idx : U32) (hp : Part.queues ∉ ps := by decide) :
    slotOf t q idx = slotOf s q idx := by
  simp only [Machine.slotOf, h.getOp q idx hp]

theorem Keeps.unasked {ps : List Part} {s t : State} (h : Keeps ps s t) {q : Nat} {idx : U32} (unasked : Unasked q idx s)
    (hp : Part.queues ∉ ps := by decide) : Unasked q idx t := fun o op => unasked o (h.getOp q idx hp ▸ op)

theorem Keeps.addrOf {ps : List Part} {s t : State} (h : Keeps ps s t) (a : Nat) (hp : Part.fabric ∉ ps := by decide) :
    addrOf t a = addrOf s a := by
  have fabric : t.fabric = s.fabric := h .fabric hp
  have named (v : Nat) : laddr t v = laddr s v := by
    unfold laddr inConfig self
    rw [fabric]
  simp only [Machine.addrOf, named]

/-! ### Spans and their bytes -/

/-- A byte of HBM that no span touches. -/
def Outside (spans : List (LAddr × Nat)) (a : Nat) : Prop := ∀ p ∈ spans, ∀ x, p.1 = .hbm x → a < x ∨ x + p.2 ≤ a

/-- The parts that an operation's writes may change. -/
abbrev dataParts : List Part := .queues :: writeParts

/-- What writes to some spans do: memories, records and outputs change, and of HBM only bytes of the spans. -/
structure Wrote (spans : List (LAddr × Nat)) (s t : State) : Prop where
  frame : Keeps dataParts s t
  hbm : NeverMiscorrects → ∀ a, Outside spans a → bget t.hbm a = bget s.hbm a

theorem Wrote.refl (s : State) : Wrote [] s s := ⟨Keeps.refl _ s, fun _ _ _ => rfl⟩

theorem Wrote.trans {xs ys : List (LAddr × Nat)} {s t u : State} (h : Wrote xs s t) (k : Wrote ys t u) : Wrote (xs ++ ys) s u where
  frame := h.frame.trans k.frame
  hbm code a out :=
    (k.hbm code a fun p hp => out p (List.mem_append_right _ hp)).trans (h.hbm code a fun p hp => out p (List.mem_append_left _ hp))

/-- What leaves HBM alone writes to no span. -/
theorem Wrote.of_keeps {ps : List Part} {s t : State} (h : Keeps ps s t) (sub : ps ⊆ dataParts := by decide)
    (hp : Part.hbm ∉ ps := by decide) : Wrote [] s t :=
  ⟨h.mono sub, fun _ _ _ => congrArg (bget · _) (show t.hbm = s.hbm from h .hbm hp)⟩

theorem touchWord_hbm (code : NeverMiscorrects) (who : Who) (s : State) (w : Nat) : (touchWord who s w).hbm = s.hbm := by
  have consumed (b : Bool) (u : State) : (consumeWord who w b u).hbm = u.hbm := (errRecord_keeps _ _).part .hbm
  unfold touchWord
  split
  · split
    · rfl
    · exact consumed _ _
  · split
    · rfl
    · split
      · split
        · rfl
        · exact consumed _ _
      · split
        · exact correctWord_hbm _ _ _ _
        · split
          · rename_i miscorrected
            rw [code, Bool.and_false] at miscorrected
            exact absurd miscorrected (by decide)
          · exact poisonWord_hbm _ _ _ _

theorem mergeWord_hbm (code : NeverMiscorrects) (s : State) (w : Nat) : (mergeWord s w).hbm = s.hbm := by
  simp only [mergeWord]
  split
  · rfl
  · split
    · rfl
    · exact touchWord_hbm code _ _ _

theorem foldl_hbm {α : Type} (f : State → α → State) (same : ∀ s x, (f s x).hbm = s.hbm) (l : List α) (s : State) :
    (l.foldl f s).hbm = s.hbm := by
  induction l generalizing s with
  | nil => rfl
  | cons x r ih => exact (ih _).trans (same s x)

theorem errRecord_hbm (r : ErrRec) (s : State) : (errRecord r s).hbm = s.hbm := (errRecord_keeps r s).part .hbm

theorem touchSramWord_hbm (who : Who) (s : State) (x : Nat × Nat × Nat × Latent) : (touchSramWord who s x).hbm = s.hbm := by
  simp only [touchSramWord, correctSram, uncorrectSram, sramRecord, apply_ite State.hbm, errRecord_hbm, ite_self]

theorem mergeSram_hbm (v : Nat) (ws : List Nat) (s : State) : (mergeSram v ws s).hbm = s.hbm := by
  refine foldl_hbm _ (fun s x => ?_) _ s
  simp only [apply_ite State.hbm, touchSramWord_hbm, ite_self]

theorem poke_wrote (a : LAddr) (data : List Byte) (flags : List Bool) (s : State) : Wrote [(a, data.length)] s (poke a data flags s) where
  frame := (poke_keeps a data flags s).mono (by decide)
  hbm code j out := by
    cases a with
    | hbm x =>
      rw [poke, writeHbm_hbm, bget_bwrite_outside _ _ _ _ (out _ List.mem_cons_self x rfl), foldl_hbm _ (mergeWord_hbm code)]
    | host x => rfl
    | sram v x => exact congrArg (bget · j) (((injectSram_keeps _ _ _ _).part .hbm).trans (mergeSram_hbm v _ s))
    | remote m x => rfl

theorem scramble_wrote (a : LAddr) (len : Nat) (s : State) : Wrote [(a, len)] s (scramble a len s) := by
  have wrote := poke_wrote a (freeBytes len s).1 [] (freeBytes len s).2
  rw [show (freeBytes len s).1.length = len by simp [freeBytes]] at wrote
  exact ⟨scramble_keeps a len s |>.mono (by decide), wrote.hbm⟩

theorem scrambles_wrote (spans : List (LAddr × Nat)) (s : State) : Wrote spans s (spans.foldl (fun s u => scramble u.1 u.2 s) s) := by
  induction spans generalizing s with
  | nil => exact Wrote.refl s
  | cons p r ih => exact (scramble_wrote p.1 p.2 s).trans (ih _)

/-! ### Writes of an operation to this module and to host memory (R434) -/

/-- Spans that lie in no other module. -/
abbrev NoRemote (spans : List (LAddr × Nat)) : Prop := ∀ p ∈ spans, isRemote p.1 = false

theorem writeChunk_local {c : Chunk} (near : isRemote c.addr = false) (q : Nat) (idx : U32) (light : Bool) (s : State) :
    writeChunk q idx light c s = poke c.addr c.data c.poison s := by
  unfold writeChunk
  split
  · rename_i m x remote
    rw [remote] at near
    cases near
  · rfl

/-- The writes of some chunks to this module and to host memory. -/
theorem writeChunks_local {cs : List Chunk} (near : NoRemote (chunkSpans cs)) (q : Nat) (idx : U32) (light : Bool) (s : State) :
    Wrote (chunkSpans cs) s (cs.foldl (fun s c => writeChunk q idx light c s) s) ∧
      Keeps writeParts s (cs.foldl (fun s c => writeChunk q idx light c s) s) := by
  induction cs generalizing s with
  | nil => exact ⟨Wrote.refl s, Keeps.refl _ s⟩
  | cons c r ih =>
    have first := writeChunk_local (near (c.addr, c.data.length) (by simp [chunkSpans])) q idx light s
    obtain ⟨wrote, kept⟩ := ih (fun p mem => near p (by simp_all [chunkSpans])) (poke c.addr c.data c.poison s)
    rw [List.foldl_cons, first]
    exact ⟨(poke_wrote _ _ _ s).trans wrote, (poke_keeps _ _ _ s).trans kept⟩

/-- An operation that has run and awaits nothing: what its record will say. -/
def Met (q : Nat) (idx : U32) (st : Status) (detail : Nat) (s : State) : Prop :=
  ∃ o, getOp s q idx = some o ∧ o.reqs = [] ∧ o.status = st ∧ o.detail = detail

theorem Keeps.met {ps : List Part} {s t : State} (h : Keeps ps s t) {q : Nat} {idx : U32} {st : Status} {d : Nat} (met : Met q idx st d s)
    (hp : Part.queues ∉ ps := by decide) : Met q idx st d t := by
  obtain ⟨o, op, rest⟩ := met
  exact ⟨o, (h.getOp q idx hp).trans op, rest⟩

/-- The writes that follow, in this module and in host memory, end as soon as the operation has met a failure. -/
theorem writeAfter_local {cs : List Chunk} (near : NoRemote (chunkSpans cs)) {q : Nat} {idx : U32} {st : Status} {detail : Nat} {s : State}
    (met : Met q idx st detail s) :
    Wrote (chunkSpans cs) s (writeAfter q idx cs s) ∧ Met q idx st detail (writeAfter q idx cs s) := by
  induction cs generalizing s with
  | nil => exact ⟨Wrote.refl s, met⟩
  | cons c r ih =>
    obtain ⟨o, op, none_, status, same⟩ := met
    have first := writeChunk_local (near (c.addr, c.data.length) (by simp [chunkSpans])) q idx false
      (modOp q idx (fun o => { o with after := r }) s)
    have marked : Met q idx st detail (modOp q idx (fun o => { o with after := r }) s) :=
      ⟨_, getOp_modOp_same q idx (fun o => { o with after := r }) s o (fun _ => rfl) op, none_, status, same⟩
    simp only [writeAfter, op, none_, and_true]
    split
    · obtain ⟨wrote, rest⟩ := ih (fun p mem => near p (by simp_all [chunkSpans])) ((poke_keeps c.addr c.data c.poison _).met marked)
      rw [first]
      exact ⟨(Wrote.of_keeps (modOp_keeps q idx _ s)).trans ((poke_wrote _ _ _ _).trans wrote), rest⟩
    · exact ⟨⟨Keeps.refl _ s, fun _ _ _ => rfl⟩, o, op, none_, status, same⟩

theorem awaitOrEnd_local {q : Nat} {idx : U32} {st : Status} {detail : Nat} {s : State} (met : Met q idx st detail s) {cs : List Chunk}
    (after_ : ((getOp s q idx).map (·.after)).getD [] = cs) (near : NoRemote (chunkSpans cs)) :
    Wrote (chunkSpans cs) s (awaitOrEnd q idx s) ∧ Ended q idx st detail (awaitOrEnd q idx s) := by
  obtain ⟨wrote, o, op, none_, status, same⟩ := writeAfter_local near met
  have ends : awaitOrEnd q idx s = finishOp q idx st detail (writeAfter q idx cs s) := by
    simp only [awaitOrEnd, after_, op, none_, List.isEmpty_nil, if_true, status, same]
  rw [ends]
  refine ⟨?_, ended_finishOp q idx st detail _ o op⟩
  have last := wrote.trans (Wrote.of_keeps (finishOp_keeps q idx st detail (writeAfter q idx cs s)))
  rwa [List.append_nil] at last

/-- The first parts of `commit`: sticky bits, free bytes used and undefined spans. -/
def leaveUndefined (r : DataRes) (s : State) : State :=
  r.undef.foldl (fun s u => scramble u.1 u.2 s) { s with sticky := s.sticky ||| r.sticky, free := s.free + r.used }

theorem leaveUndefined_keeps (r : DataRes) (s : State) : Keeps (.sticky :: writeParts) s (leaveUndefined r s) := by
  refine Keeps.trans ?_ ((scrambles_keeps r.undef _).mono (by decide))
  intro p hp; cases p <;> simp_all [Same]

theorem leaveUndefined_sticky (r : DataRes) (s : State) : (leaveUndefined r s).sticky = s.sticky ||| r.sticky :=
  (scrambles_keeps r.undef { s with sticky := s.sticky ||| r.sticky, free := s.free + r.used }).part .sticky

/-- The operation carries the result's status, detail and later writes. -/
def marked (q : Nat) (idx : U32) (r : DataRes) (s : State) : State :=
  modOp q idx (fun o => { o with status := r.status, detail := r.detail, after := r.after }) s

theorem commit_eq (q : Nat) (idx : U32) (light : Bool) (r : DataRes) (s : State) :
    commit q idx light r s =
      awaitOrEnd q idx (r.writes.foldl (fun s c => writeChunk q idx light c s) (marked q idx r (leaveUndefined r s))) := rfl

theorem noRemote_of_outSpans {r : DataRes} {s : State} (near : Local (outSpans r) s) :
    NoRemote (chunkSpans r.writes) ∧ NoRemote (chunkSpans r.after) := by
  constructor <;> refine fun p mem => (near p ?_).1
  · simp only [outSpans, chunkSpans, List.map_append, List.mem_append] at mem ⊢
    exact .inl (.inl mem)
  · simp only [outSpans, chunkSpans, List.map_append, List.mem_append] at mem ⊢
    exact .inl (.inr mem)

/-- A result whose spans are local is applied, and its operation ends (R434). -/
theorem commit_applies {q : Nat} {idx : U32} {r : DataRes} {s : State} (listed : Listed q idx s) (unasked : Unasked q idx s)
    (near : Local (outSpans r) s) (light : Bool) :
    Ended q idx r.status r.detail (commit q idx light r s) ∧ (commit q idx light r s).sticky = s.sticky ||| r.sticky ∧
      Keeps (.sticky :: dataParts) s (commit q idx light r s) ∧
      (NeverMiscorrects → ∀ a, Outside (outSpans r) a → bget (commit q idx light r s).hbm a = bget s.hbm a) := by
  obtain ⟨o, op⟩ := listed
  obtain ⟨nearWrites, nearAfter⟩ := noRemote_of_outSpans near
  have first := leaveUndefined_keeps r s
  have undef : Wrote r.undef { s with sticky := s.sticky ||| r.sticky, free := s.free + r.used } (leaveUndefined r s) := scrambles_wrote r.undef _
  have op' : getOp (marked q idx r (leaveUndefined r s)) q idx = some { o with status := r.status, detail := r.detail, after := r.after } :=
    getOp_modOp_same q idx _ _ o (fun _ => rfl) ((first.getOp q idx).trans op)
  have mark : Wrote [] (leaveUndefined r s) (marked q idx r (leaveUndefined r s)) := Wrote.of_keeps (modOp_keeps q idx _ _)
  obtain ⟨writes, kept⟩ := writeChunks_local nearWrites q idx light (marked q idx r (leaveUndefined r s))
  have op'' := (kept.getOp q idx).trans op'
  obtain ⟨rest, ended⟩ := awaitOrEnd_local (cs := r.after) ⟨_, op'', unasked o op, rfl, rfl⟩ (by rw [op'']; rfl) nearAfter
  have all := mark.trans (writes.trans rest)
  rw [commit_eq]
  refine ⟨ended, ?_, ?_, fun code a out => ?_⟩
  · exact (all.frame.part .sticky).trans (leaveUndefined_sticky r s)
  · exact (first.mono (by decide)).trans (all.frame.mono (by decide))
  · refine (all.hbm code a fun p mem => out p ?_).trans (undef.hbm code a fun p mem => out p (List.mem_append_right _ mem))
    refine List.mem_append_left _ ?_
    simpa [chunkSpans] using mem

theorem commitUp_local {q : Nat} {idx : U32} {r : DataRes} {s : State} (near : Local (outSpans r) s) (light : Bool) :
    commitUp q idx light r s = commit q idx light r s := by
  refine if_neg fun fails => ?_
  obtain ⟨some_, down⟩ := Bool.and_eq_true_iff.1 fails
  obtain ⟨c, mem, host⟩ := List.any_eq_true.1 some_
  have up := (near (c.addr, c.data.length) (List.mem_append_left _ (List.mem_map_of_mem mem))).2 host
  simp [up] at down

theorem remoteSpans_local {reads : List (LAddr × Nat)} (near : NoRemote reads) (s : State) (cache : Option Nat) :
    remoteSpans s cache reads = [] ∧ sharedReqs s cache reads = [] := by
  have none_ (die : Nat) : reads.flatMap (missedLines s die) = [] := by
    refine List.flatMap_eq_nil_iff.2 fun r mem => List.filterMap_eq_nil_iff.2 fun l line => ?_
    have here := near r mem
    obtain ⟨a, n⟩ := r
    simp only [linesOf] at line
    split at line
    · cases line
    · obtain ⟨k, -, rfl⟩ := List.mem_map.1 line
      cases a with
      | remote m x => cases here
      | hbm x => rfl
      | host x => rfl
      | sram v x => rfl
  cases cache with
  | some die => simp [remoteSpans, sharedReqs, none_, lineRuns]
  | none =>
    refine ⟨List.filterMap_eq_nil_iff.2 fun r mem => ?_, rfl⟩
    have here := near r mem
    obtain ⟨a, n⟩ := r
    cases a with
    | remote m x => cases here
    | hbm x => rfl
    | host x => rfl
    | sram v x => rfl

theorem withData_local {q : Nat} {idx : U32} {reads : List (LAddr × Nat)} {s : State} (listed : Listed q idx s) (near : Local reads s)
    (cache : Option Nat) (light : Bool) (outs : State → List (LAddr × Nat)) (k : State → State) :
    withData q idx cache light reads outs k s =
      k (reads.foldl (fun u r => touch (whoOf q (descOf s q idx)) r.1 r.2 u) s) := by
  obtain ⟨o, op⟩ := listed
  obtain ⟨spans, shared⟩ := remoteSpans_local (fun r mem => (near r mem).1) s cache
  have up : ¬ ((reads.any fun r => isHost r.1 && r.2 != 0) && !hostUp s) = true := by
    intro fails
    obtain ⟨some_, down⟩ := Bool.and_eq_true_iff.1 fails
    obtain ⟨r, mem, host⟩ := List.any_eq_true.1 some_
    have up := (near r mem).2 (Bool.and_eq_true_iff.1 host).1
    simp [up] at down
  simp only [withData, op, spans, shared, ite_self, List.isEmpty_nil, Bool.and_self, Bool.not_true, Bool.false_eq_true, if_false, if_neg up,
    descOf_listed op]

theorem fillHost_keeps (cache : Option Nat) (reads : List (LAddr × Nat)) (s : State) : Keeps [.lines, .free] s (fillHost cache reads s) := by
  cases cache with
  | none => exact Keeps.refl _ s
  | some die => exact Keeps.foldl _ (fun s (r : LAddr × Nat) => fillLines_keeps die r.1 r.2 s) _ s

/-- The parts in which the state that an operation computes in may differ from the one before its reads. -/
theorem afterReads_keeps (q : Nat) (idx : U32) (cache : Option Nat) (reads : List (LAddr × Nat)) (s : State) :
    Keeps (.lines :: readParts) s (afterReads q idx cache reads s) :=
  ((Keeps.foldl _ (fun u r => touch_keeps _ r.1 r.2 u) reads s).mono (by decide)).trans ((fillHost_keeps cache reads _).mono (by decide))

theorem cacheView_keeps (die : Nat) (s : State) : Keeps [.fabric, .host, .hostPoison] s (cacheView die s) := by
  refine Keeps.foldl _ (fun s l => ?_) _ s
  split <;> intro p hp <;> cases p <;> simp_all [Same]

theorem viewOf_keeps (cache : Option Nat) (s : State) : Keeps [.fabric, .host, .hostPoison] s (viewOf cache s) := by
  cases cache with
  | none => exact Keeps.refl _ s
  | some die => exact cacheView_keeps die s

theorem runData_local {q : Nat} {idx : U32} {reads : List (LAddr × Nat)} {s : State} (listed : Listed q idx s) (near : Local reads s)
    (cache : Option Nat) (light : Bool) (compute : State → DataRes) :
    runData q idx cache light reads compute s =
      commitUp q idx light (compute (viewOf cache (afterReads q idx cache reads s))) (afterReads q idx cache reads s) :=
  withData_local listed near cache light _ _

/-- A command that runs a data operation by `runData` runs it as stated, where the code never miscorrects. -/
theorem runsData_of_runData {i : Instr} {q : Nat} {idx : U32} {cls code : Nat} {cacheable : State → Bool} {reads : State → List (LAddr × Nat)}
    {result : State → DataRes} (never : NeverMiscorrects) (light : State → Bool) (compute : State → State → DataRes)
    (run : ∀ s, Awake s → opReady s q idx cls code = true →
      exec i s = .next (runData q idx (cacheOf s q idx (cacheable s)) (light s) (reads s) (compute s) s))
    (same : ∀ s u, getOp u q idx = getOp s q idx → compute s u = result u) : RunsData i q idx cls code cacheable reads result := by
  intro s awake ready unasked near cache u r nearOut
  have listed := listed_of_opReady ready
  have kept := afterReads_keeps q idx cache (reads s) s
  have result_ : compute s (viewOf cache u) = r := same s _ (((viewOf_keeps cache u).getOp q idx).trans (kept.getOp q idx))
  obtain ⟨ended, sticky, frame, hbm⟩ := commit_applies (kept.listed listed) (kept.unasked unasked) nearOut (light s)
  refine ⟨commit q idx (light s) r u, ?_, ended, sticky, fun _ => hbm never, frame.mono (by decide)⟩
  rw [run s awake ready, runData_local listed near, result_, commitUp_local nearOut]

/-- A command on an awake module. -/
theorem next_live {s : State} (awake : Awake s) (f : State → State) :
    (.next (live f s) : Host.Outcome State Fault Refusal) = .next (f s) := congrArg Host.Outcome.next (live_awake awake f)

section
variable (q : Nat) (idx : U32) (never : NeverMiscorrects)
include never

/-- A vat operation whose vat does not fail. -/
theorem runsVat {i : Instr} {code : Nat} {reads : State → List (LAddr × Nat)} {compute : State → DataRes}
    (run : ∀ s, exec i s = .next (live (fun s => if opReady s q idx 0 code = true then runVat q idx none (reads s) compute s else s) s)) :
    RunsData i q idx 0 code (fun _ => false) reads compute :=
  runsData_of_runData never (fun _ => false) (fun _ => compute)
    (fun s awake ready => (run s).trans ((next_live awake _).trans (congrArg Host.Outcome.next (if_pos ready)))) (fun _ _ _ => rfl)

theorem runsTransfer : RunsData (.transfer q idx) q idx 1 1 (fun s => bit (trOf (descOf s q idx)).flags 0)
    (fun s => trReads s (trOf (descOf s q idx))) (fun u => trResult u (trOf (descOf u q idx)) (slotOf u q idx)) := by
  refine runsData_of_runData never (fun s => trLight s (trOf (descOf s q idx)))
    (fun s u => trResult u (trOf (descOf s q idx)) (slotOf u q idx))
    (fun _ awake ready => (next_live awake _).trans (congrArg Host.Outcome.next (if_pos ready))) (fun s u same => ?_)
  simp only [descOf, same]

theorem runsGather : RunsData (.gather q idx) q idx 1 2 (fun s => bit (gaOf (descOf s q idx)).flags 1)
    (fun s => gaReads s (gaOf (descOf s q idx))) (fun u => gaResult u (gaOf (descOf u q idx)) (slotOf u q idx)) := by
  refine runsData_of_runData never (fun _ => false) (fun s u => gaResult u (gaOf (descOf s q idx)) (slotOf u q idx))
    (fun _ awake ready => (next_live awake _).trans (congrArg Host.Outcome.next (if_pos ready))) (fun s u same => ?_)
  simp only [descOf, same]

end

/-! ### What the range coders and the index change -/

/-- The parts that a range coder or an index operation may change: never a queue. -/
abbrev coderParts : List Part := [.rc, .culture, .index, .svc] ++ writeParts

theorem closeCtx_keeps (c : Nat) (s : State) : Keeps coderParts s (closeCtx c s) :=
  ((modEngine_keeps _ _ s).mono (by decide)).trans ((retireCulture_keeps _).mono (by decide))

theorem loopMismatch_keeps (enc chk level q : Nat) (cause : Status) (scratch : Nat) (d : List Byte) (s : State) :
    Keeps coderParts s (loopMismatch enc chk level q cause scratch d s) :=
  ((modEngine_keeps _ _ s).mono (by decide)).trans (((modEngine_keeps _ _ _).mono (by decide)).trans ((errRecord_keeps _ _).mono (by decide)))

theorem loseCheck_keeps (chk t : Nat) (cause : Status) (s : State) : Keeps coderParts s (loseCheck chk t cause s) := by
  unfold loseCheck
  split
  · exact Keeps.refl _ s
  · exact (loopMismatch_keeps _ _ _ _ _ _ _ s).trans (closeCtx_keeps _ _)

theorem noteCorrupt_coder (n : Nat) (st : Status) (s : State) : Keeps coderParts s (noteCorrupt n st s) :=
  (noteCorrupt_keeps n st s).mono (by decide)

theorem setCtx_coder (c : Nat) (x : Ctx) (s : State) : Keeps coderParts s (setCtx c x s) := (setCtx_keeps c x s).mono (by decide)

theorem failCtx_keeps (c : Nat) (x : Ctx) (st : Status) (s : State) : Keeps coderParts s (failCtx c x st s) :=
  (setCtx_coder c _ s).trans ((noteCorrupt_coder _ st _).trans ((retireCulture_keeps _).mono (by decide)))

theorem rcBegin_keeps (owner gen : Nat) (d : List Byte) (s : State) : Keeps coderParts s (rcBegin owner gen d s).1 := by
  have fails (c t : Nat) (st : Status) (chk : Option Ctx) :
      Keeps coderParts s (if chk.isSome then loseCheck c t st (noteCorrupt c st s) else noteCorrupt c st s, st).1 := by
    dsimp only
    split
    · exact (noteCorrupt_coder c st s).trans (loseCheck_keeps _ _ _ _)
    · exact noteCorrupt_coder c st s
  simp only [rcBegin]
  split
  · exact Keeps.refl _ s
  · split
    · exact Keeps.refl _ s
    · split
      · exact Keeps.refl _ s
      · split
        · exact fails (engineOf (u16 d 16)) (u16 d 18) _ _
        · split
          · exact fails (engineOf (u16 d 16)) (u16 d 18) _ _
          · exact setCtx_coder _ _ s

theorem tableFailure_keeps (who : Who) (n off : Nat) (l : Latent) (s : State) : Keeps coderParts s (tableFailure who n off l s) := by
  have counted := modMem_keeps (fun m => { m with sramUe := satAdd (2 ^ 32 - 1) m.sramUe 1 })
    (modEngine n (fun e => { e with offline := true, tableUncorr := satAdd 255 e.tableUncorr 1 }) s)
  exact (((modEngine_keeps _ _ s).mono (by decide)).trans (counted.mono (by decide))).trans
    (((sramRecord_keeps _ _ _ _ _ _ _ _ _).mono (by decide)).trans ((unitUncorr_keeps _ _).mono (by decide)))

theorem tableRead_keeps (who : Who) (n gen : Nat) (e : ModelEntry) (fault : Bool) (s : State) :
    Keeps coderParts s (tableRead who n gen e fault s).1 := by
  have counted (s : State) : Keeps coderParts s { s with free := s.free + 1 } := by intro p hp; cases p <;> simp_all [Same]
  have ended := modMem_keeps (fun m => { m with sramLatent := m.sramLatent.filter fun x => !(tableErrors s n gen e).contains x }) s
  have each (s : State) (x : Nat × Nat × Nat × Latent) : Keeps coderParts s
      (if x.2.2.2.mark || decide (1 < x.2.2.2.symbols) then tableFailure who n x.2.2.1 x.2.2.2 s
       else correctSram 3 n x.2.2.1 who x.2.2.2 s) := by
    split
    · exact tableFailure_keeps _ _ _ _ s
    · exact (correctSram_keeps _ _ _ _ _ s).mono (by decide)
  have found := (ended.mono (qs := coderParts) (by decide)).trans (Keeps.foldl _ each (tableErrors s n gen e) _)
  simp only [tableRead]
  split
  · exact found.trans ((counted _).trans (tableFailure_keeps _ _ _ _ _))
  · exact found

theorem touch_coder (who : Who) (a : LAddr) (len : Nat) (s : State) : Keeps coderParts s (touch who a len s) :=
  (touch_keeps who a len s).mono (by decide)

theorem rcPass_keeps (owner : Nat) (fault : Bool) (d : List Byte) (s : State) : Keeps coderParts s (rcPass owner fault d s).1 := by
  unfold rcPass
  split
  · exact Keeps.refl _ s
  · rename_i x _
    have read := tableRead_keeps (whoOf owner d) (engineOf (u16 d 16)) x.generation (ctxEntry s x) fault s
    dsimp only
    generalize tableRead _ _ _ _ _ s = t at read ⊢
    obtain ⟨t, lost⟩ := t
    have fails (st : Status) (v : State) := failCtx_keeps (u16 d 16) x st v
    dsimp only at read ⊢
    generalize (if u16 d 20 = 0 then ([] : List (List Byte)) else _) = raw
    split
    · exact read.trans (fails _ _)
    · split
      · exact read.trans (fails _ _)
      · split
        · exact read.trans (fails _ _)
        · split
          · exact read.trans (fails _ _)
          · split
            · exact (read.trans (touch_coder _ _ _ _)).trans (fails _ _)
            · split
              · exact (read.trans (touch_coder _ _ _ _)).trans (fails _ _)
              · exact (read.trans (touch_coder _ _ _ _)).trans (setCtx_coder _ _ _)

theorem index_keeps (f : Index) (s : State) : Keeps coderParts s { s with index := f } := by
  intro p hp; cases p <;> simp_all [Same]

theorem addFill_keeps (table : Nat) (n : Int) (s : State) : Keeps coderParts s (addFill table n s) := by
  unfold addFill
  split <;> exact index_keeps _ s

theorem noteInsert_keeps (table : Nat) (s : State) : Keeps coderParts s (noteInsert table s) := by
  unfold noteInsert
  split
  · exact index_keeps _ s
  · exact Keeps.refl _ s

theorem probeAll_keeps (who : Who) (table key : Nat) (s : State) : Keeps coderParts s (probeAll who table key s).1 :=
  (Keeps.foldl _ (fun s a => touchHbm_keeps who a 256 s) _ s).mono (by decide)

theorem writeHbm_coder (a : Nat) (data : List Byte) (flags : List Bool) (s : State) : Keeps coderParts s (writeHbm a data flags s) :=
  (writeHbm_keeps a data flags s).mono (by decide)

theorem putEntryIn_keeps (who : Who) (table : Nat) (e : List Byte) (s : State) : Keeps coderParts s (putEntryIn who table e s).1 := by
  have probed := probeAll_keeps who table (entKey e) s
  unfold putEntryIn
  generalize probeAll who table (entKey e) s = t at probed ⊢
  obtain ⟨t, bad, es⟩ := t
  dsimp only at probed ⊢
  split
  · exact probed
  · split
    · exact (probed.trans (writeHbm_coder _ _ _ _)).trans (noteInsert_keeps _ _)
    · split
      · exact ((probed.trans (writeHbm_coder _ _ _ _)).trans (addFill_keeps _ _ _)).trans (noteInsert_keeps _ _)
      · exact probed

theorem deleteIn_keeps (who : Who) (table key : Nat) (s : State) : Keeps coderParts s (deleteIn who table key s).1 := by
  have probed := probeAll_keeps who table key s
  unfold deleteIn
  generalize probeAll who table key s = t at probed ⊢
  obtain ⟨t, bad, es⟩ := t
  dsimp only at probed ⊢
  split
  · exact probed
  · split
    · exact ((probed.trans (writeHbm_coder _ _ _ _)).trans (addFill_keeps _ _ _)).trans (noteInsert_keeps _ _)
    · exact probed

theorem lookupBucket_keeps (who : Who) (table key i : Nat) (s : State) : Keeps coderParts s (lookupBucket who table key i s).1 := by
  have read := (touchHbm_keeps who (probeAddr table key i) 256 s).mono (qs := coderParts) (by decide)
  unfold lookupBucket
  dsimp only
  split
  · exact read
  · split
    · exact read
    · split <;> exact read

theorem lookupKey_keeps (who : Who) (table key : Nat) (s : State) : Keeps coderParts s (lookupKey who table key s).1 := by
  unfold lookupKey
  generalize 16 = n
  generalize 0 = i
  induction n generalizing i s with
  | zero => exact Keeps.refl _ s
  | succ n ih =>
    have first := lookupBucket_keeps who table key i s
    unfold lookupFrom
    generalize lookupBucket who table key i s = t at first ⊢
    obtain ⟨t, r⟩ := t
    cases r with
    | some r => exact first
    | none => exact first.trans (ih t (i + 1))

theorem releaseWheel_keeps (q : Nat) (d w : List Byte) (words escaped : Nat) (s : State) :
    Keeps coderParts s (releaseWheel q d w words escaped s).1 := by
  unfold releaseWheel
  dsimp only
  split
  · exact putEntryIn_keeps _ _ _ s
  · exact Keeps.refl _ s

theorem endCheck_keeps (c t : Nat) (failed : Option Status) (digest : List Byte) (dest : List Chunk) (s : State) :
    Keeps coderParts s (endCheck c t failed digest dest s).1 := by
  simp only [endCheck]
  split
  · exact Keeps.refl _ s
  · rename_i x _
    split
    · exact loseCheck_keeps _ _ _ s
    · exact (closeCtx_keeps t s).trans (releaseWheel_keeps x.queue x.desc x.wheel (wheelOf x.wheel).words x.word _)

theorem rcEnd_keeps (owner : Nat) (d : List Byte) (s : State) : Keeps coderParts s (rcEnd owner d s).1 := by
  simp only [rcEnd]
  split
  · exact Keeps.refl _ s
  · split
    · exact Keeps.refl _ s
    · split
      · split
        · exact (closeCtx_keeps _ s).trans (endCheck_keeps _ _ _ _ _ _)
        · exact closeCtx_keeps _ s
      · split
        · exact Keeps.refl _ s
        · split
          · exact Keeps.refl _ s
          · generalize finalOk _ _ _ = good
            have closed : Keeps coderParts s
                (closeCtx (u16 d 16) (if good = true then s else noteCorrupt (engineOf (u16 d 16)) .wheelCorrupt s)) := by
              refine Keeps.trans ?_ (closeCtx_keeps _ _)
              split
              · exact Keeps.refl _ s
              · exact noteCorrupt_coder _ _ s
            split
            · exact closed.trans (endCheck_keeps _ _ _ _ _ _)
            · cases good <;> exact closed

theorem rcEncode_keeps (inPlan : Bool) (owner gen : Nat) (fault : Bool) (d : List Byte) (s : State) :
    Keeps coderParts s (rcEncode inPlan owner gen fault d s).1 := by
  unfold rcEncode
  dsimp only
  split
  · exact Keeps.refl _ s
  · split
    · exact Keeps.refl _ s
    · split
      · exact Keeps.refl _ s
      · rename_i e _
        split
        · exact Keeps.refl _ s
        · have read := tableRead_keeps (whoOf owner d) (engineOf (u16 d 16)) gen e fault s
          generalize tableRead _ _ _ _ _ s = t at read ⊢
          obtain ⟨t, lost⟩ := t
          dsimp only at read ⊢
          generalize encodeWheel _ _ _ = coded
          obtain ⟨w, words, escaped⟩ := coded
          dsimp only
          split
          · exact read
          · split
            · exact read
            · split
              · exact read.trans (releaseWheel_keeps owner d w words escaped t)
              · split
                · exact read.trans (setCtx_coder _ _ _)
                · split
                  · exact read
                  · exact read.trans (setCtx_coder _ _ _)

theorem rcCheck_keeps (k : Nat) (inPlan : Bool) (d : List Byte) (s : State) : Keeps coderParts s (rcCheck k inPlan d s).1 := by
  unfold rcCheck
  split
  · exact Keeps.refl _ s
  · rename_i x _
    dsimp only
    have read := tableRead_keeps (whoOf x.queue d) (engineOf k) x.generation
      (((entriesOf s x.generation).find? fun e => e.id == (ewParams s d).model).getD default) false s
    generalize tableRead _ _ _ _ _ s = t at read ⊢
    obtain ⟨t, lost⟩ := t
    dsimp only at read ⊢
    split
    · exact (read.trans (closeCtx_keeps _ _)).trans (releaseWheel_keeps _ _ _ _ _ _)
    · exact ((read.trans (closeCtx_keeps _ _)).trans (noteCorrupt_coder _ _ _)).trans (loopMismatch_keeps _ _ _ _ _ _ _ _)

/-! ### A vat that fails (R228, R537) -/

theorem alookup_map_set {u : UnitId} {v : Svc} {l : List (UnitId × Svc)} (listed : l.any (fun p => p.1 == u) = true) :
    alookup (l.map fun p => if p.1 == u then (u, v) else p) u = some v := by
  induction l with
  | nil => cases listed
  | cons p r ih =>
    by_cases here : p.1 = u
    · simp [alookup, here]
    · have later : r.any (fun p => p.1 == u) = true := by simpa [here] using listed
      simpa [alookup, here] using ih later

theorem alookup_append_set {u : UnitId} {v : Svc} {l : List (UnitId × Svc)} (unlisted : l.any (fun p => p.1 == u) = false) :
    alookup (l ++ [(u, v)]) u = some v := by
  have none_ : l.find? (fun p => p.1 == u) = none := List.find?_eq_none.2 fun p mem here => by
    rw [List.any_eq_true.2 ⟨p, mem, here⟩] at unlisted
    cases unlisted
  simp [alookup, List.find?_append, none_]

theorem getSvc_setSvc (u : UnitId) (v : Svc) (s : State) : getSvc (setSvc u v s) u = v := by
  have found : alookup (aset s.svc u v) u = some v := by
    unfold aset
    split
    · rename_i listed
      exact alookup_map_set listed
    · rename_i unlisted
      exact alookup_append_set (Bool.eq_false_of_not_eq_true unlisted)
  rw [getSvc, setSvc_svc, found, Option.getD_some]

theorem Keeps.getSvc {ps : List Part} {s t : State} (h : Keeps ps s t) (u : UnitId) (hp : Part.svc ∉ ps := by decide) :
    getSvc t u = getSvc s u := by
  have svc : t.svc = s.svc := h .svc hp
  simp only [Machine.getSvc, svc]

theorem suspect_suspect (u : UnitId) (cause : Nat) (s : State) : (getSvc (suspect u cause s) u).suspect = true := by
  rw [suspect, (raise_keeps _ _ _ _).getSvc u, getSvc_setSvc]

theorem vatFailure_fails {q : Nat} {idx : U32} {s : State} (listed : Listed q idx s) (vat : Nat) (outs : List (LAddr × Nat)) :
    Ended q idx .uncorrectable 0 (vatFailure q idx vat outs s) ∧
      (getSvc (vatFailure q idx vat outs s) { cls := 0, num := vat }).suspect = true := by
  obtain ⟨r, u, shape, kept⟩ : ∃ r u, vatFailure q idx vat outs s =
      finishOp q idx .uncorrectable 0 (unitUncorr { cls := 0, num := vat } (errRecord r u)) ∧ Keeps writeParts s u := by
    refine ⟨_, _, rfl, (scrambles_keeps outs s).trans ?_⟩
    generalize outs.foldl (fun s o => scramble o.1 o.2 s) s = t
    intro p hp; cases p <;> simp_all [Same]
  obtain ⟨o, op⟩ := (unitUncorr_keeps { cls := 0, num := vat } _).listed ((errRecord_keeps r u).listed (kept.listed listed))
  rw [shape]
  refine ⟨ended_finishOp q idx _ _ _ o op, ?_⟩
  rw [(finishOp_keeps _ _ _ _ _).getSvc]
  exact suspect_suspect _ _ _

theorem runVat_fails {q : Nat} {idx : U32} {vat : Nat} {s : State} (exists_ : vat < 160) (listed : Listed q idx s)
    (reads : List (LAddr × Nat)) (compute : State → DataRes) :
    Ended q idx .uncorrectable 0 (runVat q idx (some vat) reads compute s) ∧
      (getSvc (runVat q idx (some vat) reads compute s) { cls := 0, num := vat }).suspect = true := by
  simp only [runVat, if_pos exists_]
  exact vatFailure_fails listed vat _

/-- An operation of a vat that fails in it. -/
theorem vatRow_fails {i : Instr} {q : Nat} {idx : U32} {code vat : Nat} {s : State} (exists_ : vat < 160) (ready : opReady s q idx 0 code = true)
    {reads : List (LAddr × Nat)} {compute : State → DataRes} (run : exec i s = .next (runVat q idx (some vat) reads compute s)) :
    ∃ t, exec i s = .next t ∧ Ended q idx .uncorrectable 0 t ∧ (getSvc t { cls := 0, num := vat }).suspect = true :=
  ⟨_, run, runVat_fails exists_ (listed_of_opReady ready) reads compute⟩

theorem vatRows_fail {q : Nat} {idx : U32} {vat : Nat} {s : State} (awake : Awake s) (exists_ : vat < 160) (row : Instr × Nat)
    (mem : row ∈ [(Instr.matmul q idx (some vat), 0x10), (.attention q idx (some vat), 0x11), (.conv q idx (some vat), 0x12),
        (.resample q idx (some vat), 0x13), (.func q idx (some vat), 0x14), (.norm q idx (some vat), 0x15), (.softmax q idx (some vat), 0x16)])
    (ready : opReady s q idx 0 row.2 = true) :
    ∃ t, exec row.1 s = .next t ∧ Ended q idx .uncorrectable 0 t ∧ (getSvc t { cls := 0, num := vat }).suspect = true := by
  have run {f : State → State} {reads : List (LAddr × Nat)} {compute : State → DataRes}
      (run : f s = runVat q idx (some vat) reads compute s) :
      (.next (live f s) : Host.Outcome State Fault Refusal) = .next (runVat q idx (some vat) reads compute s) :=
    (next_live awake f).trans (congrArg _ run)
  simp only [List.mem_cons, List.not_mem_nil, or_false] at mem
  rcases mem with rfl | rfl | rfl | rfl | rfl | rfl | rfl <;> exact vatRow_fails exists_ ready (run (if_pos ready))

/-! ### Range coding (R128-R135) -/

theorem opReady_of_rcReady {s : State} {q : Nat} {idx : U32} {opcode : Nat} (ready : rcReady s q idx opcode = true) :
    opReady s q idx 2 opcode = true := by
  simp only [rcReady, Bool.and_eq_true] at ready
  exact ready.1.1.1

theorem ended_unbindOp {q : Nat} {idx : U32} {st : Status} {detail : Nat} {s : State} (ended : Ended q idx st detail s) :
    Ended q idx st detail (unbindOp q idx s) := by
  obtain ⟨o, op, rest⟩ := ended
  exact (retireCulture_keeps _).ended ⟨_, getOp_modOp_same q idx (fun o => { o with bound := false }) s o (fun _ => rfl) op, rest⟩

theorem readFor_keeps (q : Nat) (idx : U32) (reads : List (LAddr × Nat)) (s : State) :
    Keeps coderParts s (afterReads q idx none reads s) :=
  (Keeps.foldl _ (fun u (r : LAddr × Nat) => touch_keeps _ r.1 r.2 u) reads s).mono (by decide)

section
variable {q : Nat} {idx : U32} {s : State} (awake : Awake s)
include awake

theorem decodeBegin_ends (ready : rcReady s q idx 1 = true) (near : Local (dbReads s q (descOf s q idx)) s) :
    let u := afterReads q idx none (dbReads s q (descOf s q idx)) s
    ∃ t, exec (.decodeBegin q idx) s = .next t ∧ Ended q idx (rcBegin q (opGen u q idx) (descOf u q idx) u).2 0 t := by
  intro u
  have listed := listed_of_opReady (opReady_of_rcReady ready)
  have read := readFor_keeps q idx (dbReads s q (descOf s q idx)) s
  have same : descOf u q idx = descOf s q idx := read.descOf q idx
  obtain ⟨o, op⟩ := (rcBegin_keeps q (opGen u q idx) (descOf s q idx) u).listed (read.listed listed)
  have run : execDecodeBeginOp q idx s = unbindOp q idx (finishOp q idx (rcBegin q (opGen u q idx) (descOf s q idx) u).2 0
      (rcBegin q (opGen u q idx) (descOf s q idx) u).1) := (if_pos ready).trans (withData_local listed near none false _ _)
  rw [same]
  exact ⟨_, (next_live awake _).trans (congrArg _ run), ended_unbindOp (ended_finishOp _ _ _ _ _ o op)⟩

theorem decodePass_ends (fault : Bool) (ready : rcReady s q idx 2 = true) (unasked : Unasked q idx s)
    (near : Local (dpReads s q (descOf s q idx)) s) :
    let p := rcPass q fault (descOf s q idx) (afterReads q idx none (dpReads s q (descOf s q idx)) s)
    Local (outSpans p.2) p.1 → ∃ t, exec (.decodePass q idx fault) s = .next t ∧ Ended q idx p.2.status p.2.detail t := by
  intro p nearOut
  have listed := listed_of_opReady (opReady_of_rcReady ready)
  have kept := (readFor_keeps q idx (dpReads s q (descOf s q idx)) s).trans (rcPass_keeps q fault (descOf s q idx) _)
  have run : execDecodePassOp q idx fault s = commitUp q idx false p.2 p.1 := (if_pos ready).trans (withData_local listed near none false _ _)
  rw [commitUp_local nearOut] at run
  exact ⟨_, (next_live awake _).trans (congrArg _ run), (commit_applies (kept.listed listed) (kept.unasked unasked) nearOut false).1⟩

theorem decodeEnd_ends (ready : rcReady s q idx 3 = true) (unasked : Unasked q idx s) :
    let p := rcEnd q (descOf s q idx) s
    Local (outSpans p.2) p.1 → ∃ t, exec (.decodeEnd q idx) s = .next t ∧ Ended q idx p.2.status p.2.detail t := by
  intro p nearOut
  have listed := listed_of_opReady (opReady_of_rcReady ready)
  have kept := rcEnd_keeps q (descOf s q idx) s
  have run : execDecodeEndOp q idx s = commitUp q idx false p.2 p.1 := if_pos ready
  rw [commitUp_local nearOut] at run
  exact ⟨_, (next_live awake _).trans (congrArg _ run), (commit_applies (kept.listed listed) (kept.unasked unasked) nearOut false).1⟩

theorem encodeCheck_ends (fault : Bool) (k : Nat) (ready : rcReady s q idx 4 = true) (unasked : Unasked q idx s)
    (checks : ownCheck s q (descOf s q idx) = some k) (near : Local (checkReads s k) s) :
    let p := rcCheck k false (descOf s q idx) (afterReads q idx none (checkReads s k) s)
    Local (outSpans p.2) p.1 →
      ∃ t, exec (.encodeWheel q { idx := idx, tableFault := fault }) s = .next t ∧ Ended q idx p.2.status p.2.detail t := by
  intro p nearOut
  have listed := listed_of_opReady (opReady_of_rcReady ready)
  have kept := (readFor_keeps q idx (checkReads s k) s).trans (rcCheck_keeps k false (descOf s q idx) _)
  have run : execEncodeWheelOp q idx fault s = encodeEnds q idx (descOf s q idx) (commitUp q idx false p.2 p.1) := by
    refine (if_pos ready).trans (congrArg (encodeEnds q idx (descOf s q idx)) ?_)
    simp only [checks]
    exact withData_local listed near none false _ _
  rw [commitUp_local nearOut] at run
  exact ⟨_, (next_live awake _).trans (congrArg _ run),
    encodeEnds_ended _ (commit_applies (kept.listed listed) (kept.unasked unasked) nearOut false).1⟩

end

theorem ready_running {s : State} {q : Nat} {idx : U32} {cls opcode : Nat} (ready : opReady s q idx cls opcode = true) :
    ∃ o, getOp s q idx = some o ∧ o.phase = .running := by
  obtain ⟨o, op⟩ := listed_of_opReady ready
  simp only [opReady, op, Bool.and_eq_true, beq_iff_eq] at ready
  exact ⟨o, op, ready.1.1.2⟩

/-- The write of a staged wheel in this module: the operation goes on, or ends with the failure that it had met. -/
theorem stageWheel_local {q : Nat} {idx : U32} {r : DataRes} {s : State} (near : Local (outSpans r) s) {o : Op} (op : getOp s q idx = some o)
    (runs : o.phase = .running) (none_ : o.reqs = []) :
    ((∃ p, getOp (stageWheel q idx r s) q idx = some p ∧ p.phase = .running) ∧ Keeps dataParts s (stageWheel q idx r s)) ∨
      ∃ st, Ended q idx st 0 (stageWheel q idx r s) := by
  have up : ¬ ((r.writes.any fun c => isHost c.addr) && !hostUp s) = true := by
    intro fails
    obtain ⟨some_, down⟩ := Bool.and_eq_true_iff.1 fails
    obtain ⟨c, mem, host⟩ := List.any_eq_true.1 some_
    have up := (near (c.addr, c.data.length) (List.mem_append_left _
      (List.mem_map_of_mem (f := fun c : Chunk => (c.addr, c.data.length)) (List.mem_append_left _ mem)))).2 host
    simp [up] at down
  have fresh := getOp_modOp_same q idx (fun o => { o with remote := false }) s o (fun _ => rfl) op
  obtain ⟨wrote, kept⟩ := writeChunks_local (noRemote_of_outSpans near).1 q idx false (modOp q idx (fun o => { o with remote := false }) s)
  have op' := (kept.getOp q idx).trans fresh
  simp only [stageWheel, if_neg up, op', none_, List.isEmpty_nil, if_true]
  split
  · exact .inr ⟨_, ended_finishOp _ _ _ _ _ _ op'⟩
  · exact .inl ⟨⟨_, op', runs⟩, ((modOp_keeps q idx _ s).mono (by decide)).trans (kept.mono (by decide))⟩

/-- What a LOOKUP gives: the entry at its address where there is one. -/
def lookupResult (a : LAddr) (found : Status × List Byte) : DataRes :=
  { status := found.1, detail := 0, writes := if found.1 = .ok then [byteChunk a found.2 false] else [], sticky := 0 }

section
variable {q : Nat} {idx : U32} {s : State} (awake : Awake s)
include awake

theorem encodeWheel_ends (fault : Bool) (ready : rcReady s q idx 4 = true) (unasked : Unasked q idx s)
    (unchecked : ownCheck s q (descOf s q idx) = none) (near : Local (ewReads s (descOf s q idx)) s) :
    let u := afterReads q idx none (ewReads s (descOf s q idx)) s
    let p := rcEncode false q (opGen u q idx) fault (descOf u q idx) u
    Local (outSpans p.2) p.1 →
    (ownCheck p.1 q (descOf s q idx) = none →
      ∃ t, exec (.encodeWheel q { idx := idx, tableFault := fault }) s = .next t ∧ Ended q idx p.2.status p.2.detail t) ∧
    (∀ k, ownCheck p.1 q (descOf s q idx) = some k → ∃ t, exec (.encodeWheel q { idx := idx, tableFault := fault }) s = .next t ∧
      ((∃ o, getOp t q idx = some o ∧ o.phase = .running ∧ ownCheck t q (descOf s q idx) = some k) ∨ ∃ st, Ended q idx st 0 t)) := by
  intro u p nearOut
  have ready' := opReady_of_rcReady ready
  have listed := listed_of_opReady ready'
  have read := readFor_keeps q idx (ewReads s (descOf s q idx)) s
  have same : descOf u q idx = descOf s q idx := read.descOf q idx
  have kept : Keeps coderParts s p.1 := read.trans (rcEncode_keeps false q _ fault _ u)
  have run : execEncodeWheelOp q idx fault s = encodeEnds q idx (descOf s q idx)
      (if (ownCheck p.1 q (descOf s q idx)).isSome then stageWheel q idx p.2 p.1 else unbindOp q idx (commitUp q idx false p.2 p.1)) := by
    refine (if_pos ready).trans (congrArg (encodeEnds q idx (descOf s q idx)) ?_)
    simp only [unchecked, p, same]
    exact withData_local listed near none false _ _
  have runs := (next_live awake (execEncodeWheelOp q idx fault)).trans (congrArg _ run)
  refine ⟨fun none_ => ?_, fun k found => ?_⟩
  · simp only [none_, Option.isSome_none, Bool.false_eq_true, if_false, commitUp_local nearOut] at runs
    exact ⟨_, runs, encodeEnds_ended _ (ended_unbindOp (commit_applies (kept.listed listed) (kept.unasked unasked) nearOut false).1)⟩
  · simp only [found, Option.isSome_some, if_true] at runs
    refine ⟨_, runs, ?_⟩
    obtain ⟨o, op, running⟩ := ready_running ready'
    rcases stageWheel_local nearOut ((kept.getOp q idx).trans op) running (unasked o op) with ⟨⟨o', op', running'⟩, staged⟩ | ⟨st, ended⟩
    · have goesOn : encodeEnds q idx (descOf s q idx) (stageWheel q idx p.2 p.1) = stageWheel q idx p.2 p.1 := by
        refine if_neg fun done => ?_
        simp [op', running'] at done
      rw [goesOn]
      exact .inl ⟨o', op', running', (staged.ownCheck _ _).trans found⟩
    · exact .inr ⟨st, encodeEnds_ended _ ended⟩

/-! ### The Press (R289-R298) -/

theorem press_ends (inflate : Bool) (ready : opReady s q idx 3 (if inflate then 2 else 1) = true) (unasked : Unasked q idx s)
    (near : Local (prReads s inflate (prOf (descOf s q idx))) s) :
    let u := afterReads q idx none (prReads s inflate (prOf (descOf s q idx))) s
    let r := if inflate then inflateResult u (prOf (descOf s q idx)) else compressResult u (prOf (descOf s q idx))
    Local (outSpans r) u →
    ∃ t, exec (if inflate then .inflate q idx none else .compress q idx none) s = .next t ∧ Ended q idx r.status r.detail t := by
  intro u r nearOut
  have listed := listed_of_opReady ready
  have read := readFor_keeps q idx (prReads s inflate (prOf (descOf s q idx))) s
  have ends := (commit_applies (read.listed listed) (read.unasked unasked) nearOut false).1
  have job : runPress q idx inflate none s = pressEnd q idx (commit q idx false r u) :=
    congrArg (pressEnd q idx) ((runData_local listed near none false _).trans (commitUp_local nearOut false))
  have run : exec (if inflate then .inflate q idx none else .compress q idx none) s = .next (runPress q idx inflate none s) := by
    cases inflate
    · exact (next_live awake _).trans (congrArg _ (if_pos ready))
    · exact (next_live awake _).trans (congrArg _ (if_pos ready))
  exact ⟨_, run.trans (congrArg _ job), (pressEnd_keeps q idx _).ended ends⟩

/-! ### The index (R152-R155) -/

theorem lookup_ends (turn : indexTurn s q idx = true) (ready : opReady s q idx 4 2 = true) (unasked : Unasked q idx s) :
    let p := lookupKey (whoOf q (descOf s q idx)) (opTable s q idx) (u64 (descOf s q idx) 16) s
    Local [(addrOf s (u64 (descOf s q idx) 24), 32)] p.1 → ∃ t, exec (.lookup q idx) s = .next t ∧ Ended q idx p.2.1 0 t := by
  intro p nearOut
  have listed := listed_of_opReady ready
  have kept : Keeps coderParts s p.1 := lookupKey_keeps _ _ _ s
  have near : Local (outSpans (lookupResult (addrOf p.1 (u64 (descOf s q idx) 24)) p.2)) p.1 := by
    rw [kept.addrOf]
    intro x mem
    unfold lookupResult outSpans chunkSpans at mem
    dsimp only at mem
    split at mem
    · simp only [byteChunk, List.append_nil, List.map_cons, List.map_nil, List.mem_singleton] at mem
      subst mem
      exact nearOut (_, 32) List.mem_cons_self
    · cases mem
  have run : execLookupOp q idx s = commitUp q idx false (lookupResult (addrOf p.1 (u64 (descOf s q idx) 24)) p.2) p.1 :=
    if_pos (by simp only [ready, turn, Bool.and_self])
  rw [commitUp_local near] at run
  exact ⟨_, (next_live awake _).trans (congrArg _ run), (commit_applies (kept.listed listed) (kept.unasked unasked) near false).1⟩

theorem put_ends (turn : indexTurn s q idx = true) (ready : opReady s q idx 4 3 = true) :
    ∃ t, exec (.putEntry q idx) s = .next t ∧
      Ended q idx (putEntryIn (whoOf q (descOf s q idx)) (opTable s q idx) (slice (descOf s q idx) 16 32) s).2 0 t := by
  obtain ⟨o, op⟩ := (putEntryIn_keeps (whoOf q (descOf s q idx)) (opTable s q idx) (slice (descOf s q idx) 16 32) s).listed
    (listed_of_opReady ready)
  have run : execPutOp q idx s = finishOp q idx _ 0 _ := if_pos (by simp only [ready, turn, Bool.and_self])
  exact ⟨_, (next_live awake _).trans (congrArg _ run), ended_finishOp _ _ _ _ _ o op⟩

theorem delete_ends (turn : indexTurn s q idx = true) (ready : opReady s q idx 4 4 = true) :
    ∃ t, exec (.deleteKey q idx) s = .next t ∧
      Ended q idx (deleteIn (whoOf q (descOf s q idx)) (opTable s q idx) (u64 (descOf s q idx) 16) s).2 0 t := by
  obtain ⟨o, op⟩ := (deleteIn_keeps (whoOf q (descOf s q idx)) (opTable s q idx) (u64 (descOf s q idx) 16) s).listed (listed_of_opReady ready)
  have run : execDeleteOp q idx s = finishOp q idx _ 0 _ := if_pos (by simp only [ready, turn, Bool.and_self])
  exact ⟨_, (next_live awake _).trans (congrArg _ run), ended_finishOp _ _ _ _ _ o op⟩

end

/-! ### Sampling (R164-R168) -/

theorem length_leBytes (n v : Nat) : (leBytes n v).length = n := by
  induction n generalizing v with
  | zero => rfl
  | succ n ih => simp [leBytes, ih]

theorem undone_of_sampling {s : State} {q : Nat} {o : Op} (samples : sampling s q o = true) : o.phase ≠ .done := by
  intro done
  simp [sampling, started, done] at samples

/-- The next entry of a SAMPLE is not an empty one. -/
def AtEntry (s : State) (o : Op) : Prop := o.sample.next < (saOf o.desc).count → (saEntry s (saOf o.desc) o.sample.next).2.2 ≠ 0

theorem skipEmpty_stays {q : Nat} {idx : U32} {s : State} {o : Op} (op : getOp s q idx = some o) (at_ : AtEntry s o) (fuel : Nat) :
    skipEmpty q idx fuel s = s := by
  cases fuel with
  | zero => rfl
  | succ n => simp only [skipEmpty, op, if_neg fun empty : _ ∧ _ => at_ empty.1 empty.2]

theorem execSampleOp_advances {q : Nat} {idx : U32} {s : State} {o : Op} (op : getOp s q idx = some o) (samples : sampling s q o = true)
    (at_ : AtEntry s o) : execSampleOp q idx s =
      sampleEnd q idx (deliver q idx (o.sample.flights.length + 1)
        (o.sample.flights.foldl (fun p fl => advanceFlight q idx fl.k p) (s, false)).1) := by
  simp only [execSampleOp, op, samples, if_true, sampleAdvance, if_neg (undone_of_sampling samples), skipEmpty_stays op at_]

theorem deliver_idle {q : Nat} {idx : U32} {s : State} {o : Op} (op : getOp s q idx = some o) (none_ : o.sample.flights = []) (fuel : Nat) :
    deliver q idx fuel s = s := by
  cases fuel with
  | zero => rfl
  | succ n => simp only [deliver, op, none_, List.head?_nil, ite_self]

theorem length_sampleResult (r : SampleRun) (epoch : Nat) : (sampleResult r epoch).length = 32 := by
  simp [sampleResult, length_leBytes]

/-- What a SAMPLE with nothing left writes: its result record. -/
def recordWritten (s : State) (o : Op) : DataRes :=
  { status := .ok, detail := 0, writes := [byteChunk (addrOf s (saOf o.desc).result) (sampleResult o.sample o.epoch) false], sticky := 0 }

/-- The one write of a result that follows nothing. -/
theorem commit_single {q : Nat} {idx : U32} {s : State} {o : Op} (op : getOp s q idx = some o) (none_ : o.reqs = []) {r : DataRes} {a : Nat}
    {data : List Byte} (writes : r.writes = [byteChunk (.hbm a) data false]) (undef : r.undef = []) (after_ : r.after = [])
    (canonical : bwf s.hbm = true) (light : Bool) {i : Nat} (inside : i < data.length) :
    bget (commit q idx light r s).hbm (a + i) = data.getD i 0 := by
  have op' : getOp (marked q idx r (leaveUndefined r s)) q idx = some { o with status := r.status, detail := r.detail, after := r.after } :=
    getOp_modOp_same q idx _ _ o (fun _ => rfl) (((leaveUndefined_keeps r s).getOp q idx).trans op)
  have hbm : (marked q idx r (leaveUndefined r s)).hbm = s.hbm :=
    ((modOp_keeps q idx _ _).part .hbm).trans (by rw [leaveUndefined, undef]; rfl)
  have op'' := ((poke_keeps (.hbm a) data (byteChunk (.hbm a) data false).poison (marked q idx r (leaveUndefined r s))).getOp q idx).trans op'
  rw [commit_eq, writes, List.foldl_cons, List.foldl_nil, writeChunk_local rfl]
  refine (congrArg (fun t : State => bget t.hbm (a + i)) (awaitOrEnd_answered op'' none_ after_)).trans ?_
  refine (congrArg (bget · (a + i)) ((finishOp_keeps q idx _ _ _).part .hbm)).trans ?_
  exact bget_writeHbm_inside a data _ _ (by rw [hbm]; exact canonical) i inside

theorem sample_ends {q : Nat} {idx : U32} {o : Op} {s : State} (awake : Awake s) (op : getOp s q idx = some o)
    (samples : sampling s q o = true) (runs : o.phase = .running) (flights : o.sample.flights = [])
    (last : (saOf o.desc).count ≤ o.sample.next) (some_ : (saOf o.desc).count ≠ 0) (record : (saOf o.desc).result ≠ 0) (none_ : o.reqs = [])
    (near : Local [(addrOf s (saOf o.desc).result, 32)] s) (canonical : Canonical s) :
    ∃ u, exec (.sample q idx) s = .next (wake u) ∧ Ended q idx .ok 0 u ∧
      ∀ a, addrOf s (saOf o.desc).result = .hbm a →
        ∀ i, i < 32 → bget u.hbm (a + i) = (sampleResult o.sample o.epoch).getD i 0 := by
  have near' : Local (outSpans (recordWritten s o)) s := by
    intro x mem
    simp only [recordWritten, outSpans, chunkSpans, byteChunk, List.append_nil, List.map_cons, List.map_nil, List.mem_singleton,
      length_sampleResult] at mem
    exact near x (List.mem_singleton.2 mem)
  have run : execSampleOp q idx s = commit q idx false (recordWritten s o) s := by
    rw [execSampleOp_advances op samples fun more => absurd more (Nat.not_lt.2 last), flights, List.foldl_nil,
      deliver_idle op flights, sampleEnd, op]
    simp only [runs, last, flights, some_, record, and_self, or_self, if_true, if_false]
    exact commitUp_local near' false
  refine ⟨_, (next_live awake _).trans (congrArg (fun t => Host.Outcome.next (wake t)) run),
    (commit_applies ⟨o, op⟩ (fun p found => by rw [op] at found; cases found; exact none_) near' false).1, fun a here i inside => ?_⟩
  exact commit_single op none_ (by rw [recordWritten, here]) rfl rfl canonical.1 false (by rwa [length_sampleResult])

/-! #### An entry starts (R164, R165) -/

/-- The lookup of the next entry's key in the bound epoch; key 0 names no wheel. -/
def resolved (q : Nat) (o : Op) (s : State) : State × Status × List Byte :=
  if (saEntry s (saOf o.desc) o.sample.next).1 = 0 then (s, .invalidArgument, [])
  else lookupKey (whoOf q o.desc) (epochTable s o.epoch) (saEntry s (saOf o.desc) o.sample.next).1 s

/-- The status with which the next entry starts: its range must lie in the index entry. -/
def startStatus (q : Nat) (o : Op) (s : State) : Status :=
  if (resolved q o s).2.1 = .ok ∧ entFrames (resolved q o s).2.2 <
      (saEntry s (saOf o.desc) o.sample.next).2.1 + (saEntry s (saOf o.desc) o.sample.next).2.2 then .invalidArgument
  else (resolved q o s).2.1

/-- The next entry under way. -/
def startFlight (q : Nat) (o : Op) (s : State) : Flight :=
  { k := o.sample.next, entry := (resolved q o s).2.2, status := startStatus q o s, ctx := none, stage := none
    generation := ((o.sample.grants.head?).map (·.2.1)).getD (resolved q o s).1.culture.generation
    reqs := [], fetched := false, passes := 0, out := none }

/-- The run of a SAMPLE once its next entry is under way. -/
def startRun (q : Nat) (o : Op) (s : State) (r : SampleRun) : SampleRun :=
  { r with next := o.sample.next + 1, grants := useGrant r.grants, flights := r.flights ++ [startFlight q o s] }

theorem startEntry_eq (q : Nat) (idx : U32) (o : Op) (s : State) : startEntry q idx o s =
    if startStatus q o s = .ok then modRun q idx (startRun q o s) (resolved q o s).1
    else endFlight q idx (startFlight q o s) (startStatus q o s) [] [] (modRun q idx (startRun q o s) (resolved q o s).1) := by
  obtain ⟨key, ff, n, entry⟩ : ∃ key ff n, saEntry s (saOf o.desc) o.sample.next = (key, ff, n) := ⟨_, _, _, rfl⟩
  have found : resolved q o s = if key = 0 then (s, .invalidArgument, []) else lookupKey (whoOf q o.desc) (epochTable s o.epoch) key s := by
    rw [resolved, entry]
  unfold startRun startFlight startStatus
  simp only [startEntry, entry, found]

theorem resolved_keeps (q : Nat) (o : Op) (s : State) : Keeps coderParts s (resolved q o s).1 := by
  unfold resolved
  split
  · exact Keeps.refl _ s
  · exact lookupKey_keeps _ _ _ s

/-- The entry under way of a number as its end leaves it. -/
def endedFlight (fl : Flight) (st : Status) (header data : List Byte) (x : Flight) : Flight :=
  if x.k = fl.k then
    { x with status := st, ctx := if st = .ok then x.ctx else none, stage := none, reqs := [], passes := 0, out := some (header, data) }
  else x

/-- An entry that has no context ends. -/
theorem getOp_endFlight {q : Nat} {idx : U32} {o : Op} {s : State} (op : getOp s q idx = some o) {fl : Flight} (unopened : fl.ctx = none)
    (st : Status) (header data : List Byte) : getOp (endFlight q idx fl st header data s) q idx =
      some { o with sample := { o.sample with flights := o.sample.flights.map (endedFlight fl st header data) } } := by
  simp only [endFlight, unopened, Option.bind_none]
  exact getOp_modOp_same q idx _ s o (fun _ => rfl) op

theorem startEntry_starts {q : Nat} {idx : U32} {o : Op} {s : State} (op : getOp s q idx = some o) :
    ∃ o' fl, getOp (startEntry q idx o s) q idx = some o' ∧ o'.sample.next = o.sample.next + 1 ∧
      o'.sample.flights.getLast? = some fl ∧ fl.k = o.sample.next ∧ fl.entry = (resolved q o s).2.2 ∧ fl.status = startStatus q o s ∧
      fl.out = if startStatus q o s = .ok then none else some ([], []) := by
  have begun : getOp (modRun q idx (startRun q o s) (resolved q o s).1) q idx = some { o with sample := startRun q o s o.sample } :=
    getOp_modOp_same q idx _ _ o (fun _ => rfl) (((resolved_keeps q o s).getOp q idx).trans op)
  have last : (startRun q o s o.sample).flights.getLast? = some (startFlight q o s) := by
    simp only [startRun, List.getLast?_concat]
  have next : (startRun q o s o.sample).next = o.sample.next + 1 := rfl
  have k : (startFlight q o s).k = o.sample.next := rfl
  have entry : (startFlight q o s).entry = (resolved q o s).2.2 := by simp only [startFlight]
  have status : (startFlight q o s).status = startStatus q o s := by simp only [startFlight]
  have out : (startFlight q o s).out = none := rfl
  have ctx : (startFlight q o s).ctx = none := rfl
  rw [startEntry_eq]
  generalize startFlight q o s = fl at *
  generalize startRun q o s = run at *
  generalize startStatus q o s = st at *
  by_cases good : st = .ok
  · rw [if_pos good, if_pos good]
    exact ⟨_, fl, begun, next, last, k, entry, status, out⟩
  · rw [if_neg good, if_neg good]
    refine ⟨_, endedFlight fl st [] [] fl, getOp_endFlight begun ctx st [] [], next, ?_, ?_⟩
    · simp only [List.getLast?_map, last, Option.map_some]
    · simp only [endedFlight, if_true, k, entry, and_self]

theorem sampleEntry_starts {q : Nat} {idx : U32} {o : Op} {s : State} (awake : Awake s) (op : getOp s q idx = some o)
    (samples : sampling s q o = true) (ready : sampleReady s q o = true) (fault : Bool) :
    exec (.sampleEntry q idx fault) s = .next (wake (sampleAdvance q idx fault (startEntry q idx o s))) := by
  have at_ : AtEntry s o := fun _ => by
    simp only [sampleReady, Bool.and_eq_true, decide_eq_true_eq] at ready
    exact ready.1.1.1.1.2
  have run : execSampleEntryOp q idx fault s = sampleAdvance q idx fault (startEntry q idx o s) := by
    simp only [execSampleEntryOp, op, samples, if_true, skipEmpty_stays op at_, ready]
  exact (next_live awake _).trans (congrArg (fun t => Host.Outcome.next (wake t)) run)

/-! #### Slots (R167) -/

theorem advanceFlight_ended {q : Nat} {idx : U32} {o : Op} {fl : Flight} {s : State} (op : getOp s q idx = some o)
    (flights : o.sample.flights = [fl]) (ended : fl.out.isSome = true) (fault : Bool) :
    advanceFlight q idx fl.k (s, fault) = (s, fault) := by
  have found : getFlight s q idx fl.k = some fl := by simp [getFlight, op, flights]
  simp only [advanceFlight, op, found, ended, if_true]

theorem sample_delivers {q : Nat} {idx : U32} {o : Op} {fl : Flight} {s : State} (awake : Awake s) (op : getOp s q idx = some o)
    (samples : sampling s q o = true) (flights : o.sample.flights = [fl]) (ended : fl.out.isSome = true) (at_ : AtEntry s o) :
    exec (.sample q idx) s = .next (wake (sampleEnd q idx (deliver q idx 2 s))) := by
  have run : execSampleOp q idx s = sampleEnd q idx (deliver q idx 2 s) := by
    rw [execSampleOp_advances op samples at_, flights, List.foldl_cons, List.foldl_nil, advanceFlight_ended op flights ended]
    rfl
  exact (next_live awake _).trans (congrArg (fun t => Host.Outcome.next (wake t)) run)

/-- The first entry leaves; its run is `f` of the rest. -/
theorem getOp_leaveFlight {q : Nat} {idx : U32} {o : Op} {s : State} (op : getOp s q idx = some o) (fl : Flight) (f : SampleRun → SampleRun) :
    getOp (leaveFlight q idx fl f s) q idx = some { o with sample := f { o.sample with flights := o.sample.flights.drop 1 } } := by
  refine getOp_modOp_same q idx _ _ o (fun _ => rfl) ?_
  split
  · exact ((closeCtx_keeps _ s).getOp q idx).trans op
  · exact op

theorem leaveFlight_keeps (q : Nat) (idx : U32) (fl : Flight) (f : SampleRun → SampleRun) (s : State) :
    Keeps (.queues :: [.rc, .culture, .evt, .fmw, .cxl, .sent]) s (leaveFlight q idx fl f s) := by
  refine Keeps.trans ?_ ((modOp_keeps q idx _ _).mono (by decide))
  split
  · exact ((modEngine_keeps _ _ s).mono (by decide)).trans ((retireCulture_keeps _).mono (by decide))
  · exact Keeps.refl _ s

theorem deliver_drops {q : Nat} {idx : U32} {o : Op} {fl : Flight} {head data : List Byte} {s : State} (op : getOp s q idx = some o)
    (runs : o.phase = .running) (flights : o.sample.flights = [fl]) (out : fl.out = some (head, data)) (failed : fl.status ≠ .ok)
    (drops : bit (saOf o.desc).flags 2 = true) (fuel : Nat) :
    deliver q idx (fuel + 1) s = leaveFlight q idx fl (fun r => { r with dropped := r.dropped + 1 }) s := by
  simp only [deliver, op, runs, if_true, flights, List.head?_cons, out, if_pos (And.intro failed drops)]
  refine deliver_idle (getOp_leaveFlight op fl _) ?_ fuel
  simp [flights]

theorem publishSlot_silent {r : Nat} {v : SlotRing} {s : State} (ring : mget s.rings r = some v) (silent : v.readyCtr = 0xFFFF) :
    publishSlot r s = { s with rings := mput s.rings r { v with tail := v.tail + 1, openFor := none } } := by
  simp only [publishSlot, ring, silent, ringSignal, if_true]

/-- A slot in this module's HBM is written and published at once (R167, R347). -/
theorem sampleSlot_publishes {q : Nat} {idx : U32} {r a : Nat} {v : SlotRing} {o : Op} {s : State} (op : getOp s q idx = some o)
    (good : o.status = .ok) (none_ : o.reqs = []) (ring : mget s.rings r = some v) (silent : v.readyCtr = 0xFFFF)
    (at_ : addrOf s (slotAddr v 0) = .hbm a) (canonical : bwf s.hbm = true) (data : List Byte) :
    (∃ o', getOp (sampleSlot q idx r data s) q idx = some o' ∧ o'.phase = .running ∧ o'.sample = { o.sample with slotTick := s.tick.count }) ∧
      mget (sampleSlot q idx r data s).rings r = some { v with tail := v.tail + 1, openFor := none } ∧
      ∀ i, i < data.length → bget (sampleSlot q idx r data s).hbm (a + i) = data.getD i 0 := by
  have opened : openSlot r q s = { s with rings := mput s.rings r { v with openFor := some q } } := by simp only [openSlot, ring]
  have timed := getOp_modOp_same q idx (fun o => { o with sample := { o.sample with slotTick := s.tick.count } }) (openSlot r q s) o (fun _ => rfl)
    (by rw [opened]; exact op)
  generalize hw : modRun q idx (fun r => { r with slotTick := s.tick.count }) (openSlot r q s) = w
  have op' : getOp w q idx = some { o with sample := { o.sample with slotTick := s.tick.count } } := hw ▸ timed
  have rings : w.rings = mput s.rings r { v with openFor := some q } := by rw [← hw, opened]; rfl
  have hbm : w.hbm = s.hbm := by rw [← hw, opened]; rfl
  have tick : w.tick = s.tick := by rw [← hw, opened]; rfl
  have kept := writeHbm_keeps a data (byteChunk (.hbm a) data false).poison w
  have written := bget_writeHbm_inside a data (byteChunk (.hbm a) data false).poison w (by rw [hbm]; exact canonical)
  have wrote : writeChunk q idx false (byteChunk (.hbm a) data false) w = writeHbm a data (byteChunk (.hbm a) data false).poison w := rfl
  have tick' : (openSlot r q s).tick = s.tick := by rw [opened]
  generalize writeHbm a data (byteChunk (.hbm a) data false).poison w = t at kept written wrote
  have op'' := (kept.getOp q idx).trans op'
  have ticks : t.tick.count = s.tick.count := congrArg Tick.count ((kept.part .tick).trans tick)
  have place : mget t.rings r = some { v with openFor := some q } := by
    rw [show t.rings = w.rings from kept.part .rings, rings, mget_mput_same]
  have last := getOp_modOp_same q idx (fun o => { o with publish := none, phase := .running }) t _ (fun _ => rfl) op''
  have slot : sampleSlot q idx r data s = publishSlot r (modOp q idx (fun o => { o with publish := none, phase := .running }) t) := by
    simp only [sampleSlot, ring, at_, isHost, Bool.false_and, Bool.false_eq_true, if_false, tick', hw, wrote, op'', good, ne_eq,
      not_true_eq_false, none_, List.isEmpty_nil, if_true, sampleVisible, place, ticks]
  have published := publishSlot_silent (s := modOp q idx (fun o => { o with publish := none, phase := .running }) t) place silent
  have hbm' : (modOp q idx (fun o => { o with publish := none, phase := .running }) t).hbm = t.hbm := (modOp_keeps q idx _ t).part .hbm
  rw [slot, published]
  refine ⟨⟨_, ((rings_keeps _ _).getOp q idx).trans last, rfl, rfl⟩, mget_mput_same _ _ _, fun i inside => ?_⟩
  exact (congrArg (bget · (a + i)) hbm').trans (written i inside)

theorem length_slotHeader (x : Sa) (key ff n epoch tick : Nat) (fl : Flight) (header : List Byte) (len : Nat) :
    (slotHeader x key ff n epoch tick fl header len).length = 64 := by
  unfold slotHeader
  generalize (if header = [] then default else wheelOf header) = h
  generalize hs : (if header = [] then ((0, 0), (0, 0)) else shapeOf h) = sh
  clear hs
  simp only [List.length_append, length_leBytes]

/-- How the run of a SAMPLE counts an entry that leaves into a slot (R168). -/
def counted (fl : Flight) (bytes : Nat) (r : SampleRun) : SampleRun :=
  if fl.status = .ok then { r with delivered := r.delivered + 1, tokens := r.tokens + bytes } else { r with failed := r.failed + 1 }

theorem deliver_publishes {q : Nat} {idx : U32} {o : Op} {fl : Flight} {head data : List Byte} {v : SlotRing} {a : Nat} {s : State}
    (op : getOp s q idx = some o) (runs : o.phase = .running) (good : o.status = .ok) (none_ : o.reqs = [])
    (flights : o.sample.flights = [fl]) (out : fl.out = some (head, data)) (kept_ : fl.status = .ok ∨ bit (saOf o.desc).flags 2 = false)
    (room : slotReady s (saOf o.desc).ring q = true) (ring : mget s.rings (saOf o.desc).ring = some v) (silent : v.readyCtr = 0xFFFF)
    (at_ : addrOf s (slotAddr v 0) = .hbm a) (canonical : bwf s.hbm = true) :
    ∃ o', getOp (deliver q idx 2 s) q idx = some o' ∧ o'.phase = .running ∧ o'.sample.flights = [] ∧ o'.sample.next = o.sample.next ∧
      o'.sample.delivered = o.sample.delivered + (if fl.status = .ok then 1 else 0) ∧
      o'.sample.failed = o.sample.failed + (if fl.status = .ok then 0 else 1) ∧
      mget (deliver q idx 2 s).rings (saOf o.desc).ring = some { v with tail := v.tail + 1, openFor := none } ∧
      ∀ i, i < 64 + data.length → bget (deliver q idx 2 s).hbm (a + i) =
        (slotHeader (saOf o.desc) (saEntry s (saOf o.desc) fl.k).1 (saEntry s (saOf o.desc) fl.k).2.1 (saEntry s (saOf o.desc) fl.k).2.2 o.epoch
          s.tick.count fl head data.length ++ data).getD i 0 := by
  have stays : ¬ (fl.status ≠ .ok ∧ bit (saOf o.desc).flags 2 = true) := by
    rintro ⟨failed, drops⟩
    rcases kept_ with ok | keeps
    · exact failed ok
    · rw [drops] at keeps; cases keeps
  have left := leaveFlight_keeps q idx fl (counted fl data.length) s
  have op' := getOp_leaveFlight op fl (counted fl data.length)
  have step : deliver q idx 2 s = deliver q idx 1 (sampleSlot q idx (saOf o.desc).ring
      (slotHeader (saOf o.desc) (saEntry s (saOf o.desc) fl.k).1 (saEntry s (saOf o.desc) fl.k).2.1 (saEntry s (saOf o.desc) fl.k).2.2 o.epoch
        s.tick.count fl head data.length ++ data) (leaveFlight q idx fl (counted fl data.length) s)) := by
    have tick : (leaveFlight q idx fl (counted fl data.length) s).tick = s.tick := left.part .tick
    rw [deliver]
    simp only [op, runs, if_true, flights, List.head?_cons, out, if_neg stays, room, Bool.not_true, Bool.false_eq_true, if_false]
    rw [← tick]
    rfl
  obtain ⟨⟨o', op'', running, sample⟩, published, written⟩ := sampleSlot_publishes op' good none_
    ((congrArg (mget · _) (show _ = s.rings from left.part .rings)).trans ring) silent ((left.addrOf _).trans at_)
    (by rw [show (leaveFlight q idx fl (counted fl data.length) s).hbm = s.hbm from left.part .hbm]; exact canonical) _
  have none' : o'.sample.flights = [] := by
    rw [sample]
    simp only [counted]
    split <;> simp [flights]
  rw [step, deliver_idle op'' none']
  refine ⟨o', op'', running, none', ?_, ?_, ?_, published, fun i inside => written i ?_⟩
  · rw [sample]; simp only [counted]; split <;> rfl
  · rw [sample]; simp only [counted]; split <;> rfl
  · rw [sample]; simp only [counted]; split <;> rfl
  · rwa [List.length_append, length_slotHeader]

theorem sampleEntry_resolves {q : Nat} {idx : U32} (o : Op) (fault : Bool) (s : State) (awake : Awake s) (op : getOp s q idx = some o)
    (samples : sampling s q o = true) (ready : sampleReady s q o = true) :
      let x := saOf o.desc
      let e := saEntry s x o.sample.next
      let found := if e.1 = 0 then (s, Status.invalidArgument, []) else lookupKey (whoOf q o.desc) (epochTable s o.epoch) e.1 s
      let st := if found.2.1 = .ok ∧ entFrames found.2.2 < e.2.1 + e.2.2 then .invalidArgument else found.2.1
      exec (.sampleEntry q idx fault) s = .next (wake (sampleAdvance q idx fault (startEntry q idx o s))) ∧
      ∃ o' fl, getOp (startEntry q idx o s) q idx = some o' ∧ o'.sample.next = o.sample.next + 1 ∧
        o'.sample.flights.getLast? = some fl ∧ fl.k = o.sample.next ∧ fl.entry = found.2.2 ∧ fl.status = st ∧
        fl.out = (if st = .ok then none else some ([], [])) := by
  intro x e found st
  have hf : resolved q o s = found := rfl
  have hs : startStatus q o s = st := by rw [startStatus, hf]
  have := startEntry_starts op
  rw [hs, hf] at this
  exact ⟨sampleEntry_starts awake op samples ready fault, this⟩

theorem sample_leaves {q : Nat} {idx : U32} (o : Op) (fl : Flight) (head data : List Byte) (s : State) (awake : Awake s)
    (op : getOp s q idx = some o) (samples : sampling s q o = true) (runs : o.phase = .running) (good : o.status = .ok) (none_ : o.reqs = [])
    (flights : o.sample.flights = [fl]) (out : fl.out = some (head, data)) (at_ : AtEntry s o) :
    let x := saOf o.desc
    let e := saEntry s x fl.k
    (fl.status ≠ .ok → bit x.flags 2 = true → exec (.sample q idx) s =
      .next (wake (sampleEnd q idx (leaveFlight q idx fl (fun r => { r with dropped := r.dropped + 1 }) s)))) ∧
    (∀ v a, (fl.status = .ok ∨ bit x.flags 2 = false) → slotReady s x.ring q = true → mget s.rings x.ring = some v →
      v.readyCtr = 0xFFFF → addrOf s (slotAddr v 0) = .hbm a → Canonical s →
      ∃ u o', exec (.sample q idx) s = .next (wake (sampleEnd q idx u)) ∧
        getOp u q idx = some o' ∧ o'.phase = .running ∧ o'.sample.flights = [] ∧ o'.sample.next = o.sample.next ∧
        o'.sample.delivered = o.sample.delivered + (if fl.status = .ok then 1 else 0) ∧
        o'.sample.failed = o.sample.failed + (if fl.status = .ok then 0 else 1) ∧
        mget u.rings x.ring = some { v with tail := v.tail + 1, openFor := none } ∧
        (∀ i, i < 64 + data.length → bget u.hbm (a + i) =
          (slotHeader x e.1 e.2.1 e.2.2 o.epoch s.tick.count fl head data.length ++ data).getD i 0)) := by
  intro x e
  have ended : fl.out.isSome = true := by rw [out]; rfl
  have run := sample_delivers awake op samples flights ended at_
  refine ⟨fun failed drops => ?_, fun v a kept room ring silent place canonical => ?_⟩
  · rw [run, deliver_drops op runs flights out failed drops]
  · obtain ⟨o', rest⟩ := deliver_publishes op runs good none_ flights out kept room ring silent place canonical.1
    exact ⟨_, o', run, rest⟩

/-! ### The operations where the code never miscorrects -/

theorem dataOperationsComplete_of_neverMiscorrects (never : NeverMiscorrects) : Obligations.DataOperationsComplete := by
  intro q idx d plain
  refine ⟨runsVat q idx never fun _ => rfl, runsVat q idx never fun _ => rfl, runsVat q idx never fun _ => rfl,
    runsVat q idx never fun _ => rfl, runsVat q idx never fun _ => rfl, runsVat q idx never fun _ => rfl,
    runsVat q idx never fun _ => rfl, runsTransfer q idx never, runsGather q idx never,
    fun vat s awake exists_ row mem ready => vatRows_fail awake exists_ row mem ready,
    fun s awake ready _ near => decodeBegin_ends awake ready near,
    fun fault s awake ready unasked near => decodePass_ends awake fault ready unasked near,
    fun s awake ready unasked => decodeEnd_ends awake ready unasked,
    fun fault s awake ready unasked unchecked near => encodeWheel_ends awake fault ready unasked unchecked near,
    fun fault k s awake ready unasked checks near => encodeCheck_ends awake fault k ready unasked checks near,
    fun inflate s awake ready unasked near => press_ends awake inflate ready unasked near,
    fun o s awake op samples runs flights last some_ record none_ near canonical =>
      sample_ends awake op samples runs flights last some_ record none_ near canonical,
    fun o fault s awake op samples ready => sampleEntry_resolves o fault s awake op samples ready,
    fun o fl head data s awake op samples runs good none_ flights out at_ =>
      sample_leaves o fl head data s awake op samples runs good none_ flights out at_,
    fun s awake turn => ⟨fun ready unasked => lookup_ends awake turn ready unasked, put_ends awake turn, delete_ends awake turn⟩⟩

end Sys2Proof.Safety

namespace Sys2Proof.Safety

open Sys2Proof.Machine Sys2Proof.Tests

/-! ### Where the code miscorrects

`Correctable` looks at the first latent error listed for a word, and nothing says that a word is listed once. A TRANSFER fills two rows of
four bytes in one word that is listed twice: its first write corrects the single-symbol error listed first, its second one meets the error
of three symbols behind it, and a miscorrection overwrites the whole word, the bytes beyond the rows with it. -/

/-- What decides how the error of a word is handled, beside the error. -/
def mergeInputs (s : State) : List Nat × U32 × Nat := (s.poison, s.memctl.inject, s.free)

theorem mergeInputs_errRecord (r : ErrRec) (s : State) : mergeInputs (errRecord r s) = mergeInputs s := by
  have kept := errRecord_keeps r s
  have poison : (errRecord r s).poison = s.poison := kept .poison (by decide)
  have memctl : (errRecord r s).memctl = s.memctl := kept .memctl (by decide)
  have free : (errRecord r s).free = s.free := kept .free (by decide)
  simp only [mergeInputs, poison, memctl, free]

theorem mergeInputs_degrade (g : Nat) (s : State) : mergeInputs (degrade g s) = mergeInputs s := by
  simp only [degrade]
  split
  · rfl
  · exact mergeInputs_errRecord _ _

theorem mergeInputs_correctWord (who : Who) (w : Nat) (l : Latent) (s : State) : mergeInputs (correctWord who w l s) = mergeInputs s := by
  simp only [correctWord, apply_ite mergeInputs, mergeInputs_degrade, mergeInputs_errRecord, ite_self]
  rfl

theorem mergeWord_corrects {s : State} {w : Nat} {l : Latent} (clean : s.poison = []) (found : mget s.memctl.latent w = some l)
    (unmarked : l.mark = false) (one : l.symbols ≤ 1) : mergeWord s w = correctWord Who.none w l s := by
  simp [mergeWord, touchWord, found, unmarked, clean, one]

theorem mergeWord_miscorrects {s : State} {w : Nat} {l : Latent} (clean : s.poison = []) (found : mget s.memctl.latent w = some l)
    (unmarked : l.mark = false) (many : 3 ≤ l.symbols) (code : Config.miscorrects s.free = true) :
    (mergeWord s w).hbm = bwrite s.hbm (w * 32) ((List.range 32).map fun i => Config.freeByte (s.free + 1 + i)) := by
  have more : ¬ l.symbols ≤ 1 := by omega
  simp [mergeWord, touchWord, found, unmarked, clean, more, many, code, freeBytes]

theorem injectHbm_unarmed (a len : Nat) {s : State} (unarmed : s.memctl.inject = 0) : injectHbm a len s = s := by
  have idle : bit s.memctl.inject.toNat 31 = false := by rw [unarmed]; decide
  simp only [injectHbm, idle, Bool.false_and, Bool.false_eq_true, if_false]

/-! #### The two writes -/

abbrev zeroRow : List Byte := [0, 0, 0, 0]

abbrev unflagged : List Bool := [false, false, false, false]

/-- Four bytes of one word are written: beside HBM the state is as the merge of the word leaves it. -/
theorem writeHbm_row {s : State} (a w : Nat) (words : wordsOf a 4 = [w]) (part : ¬ (a ≤ w * 32 ∧ w * 32 + 32 ≤ a + 4))
    (unarmed : (mergeWord s w).memctl.inject = 0) (clean : (mergeWord s w).poison = []) :
    mergeInputs (writeHbm a zeroRow unflagged s) = mergeInputs (mergeWord s w) ∧
      (writeHbm a zeroRow unflagged s).memctl.latent = (mergeWord s w).memctl.latent := by
  have bad : ((List.range 4).filter fun i => unflagged.getD i false) = [] := by decide
  have run : writeHbm a zeroRow unflagged s = { mergeWord s w with hbm := bwrite (mergeWord s w).hbm a zeroRow, poison := [] } := by
    simp only [writeHbm, List.length_cons, List.length_nil, Nat.reduceAdd, words, part, List.filter_cons, decide_false, Bool.not_false,
      Bool.false_eq_true, if_false, if_true, List.filter_nil, List.foldl_cons, List.foldl_nil, bad, List.map_nil, List.contains_nil,
      clean, saddAll, List.filter_true]
    exact injectHbm_unarmed _ _ unarmed
  rw [run]
  exact ⟨by simp only [mergeInputs, clean], rfl⟩

/-- Where the two rows are written: the start of a word. -/
def rowsAt : Nat := 0x80004000

abbrev oneSymbol : Latent := { symbols := 1, symbol := 0, mark := false, injected := false }

abbrev threeSymbols : Latent := { symbols := 3, symbol := 0, mark := false, injected := false }

/-- Two errors of one word. -/
def listedTwice : Sparse Latent := [(rowsAt / 32, oneSymbol), (rowsAt / 32, threeSymbols)]

theorem listedTwice_correctable (w : Nat) (l : Latent) (found : mget listedTwice w = some l) : l.mark = true ∨ l.symbols ≤ 2 := by
  by_cases here : w = rowsAt / 32
  · subst here
    cases found
    decide
  · simp [mget, listedTwice, here] at found

theorem writeRows_spoil {s : State} {n : Nat} (code : Config.miscorrects n = true) (inputs : mergeInputs s = ([], 0, n))
    (latent : s.memctl.latent = listedTwice) (canonical : bwf s.hbm = true) :
    bget (writeHbm (rowsAt + 4) zeroRow unflagged (writeHbm rowsAt zeroRow unflagged s)).hbm (rowsAt + 8) = Config.freeByte (n + 9) := by
  have merged := mergeWord_corrects (w := rowsAt / 32) (l := oneSymbol) (congrArg (·.1) inputs) (by rw [latent]; rfl) rfl (by decide)
  have inputs₁ : mergeInputs (mergeWord s (rowsAt / 32)) = ([], 0, n) := by rw [merged, mergeInputs_correctWord]; exact inputs
  have latent₁ : (mergeWord s (rowsAt / 32)).memctl.latent = [(rowsAt / 32, threeSymbols)] := by
    rw [merged]
    refine (congrArg (·.2.2) (cells_correctWord Who.none (rowsAt / 32) oneSymbol s)).trans ?_
    rw [latent]
    rfl
  obtain ⟨same, sameLatent⟩ := writeHbm_row (s := s) rowsAt (rowsAt / 32) (by decide +kernel) (by decide +kernel)
    (congrArg (·.2.1) inputs₁) (congrArg (·.1) inputs₁)
  have canonical₂ : bwf (writeHbm rowsAt zeroRow unflagged s).hbm = true := by
    rw [writeHbm_hbm]
    exact bwf_bwrite _ _ _ ((partWords_merged _ _ _).canonical canonical)
  generalize writeHbm rowsAt zeroRow unflagged s = t at same sameLatent canonical₂
  have inputs₂ := same.trans inputs₁
  have latent₂ := sameLatent.trans latent₁
  have free : t.free = n := congrArg (·.2.2) inputs₂
  have part : partWords (rowsAt + 4) zeroRow.length = [rowsAt / 32] := by decide +kernel
  have place : rowsAt + 8 = rowsAt / 32 * 32 + 8 := by decide +kernel
  rw [writeHbm_hbm, part, List.foldl_cons, List.foldl_nil, bget_bwrite_outside _ _ _ _ (by decide +kernel),
    mergeWord_miscorrects (l := threeSymbols) (congrArg (·.1) inputs₂) (by rw [latent₂]; rfl) rfl (by decide) (by rw [free]; exact code),
    free, place, bget_bwrite_inside _ _ _ _ canonical₂ (by simp)]
  simp [List.getD_eq_getElem?_getD]

/-! #### The TRANSFER -/

def fill : Tr := { src := 0, dst := rowsAt, length := 4, rows := 2, ss := 0, ds := 4, mode := 5, flags := 0, ring := 0xFFFF, op := 0 }

/-- A module with the TRANSFER under way. -/
def filling : State :=
  opState 1 (desc 1 (leBytes 8 fill.src ++ leBytes 8 fill.dst ++ leBytes 4 fill.length ++ leBytes 4 fill.rows ++ leBytes 4 fill.ss ++
    leBytes 4 fill.ds ++ leBytes 1 fill.mode ++ leBytes 1 fill.flags ++ leBytes 2 fill.ring)) member

/-- The module with the word listed twice, a number of free values used and a byte behind the rows. -/
def fillingTwice (n : Nat) (b : Byte) : State :=
  { filling with free := n, memctl := { filling.memctl with latent := listedTwice }, hbm := bwrite [] (rowsAt + 8) [b] }

/-- What the TRANSFER gives. -/
def filled : DataRes := chunksRes [byteChunk (.hbm rowsAt) zeroRow false, byteChunk (.hbm (rowsAt + 4)) zeroRow false]

theorem filling_ready : Awake filling ∧ opReady filling 4095 0 1 1 = true ∧ trOf (descOf filling 4095 0) = fill ∧
    slotOf filling 4095 0 = none ∧ addrOf filling rowsAt = .hbm rowsAt ∧ mergeInputs filling = ([], 0, filling.free) ∧
    (getOp filling 4095 0).all (fun o => o.reqs == []) = true := by decide +kernel

theorem fillingTwice_keeps (n : Nat) (b : Byte) : Keeps [.free, .memctl, .hbm] filling (fillingTwice n b) := by
  intro p hp; cases p <;> simp_all [Same, fillingTwice]

theorem mergeInputs_fillingTwice (n : Nat) (b : Byte) : mergeInputs (fillingTwice n b) = ([], 0, n) := by
  obtain ⟨-, -, -, -, -, inputs, -⟩ := filling_ready
  exact Prod.ext (congrArg (·.1) inputs) (Prod.ext (congrArg (·.2.1) inputs) rfl)

theorem trResult_fill {s : State} (here : addrOf s rowsAt = .hbm rowsAt) : trResult s fill none = filled := by
  have some_ : trEmpty s fill = false := rfl
  have fits : slotFits s fill.ring fill.dst (trSpanLens s fill).2 = true := rfl
  simp only [trResult, some_, fits, Bool.false_eq_true, if_false, Bool.not_true, dstField]
  exact (congrArg (trCopy s fill) here).trans rfl

theorem filled_local (s : State) : Local (outSpans filled) s := by
  have hbm : ∀ r ∈ outSpans filled, isRemote r.1 = false ∧ isHost r.1 = false := by decide +kernel
  intro r mem
  obtain ⟨near, own⟩ := hbm r mem
  exact ⟨near, fun host => by rw [own] at host; cases host⟩

theorem filled_outside : Outside (outSpans filled) (rowsAt + 8) := by
  have spans : outSpans filled = [(.hbm rowsAt, 4), (.hbm (rowsAt + 4), 4)] := rfl
  intro p mem x place
  rw [spans] at mem
  simp only [List.mem_cons, List.not_mem_nil, or_false] at mem
  rcases mem with rfl | rfl <;> cases place <;> simp

theorem commit_filled {s : State} {o : Op} {light : Bool} {n : Nat} (op : getOp s 4095 0 = some o) (none_ : o.reqs = [])
    (code : Config.miscorrects n = true) (inputs : mergeInputs s = ([], 0, n)) (latent : s.memctl.latent = listedTwice)
    (canonical : bwf s.hbm = true) : bget (commit 4095 0 light filled s).hbm (rowsAt + 8) = Config.freeByte (n + 9) := by
  generalize begun : marked 4095 0 filled (leaveUndefined filled s) = v
  have inputs' : mergeInputs v = ([], 0, n) := by rw [← begun]; exact inputs
  have latent' : v.memctl.latent = listedTwice := by rw [← begun]; exact latent
  have canonical' : bwf v.hbm = true := by rw [← begun]; exact canonical
  have op' : getOp v 4095 0 = some { o with status := filled.status, detail := filled.detail, after := filled.after } := by
    rw [← begun]
    exact getOp_modOp_same 4095 0 _ _ o (fun _ => rfl) op
  have writes : filled.writes.foldl (fun s c => writeChunk 4095 0 light c s) v =
      writeHbm (rowsAt + 4) zeroRow unflagged (writeHbm rowsAt zeroRow unflagged v) := rfl
  have kept := (writeHbm_keeps rowsAt zeroRow unflagged v).trans (writeHbm_keeps (rowsAt + 4) zeroRow unflagged _)
  rw [commit_eq, begun, writes, awaitOrEnd_answered ((kept.getOp _ _).trans op') none_ rfl,
    ← writeRows_spoil code inputs' latent' canonical']
  exact congrArg (bget · _) ((finishOp_keeps _ _ _ _ _).part .hbm)

section
variable {s : State} (kept : Keeps [.free, .memctl, .hbm] filling s)
include kept

theorem awake_of_filling : Awake s := by
  obtain ⟨⟨running, live⟩, -⟩ := filling_ready
  have start : s.start = filling.start := kept.part .start
  have sec : s.sec = filling.sec := kept.part .sec
  exact ⟨by rw [start]; exact running, by rw [sec]; exact live⟩

theorem opReady_of_filling : opReady s 4095 0 1 1 = true := by
  obtain ⟨-, ready, -⟩ := filling_ready
  have queues : s.queues = filling.queues := kept.part .queues
  rw [← ready]
  simp only [opReady, kept.getOp 4095 0, getQ, queues]

theorem unasked_of_filling : Unasked 4095 0 s := by
  obtain ⟨-, -, -, -, -, -, unasked⟩ := filling_ready
  exact unasked_of (by rw [kept.getOp 4095 0]; exact unasked)

theorem desc_of_filling : trOf (descOf s 4095 0) = fill := by
  obtain ⟨-, -, named, -⟩ := filling_ready
  rw [kept.descOf]
  exact named

theorem result_of_filling : trResult s fill (slotOf s 4095 0) = filled := by
  obtain ⟨-, -, -, slot, here, -⟩ := filling_ready
  rw [kept.slotOf, slot]
  exact trResult_fill ((kept.addrOf _).trans here)

theorem exec_filling : exec (.transfer 4095 0) s = .next (commit 4095 0 (trLight s fill) filled s) := by
  have ready := opReady_of_filling kept
  have run : execTransferOp 4095 0 s = commitUp 4095 0 (trLight s fill) (trResult s fill (slotOf s 4095 0)) s := by
    refine (if_pos ready).trans ?_
    rw [desc_of_filling kept]
    exact runData_local (listed_of_opReady ready) (reads := []) (by simp) none (trLight s fill) fun u => trResult u fill (slotOf u 4095 0)
  rw [result_of_filling kept, commitUp_local (filled_local s)] at run
  exact (next_live (awake_of_filling kept) _).trans (congrArg _ run)

/-- The obligation's clause for TRANSFER, on this module. -/
theorem applied_of_filling (holds : Obligations.DataOperationsComplete) :
    Applied 4095 0 filled s (commit 4095 0 (trLight s fill) filled s) := by
  obtain ⟨-, -, -, -, -, -, -, runs, -⟩ := holds 4095 0
  have desc := desc_of_filling kept
  have reads : trReads s (trOf (descOf s 4095 0)) = [] := by rw [desc]; rfl
  have uncached : cacheOf s 4095 0 (bit (trOf (descOf s 4095 0)).flags 0) = none := by rw [desc]; rfl
  have result : trResult s (trOf (descOf s 4095 0)) (slotOf s 4095 0) = filled := by rw [desc, result_of_filling kept]
  have applies := runs s (awake_of_filling kept) (opReady_of_filling kept) (unasked_of_filling kept)
  have read : afterReads 4095 0 none [] s = s := rfl
  have view : viewOf none s = s := rfl
  simp only [reads, uncached, read, view, result] at applies
  obtain ⟨t, run, applied⟩ := applies (by simp) (filled_local s)
  rw [exec_filling kept] at run
  cases run
  exact applied

end

theorem not_dataOperationsComplete_of_miscorrects {n : Nat} (code : Config.miscorrects n = true) :
    ¬ Obligations.DataOperationsComplete := by
  intro holds
  have kept := fillingTwice_keeps n (Config.freeByte (n + 9) + 1)
  obtain ⟨o, op⟩ := listed_of_opReady (opReady_of_filling kept)
  have outside := (applied_of_filling kept holds).outside listedTwice_correctable (rowsAt + 8) filled_outside
  have before : bget (fillingTwice n (Config.freeByte (n + 9) + 1)).hbm (rowsAt + 8) = Config.freeByte (n + 9) + 1 :=
    bget_bput_same _ _ _ rfl
  rw [commit_filled op (unasked_of_filling kept o op) code (mergeInputs_fillingTwice _ _) rfl (bwf_bwrite _ _ _ rfl), before] at outside
  revert outside
  generalize Config.freeByte (n + 9) = b
  revert b
  decide

/-- O60 stays open: it says that the code never miscorrects, and `Config.miscorrects` is a free value of the model. `Applied.outside` would
also have to ask that no word is listed twice among the latent errors. -/
theorem dataOperationsComplete_iff : Obligations.DataOperationsComplete ↔ NeverMiscorrects :=
  ⟨fun holds _ => Bool.eq_false_of_not_eq_true fun code => not_dataOperationsComplete_of_miscorrects code holds,
    dataOperationsComplete_of_neverMiscorrects⟩

end Sys2Proof.Safety
